-- ==== Sys2Proof/Word.lean ====
section
/-!
DEFINITION. The word types of the V9 and their plainest arithmetic (R3): bytes, 32-bit registers, 64-bit pairs,
128-bit groups, and the little-endian list of a word's bytes.
-/

namespace Sys2Proof

abbrev Byte := BitVec 8
abbrev Half := BitVec 16
abbrev Word := BitVec 32
abbrev DWord := BitVec 64

/-- One bit as a truth value. -/
abbrev Bit := BitVec 1

/-- A truth value as the bit that software sees. -/
def bit (b : Bool) : Bit := if b then 1#1 else 0#1

/-- Bit `i` of a word, as a truth value. -/
abbrev bitAt {n : Nat} (x : BitVec n) (i : Nat) : Bool := x.getLsbD i

/-- The `n` bytes of the number `x`, lowest first (R3). -/
def bytesOf (n : Nat) (x : Nat) : List Byte :=
  match n with
  | 0 => []
  | k + 1 => BitVec.ofNat 8 x :: bytesOf k (x / 256)

/-- The number whose bytes, lowest first, are `bs` (R3). -/
def natOf (bs : List Byte) : Nat :=
  match bs with
  | [] => 0
  | b :: r => b.toNat + 256 * natOf r

/-- The low and the high word of a pair (R3). -/
abbrev loWord (x : DWord) : Word := x.extractLsb' 0 32
abbrev hiWord (x : DWord) : Word := x.extractLsb' 32 32

/-- The pair made of two registers, the lower number in the low word (R3). -/
abbrev pair (lo hi : Word) : DWord := hi ++ lo

end Sys2Proof
end

