-- ==== Sys2Proof/Syntax.lean ====
section
/-!
DEFINITION. The instructions of the V9 and the whole-step events of its other agents (spec/12 to spec/17,
opcode_table.json). Operands are typed, so that most illegal words have no term; what remains to check is in
WellFormed. One constructor of `Instr` stands for each row of the opcode table.
-/

namespace Sys2Proof

/-! ## Operands (R301 to R304, R131) -/

/-- The specials that a source may name (R301). `zero` has its own constructor in each operand type. -/
inductive Special where
  | lane | tid | wslot | wgid | trank | core | court | devno | amask | cyclo | cychi
  deriving DecidableEq, Repr

/-- The permute of a source (R131), with the parameter's limits. -/
inductive Perm where
  | none
  | bc (k : BitVec 5)
  | rot (k : BitVec 5)
  | bfly (k : BitVec 5)
  | mir (k : Fin 6)
  | qb (k : BitVec 2)
  deriving DecidableEq, Repr

/-- A source of an R, I, B, E or S word. Only a v register or a latch may be permuted (R131), and only a v or s
register may carry a last-read mark (R299). -/
inductive Src where
  | v (n : BitVec 8) (p : Perm) (last : Bool)
  | s (n : BitVec 6) (last : Bool)
  | latch (n : BitVec 2) (p : Perm)
  | zero
  | spec (x : Special)
  | imm (i : BitVec 9)
  deriving DecidableEq, Repr

/-- The base of a memory access: a register or zero (R306). -/
inductive Base where
  | v (n : BitVec 8) (last : Bool)
  | s (n : BitVec 6) (last : Bool)
  | zero
  deriving DecidableEq, Repr

/-- The data selector of an M-format word: any source, without a permute (R366). -/
inductive Data where
  | v (n : BitVec 8) (last : Bool)
  | s (n : BitVec 6) (last : Bool)
  | latch (n : BitVec 2)
  | zero
  | spec (x : Special)
  | imm (i : BitVec 9)
  deriving DecidableEq, Repr

/-- A destination (R301): `discard` is DST = 0x180 with WBS = 1, `zero` is DST = 0x180 with WBS = 0 (R300). -/
inductive Dst where
  | v (n : BitVec 8)
  | s (n : BitVec 6)
  | discard
  | zero
  deriving DecidableEq, Repr

/-- The guard: unguarded, or depth `d` of PRED, inverted when `neg` (R297). -/
inductive Guard where
  | always
  | p (neg : Bool) (d : Fin 7)
  deriving DecidableEq, Repr

/-- The fields of a live-mask word (R314). -/
structure LiveMask where
  vlive : BitVec 64
  slive : BitVec 8
  alive : BitVec 8
  tags : Bool
  guards : Bool
  deriving DecidableEq, Repr

/-- The common head without its opcode, destination and last-read marks (R296); a safe point carries its mask. -/
structure Head where
  guard : Guard
  eor : Bool
  sp : Option LiveMask
  stall : BitVec 4
  yld : Bool
  deriving DecidableEq, Repr

/-- Integer types of the type field (R308). -/
inductive ITy where
  | n32 | i32 | n64 | i64
  deriving DecidableEq, Repr

/-- The two untyped widths `.n32` and `.n64` (R308). -/
inductive Wd where
  | w32 | w64
  deriving DecidableEq, Repr

/-- Integer conditions (R337). -/
inductive ICond where
  | eq | ne | lt | le | gt | ge
  deriving DecidableEq, Repr

/-- Float conditions (R340). -/
inductive FCond where
  | eq | ne | lt | le | gt | ge | un | ord
  deriving DecidableEq, Repr

/-- The four directed rounding modes (R144). -/
inductive DirMode where
  | rn | rz | rp | rm
  deriving DecidableEq, Repr

/-- A rounding field: a directed mode, or stochastic with the source that holds rnd (R144, R338). -/
inductive Rnd where
  | dir (m : DirMode)
  | rs (c : Src)
  deriving DecidableEq, Repr

/-- The source formats of FCLASS (R341). -/
inductive FTy where
  | f32 | f64 | f16 | bf16
  deriving DecidableEq, Repr

/-- The two formats of the paired-half instructions (R344). -/
inductive HTy where
  | f16 | bf16
  deriving DecidableEq, Repr

/-- Conversions between float formats (R347). -/
inductive CvtF where
  | f32f64 | f64f32 | f16f32 | f32f16 | bf16f32 | f32bf16 | e4m3f32 | e4m3f32nosat | f32e4m3
  | e5m2f32 | f32e5m2 | e2m1f32 | f32e2m1
  deriving DecidableEq, Repr

/-- Conversions of a float to an integer (R348). -/
inductive CvtI where
  | i32f32 | n32f32 | i64f32 | n64f32 | i32f64 | n32f64 | i64f64 | n64f64
  | i8f32 | n8f32 | i16f32 | n16f32 | i32f16 | i32bf16
  deriving DecidableEq, Repr

/-- Conversions of an integer to a float (R349). -/
inductive CvtN where
  | f32i32 | f32n32 | f32i64 | f32n64 | f64i32 | f64n32 | f64i64 | f64n64
  | f16i32 | bf16i32 | e4m3i32 | e4m3i32nosat
  deriving DecidableEq, Repr

/-- The FMT codes of R113. -/
inductive Fmt where
  | bf16 | fp16 | e4m3 | e5m2 | int8 | q4x | e2m1 | i4
  deriving DecidableEq, Repr

/-- Block sizes (R351). -/
inductive Blk where
  | b16 | b32 | b64
  deriving DecidableEq, Repr

/-- The source of AMAX (R354). -/
inductive AmaxSrc where
  | f32 | bf16x2 | f16x2
  deriving DecidableEq, Repr

/-- The result of CBRG: the whole group, or one word (R355). -/
inductive CbrgOut where
  | all
  | word (k : BitVec 2)
  deriving DecidableEq, Repr

/-- The modes of SHFL (R357). -/
inductive ShflMode where
  | from | turn | slide | lead
  deriving DecidableEq, Repr

/-- The tests of VOTE, with the threshold where the test has one (R358). -/
inductive VoteTest where
  | ge (b : Src)
  | lt (b : Src)
  | agree
  | most
  deriving DecidableEq, Repr

/-- Types of REDX and SCAN (R359). -/
inductive RTy where
  | int (t : ITy)
  | f32
  deriving DecidableEq, Repr

/-- Operations of REDX (R359). -/
inductive ROp where
  | add | min | max | and | or | xor
  deriving DecidableEq, Repr

/-- Operations of SCAN (R360). -/
inductive SOp where
  | red (o : ROp)
  | xadd
  deriving DecidableEq, Repr

/-- Operations of PLOG (R363). -/
inductive PlogOp where
  | and | or | xor | andn
  deriving DecidableEq, Repr

/-- Access widths of the M format (R306). -/
inductive MWidth where
  | n8 | i8 | n16 | i16 | w32 | w64 | w128
  deriving DecidableEq, Repr

/-- Orders of a marked access (R57). -/
inductive MOrder where
  | rlx | acq | rel | ar | sc
  deriving DecidableEq, Repr

/-- Scopes (R58). -/
inductive Scope where
  | thr | wg | team | dev | dom | sys
  deriving DecidableEq, Repr

/-- The order and scope of an access; a plain access has scope 000 (R59). -/
inductive AccOrd where
  | plain
  | marked (o : MOrder) (sc : Scope)
  deriving DecidableEq, Repr

/-- Cache hints (R56). -/
inductive Hint where
  | none | ef | l2 | kp
  deriving DecidableEq, Repr

/-- The system registers of R317, with the number of those that come in rows. -/
inductive SReg where
  | cyc | tagrdy | gstate | ctxid | fpctl | fpstat | lndepth | barmode | csp
  | amx (n : BitVec 4)
  | tcause | trpc | tlanes | taddr | tinfo | dgqh | hmark | savebase | ctxtab | keysel
  | trcctl | trcwp | dbgright | racechk
  | wpa (n : BitVec 3) | wpc (n : BitVec 3)
  | acfg (n : BitVec 2) | acnt (n : BitVec 2)
  | accown (n : BitVec 8)
  deriving DecidableEq, Repr

/-- The two forms of PMOV (R365). -/
inductive PmovOp where
  | read (d : Dst)
  | write (a : Src)
  deriving DecidableEq, Repr

/-- The block operand of an E-format instruction: the source and the byte offset (R377). -/
structure EBlock where
  sa : Src
  eoff : BitVec 24
  deriving DecidableEq, Repr

/-- The carriers of R255, as an error discovery names them. -/
inductive Carrier where
  | cleanSector | dirtyLine | hbmSector | tlb | directory | pool | granule | copyEntry | pending | queuePair | keyEntry
  | launchQueue | counter | umpire | routing | clock | teamState | corrected
  | assay (unit : BitVec 8)
  deriving DecidableEq, Repr

/-- The operations of a Uatin request (R444). -/
inductive UatinOp where
  | read | write
  | atomic (code : BitVec 4)
  deriving DecidableEq, Repr

/-- An inbound Uatin or UALink request (R444 to R446): its header and data, with the poison bit of R256; bit `i` of the mask
selects byte `i` of a write's data. -/
structure UatinReq where
  ualink : Bool
  dest : BitVec 12
  source : BitVec 12
  tag : BitVec 16
  hm : BitVec 14
  op : UatinOp
  addr : BitVec 39
  size : Nat
  mask : DWord
  data : List Byte
  poison : Bool
  deriving DecidableEq, Repr

/-- The modes of a fabric port (R443). -/
inductive PortMode where
  | down | uatin | ualink | ethernet
  deriving DecidableEq, Repr

/-- A data packet from the network (R447, R448, R466). -/
structure NetPacket where
  peer : DWord
  port : BitVec 6
  qp : BitVec 12
  back : BitVec 12
  psn : Word
  send : Bool
  msg : Nat
  index : Nat
  total : Nat
  len : Nat
  raddr : DWord
  rkey : Word
  rcid : Byte
  data : List Byte
  deriving DecidableEq, Repr

/-! ## Instructions and events -/

/-- One constructor for each row of the opcode table: 241 instructions, then the whole-step events of the part's
other agents, of the host and of the network. -/
inductive Instr where
  -- integer arithmetic (R329, R330)
  | iadd (h : Head) (d : Dst) (a b : Src) (t : ITy) (sat : Bool)
  | isub (h : Head) (d : Dst) (a b : Src) (t : ITy) (sat : Bool)
  | imul (h : Head) (d : Dst) (a b : Src) (t : ITy) (sat : Bool)
  | imulh (h : Head) (d : Dst) (a b : Src) (t : ITy)
  | imad (h : Head) (d : Dst) (a b c : Src) (t : ITy) (sat : Bool)
  | imadw (h : Head) (d : Dst) (a b c : Src) (signed sat : Bool)
  | imin (h : Head) (d : Dst) (a b : Src) (t : ITy)
  | imax (h : Head) (d : Dst) (a b : Src) (t : ITy)
  | iabs (h : Head) (d : Dst) (a : Src) (w : Wd) (sat : Bool)
  | ineg (h : Head) (d : Dst) (a : Src) (t : ITy) (sat : Bool)
  | isad (h : Head) (d : Dst) (a b c : Src) (t : ITy) (sat : Bool)
  -- logic, shifts, bit fields (R331 to R334)
  | and (h : Head) (d : Dst) (a b : Src) (w : Wd)
  | or (h : Head) (d : Dst) (a b : Src) (w : Wd)
  | xor (h : Head) (d : Dst) (a b : Src) (w : Wd)
  | not (h : Head) (d : Dst) (a : Src) (w : Wd)
  | andn (h : Head) (d : Dst) (a b : Src) (w : Wd)
  | shl (h : Head) (d : Dst) (a b : Src) (t : ITy)
  | shr (h : Head) (d : Dst) (a b : Src) (t : ITy)
  | sar (h : Head) (d : Dst) (a b : Src) (t : ITy)
  | rotl (h : Head) (d : Dst) (a b : Src) (t : ITy)
  | bfx (h : Head) (d : Dst) (a b : Src) (t : ITy)
  | bfi (h : Head) (d : Dst) (a b c : Src) (t : ITy)
  | brev (h : Head) (d : Dst) (a : Src) (w : Wd)
  | popc (h : Head) (d : Dst) (a : Src) (w : Wd)
  | clz (h : Head) (d : Dst) (a : Src) (w : Wd)
  | ctz (h : Head) (d : Dst) (a : Src) (w : Wd)
  -- addresses, moves, comparisons (R335 to R337)
  | lea (h : Head) (d : Dst) (a b c : Src) (t : ITy) (k : BitVec 3)
  | mov (h : Head) (d : Dst) (a : Src) (w : Wd)
  | sel (h : Head) (d : Dst) (a b : Src) (w : Wd) (p : Fin 7)
  | icmp (h : Head) (d : Dst) (a b : Src) (t : ITy) (cond : ICond)
  -- immediate forms (R327)
  | iaddI (h : Head) (d : Dst) (a : Src) (imm : Word) (t : ITy) (sat : Bool)
  | isubI (h : Head) (d : Dst) (a : Src) (imm : Word) (t : ITy) (sat : Bool)
  | imulI (h : Head) (d : Dst) (a : Src) (imm : Word) (t : ITy) (sat : Bool)
  | iminI (h : Head) (d : Dst) (a : Src) (imm : Word) (t : ITy)
  | imaxI (h : Head) (d : Dst) (a : Src) (imm : Word) (t : ITy)
  | andI (h : Head) (d : Dst) (a : Src) (imm : Word) (w : Wd)
  | orI (h : Head) (d : Dst) (a : Src) (imm : Word) (w : Wd)
  | xorI (h : Head) (d : Dst) (a : Src) (imm : Word) (w : Wd)
  | andnI (h : Head) (d : Dst) (a : Src) (imm : Word) (w : Wd)
  | shlI (h : Head) (d : Dst) (a : Src) (imm : Word) (t : ITy)
  | shrI (h : Head) (d : Dst) (a : Src) (imm : Word) (t : ITy)
  | sarI (h : Head) (d : Dst) (a : Src) (imm : Word) (t : ITy)
  | rotlI (h : Head) (d : Dst) (a : Src) (imm : Word) (t : ITy)
  | leaI (h : Head) (d : Dst) (a : Src) (imm : Word) (t : ITy) (k : BitVec 3)
  | icmpI (h : Head) (d : Dst) (a : Src) (imm : Word) (t : ITy) (cond : ICond)
  | movi (h : Head) (d : Dst) (imm : Word) (t : ITy)
  -- single precision (R338 to R343)
  | fadd (h : Head) (d : Dst) (a b : Src) (r : Rnd)
  | fsub (h : Head) (d : Dst) (a b : Src) (r : Rnd)
  | fmul (h : Head) (d : Dst) (a b : Src) (r : Rnd)
  | ffma (h : Head) (d : Dst) (a b c : Src) (m : DirMode)
  | fmin (h : Head) (d : Dst) (a b : Src) (nan : Bool)
  | fmax (h : Head) (d : Dst) (a b : Src) (nan : Bool)
  | fcmp (h : Head) (d : Dst) (a b : Src) (cond : FCond)
  | fclass (h : Head) (d : Dst) (a : Src) (t : FTy)
  | frnd (h : Head) (d : Dst) (a : Src) (m : DirMode)
  | frcp (h : Head) (d : Dst) (a : Src) (m : DirMode)
  | frsq (h : Head) (d : Dst) (a : Src) (m : DirMode)
  | fsqrt (h : Head) (d : Dst) (a : Src) (m : DirMode)
  | fex2 (h : Head) (d : Dst) (a : Src)
  | flg2 (h : Head) (d : Dst) (a : Src)
  | fsin (h : Head) (d : Dst) (a : Src)
  | fcos (h : Head) (d : Dst) (a : Src)
  | ftanh (h : Head) (d : Dst) (a : Src)
  | fsig (h : Head) (d : Dst) (a : Src)
  -- paired halves and doubles (R344, R345)
  | hadd2 (h : Head) (d : Dst) (a b : Src) (t : HTy) (r : Rnd)
  | hmul2 (h : Head) (d : Dst) (a b : Src) (t : HTy) (r : Rnd)
  | hfma2 (h : Head) (d : Dst) (a b c : Src) (t : HTy) (m : DirMode)
  | hmax2 (h : Head) (d : Dst) (a b : Src) (t : HTy) (nan : Bool)
  | hmin2 (h : Head) (d : Dst) (a b : Src) (t : HTy) (nan : Bool)
  | dadd (h : Head) (d : Dst) (a b : Src) (m : DirMode)
  | dmul (h : Head) (d : Dst) (a b : Src) (m : DirMode)
  | dfma (h : Head) (d : Dst) (a b c : Src) (m : DirMode)
  | dcmp (h : Head) (d : Dst) (a b : Src) (cond : FCond)
  | dmin (h : Head) (d : Dst) (a b : Src) (nan : Bool)
  | dmax (h : Head) (d : Dst) (a b : Src) (nan : Bool)
  -- immediate forms of single precision (R327)
  | faddI (h : Head) (d : Dst) (a : Src) (imm : Word) (m : DirMode)
  | fsubI (h : Head) (d : Dst) (a : Src) (imm : Word) (m : DirMode)
  | fmulI (h : Head) (d : Dst) (a : Src) (imm : Word) (m : DirMode)
  | fminI (h : Head) (d : Dst) (a : Src) (imm : Word) (nan : Bool)
  | fmaxI (h : Head) (d : Dst) (a : Src) (imm : Word) (nan : Bool)
  | fcmpI (h : Head) (d : Dst) (a : Src) (imm : Word) (cond : FCond)
  -- conversions, narrow formats, random numbers (R346 to R355)
  | cvtf (h : Head) (d : Dst) (a : Src) (code : CvtF) (r : Rnd)
  | cvti (h : Head) (d : Dst) (a : Src) (code : CvtI) (r : Rnd)
  | cvtn (h : Head) (d : Dst) (a : Src) (code : CvtN) (r : Rnd)
  | qpk (h : Head) (d : Dst) (a b c : Src) (f : Fmt) (n : Blk)
  | qupk (h : Head) (d : Dst) (a c : Src) (f : Fmt) (n : Blk) (hi : Bool)
  | bscl (h : Head) (d : Dst) (a : Src) (f : Fmt)
  | amax (h : Head) (a : Src) (n : BitVec 4) (src : AmaxSrc)
  | cbrg (h : Head) (d : Dst) (a b : Src) (out : CbrgOut)
  -- lane instructions (R356 to R362)
  | shfl (h : Head) (d : Dst) (a b c : Src) (mode : ShflMode) (g : Fin 6)
  | vote (h : Head) (d : Dst) (test : VoteTest) (p : Fin 7) (neg : Bool)
  | ballot (h : Head) (d : Dst) (p : Fin 7) (neg : Bool)
  | redx (h : Head) (d : Dst) (a : Src) (op : ROp) (t : RTy)
  | scan (h : Head) (d : Dst) (a b : Src) (op : SOp) (t : RTy)
  | matchLanes (h : Head) (d : Dst) (a : Src) (w : Wd)
  | elect (h : Head) (d : Dst) (cand : Option (Fin 7)) (hi : Bool)
  -- predicate instructions (R363 to R365)
  | psh (h : Head) (a : Src) (inv : Bool)
  | pdrop (h : Head) (n : Fin 7)
  | pdup (h : Head) (p : Fin 7)
  | plog (h : Head) (op : PlogOp) (p : Fin 7) (rep inv : Bool)
  | pmov (h : Head) (op : PmovOp)
  | pswp (h : Head) (p : Fin 6)
  -- loads, stores, cache control, fences (R366 to R371, R375)
  | ld (h : Head) (d : Dst) (b : Base) (off : BitVec 30) (w : MWidth) (o : AccOrd) (hint : Hint)
  | st (h : Head) (b : Base) (off : BitVec 30) (x : Data) (w : MWidth) (o : AccOrd) (hint : Hint)
  | lds (h : Head) (d : Dst) (b : Base) (off : BitVec 30) (w : MWidth) (o : AccOrd)
  | sts (h : Head) (b : Base) (off : BitVec 30) (x : Data) (w : MWidth) (o : AccOrd)
  | pref (h : Head) (b : Base) (off : BitVec 30) (n : Fin 7) (hint : Hint)
  | cctlCln (h : Head) (b : Base) (off : BitVec 30)
  | cctlInv (h : Head) (b : Base) (off : BitVec 30)
  | cctlPin (h : Head) (d : Dst) (b : Base) (off : BitVec 30)
  | cctlUnpin (h : Head) (b : Base) (off : BitVec 30)
  | fence (h : Head) (o : MOrder) (sc : Scope)
  | cmpst (h : Head) (d : Dst) (b : Base) (off : BitVec 30) (x : Data) (w : MWidth) (o : AccOrd) (spad : Bool)
  | ipref (h : Head) (off : BitVec 30) (n : Fin 7)
  -- atomics (R307, R372 to R374)
  | atomAdd (h : Head) (d : Dst) (b : Base) (off : BitVec 30) (x : Data) (w : MWidth) (o : MOrder) (sc : Scope) (hint : Hint)
  | atomMin (h : Head) (d : Dst) (b : Base) (off : BitVec 30) (x : Data) (w : MWidth) (o : MOrder) (sc : Scope) (hint : Hint)
  | atomMax (h : Head) (d : Dst) (b : Base) (off : BitVec 30) (x : Data) (w : MWidth) (o : MOrder) (sc : Scope) (hint : Hint)
  | atomAnd (h : Head) (d : Dst) (b : Base) (off : BitVec 30) (x : Data) (w : MWidth) (o : MOrder) (sc : Scope) (hint : Hint)
  | atomOr (h : Head) (d : Dst) (b : Base) (off : BitVec 30) (x : Data) (w : MWidth) (o : MOrder) (sc : Scope) (hint : Hint)
  | atomXor (h : Head) (d : Dst) (b : Base) (off : BitVec 30) (x : Data) (w : MWidth) (o : MOrder) (sc : Scope) (hint : Hint)
  | atomExch (h : Head) (d : Dst) (b : Base) (off : BitVec 30) (x : Data) (w : MWidth) (o : MOrder) (sc : Scope) (hint : Hint)
  | atomCas (h : Head) (d : Dst) (b : Base) (off : BitVec 30) (x : Data) (w : MWidth) (o : MOrder) (sc : Scope) (hint : Hint)
  | atomAddcl (h : Head) (d : Dst) (b : Base) (off : BitVec 30) (x : Data) (w : MWidth) (o : MOrder) (sc : Scope) (hint : Hint)
  | atomSubcl (h : Head) (d : Dst) (b : Base) (off : BitVec 30) (x : Data) (w : MWidth) (o : MOrder) (sc : Scope) (hint : Hint)
  | atomFadd (h : Head) (d : Dst) (b : Base) (off : BitVec 30) (x : Data) (w : MWidth) (o : MOrder) (sc : Scope) (hint : Hint)
  | atomFmin (h : Head) (d : Dst) (b : Base) (off : BitVec 30) (x : Data) (w : MWidth) (o : MOrder) (sc : Scope) (hint : Hint)
  | atomFmax (h : Head) (d : Dst) (b : Base) (off : BitVec 30) (x : Data) (w : MWidth) (o : MOrder) (sc : Scope) (hint : Hint)
  | atomMinU (h : Head) (d : Dst) (b : Base) (off : BitVec 30) (x : Data) (w : MWidth) (o : MOrder) (sc : Scope) (hint : Hint)
  | atomMaxU (h : Head) (d : Dst) (b : Base) (off : BitVec 30) (x : Data) (w : MWidth) (o : MOrder) (sc : Scope) (hint : Hint)
  | atomsAdd (h : Head) (d : Dst) (b : Base) (off : BitVec 30) (x : Data) (w : MWidth) (o : MOrder) (sc : Scope)
  | atomsMin (h : Head) (d : Dst) (b : Base) (off : BitVec 30) (x : Data) (w : MWidth) (o : MOrder) (sc : Scope)
  | atomsMax (h : Head) (d : Dst) (b : Base) (off : BitVec 30) (x : Data) (w : MWidth) (o : MOrder) (sc : Scope)
  | atomsAnd (h : Head) (d : Dst) (b : Base) (off : BitVec 30) (x : Data) (w : MWidth) (o : MOrder) (sc : Scope)
  | atomsOr (h : Head) (d : Dst) (b : Base) (off : BitVec 30) (x : Data) (w : MWidth) (o : MOrder) (sc : Scope)
  | atomsXor (h : Head) (d : Dst) (b : Base) (off : BitVec 30) (x : Data) (w : MWidth) (o : MOrder) (sc : Scope)
  | atomsExch (h : Head) (d : Dst) (b : Base) (off : BitVec 30) (x : Data) (w : MWidth) (o : MOrder) (sc : Scope)
  | atomsCas (h : Head) (d : Dst) (b : Base) (off : BitVec 30) (x : Data) (w : MWidth) (o : MOrder) (sc : Scope)
  | atomsAddcl (h : Head) (d : Dst) (b : Base) (off : BitVec 30) (x : Data) (w : MWidth) (o : MOrder) (sc : Scope)
  | atomsSubcl (h : Head) (d : Dst) (b : Base) (off : BitVec 30) (x : Data) (w : MWidth) (o : MOrder) (sc : Scope)
  | atomsFadd (h : Head) (d : Dst) (b : Base) (off : BitVec 30) (x : Data) (w : MWidth) (o : MOrder) (sc : Scope)
  | atomsFmin (h : Head) (d : Dst) (b : Base) (off : BitVec 30) (x : Data) (w : MWidth) (o : MOrder) (sc : Scope)
  | atomsFmax (h : Head) (d : Dst) (b : Base) (off : BitVec 30) (x : Data) (w : MWidth) (o : MOrder) (sc : Scope)
  | atomsMinU (h : Head) (d : Dst) (b : Base) (off : BitVec 30) (x : Data) (w : MWidth) (o : MOrder) (sc : Scope)
  | atomsMaxU (h : Head) (d : Dst) (b : Base) (off : BitVec 30) (x : Data) (w : MWidth) (o : MOrder) (sc : Scope)
  | redAdd (h : Head) (b : Base) (off : BitVec 30) (x : Data) (w : MWidth) (o : MOrder) (sc : Scope) (hint : Hint)
  | redMin (h : Head) (b : Base) (off : BitVec 30) (x : Data) (w : MWidth) (o : MOrder) (sc : Scope) (hint : Hint)
  | redMax (h : Head) (b : Base) (off : BitVec 30) (x : Data) (w : MWidth) (o : MOrder) (sc : Scope) (hint : Hint)
  | redAnd (h : Head) (b : Base) (off : BitVec 30) (x : Data) (w : MWidth) (o : MOrder) (sc : Scope) (hint : Hint)
  | redOr (h : Head) (b : Base) (off : BitVec 30) (x : Data) (w : MWidth) (o : MOrder) (sc : Scope) (hint : Hint)
  | redXor (h : Head) (b : Base) (off : BitVec 30) (x : Data) (w : MWidth) (o : MOrder) (sc : Scope) (hint : Hint)
  | redAddcl (h : Head) (b : Base) (off : BitVec 30) (x : Data) (w : MWidth) (o : MOrder) (sc : Scope) (hint : Hint)
  | redSubcl (h : Head) (b : Base) (off : BitVec 30) (x : Data) (w : MWidth) (o : MOrder) (sc : Scope) (hint : Hint)
  | redFadd (h : Head) (b : Base) (off : BitVec 30) (x : Data) (w : MWidth) (o : MOrder) (sc : Scope) (hint : Hint)
  | redFmin (h : Head) (b : Base) (off : BitVec 30) (x : Data) (w : MWidth) (o : MOrder) (sc : Scope) (hint : Hint)
  | redFmax (h : Head) (b : Base) (off : BitVec 30) (x : Data) (w : MWidth) (o : MOrder) (sc : Scope) (hint : Hint)
  | redMinU (h : Head) (b : Base) (off : BitVec 30) (x : Data) (w : MWidth) (o : MOrder) (sc : Scope) (hint : Hint)
  | redMaxU (h : Head) (b : Base) (off : BitVec 30) (x : Data) (w : MWidth) (o : MOrder) (sc : Scope) (hint : Hint)
  -- copies, streams, tags, guard slots (R377 to R379)
  | cpy (h : Head) (blk : EBlock) (tag : BitVec 6) (g : Option (BitVec 4))
  | cpys (h : Head) (blk : EBlock) (tag : BitVec 6) (g : Option (BitVec 4))
  | cpyx (h : Head) (blk : EBlock) (tag : BitVec 6) (g : Option (BitVec 4))
  | strm (h : Head) (blk : EBlock) (tag : BitVec 6) (g : Option (BitVec 4))
  | scnt (h : Head) (x : Src) (tag : BitVec 6)
  | wtag (h : Head) (tag : BitVec 6)
  | wany (h : Head) (d : Dst) (a : Src)
  | tffr (h : Head) (d : Dst) (a : Src)
  | tclr (h : Head) (tag : BitVec 6)
  | trdy (h : Head) (d : Dst) (a : Src)
  | gresCmt (h : Head) (g : BitVec 4)
  | gresDsc (h : Head) (g : BitVec 4)
  -- reservations (R380)
  | rsv (h : Head) (d : Dst) (a b : Src)
  | rls (h : Head) (a : Src)
  | rrec (h : Head) (d : Dst) (a : Src)
  -- matrix unit and drain (R382 to R395)
  | mma (h : Head) (blk : EBlock) (tag : BitVec 6) (g : Option (BitVec 4))
  | mmas (h : Head) (blk : EBlock) (tag : BitVec 6) (g : Option (BitVec 4))
  | aclr (h : Head) (slot : BitVec 4)
  | ald (h : Head) (blk : EBlock) (tag : BitVec 6) (slot : BitVec 4)
  | ast (h : Head) (blk : EBlock) (tag : BitVec 6) (slot : BitVec 4)
  | mdrn (h : Head) (blk : EBlock) (tag : BitVec 6)
  | acmt (h : Head) (slot : BitVec 4)
  | adsc (h : Head) (slot : BitVec 4)
  -- network (R396, R400)
  | npost (h : Head) (blk : EBlock)
  | nwait (h : Head) (d : Dst) (a b : Src)
  | ncanc (h : Head) (d : Dst) (a : Src)
  -- control flow (R402 to R405)
  | bra (h : Head) (off : BitVec 24) (join : Option (BitVec 16))
  | brx (h : Head) (a : Src) (join : Option (BitVec 16))
  | call (h : Head) (off : BitVec 24)
  | callx (h : Head) (a : Src)
  | ret (h : Head)
  | meet (h : Head) (join : BitVec 16)
  | exit (h : Head)
  -- barriers and huddles (R406 to R410)
  | bar (h : Head) (b : BitVec 4)
  | barn (h : Head) (a x : Src)
  | tbar (h : Head) (b : BitVec 2)
  | hudl (h : Head) (d : Dst) (k : Src) (id : BitVec 7)
  | hudlHome (h : Head)
  -- yield, sleep, signals, service calls (R411 to R415)
  | yieldRun (h : Head)
  | sleep (h : Head) (a : Src)
  | nop (h : Head)
  | trapSelf (h : Head) (b : Src)
  | trapOne (h : Head) (a b : Src)
  | trapWgrp (h : Head) (b : Src)
  | trapTgrp (h : Head) (b : Src)
  | svc (h : Head) (a : Src)
  | svcq (h : Head)
  | sigret (h : Head)
  -- device-side launch and counters (R416 to R419)
  | lnch (h : Head) (d : Dst) (blk : EBlock)
  | lwait (h : Head)
  | gctr (h : Head) (d : Dst) (a : Src)
  | cncl (h : Head) (a : Src)
  -- regions, breakpoints, snapshots, markers (R420, R421)
  | rge (h : Head) (id : BitVec 16)
  | rgl (h : Head)
  | bkpt (h : Head)
  | snap (h : Head)
  | trmk (h : Head) (a : Src)
  -- system registers (R317, R423); RACECHK_CLR is the MTSR that names RACECHK (R77)
  | mfsr (h : Head) (d : Dst) (r : SReg)
  | mtsr (h : Head) (a : Src) (r : SReg)
  | racechkClr (h : Head) (a : Src)
  -- privileged instructions (R422 to R432)
  | eret (h : Head) (d : Dst) (a : Src)
  | rply (h : Head) (a : Src)
  | rplySig (h : Head) (a : Src)
  | rplyDet (h : Head) (a b : Src)
  | park (h : Head) (a : Src)
  | kill (h : Head) (a b : Src)
  | tlbiCtx (h : Head) (a : Src)
  | tlbiRng (h : Head) (a b c : Src)
  | tlbiAll (h : Head)
  | poolrdMap (h : Head) (d : Dst) (a : Src)
  | poolrdDat (h : Head) (d : Dst) (a b : Src)
  | poolwrMap (h : Head) (a b : Src)
  | poolwrDat (h : Head) (a b c : Src)
  | cpyp (h : Head) (blk : EBlock) (tag : BitVec 6)
  | svresp (h : Head) (a b c : Src)
  | erst (h : Head) (a : Src)
  | erstMtx (h : Head) (a : Src)
  | erstNet (h : Head) (a : Src)
  | erstFail (h : Head) (a b : Src)
  | erstFailMtx (h : Head) (a b : Src)
  | erstFailNet (h : Head) (a b : Src)
  | keyld (h : Head) (a : Src)
  | keyldClr (h : Head)
  | hmchk (h : Head) (d : Dst) (a : Src)
  -- issue, fetch and the memory system (R216, R219, R218, R241, R34, R29)
  | runSelect (c : Fin 192) (q : Fin 4)
  | fetchReturn (c : Fin 192) (q : Fin 4)
  | loadReturn (c : Fin 192) (slot : Fin 17)
  | storeAck (n : Nat)
  | remoteStoreLost (n : Nat)
  | walkStart (w : Fin 64)
  | walkComplete (w : Fin 64)
  -- engines (R89, R98, R386, R153, R395); the number is the queue entry
  | copyStart (c : Fin 192) (n : Fin 64)
  | copySectorDone (c : Fin 192) (n : Fin 64)
  | mmaStart (c : Fin 192) (n : Fin 32)
  | mmaStep (c : Fin 192) (n : Fin 32)
  | drainSectorDone (c : Fin 192) (n : Fin 32)
  -- waits and forcing bounds (R195, R411, R400, R240, R277, R237)
  | huddleMove (c : Fin 192) (slot : Fin 16)
  | sleepExpiry (c : Fin 192) (slot : Fin 17) (lane : Fin 32)
  | nwaitPoll (c : Fin 192) (slot : Fin 17) (lane : Fin 32)
  | saveForce (team : Nat)
  | debugStopForce (team : Nat)
  | asyncSignalForce (c : Fin 192) (slot : Fin 16) (lane : Fin 32)
  -- the arbiter, the sweeper, the sampler, errors of the silicon, rollback (R211, R289, R283, R255, R264, R267, R272)
  | placeTeam
  | streamAgeing
  | counterSweep
  | stallSample (c : Fin 192)
  | errorDiscovery (k : Carrier) (a b : Nat)
  | hbmScrub (sector : Nat) (bad : Bool)
  | coreFence (c : Fin 192)
  | snapshotCommit (team : Nat)
  | rollback (team : Nat)
  -- the host's writes (R204, R438, R452, R454, R435, R437, R53)
  | launchCommit (port : Bit) (q : BitVec 8) (slot : BitVec 4) (x : DWord)
  | renew (port : Bit)
  | leaseExpiry
  | clearFails (port : Bit) (x : Byte)
  | flashErase (port : Bit)
  | flashProgram (port : Bit)
  | flashEraseDone (ok : Bool)
  | flashProgramDone (ok : Bool)
  | registerWrite (port : Bit) (off : BitVec 20) (x : DWord)
  | hostMemoryAccess (port : Bit) (write : Bool) (a : BitVec 48) (data : List Byte)
  | hostSnoop (a : BitVec 48) (write : Bool) (data : List Byte)
  -- start-up (R449, R451)
  | deviceReset
  | bootstOk
  | firmwareTimeout
  -- entries of the inbound ring (R441, R464, R277, R282, R292, R257, R465, R456, R461)
  | serviceReply
  | teamSave
  | teamSaveSpill
  | teamRestore
  | teamKill
  | debugStopRequest
  | debugResumeRequest
  | revokeNotice
  | kernelReplayRequest
  | replayPassEnd
  | contextTlbiRequest
  | qpOpen
  | qpClose
  | setReceiveRing
  | setMemoryKey
  | clearMemoryKey
  | attestationRequest
  | pageReply
  -- fabric and network (R445, R444, R443, R398, R448, R466)
  | uatinRequest (r : UatinReq)
  | uatinTimeout (n : Nat)
  | flitReplay (p : Fin 36)
  | portStateChange (p : Fin 36) (st : PortMode)
  | netTakeRequest (qp : BitVec 12)
  | netPacketReceive (k : NetPacket)
  | netAckReceive (qp : BitVec 12) (psn : Word) (bitmap : DWord)
  | netRetransmitTimeout (qp : BitVec 12) (psn : Word)
  -- power and temperature (R458, R459), host port and service, unit resets, zeroing, replay, refusals
  | throttleStepDown (pkgw : Half) (hbm die : Byte)
  | throttleT3 (pkgw : Half) (hbm die : Byte)
  | throttleT4 (pkgw : Half) (hbm die : Byte)
  | throttleLeaveT4 (pkgw : Half) (hbm die : Byte)
  | throttleStepUp (pkgw : Half) (hbm die : Byte)
  | tempRefresh (pkgw : Half) (hbm die : Byte)
  | hostPortDown (port : Bit)
  | outboundHeadAdvance (port : Bit) (head : DWord)
  | unitResetDone (clock : Bool)
  | hostServiceRestart
  | pageZeroingDone (team : Nat)
  | preImageCopied (page : Nat)
  | netRefusalReceive (qp : BitVec 12) (psn : Word)
  deriving DecidableEq, Repr

/-- What moves next: a quarter of a core issues an instruction, an event takes place, the host's driver rewrites an entry
of the counter table (R182, log entry 47), Ninal deals with an item of its work on a core (R230, log entry 4), another
device refuses the next remote read or atomic (R445, log entry 54), or another device changes a byte of its own memory (R54, R81,
log entry 8). -/
inductive Action where
  | issue (c : Fin 192) (q : Fin 4)
  | ev (i : Instr)
  | counterWrite (n : BitVec 12) (x : BitVec 64)
  | ninal (c : Fin 192)
  | remoteRefusal
  | remoteWrite (a : BitVec 52) (x : BitVec 8)
  deriving DecidableEq, Repr, Inhabited

end Sys2Proof
end

