-- ==== Sys2Proof/Config.lean ====
section
/-!
DEFINITION. What one part fixes and what the manual leaves open (R9): constants without a body, so that nothing in
Lean can evaluate them. A free value takes a fresh number from the counter in State, or the operands it depends on
(log entry 9).
-/

namespace Sys2Proof

/-- The flits that a transaction fills (R444; log entry 9). -/
opaque Config.flits : Nat → BitVec 4

/-- A free value of a width, one for each number of the counter. -/
opaque Config.freeBits (w : Nat) (n : Nat) : BitVec w

/-- A free choice: a number of which only its remainder by the count of the choices is used. -/
opaque Config.pick (n : Nat) : Nat

/-- Which agent moves next where the model's agenda is empty (log entry 1). -/
opaque Config.nextAction (n : Nat) : Action

/-- What a sector reads as under a key under which it was not written (R44): a fixed function of its stored bytes, the
key they were written under, the sector's address, the reading key and the device's tweak key (R42). The second argument is 0
for a sector that the V9 has not written. -/
opaque Config.staleSector (tweak : BitVec 128) (written : Nat) (stored : BitVec 128) (addr : Nat) (key : BitVec 128) : BitVec 128

/-- The data key of the device's own accesses, which have no leaf to select one (R42; log entry 3). -/
opaque Config.deviceKey : BitVec 128

/-- The part's identity (R435). -/
opaque Config.devInfo : DWord

/-- The bytes of the module's flash as the part came (R454): of slot A, and with `true` of slot B; and what an erased
byte reads as. -/
opaque Config.flashByte (slotB : Bool) (a : Nat) : Byte
opaque Config.erasedByte : Byte

/-- The vendor's public key, x then y as 64 bytes, byte 0 lowest, and the digest that is fused on the die (R449). -/
opaque Config.vendorKey : BitVec 512
opaque Config.fusedDigest : BitVec 256

/-- The digests of the boot ROM version, the fuse configuration and the key-table policy (R455). -/
opaque Config.measured (kind : Nat) : BitVec 256

/-- The number that the boot ROM derives from the fused secret for the device identity key (R455): the manual gives no
function. -/
opaque Config.identitySecret : BitVec 256

/-- How a value of PORTST shows a port's mode, its trained width and its error count (R435): the manual gives no layout. -/
opaque Config.portWord (mode : PortMode) (width : Byte) (errors : Word) : DWord

/-- The result of the boot ROM's self-test (R449): the mask of courts that pass, and the mask of failing stacks. -/
opaque Config.selfTest (n : Nat) : BitVec 24 × BitVec 8

/-- The digest of a run's PC and mask joined to a team's digest in a kernel replay (R292): the manual names no function. -/
opaque Config.runDigest (d : DWord) (pc mask : Word) : DWord

/-- Whether a fused multiply-add of infinity, zero and a quiet NaN signals NV: IEEE 754, which R338 follows, leaves it to
the implementation. -/
opaque Config.fmaInvalid : Bool

/-- Where the boot ROM places the firmware image in local HBM, and the word in it at which Ninal starts (R449, R231):
the manual fixes neither (log entry 5). -/
opaque Config.firmwareBase : BitVec 26
opaque Config.firmwareEntry : Word

end Sys2Proof
end

