-- ==== Sys2Proof/Machine/Tab.lean ====
section
/-!
DEFINITION. Tables: what the machine holds by number, as a list of (number, value) pairs in rising order of number.
-/

namespace Sys2Proof

/-- A table of values by number. -/
abbrev Tab (α : Type) := List (Nat × α)

variable {α : Type}

/-- The value at a number. -/
def Tab.get? : Tab α → Nat → Option α
  | [], _ => none
  | (j, x) :: r, k => if j = k then some x else Tab.get? r k

/-- The value at a number, or a default. -/
def Tab.getD (t : Tab α) (k : Nat) (d : α) : α := (Tab.get? t k).getD d

/-- Set the value at a number, in its place in the order. -/
def Tab.set : Tab α → Nat → α → Tab α
  | [], k, x => [(k, x)]
  | (j, y) :: r, k, x =>
    if k < j then (k, x) :: (j, y) :: r
    else if k = j then (k, x) :: r
    else (j, y) :: Tab.set r k x

/-- Remove the value at a number. -/
def Tab.del : Tab α → Nat → Tab α
  | [], _ => []
  | (j, y) :: r, k => if j = k then Tab.del r k else (j, y) :: Tab.del r k

/-- Set or remove. -/
def Tab.put (t : Tab α) (k : Nat) : Option α → Tab α
  | some x => Tab.set t k x
  | none => Tab.del t k

/-- Change the value at a number, where there is one. -/
def Tab.adjust (t : Tab α) (k : Nat) (f : α → α) : Tab α := t.map (fun e => if e.1 = k then (e.1, f e.2) else e)

/-- The numbers of a table. -/
def Tab.keys (t : Tab α) : List Nat := t.map Prod.fst

/-- The values of a table. -/
def Tab.vals (t : Tab α) : List α := t.map Prod.snd

/-- The lowest number below `n` that a table leaves free, from `k` on. -/
def Tab.freeKey (t : Tab α) : Nat → Nat → Option Nat
  | 0, _ => none
  | n + 1, k => if (Tab.get? t k).isNone then some k else Tab.freeKey t n (k + 1)

/-- Put a number into a rising list without repeats. -/
def insertNum (n : Nat) : List Nat → List Nat
  | [] => [n]
  | m :: r => if n < m then n :: m :: r else if n = m then m :: r else m :: insertNum n r

/-- Rising order of the numbers. -/
def Tab.ordered : Tab α → Bool
  | [] => true
  | [_] => true
  | a :: b :: r => decide (a.1 < b.1) && Tab.ordered (b :: r)

end Sys2Proof
end

