-- ==== Sys2Proof/Machine/State.lean ====
section
/-!
DEFINITION. The state of the V9 as plain data: every register, table, queue and memory that spec/00 to spec/20 give
the machine, and the state right after reset. INVENTORY.md lists each with its rule.
-/

namespace Sys2Proof.Machine

/-- A hallmark (R253). -/
abbrev Hm := BitVec 14

/-- The device's own hallmark (R253). -/
def devHm : Hm := 0x2000

/-! ## Threads (spec/07) -/

/-- What a waiting thread waits for, where its instruction issues again when the wait ends (R170, R218). -/
inductive Wait where
  | load (id : Nat)               -- a global result that has not returned (R218)
  | tag (t : BitVec 6)            -- WTAG (R93)
  | anyTag (m : DWord)            -- WANY (R93)
  | copyEntry                     -- an entry of the copy queue (R87)
  | mtxEntry                      -- an entry of the matrix queue (R382)
  | dugout (n : Nat)              -- that many entries of the dugout (R222)
  | children                      -- LWAIT (R418)
  | counter (due : Nat)           -- NWAIT, with the latest cycle of its next reading (R400)
  | chain (q : Nat)               -- NCANC, whose chain the engine cannot read (R400, R469)
  | event                         -- ERET in slot 16 (R424)
  | snapshot                      -- a snapshot that an escape needs (R266)
  | preImage (page : Nat)         -- a page whose pre-image is being copied (R292)
  deriving DecidableEq, Repr

/-- The states of a thread (R170). A thread at a barrier, a huddle or a timer keeps the word it leaves to. -/
inductive TState where
  | ready
  | meeting
  | bar (b : Nat) (next : Word)
  | barn (a : Nat) (next : Word)
  | tbar (b : Nat) (next : Word)
  | hudl (id : BitVec 7) (key : Half) (d : Option (BitVec 6)) (next : Word)
  | hudlHome (next : Word)
  | sleeping (till : Nat)
  | wait (w : Wait)
  | parked (entry : Nat)
  | detached (cause detail : Byte)
  | trapping (cause detail : Byte) (op : Nat)
  | exited
  deriving DecidableEq, Repr

/-- What a replayed lane skips once: the watch check (R281), the breakpoint (R421). -/
inductive Pass where
  | watch | bkpt
  deriving DecidableEq, Repr

/-- The data write of a CMPST lane that parked (R376). -/
structure CmpstPark where
  base : DWord
  count : Nat
  rank : Nat
  deriving DecidableEq, Repr

/-- What a detached park keeps of its dugout entry (R226, R243): when it parked, the tag it waits on where it waits on an
engine command, its addresses, and the record's word 0x18. -/
structure Park where
  seq : Nat
  eng : Bool
  tag : BitVec 6
  addrs : List DWord
  info : DWord
  deriving DecidableEq, Repr

/-- A thread (R169). -/
structure Thread where
  pc : Word
  mr : Word
  csp : Word
  pred : BitVec 8
  fpctl : Word
  fpstat : Word
  age : BitVec 5
  region : List Half
  depth : Half
  home : Nat
  tidx : Nat
  st : TState
  handler : Option DWord
  cbase : DWord
  pend52 : Bool
  pend71 : Option Byte
  pendSince : Nat
  held : Bool
  yielded : Bool
  stopMask : Option LiveMask
  kept : Tab DWord
  resume : Word
  due : List Nat
  pass : Option Pass
  cmpst : Option CmpstPark
  escOk : Bool
  group : Nat
  park : Option Park
  deriving DecidableEq, Repr

/-! ## Warp slots and quarters (spec/05, spec/08) -/

/-- The form of a mapped v register (R121). -/
inductive VForm where
  | uniform
  | full (row : Nat)
  deriving DecidableEq, Repr

/-- The mapping of a v register that is not absent (R121). -/
structure VMap where
  form : VForm
  rel : Word
  deriving DecidableEq, Repr

/-- A global load or atomic whose result has not returned (R218): its number, its lanes, the registers it writes, its PC,
and whether L3 waits on it; the hallmark of the access (R19). -/
structure PendLoad where
  id : Nat
  lanes : Word
  regs : List Nat
  pc : Word
  latch : Bool
  hm : Hm
  deriving DecidableEq, Repr

/-- One bypass latch (R128): the lanes' values, each lane's earlier results since the last clear, and whether an
instruction of the current run wrote it. -/
structure Latch where
  vals : Tab DWord
  hist : Tab (List DWord)
  valid : Bool
  deriving DecidableEq, Repr

/-- A warp slot (R120, R121, R216). Lanes without a thread are absent. -/
structure Slot where
  wg : Option Nat
  widx : Nat
  threads : Tab Thread
  vmap : Tab VMap
  cells : Tab Word
  sregs : Tab Word
  lastRun : Option Nat
  loads : List PendLoad
  homeS : Option (Tab Word)
  latches : List (Word × List Latch)
  runRecs : Nat
  syncDue : Word
  rbSync : Word
  syncMore : Bool
  deriving DecidableEq, Repr

/-- The run that a quarter issues (R216, R218). -/
structure Run where
  slot : Nat
  lanes : Word
  count : Nat
  start : Word
  taken : BitVec 24
  stalled : Bool := false
  deriving DecidableEq, Repr

/-- A line of an instruction cache, with its hallmark and the key index that it is held under (R19, R55). -/
structure CodeLine where
  line : Nat
  hm : Hm
  key : Option (BitVec 13)
  deriving DecidableEq, Repr

/-- A quarter (R12, R128, R216 to R219). -/
structure Quarter where
  latches : List Latch
  run : Option Run
  prevHm : Option Hm
  prevUmpire : Bool
  frozen : Option (List CodeLine)
  deriving DecidableEq, Repr

/-! ## Engines (spec/04, spec/14) -/

/-- Tag states (R91). -/
inductive TagSt where
  | idle | busy | done | dropped | failed
  deriving DecidableEq, Repr

/-- A tag (R91, R92): its state, its count, whether a command of it completed, its failure record, and the PC that
last issued on it (R283). -/
structure Tag where
  st : TagSt
  count : Nat
  some : Bool
  fail : Option (Byte × Byte)
  pc : Word
  deriving DecidableEq, Repr

/-- ST of a queue entry (R88). -/
inductive CmdSt where
  | queued | running | held | stopped
  deriving DecidableEq, Repr

/-- FORM of a copy-queue entry (R88), and CPYP (R428). -/
inductive CopyForm where
  | cpy | cpys | cpyx | strm | cpyp
  deriving DecidableEq, Repr

/-- Where an engine command was issued: the warp slot, PC and code base, and the issuing thread's topmost region (R232,
R291). -/
structure Origin where
  slot : Nat
  pc : Word
  cbase : DWord
  top : Half
  deriving DecidableEq, Repr

/-- A copy-queue entry (R88, R105): the copied block, the status word's fields, the counts of a stream and the extents
that it has read, the sectors written at or above P, the address whose walk it waits for, whether a snapshot has been
taken for its release (R266), the reservations it names (R115), and the cause and detail it stopped at. -/
structure CopyCmd where
  wg : Nat
  hm : Hm
  form : CopyForm
  block : List DWord
  blkAddr : Nat
  p : Nat
  st : CmdSt
  g : Option (BitVec 4)
  tag : BitVec 6
  seq : Nat
  staged : Nat
  consumed : Nat
  ahead : List Nat
  exts : List (DWord × Nat)
  miss : Option DWord
  snap : Bool
  uses : List Nat
  why : Byte × Byte
  orig : Origin
  deriving DecidableEq, Repr

/-- The operations of the matrix queue (R382). -/
inductive MtxOp where
  | mma | mmas | aclr | ald | ast | mdrn | acmt | adsc
  deriving DecidableEq, Repr

/-- An output of a drain: its rows as bytes, its scale array as bytes, its conditions (R394). -/
structure OutImage where
  rows : List (List Byte)
  scales : List Byte
  conds : Nat
  deriving DecidableEq, Repr

/-- What a drain computes before it writes (R395): y3 of every element with its conditions, its outputs, all conditions. -/
structure DrainImage where
  ys : List (Nat × Nat)
  first : OutImage
  second : Option OutImage
  conds : Nat
  deriving DecidableEq, Repr

/-- A matrix-queue entry (R382 to R395): the copied block, the slot, the workgroup's tile that the command works on and,
where it opens a shadow, the tile that the shadow is copied from; the guard slot; progress in k-steps or sectors; what a
running drain has computed; the ranges that it writes (R90), and the reservations that it reads in a race (R72); the rest as in
a copy-queue entry. -/
structure MtxCmd where
  wg : Nat
  hm : Hm
  op : MtxOp
  block : List DWord
  blkAddr : Nat
  addr : Nat
  slot : BitVec 4
  tile : Nat
  src : Option Nat
  tag : Option (BitVec 6)
  g : Option (BitVec 4)
  st : CmdSt
  p : Nat
  seq : Nat
  solder : List DWord
  conds : Nat
  image : Option DrainImage
  writes : List (Nat × Nat × Nat)
  raced : List Nat
  ahead : List Nat
  miss : Option DWord
  snap : Bool
  uses : List Nat
  why : Byte × Byte
  orig : Origin
  deriving DecidableEq, Repr

/-- An operand-buffer reservation (R112, R113); `live` is V, and a released record stays until its commands end
(R115). `unseen` names the tags of the writes of it that have ended and that no wait has acquired (R72). -/
structure Resv where
  hm : Hm
  own : BitVec 5
  wg : Nat
  gen : BitVec 12
  lix : BitVec 4
  bax : BitVec 2
  fmt : BitVec 4
  blk : BitVec 2
  size : Nat
  base : Nat
  live : Bool
  keep : Bool
  unseen : List Nat
  deriving DecidableEq, Repr

/-- A dugout entry (R224): what its record was made from, and the latch values that R130 keeps, by lane and source. -/
structure DugEntry where
  slot : Nat
  lanes : Word
  pc : Word
  cause : Byte
  detail : Byte
  hm : Hm
  eng : Bool
  tag : BitVec 6
  qix : Nat
  addrs : List DWord
  info : DWord
  seq : Nat
  deriving DecidableEq, Repr

/-! ## Translation (spec/02) -/

/-- A leaf held by a TLB (R32). -/
structure TlbEntry where
  hm : Hm
  va : Nat
  log : Nat
  pa : Nat
  sk : Bool
  mt : Bool
  w : Bool
  x : Bool
  d : Bool
  deriving DecidableEq, Repr

/-- The access kinds of a walk (R29). -/
inductive AccKind where
  | read | write | fetch
  deriving DecidableEq, Repr

/-- Who waits for a court miss (R33): a command of the copy queue or of the matrix queue, a path of a slot of a core, or the
network engine. -/
inductive Waiter where
  | copy (c n : Nat)
  | mtx (c n : Nat)
  | core (c n : Nat)
  | net
  deriving DecidableEq, Repr

/-- A walk that ended in a fault, for a path of a slot of a core or for the network engine: the kind that was walked and the
outcome, which the access that waited for it shares when it is made again (R31, R33; log entry 6). -/
structure WalkMark where
  who : Waiter
  hm : Hm
  page : Nat
  kind : AccKind
  out : Byte × Byte
  deriving DecidableEq, Repr

/-- A miss in a court's queue, or in a walker (R33, R34); the network engine's queue counts as a court of its own, number 24
(log entry 6). -/
structure Miss where
  court : Nat
  hm : Hm
  va : DWord
  kind : AccKind
  who : List Waiter
  deriving DecidableEq, Repr

/-- A table-pointer entry of the walk cache (R32). -/
structure WalkPtr where
  hm : Hm
  level : Nat
  va : Nat
  base : Nat
  deriving DecidableEq, Repr

/-- A context descriptor (R39) as the V9 holds it. -/
structure Desc where
  v : Bool
  l5 : Bool
  barmode : Bool
  rchk : Bool
  dbg : Bool
  hold : Bool
  pclass : BitVec 3
  root : Nat
  kidx : BitVec 13
  skidx : BitVec 13
  skv : Bool
  sigbase : BitVec 57
  sigpc : Word
  savebase : BitVec 57
  jrnl : BitVec 52
  deriving DecidableEq, Repr

/-! ## Memory (spec/02, spec/03) -/

/-- A line held in the L2, with its directory entry (R48 to R54): its hallmark and key index, its valid sectors, its
dirty bytes (whole sectors but in a remote line), the cores whose L1 holds it and whether the network engine does; for a
remote line, the bytes this device's L2 holds; for a host line, the port that held the lease when it was filled
(R439). -/
structure Line where
  hm : Hm
  key : Option (BitVec 13)
  valid : BitVec 4
  dirty : BitVec 64
  copy : Option (List Byte)
  port : Bit
  holders : List Nat
  net : Bool
  under : List Byte
  deriving DecidableEq, Repr

/-- A line of a core's L1 data cache (R48, R49): its valid and dirty sectors, and the hint it was allocated with
(R56). -/
structure L1Line where
  line : Nat
  hm : Hm
  key : Option (BitVec 13)
  valid : BitVec 4
  dirty : BitVec 4
  hint : Hint
  deriving DecidableEq, Repr

/-- The states of a directory entry (R50). -/
inductive Moesi where
  | modified | owned | exclusive | shared
  deriving DecidableEq, Repr

/-- Under what a sector of local HBM was written (R42, R44): a key, or under the device's own key (log entry 3). -/
inductive Seal where
  | key (k : BitVec 128)
  | device
  deriving DecidableEq, Repr

/-- A store, atomic or engine write that its home has not acknowledged (R241). Until then a thread of another workgroup may
read the bytes as they stood `before` it (R60 to R67; log entry 8): `done` is the cycle from which it is performed for every
thread, if it is, and `seen` names the workgroups that have read it. -/
structure PendStore where
  wg : Nat
  tidx : Option Nat
  hm : Hm
  addr : Nat
  old : List Byte
  before : List Byte
  done : Option Nat
  seen : List Nat
  remote : Bool
  issued : Nat
  deriving DecidableEq, Repr

/-- The shadow record of an L2 sector (R78). -/
structure Shadow where
  hm : Hm
  core : Nat
  slot : Nat
  count : Half
  mask : Half
  deriving DecidableEq, Repr

/-! ## Workgroups, teams, launches (spec/07 to spec/10) -/

/-- The state that an instance of a named barrier fixes (R408). -/
structure Named where
  addr : Nat
  count : Nat
  arrived : Nat
  deriving DecidableEq, Repr

/-- A huddle set that a workgroup is bound into (R196). -/
structure Bound where
  set : Nat
  launch : Nat
  id : BitVec 7
  slots : List Nat
  deriving DecidableEq, Repr

/-- A workgroup (R177): its launch, number and rank, partition, place, tags and guard slots, barriers, child counter,
accumulator bindings with their shadows and flags; `floor` is the cycle up to which it must read what others have
performed (log entry 8). Slot numbers of tiles index the workgroup's own tile slots. -/
structure Wg where
  core : Nat
  hm : Hm
  launch : Nat
  team : Nat
  number : Nat
  rank : Nat
  nthreads : Nat
  regc : Nat
  spg : Nat
  acc : Nat
  shd : Nat
  stk : Nat
  slots : List Nat
  sri : Nat
  tags : Tab Tag
  guards : Tab Bool
  barPw : Tab (List Nat)
  barMode : Tab Bool
  barLeft : Tab Nat
  named : List Named
  children : Half
  barmode : Bool
  amx : Tab Word
  bind : Tab Nat
  shadow : Tab (Nat × BitVec 4)
  flags : Tab Byte
  gens : Tab (BitVec 12)
  dlim : BitVec 5
  depth : BitVec 5
  bound : Option Bound
  zeroing : Bool
  exiting : Bool
  edit : Bool
  rstep : Bool
  resident : Tab Nat
  pins : List Nat
  floor : Nat
  deriving DecidableEq, Repr

/-- Why a team is stopping or stopped: a save for a time slice or with every tile spilled, one that the arbiter asked
for, a debug stop, a fenced core, state T4 (R215, R240, R264, R277, R458, R464). -/
inductive StopKind where
  | slice | spill | arbiter | debug | fence | throttle
  deriving DecidableEq, Repr

/-- A request under way to stop a team: its kind, since when, whether forcing has begun and whether it stopped a path,
the operations of the team requests that wait for it, and whether a debugger does (R240, R277, R464). -/
structure Stop where
  kind : StopKind
  since : Nat
  forced : Bool
  anyForced : Bool
  asks : List Nat
  dbg : Bool
  deriving DecidableEq, Repr

/-- A record of the escape log (R270); for the release of an engine command `eng` says whether it is the matrix queue's, its
block's address, and the stream block that it ends. -/
structure LogRec where
  wg : Nat
  slot : Nat
  lanes : Word
  pc : Word
  results : Tab DWord
  pushed : Word
  replayed : Word
  eng : Option (Bool × Nat × Nat)
  deriving DecidableEq, Repr

/-- The image of one workgroup: what the internal regions of its save record or of a snapshot bank hold (R244, R267): the
workgroup, where the record lies, its slots, which of its tiles hold its data, the pages that it retains on its core (R245),
its reservation records, and its engine
commands in issue order, each with its fault record where it stands stopped. Pages, tiles and the contents of reservations
are in memory (log entry 30). -/
structure WgImage where
  wg : Wg
  lid : Word
  mem : DWord
  slots : Tab Slot
  tiles : List Nat
  loose : List Nat
  kept : List Nat
  resvs : List Resv
  copies : List (CopyCmd × List DWord)
  mtx : List (MtxCmd × List DWord)
  deriving DecidableEq, Repr

/-- The thread that asked for a snapshot or whose access started a rollback (R291): its hallmark and its topmost region. -/
structure Asker where
  hm : Hm
  top : Half
  deriving DecidableEq, Repr

/-- The snapshots of a team (R265 to R270): whether one is committed, its image, its generation, its bank, its log and how
much of it stands in the bank; whether one is being written; who asked for the last, and who started the last rollback. -/
structure Snap where
  valid : Bool
  gen : Nat
  bank : Bool
  images : Tab WgImage
  log : List LogRec
  logged : Nat
  writing : Bool
  asker : Option Asker
  roller : Option Asker
  deriving DecidableEq, Repr

/-- A resident team (R177, R178). -/
structure Team where
  launch : Nat
  number : Nat
  court : Nat
  wgs : List Nat
  stop : Option Stop
  halted : Bool
  rolling : Bool
  snap : Snap
  digest : DWord
  killed : Bool
  deriving DecidableEq, Repr

/-- A saved team (R244): its handle, its workgroups in rank order, its images by workgroup, why it was saved, whether it may be placed again (R215,
R264, R458, R464), how many requests for its restore wait, and whether it stands halted (R277). -/
structure Saved where
  team : Nat
  wgs : List Nat
  launch : Nat
  number : Nat
  images : Tab WgImage
  why : StopKind
  eligible : Bool
  asks : Nat
  halted : Bool
  snap : Snap
  digest : DWord
  deriving DecidableEq, Repr

/-- A launch (R206, R208, R416): its id, its stream, its record's words in the layout of R206, what of it is placed,
and its fate. `retired` frees its queue slot (R204). -/
structure Launch where
  id : Word
  hm : Hm
  queue : Nat
  child : Bool
  seq : Nat
  slot : Nat
  words : List DWord
  depth : BitVec 5
  parent : Option Nat
  nextTeam : Nat
  again : List Nat
  failed : Bool
  cancelled : Bool
  retired : Bool
  digests : Tab DWord
  deriving DecidableEq, Repr

/-- A launch queue's status (R205). -/
structure Queue where
  errc : Byte
  errs : BitVec 4
  err : Bool
  next : BitVec 23
  head : BitVec 4
  tail : BitVec 4
  count : Nat
  deriving DecidableEq, Repr

/-- A stream of the arbiter (R211): its age, its head and since when that is eligible; and, of the ageing periods that have
not been accounted for, those in which it had no eligible head for some time, a team was placed, or its head was fit. -/
structure Stream where
  age : Nat
  head : Option Nat
  eligible : Option Nat
  idle : List Nat
  placed : List Nat
  fit : List Nat
  fits : Bool
  noted : Nat
  deriving DecidableEq, Repr

/-- A completion counter (R182). -/
structure Counter where
  v : Bool
  canc : Bool
  hm : Hm
  value : BitVec 48
  deriving DecidableEq, Repr

/-! ## Network (spec/14, spec/16, spec/20) -/

/-- A packet sent and not acknowledged (R466): its request, its piece, when it was last sent and how often, and whether
an acknowledgement has reported it missing. -/
structure NetPkt where
  psn : Word
  req : Nat
  index : Nat
  sent : Nat
  sends : Nat
  reported : Bool
  deriving DecidableEq, Repr

/-- A work request that the engine has taken (R397, R398): its number in the pair, its words, the pieces sent so far, the
core whose NPOST posted it, and whether its chain breaks after it. -/
structure NetReq where
  id : Nat
  va : DWord
  seq : Word
  len : Nat
  opc : Byte
  laddr : DWord
  raddr : DWord
  rkey : Word
  rcid : Word
  cnt : DWord
  sent : Nat
  core : Nat
  broken : Bool
  deriving DecidableEq, Repr

/-- What the engine has still to do for a queue pair, one access each (R398, R469). -/
inductive NetStep where
  | take
  | read (va : DWord)
  | mark (r : NetReq)
  | send (req : Nat)
  | resend (psn : Word)
  | status (core : Nat) (va : DWord) (x : Byte)
  | count (core : Nat) (va cnt : DWord)
  | cancel (core : Nat) (va : DWord)
  | next (core : Nat) (va : DWord)
  deriving DecidableEq, Repr

/-- A message that a pair is receiving (R448): its packets so far, the buffer of a SEND, whether it was refused,
and the ranges that it has placed. -/
structure RMsg where
  got : Nat
  buf : DWord
  refused : Bool
  placed : List (DWord × Nat)
  deriving DecidableEq, Repr

/-- A queue pair (R398, R465, R466). -/
structure QP where
  hm : Hm
  peer : DWord
  pqpn : BitVec 12
  port : BitVec 6
  head : DWord
  last : Option DWord
  tails : List (DWord × Nat)
  seq : Word
  psn : Word
  reqs : List NetReq
  nextReq : Nat
  packets : List NetPkt
  ended : List Word
  err : Bool
  todo : List NetStep
  stopped : Bool
  ring : DWord
  ringCount : Nat
  ringHead : Nat
  rcbase : DWord
  rcack : Word
  rgot : List Word
  rmsgs : Tab RMsg
  deriving DecidableEq, Repr

/-- What the device sends to a peer on a port: a data packet, an acknowledgement, a refusal (R447, R448, R466); the last two
name the peer's fabric address, the port and the peer's pair (R465). -/
inductive NetOut where
  | data (k : NetPacket)
  | ack (peer : DWord) (port : BitVec 6) (qp : BitVec 12) (cack : Word) (bmap : DWord)
  | refuse (peer : DWord) (port : BitVec 6) (qp : BitVec 12) (psn : Word)
  deriving DecidableEq, Repr

/-- A network fault that waits for a record of its core (R469). -/
structure NetWait where
  core : Nat
  qp : BitVec 12
  words : List DWord
  deriving DecidableEq, Repr

/-- A memory key (R448, R465). -/
structure MemKey where
  hm : Hm
  gen : BitVec 20
  base : DWord
  len : DWord
  deriving DecidableEq, Repr

/-- A pending page request of a core (R460): its id, what it was made for (a dugout entry, a copy, matrix or network
record: 0 to 3, and its number), its address, cause and detail, and its bits. -/
structure PageReq where
  rid : Word
  kind : Nat
  key : Nat
  seq : Nat
  va : DWord
  cause : Byte
  detail : Byte
  hm : Hm
  wr : Bool
  fet : Bool
  deriving DecidableEq, Repr

/-- How far a recorded service call has come (R235, R236): recorded; answered with the restart status, so that only SVCQ
learns of it; done, with v3 to v5 of its reply; retired. -/
inductive CallSt where
  | open
  | orphan
  | done (res : List Word)
  | retired
  deriving DecidableEq, Repr

/-- A record of a context's call journal (R235, R236): the context, the caller's mailbox, the call id. -/
structure CallRec where
  hm : Hm
  va : DWord
  cid : Word
  st : CallSt
  deriving DecidableEq, Repr

/-! ## The core, the device, the machine -/

/-- A core (R12 to R14, R82 to R133, R216 to R226). -/
structure Core where
  slots : Tab Slot
  quarters : Tab Quarter
  pool : Tab Word
  cleanPool : Tab (BitVec 2)
  cleanBuf : Tab (BitVec 2)
  pageMap : Tab Word
  accown : Tab Half
  buf : Tab Byte
  resvs : List Resv
  copyQ : Tab CopyCmd
  mtxQ : Tab MtxCmd
  dugout : Tab DugEntry
  dgSel : BitVec 5
  engFaults : List Nat
  drainFaults : List Nat
  netFaults : Tab (BitVec 12)
  hmark : Hm
  savebase : DWord
  trcctl : DWord
  trcOff : Word
  trcDrop : Word
  trcOwed : Word
  dbgSel : BitVec 5
  acfg : Tab DWord
  acnt : Tab DWord
  pins : List (Nat × Nat)
  tlb : List TlbEntry
  icache : List CodeLine
  l1 : List L1Line
  rel : Tab Half
  cyc : DWord
  fenced : Bool
  mismatches : List Nat
  events : Tab Word
  rid : Word
  pageReqs : List PageReq
  dealt : List Nat
  faultSeq : Tab Nat
  sampleNext : Nat
  umpRows : Tab Word
  deriving DecidableEq, Repr

/-- A page of slot A of the module's flash (R454): erased, holding the words of a program, or left undefined by a failed
command. A page that the V9 has not written holds what the module came with. -/
inductive FlashPage where
  | erased
  | data (ws : List DWord)
  | undefined (n : Nat)
  deriving DecidableEq, Repr

/-- A flash command that is running (R454): an erase or a program, its page, the words it programs. -/
structure FlashRun where
  program : Bool
  page : Nat
  data : List DWord
  deriving DecidableEq, Repr

/-- What a host's read of memory is answered with: its port, the bytes, and poison (R256, R437). -/
structure HostRead where
  port : Bit
  data : List Byte
  poison : Bool
  deriving DecidableEq, Repr

/-- A response to an inbound fabric request (R444, R445): the device it goes to, the data of a read or atomic, poison,
and whether the request was refused. -/
structure UatinOut where
  dest : BitVec 12
  src : BitVec 12
  hm : Option Hm
  tag : Half
  data : List Byte
  poison : Bool
  refused : Bool
  deriving DecidableEq, Repr

/-- A transaction that this device sends into the fabric (R444 to R446): the device it goes to, the hallmark, which a port in
UALink mode does not carry, and the operation with its data, mask, tag and poison. -/
structure UatinSent where
  dest : BitVec 12
  src : BitVec 12
  hm : Option Hm
  op : UatinOp
  addr : BitVec 39
  size : Nat
  mask : DWord
  data : List Byte
  tag : Half
  poison : Bool
  deriving DecidableEq, Repr

/-- The device registers, rings and other host-facing state (R435 to R442, R451 to R454, R459). -/
structure HostSide where
  devno : BitVec 13
  leaseRej : Word
  leasePeriod : BitVec 10
  leaseTko : Bool
  leaseEn : Bool
  leaseAct : Bit
  leaseSince : Nat
  cntbase : DWord
  obase : DWord
  osize : DWord
  ohead : DWord
  otail : DWord
  ibase : DWord
  isize : DWord
  ihead : DWord
  itail : DWord
  outSeq : Word
  outHeld : List (List DWord)
  outRing : List (List DWord)
  msix : List (Bit × Nat)
  hwin : Tab DWord
  admits : Tab DWord
  portst : Tab PortMode
  portWidth : Tab Byte
  portErr : Tab Word
  tweak : BitVec 128
  portsUp : List Bit
  hostOut : List HostRead
  uatinOut : List UatinOut
  uatinSent : List UatinSent
  bootStage : Nat
  bootFails : BitVec 2
  bootMin : Bool
  bootOk : Bool
  bootStopped : Bool
  bootAt : Nat
  reason : List Byte
  flctl : DWord
  flRun : Option FlashRun
  fladdr : DWord
  flbuf : Tab DWord
  flash : Tab FlashPage
  firmware : Option (Nat × Nat)
  measure : List (Word × BitVec 256)
  plim : BitVec 11
  throttle : Nat
  slow : Nat
  coolSince : Nat
  calmSince : Nat
  swept : Nat
  temp : DWord
  unitDown : List Bool
  deriving DecidableEq, Repr

/-- A kernel replay under way (R292): its launch, its passes, its area, the pages captured with their
sectors' seals, those being copied, pass 0's digests, the passes that differed, and what ends it early. -/
structure Replay where
  launch : Nat
  passes : Nat
  pass : Nat
  acfgs : List (List DWord)
  area : Nat
  pages : List Nat
  seals : Tab Seal
  copying : List Nat
  digests0 : Tab DWord
  mismatch : List Nat
  status : Byte
  deriving DecidableEq, Repr

/-- The path whose instruction is being performed: its place, its lanes and its PC, and whether a lane of it has found no
queue entry (R87; log entry 1). -/
structure Iss where
  core : Nat
  quarter : Nat
  slot : Nat
  lanes : Word
  pc : Word
  short : Bool := false
  deriving DecidableEq, Repr

/-- The whole machine. `agenda`, `fresh`, `iss`, `now`, `stamp` and the handles of `wgs`, `teams` and `launches` are the
model's own (log entries 1 and 9). -/
structure State where
  cores : Tab Core
  mem : List Host.Cell
  seals : Tab Seal
  poison : Tab Bool
  hbmBad : Tab Bool
  badPages : List (Nat × Nat)
  metPages : List (Nat × Nat)
  consumed : List (Nat × Hm)
  journal : List CallRec
  torn : List (Nat × CopyCmd)
  tornMtx : List (Nat × MtxCmd)
  lines : Tab Line
  shadows : Tab Shadow
  stores : List PendStore
  ctxtab : DWord
  keysel : BitVec 13
  keys : Tab (BitVec 128)
  descs : Tab Desc
  ended : List Nat
  racechk : Bool
  wpa : Tab DWord
  wpc : Tab Word
  courtTlb : Tab (List TlbEntry)
  courtCode : Tab (List CodeLine)
  courtQ : Tab (List Miss)
  walkers : Tab Miss
  walkNext : Nat
  walked : List WalkMark
  walkCache : List WalkPtr
  netTlb : List TlbEntry
  counters : Tab Counter
  queues : Tab Queue
  window : Tab DWord
  streams : Tab Stream
  aged : Nat
  placedAt : Option Nat
  launches : Tab Launch
  childSeq : Nat
  teams : Tab Team
  wgs : Tab Wg
  saved : List Saved
  units : Tab (Tab Word)
  host : HostSide
  qps : Tab QP
  memKeys : Tab MemKey
  netWait : List NetWait
  netOut : List NetOut
  netHeld : List NetPacket
  replay : Option Replay
  agenda : List Action
  fresh : Nat
  flitSeq : Nat
  unanswered : Nat
  refusing : Nat
  stamp : Nat
  now : Nat
  iss : Iss
  deriving DecidableEq, Repr

/-- The model stops with a fault. -/
inductive Fault where
  /-- Raised by `step` where the agenda, which is the model's own, names an instruction where an event must stand: no
  run of the hardware reaches it. Safe: the model stops and claims nothing of the hardware. -/
  | badAgenda
  deriving DecidableEq, Repr

/-- The model gives no meaning. -/
inductive Refusal where
  /-- Raised by `exec` for an instruction that has no meaning yet, by its mnemonic. Safe: the model claims nothing. -/
  | notModelled (mnemonic : String)
  deriving DecidableEq, Repr

/-! ## Reset -/

/-- A latch that nothing has written (R128). -/
def Latch.empty : Latch := { vals := [], hist := [], valid := false }

/-- A quarter that has issued nothing. -/
def Quarter.reset : Quarter :=
  { latches := [Latch.empty, Latch.empty, Latch.empty, Latch.empty], run := none, prevHm := none, prevUmpire := false,
    frozen := none }

/-- A warp slot that no workgroup holds. -/
def Slot.empty : Slot :=
  { wg := none, widx := 0, threads := [], vmap := [], cells := [], sregs := [], lastRun := none, loads := [],
    homeS := none, latches := [], runRecs := 0, syncDue := 0xFFFFFFFF, rbSync := 0, syncMore := false }

/-- The page-map entries of pages 60 to 63 at reset (R110): HM 0x2000, KIND 10, OWN 16, IDX 0 to 3. -/
def umpirePage (idx : Nat) : Word :=
  BitVec.ofNat 32 (0x2000 * 2 ^ 18 + 16 * 2 ^ 13 + 2 * 2 ^ 11 + idx * 2 ^ 5)

/-- A core at reset. -/
def Core.reset : Core :=
  { slots := [], quarters := [], pool := [],
    pageMap := [(60, umpirePage 0), (61, umpirePage 1), (62, umpirePage 2), (63, umpirePage 3)],
    cleanPool := [], cleanBuf := [], accown := [], buf := [], resvs := [], copyQ := [], mtxQ := [], dugout := [], dgSel := 0, engFaults := [],
    drainFaults := [], netFaults := [], hmark := devHm, savebase := 0, trcctl := 0, trcOff := 0, trcDrop := 0,
    trcOwed := 0, dbgSel := 0, acfg := [], acnt := [], pins := [], tlb := [], icache := [], l1 := [], rel := [], cyc := 0,
    fenced := false, mismatches := [], events := [], rid := 0, pageReqs := [], dealt := [], faultSeq := [], sampleNext := 0, umpRows := [] }

/-- A launch queue at reset (R205). -/
def Queue.reset : Queue :=
  { errc := 0, errs := 0, err := false, next := 0, head := 0, tail := 0, count := 0 }

/-- The host-facing registers at reset (R435, R438, R451, R454, R459); values the manual does not give are those of
log entry 2. -/
def HostSide.reset : HostSide :=
  { devno := 0, leaseRej := 0, leasePeriod := 1000, leaseTko := false, leaseEn := false, leaseAct := 0,
    leaseSince := 0, cntbase := 0, obase := 0, osize := 0, ohead := 0, otail := 0, ibase := 0, isize := 0, ihead := 0,
    itail := 0, outSeq := 0, outHeld := [], outRing := [], msix := [], hwin := [], admits := [], portst := [],
    portWidth := [], portErr := [], tweak := 0, portsUp := [0, 1], hostOut := [], uatinOut := [], uatinSent := [], bootStage := 0, bootFails := 0, bootMin := false, bootOk := false,
    bootStopped := false, bootAt := 0, reason := [], flctl := 0, flRun := none, fladdr := 0, flbuf := [],
    flash := [], firmware := none, measure := [], plim := 1600, throttle := 0, slow := 0, coolSince := 0, calmSince := 0,
    swept := 0, temp := 0,
    unitDown := [] }

/-- The machine right after reset (spec/17, R449): nothing runs before the boot ROM has started Ninal. -/
def State.reset : State :=
  { cores := [], mem := [], seals := [], poison := [], hbmBad := [], badPages := [], metPages := [], consumed := [], journal := [], torn := [], tornMtx := [], lines := [], shadows := [], stores := [], ctxtab := 0,
    keysel := 0, keys := [], descs := [], ended := [], racechk := false, wpa := [], wpc := [], courtTlb := [],
    courtCode := [],
    courtQ := [], walkers := [], walkNext := 0, walked := [], walkCache := [], netTlb := [], counters := [], queues := [],
    window := [], streams := [], aged := 0, placedAt := none, launches := [], childSeq := 0, teams := [], wgs := [], saved := [], units := [],
    host := HostSide.reset, qps := [], memKeys := [], netWait := [], netOut := [], netHeld := [], replay := none, agenda := [], fresh := 0,
    flitSeq := 0, unanswered := 0, refusing := 0, stamp := 0, now := 0, iss := { core := 0, quarter := 0, slot := 0, lanes := 0, pc := 0 } }

end Sys2Proof.Machine
end

