-- ==== Sys2Proof/Machine/Mem.lean ====
section
/-!
DEFINITION. Main memory (spec/02): bytes by physical address, the regions that back them, the key under which each sector
of local HBM was written, and poison; the cores by number; and the arithmetic clock.
-/

namespace Sys2Proof.Machine

/-! ## Bytes -/

/-- The byte at an address; an unlisted address reads 0 (log entry 3). -/
def readByte (m : List Host.Cell) (a : Nat) : Byte := Tab.getD m a 0

/-- Write one byte; an address that reads 0 is not listed. -/
def writeByte (m : List Host.Cell) (a : Nat) (b : Byte) : List Host.Cell :=
  if b = 0 then Tab.del m a else Tab.set m a b

/-- `n` bytes from an address, lowest first. -/
def readBytes (m : List Host.Cell) (a : Nat) : Nat → List Byte
  | 0 => []
  | n + 1 => readByte m a :: readBytes m (a + 1) n

/-- Write bytes from an address on. -/
def writeBytes (m : List Host.Cell) (a : Nat) : List Byte → List Host.Cell
  | [] => m
  | b :: r => writeBytes (writeByte m a b) (a + 1) r

/-- The canonical form of memory: addresses rise, and no entry equals what an unlisted address reads as. -/
def Memory.wf (m : List Host.Cell) : Bool := Tab.ordered m && m.all (fun c => c.2 != 0)

/-! ## Regions (R20 to R22) -/

/-- The size of local HBM (R21). -/
def localSize : Nat := 0x5968000000

/-- The physical address at which an access is performed: a remote address of this device is local HBM (R22); none
where no region backs it (R20). -/
def homeAddr (s : State) (pa : Nat) : Option Nat :=
  let r := pa / 2 ^ 48 % 16
  if r = 0 then (if pa % 2 ^ 48 < localSize then some (pa % 2 ^ 48) else none)
  else if r = 1 then some (pa % 2 ^ 52)
  else if 8 ≤ r then
    if s.host.devno.getLsbD 12 then
      if pa / 2 ^ 39 % 2 ^ 12 = s.host.devno.toNat % 2 ^ 12 then
        (if pa % 2 ^ 39 < localSize then some (pa % 2 ^ 39) else none)
      else some (pa % 2 ^ 52)
    else none
  else none

/-- Local HBM, host memory, remote memory, by the home address. -/
def isLocal (a : Nat) : Bool := decide (a < 2 ^ 48)
def isHost (a : Nat) : Bool := decide (a / 2 ^ 48 = 1)
def isRemote (a : Nat) : Bool := decide (8 ≤ a / 2 ^ 48)

/-! ## Sectors and keys (R42 to R44) -/

/-- What a sector of local HBM reads as: its contents under the key it was written under, and a fixed undefined value
under any other (R44). `none` is the key of the device's own accesses (log entry 3). -/
def sectorView (s : State) (key : Option (BitVec 128)) (sec : Nat) : List Byte :=
  let stored := readBytes s.mem (16 * sec) 16
  let stale (written : Nat) (k : BitVec 128) : List Byte :=
    bytesOf 16 (Config.staleSector s.host.tweak written (BitVec.ofNat 128 (natOf stored)) sec k).toNat
  match key, Tab.get? s.seals sec with
  | none, some .device => stored
  | none, some (.key k') => stale (k'.toNat + 2) Config.deviceKey
  | none, none => stale 0 Config.deviceKey
  | some k, some (.key k') => if k' = k then stored else stale (k'.toNat + 2) k
  | some k, some .device => stale 1 k
  | some k, none => stale 0 k

/-- `n` bytes of local HBM from an address under a key, sector by sector. -/
def localView (s : State) (key : Option (BitVec 128)) (a : Nat) : Nat → List Byte
  | 0 => []
  | n + 1 => ((sectorView s key (a / 16)).getD (a % 16) 0) :: localView s key (a + 1) n

/-- The seal that a write leaves on a sector. -/
def sealOf : Option (BitVec 128) → Seal
  | some k => .key k
  | none => .device

/-- Whether an address lies in the firmware region, which stays read-only (R450). -/
def inFirmware (s : State) (a : Nat) : Bool :=
  match s.host.firmware with
  | some (b, n) => decide (b ≤ a ∧ a < b + n)
  | none => false

/-- Whether a sector holds a byte of the firmware region: writes to it are dropped, whole sectors (log entry 14). -/
def locked (s : State) (a : Nat) : Bool :=
  match s.host.firmware with
  | some (b, n) => decide (b < 16 * (a / 16) + 16 ∧ 16 * (a / 16) < b + n)
  | none => false

/-- Write bytes that lie in one sector of local HBM: the sector's other bytes keep what the writer's key reads there,
and a write of all 16 bytes clears its poison (R49, R256). -/
def writeInSector (s : State) (key : Option (BitVec 128)) (a : Nat) (bs : List Byte) : State :=
  let sec := a / 16
  if locked s a then s
  else
    { s with
      mem := writeBytes (if bs.length = 16 then s.mem else writeBytes s.mem (16 * sec) (sectorView s key sec)) a bs
      seals := Tab.set s.seals sec (sealOf key)
      poison := if bs.length = 16 then Tab.del s.poison sec else s.poison }

/-- Whether some byte of an access lies in a poisoned sector. -/
def isPoisoned (s : State) (a n : Nat) : Bool :=
  (List.range ((a % 16 + n + 15) / 16)).any (fun i => (Tab.get? s.poison (a / 16 + i)).isSome)

/-- The first poisoned sector that an access touches, or its first one where none is (R259, R261). -/
def poisonAt (s : State) (a n : Nat) : Nat :=
  16 * (((List.range ((a % 16 + n + 15) / 16)).map (a / 16 + ·)).find? (fun x => (Tab.get? s.poison x).isSome)).getD (a / 16)

/-! ## The lease (R438, R439) -/

/-- The length of a lease period, and how many periods have ended without a RENEW: at the end of each the lease passes to
the other port. -/
def leaseLen (s : State) : Nat := s.host.leasePeriod.toNat * 850000
def leaseTurns (s : State) : Nat := if s.host.leaseEn then (s.now - s.host.leaseSince) / leaseLen s else 0

/-- Whether a period has ended without a RENEW. -/
def leaseDue (s : State) : Bool := decide (0 < leaseTurns s)

/-- The port that has the lease after some number of expiries. -/
def afterTurns (act : Bit) (n : Nat) : Bit := if n % 2 = 1 then ~~~act else act

/-- The port that holds the lease now, to which interrupts go (R442). -/
def actPort (s : State) : Bit := afterTurns s.host.leaseAct (leaseTurns s)

/-! ## The arithmetic clock (R17, R457) -/

/-- Whether the cores stand still: the arithmetic clock is stopped in T4, once every team is saved (R458); or the boot ROM has
stopped in minimal mode (R452). -/
def clockStopped (s : State) : Bool := (s.host.throttle == 4 && s.teams.isEmpty) || s.host.bootStopped

/-- The arithmetic clock in MHz (R457): T4 runs at T3's clock until it stops (R458). -/
def clockMhz (s : State) : Nat :=
  if clockStopped s then 0
  else match s.host.throttle with
    | 0 => 850
    | 1 => 765
    | 2 => 680
    | _ => 425

/-- The cycles of the arithmetic clock up to now. `slow` counts what a slower clock has missed, in units of 1/850 of a
cycle of 850 MHz. -/
def clock (s : State) : Nat := (850 * s.now - s.host.slow) / 850

/-! ## Cores -/

/-- A core, at reset where nothing has touched it. -/
def coreAt (s : State) (c : Nat) : Core := Tab.getD s.cores c Core.reset

/-- Put a core back. -/
def setCore (s : State) (c : Nat) (k : Core) : State := { s with cores := Tab.set s.cores c k }

/-- Change a core. -/
def modCore (s : State) (c : Nat) (f : Core → Core) : State := setCore s c (f (coreAt s c))

/-- Change every core that holds something. -/
def mapCores (s : State) (f : Core → Core) : State := { s with cores := s.cores.map (fun e => (e.1, f e.2)) }

end Sys2Proof.Machine
end

