-- ==== Sys2Proof/Machine/Lines.lean ====
section
/-!
DEFINITION. The lines held on the die (spec/03, R48 to R56): the L1 data caches, the L2 with its directory entries, and
the instruction caches; reads and writes at a home address, and the device's own accesses.
-/

namespace Sys2Proof.Machine

/-! ## Homes (R23) -/

/-- The home stack of an address, and the slice that holds its line. -/
def homeStack (a : Nat) : Nat := (a / 2 ^ 6 % 8) ^^^ (a / 2 ^ 13 % 8) ^^^ (a / 2 ^ 20 % 8)
def homeSlice (a : Nat) : Nat := 8 * homeStack a + ((a / 2 ^ 9 % 8) ^^^ (a / 2 ^ 16 % 8) ^^^ (a / 2 ^ 23 % 8))

/-- Count an event of a unit that is not a core (R289, R290). -/
def countUnit (s : State) (u e n : Nat) : State :=
  let t := Tab.getD s.units u []
  { s with units := Tab.set s.units u (Tab.set t e (BitVec.ofNat 32 (min ((Tab.getD t e 0).toNat + n) 0xFFFFFFFF))) }

/-- Count an event of the slice that holds a line, and one of its home stack where it is local (R290). -/
def countSlice (s : State) (ln e n : Nat) : State := countUnit s (192 + homeSlice (64 * ln)) e n
def countStack (s : State) (ln e n : Nat) : State :=
  if isLocal (64 * ln) then countUnit s (256 + homeStack (64 * ln)) e n else s

/-! ## Sectors and dirty bytes of a line (R48) -/

/-- The dirty mask of `n` bytes from an address, within its line. -/
def lineMask (a n : Nat) : BitVec 64 := BitVec.ofNat 64 ((2 ^ n - 1) * 2 ^ (a % 64))

/-- The sectors that `n` bytes from an address touch, within their line. -/
def sectorBits (a n : Nat) : BitVec 4 :=
  BitVec.ofNat 4 ((List.range 4).foldl (fun m i =>
    if 16 * i < a % 64 + n ∧ a % 64 < 16 * i + 16 then m + 2 ^ i else m) 0)

/-- The bytes of some sectors of a line. -/
def sectorBytes (m : BitVec 4) : BitVec 64 :=
  BitVec.ofNat 64 ((List.range 4).foldl (fun x i => if bitAt m i then x + 0xFFFF * 2 ^ (16 * i) else x) 0)

/-- The first sector of a mask, and how many sectors reach from it to the last. -/
def firstBit (m : BitVec 4) : Nat := ((List.range 4).find? (fun i => bitAt m i)).getD 0
def spanOf (m : BitVec 4) : Nat := (((List.range 4).filter (fun i => bitAt m i)).getLastD 0) + 1 - firstBit m

/-- The number of sectors in a mask. -/
def sectorCount (m : BitVec 4) : Nat := ((List.range 4).filter (fun i => bitAt m i)).length

/-- The sectors that hold a dirty byte. -/
def dirtySectors (d : BitVec 64) : BitVec 4 :=
  BitVec.ofNat 4 ((List.range 4).foldl (fun m i => if d.extractLsb' (16 * i) 16 != 0 then m + 2 ^ i else m) 0)

/-- Replace bytes of a list from a position on. -/
def patch (l : List Byte) (i : Nat) (bs : List Byte) : List Byte :=
  l.take i ++ bs ++ l.drop (i + bs.length)

/-- The bytes of a held copy that a mask names, over the home's bytes. -/
def mergeDirty (home copy : List Byte) (dirty : BitVec 64) : Nat → List Byte
  | 0 => []
  | n + 1 =>
    let i := 64 - (n + 1)
    (if dirty.getLsbD i then copy.getD i 0 else home.getD i 0) :: mergeDirty home copy dirty n

/-! ## The directory (R50) -/

/-- The instruction caches that hold a line: cores by number, courts from 192 on. The directory tracks them with the data
caches (R50, R55). -/
def codeHolders (s : State) (ln : Nat) : List Nat :=
  let has (l : List CodeLine) : Bool := l.any (fun x => x.line == ln)
  (s.cores.filter (fun e => has e.2.icache)).map Prod.fst ++ (s.courtCode.filter (fun e => has e.2)).map (fun e => 192 + e.1)

/-- The state of a line's directory entry: its holders are the data caches, the instruction caches and the network engine. -/
def Line.moesi (s : State) (ln : Nat) (l : Line) : Moesi :=
  let many := decide (1 < l.holders.length + (codeHolders s ln).length + (if l.net then 1 else 0))
  if l.dirty = 0 then (if many then .shared else .exclusive) else (if many then .owned else .modified)

/-- Recall a line from every L1 but one, and from the network engine (R49, R50). -/
def recallBut (s : State) (keep : Option Nat) (ln : Nat) : State :=
  match Tab.get? s.lines ln with
  | none => s
  | some l =>
    let gone := l.holders.filter (fun c => some c != keep)
    let s := { s with lines := Tab.set s.lines ln { l with holders := l.holders.filter (fun c => some c == keep), net := false } }
    if gone.isEmpty then s
    else
      gone.foldl (fun s c => modCore s c (fun k => { k with l1 := k.l1.filter (fun x => x.line != ln) }))
        (countSlice s ln 2 1)

/-- Whether the sector of an address is held in a core's L1, and in the L2. -/
def l1Sector (s : State) (c a : Nat) : Bool :=
  (coreAt s c).l1.any (fun x => x.line == a / 64 && bitAt x.valid (a / 16 % 4))
def l2Sector (s : State) (a : Nat) : Bool :=
  match Tab.get? s.lines (a / 64) with
  | some l => bitAt l.valid (a / 16 % 4)
  | none => false

/-- The carrier code of a poisoned sector that a core reads, by where it lies (R259, log entry 21). -/
def carrierOf (s : State) (c : Option Nat) (a : Nat) : Byte :=
  if c.any (fun c => l1Sector s c a) then 0x01
  else if l2Sector s a then 0x02
  else if isRemote a then 0x05
  else if isHost a then 0x04
  else 0x03

/-- The fabric port of a remote address: the part's routing tables give it (log entry 9). -/
def routePort (a : Nat) : Nat := (Config.freeBits 6 (2 ^ 40 + a / 2 ^ 39 % 2 ^ 12)).toNat % 36

/-- LOC of a report about a sector: core, L2 slice, stack or port, as the carrier implies (R261). -/
def sectorLoc (c : Option Nat) (port : Bit) (carrier : Byte) (a : Nat) : Nat :=
  if carrier = 1 then c.getD 0xFF
  else if carrier = 2 then homeSlice a
  else if carrier = 3 then homeStack a
  else if carrier = 4 then 36 + port.toNat
  else routePort a

/-- Whether the fabric's routing tables are being reset (R260). -/
def routingDown (s : State) : Bool := s.host.unitDown.getD 0 false

/-! ## The links (R290, R434, R443, R444) -/

/-- The flits that a transaction fills at a port, sent and received, and a host link's retries: the packing of transactions
into flits is not fixed, so their numbers are free values (log entry 9). -/
def countFlits (s : State) (u : Nat) : State :=
  let n (i : Nat) : Nat := (Config.flits (3 * s.flitSeq + i)).toNat
  let s := countUnit (countUnit s u 0 (n 0)) u 1 (n 1)
  { (if u < 300 then s else countUnit s u 2 (n 2)) with flitSeq := s.flitSeq + 1 }

/-- A transaction with the host goes over the port that holds the lease (R438). -/
def hostLink (s : State) : State := countFlits s (300 + (actPort s).toNat)

/-- Whether some bytes of a mask lie in a poisoned sector of a line: the poison bit of the data (R256, R444). -/
def maskPoisoned (s : State) (ln : Nat) (mask : DWord) : Bool :=
  (List.range 4).any (fun i => bitAt (dirtySectors mask) i && (Tab.get? s.poison (4 * ln + i)).isSome)

/-- Whether the port of a remote address carries load-store traffic: it is up, in Uatin or UALink mode (R443). -/
def carries (s : State) (a : Nat) : Bool :=
  match Tab.getD s.host.portst (routePort a) .down with
  | .uatin | .ualink => true
  | .down | .ethernet => false

/-- Send a transaction to the home of a remote address, with the access's hallmark, or without one where the port is in
UALink mode (R444, R446); over a port that carries no such traffic nothing goes. -/
def sendUatin (s : State) (hm : Hm) (op : UatinOp) (a size : Nat) (mask : DWord) (data : List Byte) : State :=
  if !carries s a then s
  else
  let p := routePort a
  let s := countFlits s (264 + p)
  { s with host := { s.host with uatinSent := s.host.uatinSent ++ [{
      dest := BitVec.ofNat 12 (a / 2 ^ 39), src := s.host.devno.setWidth 12, hm := if Tab.getD s.host.portst p .down == .ualink then none else some hm,
      op := op, addr := BitVec.ofNat 39 a, size := size, mask := mask, data := data,
      tag := BitVec.ofNat 16 s.host.uatinSent.length, poison := op == .write && maskPoisoned s (a / 64) mask }] } }

/-- Read bytes from where they lie beyond the caches: local HBM, the host, or another device (R54, R434, R444). -/
def fetchHome (s : State) (hm : Hm) (a n : Nat) : State :=
  if isRemote a then sendUatin s hm .read a n 0 []
  else if isHost a then hostLink s
  else countStack s (a / 64) 0 (sectorCount (sectorBits a n))

/-- Write the bytes of a line that a mask names to where they lie. -/
def storeHome (s : State) (hm : Hm) (ln : Nat) (mask : DWord) (data : List Byte) : State :=
  if isRemote (64 * ln) then sendUatin s hm .write (64 * ln) 64 mask data
  else if isHost (64 * ln) then hostLink s
  else countStack s ln 1 (sectorCount (dirtySectors mask))

/-- Whether an access to a remote address must ask its home: it is uncached, or no line of its hallmark holds it (R54). -/
def remoteAsks (s : State) (hm : Hm) (uncached : Bool) (a n : Nat) : Bool :=
  isRemote a && (uncached ||
    !(match Tab.get? s.lines (a / 64) with
      | some l => l.hm == hm && sectorBits a n &&& ~~~l.valid == 0
      | none => false))

/-- The request by which a read asks the home of a remote address: for the bytes, or for the sectors that no line of its
hallmark holds (R444). -/
def askRead (s : State) (hm : Hm) (uncached : Bool) (a n : Nat) : State :=
  if uncached then fetchHome s hm a n
  else
    let new := sectorBits a n &&& ~~~(match Tab.get? s.lines (a / 64) with
      | some l => if l.hm == hm then l.valid else 0
      | none => 0)
    fetchHome s hm (a / 64 * 64 + 16 * firstBit new) (16 * spanOf new)

/-- What becomes of a read or an atomic of a remote address other than its answer: it waits while the routing tables are
being reset (R260) or its port carries no such traffic (R443), its target refuses it, or no answer comes for 100 µs (R445);
`refusing` and `unanswered` mark the last two, until the next stamp. -/
inductive RemoteEnd where
  | answered | waits | refused | timedOut
  deriving DecidableEq, Repr

def remoteEnd (s : State) (hm : Hm) (uncached : Bool) (a n : Nat) : RemoteEnd :=
  if !remoteAsks s hm uncached a n then .answered
  else if routingDown s then .waits
  else if s.refusing == s.stamp + 1 && carries s a then .refused
  else if s.unanswered == s.stamp + 1 then .timedOut
  else if !carries s a then .waits
  else .answered

/-- Another device refuses the next remote read or atomic that asks it (R445; log entry 54). -/
def refuseNext (s : State) : State := { s with refusing := s.stamp + 1 }

/-- Another device changes a byte of its own memory, at its remote address here (R22, R54): what this device's L2 holds of it
stays until an acquire (R81, its test REM); a store of this device that is then lost leaves that byte (log entry 8). -/
def changeRemote (s : State) (a : BitVec 52) (x : Byte) : State :=
  if homeAddr s a.toNat = some a.toNat ∧ isRemote a.toNat = true then
    { s with
      mem := writeByte s.mem a.toNat x
      stores := s.stores.map (fun p =>
        if p.addr ≤ a.toNat ∧ a.toNat < p.addr + p.old.length then { p with old := p.old.set (a.toNat - p.addr) x } else p) }
  else s

/-! ## The L2 (R50, R51, R53, R54) -/

/-- Memory once a held line's dirty bytes have been written back: a remote line's land where their port carries them (R443), and
those of a line without bytes of its own stand there already. -/
def landed (s : State) (ln : Nat) (l : Line) : List Host.Cell :=
  match l.copy with
  | none => s.mem
  | some c =>
    if carries s (64 * ln) then writeBytes s.mem (64 * ln) (mergeDirty (readBytes s.mem (64 * ln) 64) c l.dirty 64) else s.mem

/-- Write back a held line's dirty sectors, or the dirty bytes of a remote line, to its home (R48, R54); the line stays,
clean. -/
def writeBackLine (s : State) (ln : Nat) : State :=
  match Tab.get? s.lines ln with
  | none => s
  | some l =>
    if l.dirty = 0 then s
    else
      let s := storeHome (countSlice s ln 3 1) l.hm ln l.dirty (l.copy.getD [])
      let s := { s with mem := landed s ln l }
      let s := l.holders.foldl (fun s c => modCore s c (fun k =>
        { k with l1 := k.l1.map (fun x => if x.line = ln then { x with dirty := 0 } else x) })) s
      { s with
        lines := Tab.set s.lines ln { l with dirty := 0 }
        hbmBad := ((List.range 4).filter (fun i => bitAt (dirtySectors l.dirty) i)).foldl (fun t i => Tab.del t (4 * ln + i))
          s.hbmBad }

/-- The sectors of a line that were found bad in HBM beneath it are poisoned once the die no longer holds them (R255). -/
def surface (s : State) (ln : Nat) (secs : BitVec 4) : State :=
  let mine := (((List.range 4).filter (bitAt secs)).map (4 * ln + ·)).filter (fun x => (Tab.get? s.hbmBad x).isSome)
  if mine.isEmpty then s
  else
    { s with
      hbmBad := mine.foldl Tab.del s.hbmBad
      poison := mine.foldl (fun t x => Tab.set t x true) s.poison }

/-- Drop instruction lines from every core and court. -/
def dropCode (s : State) (gone : CodeLine → Bool) : State :=
  { mapCores s (fun k => { k with icache := k.icache.filter (fun x => !gone x) }) with
    courtCode := s.courtCode.map (fun e => (e.1, e.2.filter (fun x => !gone x))) }

/-- A line leaves every instruction cache: a store invalidates it there, and so does its leaving the L2 (R50, R55). -/
def dropICache (s : State) (ln : Nat) : State :=
  { mapCores s (fun k => { k with icache := k.icache.filter (fun x => x.line != ln) }) with
    courtCode := s.courtCode.map (fun e => (e.1, e.2.filter (fun x => x.line != ln))) }

/-- Forget a line without writing it back: no instruction cache keeps it (R50), the shadow records of its sectors are lost
(R80), and what was bad beneath it shows (R255). -/
def forgetLine (s : State) (ln : Nat) : State :=
  let s := dropICache s ln
  surface { s with lines := Tab.del s.lines ln, shadows := s.shadows.filter (fun e => e.1 / 4 != ln) } ln 0xF

/-- Recall, write back and drop a line (R50, R51). -/
def dropLine (s : State) (ln : Nat) : State := forgetLine (writeBackLine (recallBut s none ln) ln) ln

/-- The lines that one slice of the L2 holds: 2 MiB (R1). -/
def sliceLines : Nat := 32768

/-- Make room for a line in its slice: where the slice is full it evicts a line, a free choice; a line of host memory, for
which no rule names a slice, has the one that R23's hash of its address gives (log entry 7). -/
def makeRoom (s : State) (ln : Nat) : State :=
  let mine := (s.lines.filter (fun e => homeSlice (64 * e.1) = homeSlice (64 * ln))).map Prod.fst
  if mine.length < sliceLines then s
  else dropLine { s with fresh := s.fresh + 1 } (mine.getD (Config.pick s.fresh % mine.length) 0)

/-- Whether a held line serves an access: a local line under the same key index (R51); a remote line under the same
hallmark, so that each hallmark's acquires and releases find its own lines (R54, log entry 8). -/
def Line.serves (l : Line) (hm : Hm) (key : Option (BitVec 13)) (a : Nat) : Bool :=
  if isRemote a then l.hm == hm else l.key == key

/-- Hold the line of an address under a hallmark and key index: one held under another is written back and dropped
first (R51). -/
def openLine (s : State) (hm : Hm) (key : Option (BitVec 13)) (a : Nat) : State :=
  let ln := a / 64
  let s := match Tab.get? s.lines ln with
    | some l => if l.serves hm key a then s else dropLine s ln
    | none => s
  if (Tab.get? s.lines ln).isSome then s
  else
    let s := makeRoom s ln
    let l : Line :=
      { hm := hm, key := key, valid := 0, dirty := 0, copy := if isRemote a then some (List.replicate 64 0) else none,
        port := actPort s, holders := [], net := false, under := List.replicate 64 0 }
    { s with lines := Tab.set s.lines ln l }

/-- Fill the sectors that an access touches (R48): a remote line takes its home's bytes there, under its own dirty
ones. -/
def fillLine (s : State) (hm : Hm) (key : Option (BitVec 13)) (a n : Nat) : State :=
  let ln := a / 64
  let s := openLine s hm key a
  match Tab.get? s.lines ln with
  | none => s
  | some l =>
    let secs := sectorBits a n
    let new := secs &&& ~~~l.valid
    let s := countSlice (countSlice s ln 0 (sectorCount (secs &&& l.valid))) ln 1 (sectorCount new)
    if new = 0 then s
    else
      let s := if isLocal a then countStack s ln 0 (sectorCount new)
        else fetchHome s hm (64 * ln + 16 * firstBit new) (16 * spanOf new)
      let fetched := sectorBytes new &&& ~~~l.dirty
      let l : Line :=
        { l with
          hm := hm
          valid := l.valid ||| new
          copy := l.copy.map (fun c => mergeDirty c (readBytes s.mem (64 * ln) 64) fetched 64) }
      { s with lines := Tab.set s.lines ln l }

/-- Mark what an access wrote in a held line dirty: its sectors, or its bytes in a remote line, which they also change
there (R48, R54). A host line keeps its home's bytes under the sectors that become dirty, for its port's going down (R439). -/
def dirtyLine (s : State) (hm : Hm) (a : Nat) (bs : List Byte) : State :=
  { s with
    lines := Tab.adjust s.lines (a / 64) (fun l =>
      { l with
        hm := hm
        under := if isHost a then
            mergeDirty l.under (readBytes s.mem (64 * (a / 64)) 64) (sectorBytes (sectorBits a bs.length) &&& ~~~l.dirty) 64
          else l.under
        valid := if isRemote a then l.valid else l.valid ||| sectorBits a bs.length
        dirty := l.dirty ||| (if isRemote a then lineMask a bs.length else sectorBytes (sectorBits a bs.length))
        copy := l.copy.map (fun c => patch c (a % 64) bs) }) }

/-- The lines of some hallmarks that are remote. -/
def remoteLines (s : State) (p : Hm → Bool) : List Nat :=
  (s.lines.filter (fun e => p e.2.hm && isRemote (64 * e.1))).map Prod.fst

/-- An acquire at domain or system scope invalidates the hallmark's remote lines (R54). -/
def acquireRemote (s : State) (hm : Hm) : State := (remoteLines s (fun x => x == hm)).foldl dropLine s

/-- A release at domain or system scope writes back the hallmark's dirty remote bytes and waits for the
acknowledgements (R54): its remote stores are then performed at their homes. -/
def releaseRemote (s : State) (hm : Hm) : State :=
  let s := (remoteLines s (fun x => x == hm)).foldl writeBackLine s
  { s with stores := s.stores.filter (fun p => !(p.remote && p.hm == hm)) }

/-- Whether a release of a hallmark must wait: its remote bytes cannot reach their homes, nor be acknowledged, while the
routing tables are being reset (R54, R260) or their port carries no such traffic (R443). -/
def releaseStalls (s : State) (hm : Hm) : Bool :=
  let down (a : Nat) : Bool := routingDown s || !carries s a
  (remoteLines s (fun x => x == hm)).any (fun ln => down (64 * ln) && ((Tab.get? s.lines ln).map Line.dirty).getD 0 != 0) ||
    s.stores.any (fun p => p.remote && p.hm == hm && down p.addr)

/-- Every access of some hallmarks is complete at its home (R36). -/
def settleStores (s : State) (p : Hm → Bool) : State :=
  let s := (remoteLines s p).foldl writeBackLine s
  { s with stores := s.stores.filter (fun x => !p x.hm) }

/-- The dirty sectors of a held line lose their poison: they go without reaching their home. -/
def unpoisonDirty (s : State) (ln : Nat) (d : BitVec 64) : State :=
  { s with poison := ((List.range 4).filter (fun i => bitAt (dirtySectors d) i)).foldl (fun t i => Tab.del t (4 * ln + i)) s.poison }

/-- Sectors of a held line go without write-back: the dirty bytes of local HBM become undefined (R257), and those of host or
remote memory keep their home's value; a dirty sector's poison goes with it, and what was bad beneath shows. -/
def discardSectors (s : State) (ln : Nat) (secs : BitVec 4) : State :=
  match Tab.get? s.lines ln with
  | none => s
  | some l =>
    let d := l.dirty &&& sectorBytes secs
    let s' := unpoisonDirty s ln d
    let s' := surface { s' with
      lines := Tab.set s'.lines ln { l with dirty := l.dirty &&& ~~~d, valid := l.valid &&& ~~~secs } } ln secs
    if l.copy.isSome || d == 0 then s'
    else if isHost (64 * ln) then
      { s' with mem := writeBytes s.mem (64 * ln) (mergeDirty (readBytes s.mem (64 * ln) 64) l.under d 64) }
    else
      let free := bytesOf 64 (Config.freeBits 512 s.fresh).toNat
      { s' with
        fresh := s.fresh + 1
        mem := writeBytes s.mem (64 * ln) (mergeDirty (readBytes s.mem (64 * ln) 64) free d 64) }

/-- Drop a line without write-back (R257). -/
def discardLine (s : State) (ln : Nat) : State := forgetLine (discardSectors (recallBut s none ln) ln 0xF) ln

/-! ## The L1 data caches (R49, R56) -/

/-- Through what an access reaches memory: a core's L1 with a hint, the network engine, the line's home, or an atomic there
with its code and operand (R307). -/
inductive Door where
  | core (c : Nat) (hint : Hint)
  | net
  | home
  | atomic (code : BitVec 4) (data : List Byte)
  deriving DecidableEq, Repr

/-- The lines that an L1 data cache holds: 128 KiB (R1). -/
def l1Lines : Nat := 2048

/-- A core's L1 line for an address under a key index. -/
def l1Find (k : Core) (key : Option (BitVec 13)) (ln : Nat) : Option L1Line :=
  k.l1.find? (fun x => x.line == ln && x.key == key)

/-- Whether a core's L1 holds every sector that an access touches. -/
def l1Hit (s : State) (c : Nat) (key : Option (BitVec 13)) (a n : Nat) : Bool :=
  match l1Find (coreAt s c) key (a / 64) with
  | some x => sectorBits a n &&& ~~~x.valid == 0
  | none => false

/-- The line that leaves a full L1 (R56, R370; log entry 7): no pinned one, the oldest marked `.ef`, then the oldest that
is not marked `.kp`, then the oldest. -/
def l1Victim (k : Core) : Option Nat :=
  let free := k.l1.filter (fun x => !(k.pins.any (fun p => p.2 == x.line)))
  let last (p : L1Line → Bool) : Option Nat := ((free.filter p).getLast?).map L1Line.line
  (last (fun x => x.hint == .ef)).orElse (fun _ =>
    (last (fun x => x.hint != .kp)).orElse (fun _ => last (fun _ => true)))

/-- A line leaves a core's L1: its dirty sectors stand in the L2 (R49). -/
def l1Evict (s : State) (c ln : Nat) : State :=
  let s := modCore s c (fun k => { k with l1 := k.l1.filter (fun x => x.line != ln) })
  { s with lines := Tab.adjust s.lines ln (fun l => { l with holders := l.holders.filter (fun x => x != c) }) }

/-- Drop a context's own lines from a core's L1 without write-back (R253, R257): with their dirty sectors go the L2's. -/
def l1Discard (s : State) (c : Nat) (hm : Hm) : State :=
  ((coreAt s c).l1.filter (fun x => x.hm == hm)).foldl (fun s x => discardSectors (l1Evict s c x.line) x.line x.dirty) s

/-- Put sectors of a held line into a core's L1, newest first; the line carries the hallmark that last filled or wrote it
(R49). -/
def l1Put (s : State) (c : Nat) (hm : Hm) (key : Option (BitVec 13)) (hint : Hint) (ln : Nat) (secs dirty : BitVec 4) :
    State :=
  let k := coreAt s c
  let x := (l1Find k key ln).getD { line := ln, hm := hm, key := key, valid := 0, dirty := 0, hint := hint }
  let own := if secs &&& ~~~x.valid = 0 ∧ dirty = 0 then x.hm else hm
  let x := { x with hm := own, valid := x.valid ||| secs, dirty := x.dirty ||| dirty, hint := hint }
  let s := modCore s c (fun k => { k with l1 := x :: k.l1.filter (fun y => y.line != ln) })
  let s := { s with lines := Tab.adjust s.lines ln (fun l => { l with holders := insertNum c l.holders }) }
  if (coreAt s c).l1.length ≤ l1Lines then s
  else
    match l1Victim (coreAt s c) with
    | some v => l1Evict s c v
    | none => s

/-- What a read does to the caches (R49 to R56). -/
def cacheRead (s : State) (d : Door) (hm : Hm) (key : Option (BitVec 13)) (a n : Nat) : State :=
  match d with
  | .core c hint =>
    if isRemote a then fillLine s hm key a n
    else
      let held := (l1Find (coreAt s c) key (a / 64)).isSome
      let s := if l1Hit s c key a n then s else fillLine s hm key a n
      if hint = .l2 ∧ !held then s else l1Put s c hm key hint (a / 64) (sectorBits a n) 0
  | .net =>
    let s := fillLine s hm key a n
    { s with lines := Tab.adjust s.lines (a / 64) (fun l => { l with net := true }) }
  | .home | .atomic _ _ => fillLine s hm key a n

/-- What a write of bytes does to the caches (R49 to R56): the writer obtains the line alone, fetches a sector of it that
it writes in part, and holds it dirty. -/
def cacheWrite (s : State) (d : Door) (hm : Hm) (key : Option (BitVec 13)) (a : Nat) (bs : List Byte) : State :=
  let ln := a / 64
  if isRemote a then dirtyLine (openLine s hm key a) hm a bs
  else
    let whole := decide (a % 16 = 0 ∧ bs.length % 16 = 0)
    let held := match d with
      | .core c _ => l1Hit s c key a bs.length
      | _ => false
    let s := if whole || held then openLine s hm key a else fillLine s hm key a bs.length
    let s := recallBut s (match d with | .core c _ => some c | _ => none) ln
    let s := dirtyLine s hm a bs
    match d with
    | .core c hint =>
      if hint = .l2 ∧ (l1Find (coreAt s c) key ln).isNone then s
      else l1Put s c hm key hint ln (sectorBits a bs.length) (sectorBits a bs.length)
    | _ => s

/-! ## Instruction caches (R11, R55, R219) -/

/-- Put lines of code first into a cache of a capacity; the newest stay (log entry 7). -/
def addCode (l ls : List CodeLine) (cap : Nat) : List CodeLine := (ls ++ l.filter (fun x => !ls.contains x)).take cap

/-- The lines that a core's instruction cache holds (32 KiB), and a court's (512 KiB) (R1). -/
def coreCodeLines : Nat := 512
def courtCodeLines : Nat := 8192

/-- Whether a list of instruction lines holds one, under its key. -/
def holdsCode (l : List CodeLine) (x : CodeLine) : Bool := l.any (fun y => y.line == x.line && y.key == x.key)

/-- One line of code arrives at a core (R11, R219): from its court's cache where that holds it, else from the L2, into the
court's and the core's instruction caches; a remote line stays in the L2 alone (R54). -/
def fillCodeLine (s : State) (c : Nat) (x : CodeLine) : State :=
  let court := Tab.getD s.courtCode (c / 8) []
  let s := if holdsCode court x then s else fillLine s x.hm x.key (64 * x.line) 64
  if isRemote (64 * x.line) then s
  else
    modCore { s with courtCode := Tab.set s.courtCode (c / 8) (addCode (Tab.getD s.courtCode (c / 8) []) [x] courtCodeLines) } c
      (fun k => { k with icache := addCode k.icache [x] coreCodeLines })

/-- Lines of code arrive at a core. -/
def fillCode (s : State) (c : Nat) (ls : List CodeLine) : State := ls.foldl (fun s x => fillCodeLine s c x) s

/-- Whether a fetch of a line finds it without a wait: in the core's instruction cache, or for a remote line in the L2. -/
def codeHeld (s : State) (c : Nat) (x : CodeLine) : Bool :=
  if isRemote (64 * x.line) then
    (match Tab.get? s.lines x.line with
     | some l => l.serves x.hm x.key (64 * x.line) && l.valid == 15
     | none => false)
  else holdsCode (coreAt s c).icache x

/-! ## Reads and writes at a home address -/

/-- An uncached read, or a remote atomic, at the home: the line is recalled and dropped first (R52, R54; log entry 39). -/
def askHome (s : State) (d : Door) (hm : Hm) (a n : Nat) : State :=
  let s := dropLine s (a / 64)
  match d with
  | .atomic code x => if isRemote a then sendUatin s hm (.atomic code) a n 0 x else fetchHome s hm a n
  | _ => fetchHome s hm a n

/-- An uncached write at the home; a remote atomic's has gone with its request. -/
def tellHome (s : State) (d : Door) (hm : Hm) (a : Nat) (bs : List Byte) : State :=
  let s := dropLine s (a / 64)
  match d with
  | .atomic _ _ =>
    if isRemote a then s else storeHome s hm (a / 64) (lineMask a bs.length) (patch (List.replicate 64 0) (a % 64) bs)
  | _ => storeHome s hm (a / 64) (lineMask a bs.length) (patch (List.replicate 64 0) (a % 64) bs)

/-- A read that is no load of a core's reads what memory holds: the pending stores of its bytes are performed for every thread
(R66, R67; log entry 8). -/
def readHere (s : State) (d : Door) (a n : Nat) : State :=
  { s with stores := match d with
      | .core _ _ => s.stores
      | _ => s.stores.map (fun p =>
        if p.addr < a + n ∧ a < p.addr + p.before.length then { p with done := some (p.done.getD s.now) } else p) }

/-- A read of some workgroups' that takes what memory holds: the pending stores of its bytes are performed for every thread, and
these workgroups read them from now on (R65, R66; log entry 8). -/
def readNewest (s : State) (hs : List Nat) (a n : Nat) : State :=
  { s with stores := s.stores.map (fun p =>
      if p.addr < a + n ∧ a < p.addr + p.before.length then
        { p with done := some (p.done.getD s.now), seen := hs.filter (fun h => !p.seen.contains h) ++ p.seen }
      else p) }

/-- A write lies above the pending stores of its bytes: every thread that does not read it reads them (R65; log entry 8). -/
def writeOver (s : State) (a n : Nat) : State :=
  { s with stores := s.stores.map (fun p =>
      if p.addr < a + n ∧ a < p.addr + p.before.length then { p with done := some 0 } else p) }

/-- The bytes of an access at a home address, under a hallmark and key; the line is filled unless the access is
uncached, which recalls and drops it (R49 to R54; log entry 39). The bytes lie in one line. -/
def homeRead (s : State) (d : Door) (hm : Hm) (kidx : Option (BitVec 13)) (key : Option (BitVec 128)) (uncached : Bool)
    (a n : Nat) : List Byte × State :=
  let s := readHere s d a n
  let s := if uncached then askHome s d hm a n else cacheRead s d hm kidx a n
  if isLocal a then (localView s key a n, s)
  else
    match (Tab.get? s.lines (a / 64)).bind Line.copy with
    | some c => ((c.drop (a % 64)).take n, s)
    | none => (readBytes s.mem a n, s)

/-- The bytes of a list that fall in each sector in turn: (address, bytes). -/
def sectorPieces (a : Nat) (bs : List Byte) : Nat → List (Nat × List Byte)
  | 0 => []
  | fuel + 1 =>
    match bs with
    | [] => []
    | _ :: _ =>
      let k := 16 - a % 16
      (a, bs.take k) :: sectorPieces (a + k) (bs.drop k) fuel

/-- The poison that a write leaves: a write of all 16 bytes of a sector clears it (R256). -/
def clearPoison (s : State) (a : Nat) (bs : List Byte) : State :=
  { s with
    poison := (sectorPieces a bs bs.length).foldl
      (fun t p => if p.2.length = 16 then Tab.del t (p.1 / 16) else t) s.poison }

/-- Write bytes at a home address none of whose sectors is locked. -/
def homeWriteOpen (s : State) (d : Door) (hm : Hm) (kidx : Option (BitVec 13)) (key : Option (BitVec 128)) (uncached : Bool)
    (a : Nat) (bs : List Byte) : State :=
  let s := dropICache s (a / 64)
  let s := if uncached then tellHome s d hm a bs else cacheWrite s d hm kidx a bs
  if isLocal a then (sectorPieces a bs bs.length).foldl (fun s p => writeInSector s key p.1 p.2) s
  else
    let s := clearPoison s a bs
    if isRemote a && !(uncached && carries s a) then s else { s with mem := writeBytes s.mem a bs }

/-- Write bytes at a home address, under a hallmark and key. The bytes lie in one line; those that fall in sectors of the
firmware region are dropped (R450). -/
def homeWrite (s : State) (d : Door) (hm : Hm) (kidx : Option (BitVec 13)) (key : Option (BitVec 128)) (uncached : Bool)
    (a : Nat) (bs : List Byte) : State :=
  let s := writeOver s a bs.length
  let ps := sectorPieces a bs bs.length
  if ps.any (fun p => locked s p.1) then
    (ps.filter (fun p => !locked s p.1)).foldl (fun s p => homeWriteOpen s d hm kidx key uncached p.1 p.2) s
  else homeWriteOpen s d hm kidx key uncached a bs

/-! ## The device's own accesses: physical, under its own key, hallmark 0x2000 (R253, log entry 3) -/

/-- `n` bytes at a physical address of local HBM or host memory; an unbacked address reads 0. -/
def devRead (s : State) (pa n : Nat) : List Byte :=
  match homeAddr s pa with
  | some a => if isLocal a then localView s none a n else readBytes s.mem a n
  | none => List.replicate n 0

/-- An 8-byte word at a physical address. -/
def devWord (s : State) (pa : Nat) : DWord := BitVec.ofNat 64 (natOf (devRead s pa 8))

/-- The device's own write in one sector of local HBM; a whole sector is good again (R255). -/
def devSector (s : State) (a : Nat) (bs : List Byte) : State :=
  let s := writeInSector s none a bs
  { s with hbmBad := if bs.length = 16 then Tab.del s.hbmBad (a / 16) else s.hbmBad }

/-- An access of the device's own at a home address counts where the bytes lie (R290): `e` is 0 for a read, 1 for a write. -/
def ownTraffic (s : State) (a n e : Nat) : State :=
  if isHost a then (List.range ((a % 64 + n + 63) / 64)).foldl (fun s _ => hostLink s) s
  else (List.range ((a % 16 + n + 15) / 16)).foldl (fun s i => countStack s ((a / 16 + i) / 4) e 1) s

/-- Write at a physical address under the device's own key. -/
def devWrite (s : State) (pa : Nat) (bs : List Byte) : State :=
  match homeAddr s pa with
  | some a =>
    let s := ownTraffic (dropICache (writeOver s a bs.length) (a / 64)) a bs.length 1
    if isLocal a then
      (sectorPieces a bs bs.length).foldl (fun s p => devSector s p.1 p.2) s
    else { clearPoison s a bs with mem := writeBytes s.mem a bs }
  | none => s

/-- Change a word that the device updates in place under the key its sector has: the walker's A and D bits (R30). -/
def devPatch (s : State) (pa : Nat) (bs : List Byte) : State :=
  match homeAddr s pa with
  | some a =>
    let s := ownTraffic s a bs.length 1
    if locked s a then s else { s with mem := writeBytes s.mem a bs }
  | none => s

end Sys2Proof.Machine
end

