-- ==== Sys2Proof/Machine/Xlate.lean ====
section
/-!
DEFINITION. Translation (spec/02, R24 to R41): context descriptors, the page-table walk, the TLBs and the walk cache.
A miss of a thread, a fetch, an engine or the network engine waits for a walker (R33, R34); an access by Ninal in a context walks
within its own step (log entry 6).
-/

namespace Sys2Proof.Machine

/-- Bits `lo` to `lo + n - 1` of a word, as a number. -/
def field {w : Nat} (x : BitVec w) (lo n : Nat) : Nat := x.toNat / 2 ^ lo % 2 ^ n

/-! ## Context descriptors (R38 to R41) -/

/-- A descriptor that is not valid. -/
def Desc.invalid : Desc :=
  { v := false, l5 := false, barmode := false, rchk := false, dbg := false, hold := false, pclass := 0, root := 0,
    kidx := 0, skidx := 0, skv := false, sigbase := 0, sigpc := 0, savebase := 0, jrnl := 0 }

/-- The reserved fields of a descriptor are zero and its bases aligned (R39, R40). -/
def descWellFormed (w : Nat → DWord) : Bool :=
  decide (field (w 0) 11 53 = 0 ∧ field (w 0) 6 2 = 0 ∧ field (w 1) 52 12 = 0 ∧ field (w 1) 0 12 = 0 ∧
    field (w 2) 30 34 = 0 ∧ field (w 2) 13 3 = 0 ∧ field (w 3) 57 7 = 0 ∧ field (w 3) 0 6 = 0 ∧
    field (w 4) 32 32 = 0 ∧ field (w 5) 57 7 = 0 ∧ field (w 5) 0 12 = 0 ∧ field (w 6) 52 12 = 0 ∧
    field (w 6) 0 12 = 0) && (List.range 25).all (fun i => w (7 + i) == 0)

/-- The first poisoned sector of a read of the device's own at a physical address (R256). -/
def poisonIn (s : State) (pa n : Nat) : Option Nat :=
  (homeAddr s pa).bind (fun a => ((List.range ((a % 16 + n + 15) / 16)).map (fun i => a / 16 * 16 + 16 * i)).find? (isPoisoned s · 1))

/-- A read of the device's own consumes the first poisoned sector that it meets, to be reported when the step ends (R256,
R261). -/
def consumeOwn (s : State) (pa n : Nat) : State :=
  let s := match homeAddr s pa with | some a => ownTraffic s a n 0 | none => s
  { s with consumed := s.consumed ++ (poisonIn s pa n).toList.map (fun a => (a, devHm)) }

/-- The descriptor that memory holds for a context (R38 to R40): a malformed or poisoned one is taken as V = 0. -/
def readDesc (s : State) (ctx : Nat) : Desc :=
  let base := s.ctxtab.toNat + 256 * ctx
  let w : Nat → DWord := fun i => devWord s (base + 8 * i)
  if descWellFormed w && !(poisonIn s base 256).isSome then
    { v := bitAt (w 0) 0, l5 := bitAt (w 0) 1, barmode := bitAt (w 0) 2, rchk := bitAt (w 0) 3, dbg := bitAt (w 0) 4,
      hold := bitAt (w 0) 5, pclass := (w 0).extractLsb' 8 3, root := field (w 1) 12 40 * 4096,
      kidx := (w 2).extractLsb' 0 13, skidx := (w 2).extractLsb' 16 13, skv := bitAt (w 2) 29,
      sigbase := (w 3).extractLsb' 0 57, sigpc := (w 4).extractLsb' 0 32, savebase := (w 5).extractLsb' 0 57,
      jrnl := (w 6).extractLsb' 0 52 }
  else Desc.invalid

/-- The key index that a context's descriptor in memory names, whatever its other fields hold (R38, R432). -/
def rawKidx (s : State) (ctx : Nat) : BitVec 13 := (devWord s (s.ctxtab.toNat + 256 * ctx + 16)).extractLsb' 0 13

/-- Whether a hallmark names a context (R38). -/
def isContext (hm : Hm) : Bool := decide (hm.toNat < 8192)

/-- A context's descriptor as the V9 holds it, or as memory holds it where it holds none; an ended context's is taken
as V = 0 (R40, R257). -/
def descOf (s : State) (hm : Hm) : Desc :=
  if !isContext hm || s.ended.contains hm.toNat then Desc.invalid
  else (Tab.get? s.descs hm.toNat).getD (readDesc s hm.toNat)

/-- Hold a context's descriptor (R40). The copy that is held serves until a TLBI or a placement, whatever software changes
in memory meanwhile (R41; log entry 40). -/
def holdDesc (s : State) (hm : Hm) : State :=
  if isContext hm && (Tab.get? s.descs hm.toNat).isNone then
    consumeOwn { s with descs := Tab.set s.descs hm.toNat (readDesc s hm.toNat) } (s.ctxtab.toNat + 256 * hm.toNat) 256
  else s

/-- Read a context's descriptor anew, as the placement of a team of it does (R40). -/
def refreshDesc (s : State) (hm : Hm) : State := holdDesc { s with descs := Tab.del s.descs hm.toNat } hm

/-- The descriptor as memory holds it now, for the fields that take effect without a TLBI (R209, R278). -/
def freshDesc (s : State) (hm : Hm) : Desc :=
  if !isContext hm || s.ended.contains hm.toNat then Desc.invalid else readDesc s hm.toNat

/-- The V9 reads a context's descriptor in memory: a poisoned one is consumed (R256). -/
def readDescHere (s : State) (hm : Hm) : State :=
  if isContext hm then consumeOwn s (s.ctxtab.toNat + 256 * hm.toNat) 256 else s

/-- The key of a key-table entry (R43); one that is not valid gives a free key. -/
def keyAt (s : State) (idx : BitVec 13) : BitVec 128 :=
  (Tab.get? s.keys idx.toNat).getD (Config.freeBits 128 idx.toNat)

/-- The key index and key that a leaf selects (R42); the device's own accesses have none. -/
def keyOf (s : State) (hm : Hm) (sk : Bool) : Option (BitVec 13) × Option (BitVec 128) :=
  if isContext hm then
    let d := descOf s hm
    let i := if sk then d.skidx else d.kidx
    (some i, some (keyAt s i))
  else (none, none)

/-- Canonical form (R24). -/
def canonical (va : DWord) (l5 : Bool) : Bool := decide (field va (if l5 then 57 else 48) (if l5 then 7 else 16) = 0)

/-! ## The walk (R26 to R31) -/

/-- The outcome of a translation that failed: cause and detail. -/
abbrev Outcome := Byte × Byte

/-- Whether a page table may lie at a base (R29). -/
def tableAt (s : State) (base : Nat) : Bool :=
  match homeAddr s base with
  | some a => isLocal a || isHost a
  | none => false

/-- The pointer that the walk cache holds for a level of an address (R32). -/
def cachedPtr (s : State) (hm : Hm) (level : Nat) (va : DWord) : Option Nat :=
  (s.walkCache.find? (fun p => decide (p.hm = hm ∧ p.level = level ∧ p.va = va.toNat / 2 ^ (12 + 9 * (level - 1))))).map
    WalkPtr.base

/-- Keep at most `cap` entries, the newest first (log entry 7). -/
def addPtr (l : List WalkPtr) (e : WalkPtr) (cap : Nat) : List WalkPtr := (e :: l).take cap

/-- The size of the page that a leaf at a level maps, as a power of two (R27). -/
def leafLog (level : Nat) (c : Bool) : Nat :=
  if level = 3 then 30 else if level = 2 then 21 else if c then 16 else 12

/-- The alignment that a leaf's base needs (R27). -/
def leafAligned (pte : DWord) (level : Nat) (va : DWord) : Bool :=
  if level = 3 then decide (field pte 12 18 = 0)
  else if level = 2 then decide (field pte 12 9 = 0)
  else if bitAt pte 6 then decide (field pte 12 4 = field va 12 4) else true

/-- The checks of a leaf in the order of R29, before its address is known to be backed. -/
def leafCheck (pte : DWord) (level : Nat) (va : DWord) (skv : Bool) (kind : AccKind) : Option Outcome :=
  if 4 ≤ level then some (0x11, 0x08)
  else if !leafAligned pte level va then some (0x11, 0x07)
  else if 2 ≤ field pte 7 2 then some (0x11, 0x03)
  else if bitAt pte 11 && !skv then some (0x11, 0x0A)
  else if kind = .write && !bitAt pte 2 then some (0x11, 0x01)
  else if kind = .fetch && !bitAt pte 3 then some (0x11, 0x02)
  else none

/-- The entry that a leaf fills (R27, R28, R32), with the D that the walk leaves. -/
def leafEntry (hm : Hm) (pte : DWord) (level : Nat) (va : DWord) (kind : AccKind) : TlbEntry :=
  let log := leafLog level (bitAt pte 6)
  { hm := hm, va := va.toNat / 2 ^ log, log := log, pa := field pte 12 40 * 4096 / 2 ^ log * 2 ^ log,
    sk := bitAt pte 11, mt := bitAt pte 7, w := bitAt pte 2, x := bitAt pte 3, d := bitAt pte 5 || kind = .write }

/-- A and D as the walk sets them (R30). -/
def setAccessed (pte : DWord) (kind : AccKind) : DWord :=
  pte ||| (if kind = .write then 0x30 else 0x10)

/-- A walk from a level down (R29): the entry it fills, or its outcome. -/
def walkFrom (s : State) (hm : Hm) (va : DWord) (skv : Bool) (kind : AccKind) :
    Nat → Nat → State × Except Outcome TlbEntry
  | 0, _ => (s, .error (0x11, 0x08))
  | level + 1, base =>
    if !tableAt s base then (s, .error (0x11, 0x09))
    else
      let at_ := base + 8 * (field va (12 + 9 * level) 9)
      let s := match homeAddr s at_ with | some a => ownTraffic s a 8 0 | none => s
      if isPoisoned s ((homeAddr s at_).getD 0) 8 then (s, .error (0x51, carrierOf s none ((homeAddr s at_).getD 0)))
      else
        let pte := devWord s at_
        if !bitAt pte 0 then (s, .error (0x10, BitVec.ofNat 8 (level + 1)))
        else if field pte 52 8 ≠ 0 ∨ field pte 9 2 ≠ 0 then (s, .error (0x11, 0x03))
        else if !bitAt pte 1 then
          if level = 0 then (s, .error (0x11, 0x08))
          else
            let next := field pte 12 40 * 4096
            let p : WalkPtr :=
              { hm := hm, level := level + 1, va := va.toNat / 2 ^ (12 + 9 * level), base := next }
            walkFrom { s with walkCache := addPtr s.walkCache p 4096 } hm va skv kind level next
        else
          match leafCheck pte (level + 1) va skv kind with
          | some o => (s, .error o)
          | none =>
            let e := leafEntry hm pte (level + 1) va kind
            if (homeAddr s (e.pa + va.toNat % 2 ^ e.log)).isNone then (s, .error (0x11, 0x05))
            else (if setAccessed pte kind = pte then s else devPatch s at_ (bytesOf 8 (setAccessed pte kind).toNat), .ok e)

/-- The home address of the sector of the page-table entry at which a walk meets poison (R256). -/
def walkPoison (s : State) (va : DWord) : Nat → Nat → Option Nat
  | 0, _ => none
  | level + 1, base =>
    let a := (homeAddr s (base + 8 * field va (12 + 9 * level) 9)).getD 0
    if isPoisoned s a 8 then some (a / 16 * 16)
    else
      let pte := devWord s a
      if !bitAt pte 0 || bitAt pte 1 then none else walkPoison s va level (field pte 12 40 * 4096)

/-- Where a walk begins: at the deepest pointer that the walk cache holds, or at the root (R32). -/
def walkStartAt (s : State) (hm : Hm) (va : DWord) (root : Nat) : Nat → Nat × Nat
  | 0 => (0, root)
  | level + 1 =>
    match cachedPtr s hm 2 va, cachedPtr s hm 3 va, cachedPtr s hm 4 va, cachedPtr s hm 5 va with
    | some b, _, _, _ => (1, b)
    | none, some b, _, _ => (2, b)
    | none, none, some b, _ => (3, b)
    | none, none, none, some b => (4, b)
    | none, none, none, none => (level + 1, root)

/-- A whole walk in a context (R29). -/
def walk (s : State) (hm : Hm) (va : DWord) (kind : AccKind) : State × Except Outcome TlbEntry :=
  let s := holdDesc s hm
  let d := descOf s hm
  if !d.v then (s, .error (0x11, 0x0C))
  else if !canonical va d.l5 then (s, .error (0x11, 0x04))
  else
    let (level, base) := walkStartAt s hm va d.root (if d.l5 then 5 else 4)
    walkFrom s hm va d.skv kind level base

/-- The poisoned sector that a context's walk of an address consumes, as far as its outcome is the poison of a page
table (R256). -/
def consumedPte (s : State) (hm : Hm) (va : DWord) (o : Outcome) : Option Nat :=
  if o.1 = 0x51 then walkPoison s va (if (descOf s hm).l5 then 5 else 4) (descOf s hm).root else none

/-! ## The TLBs (R32 to R34) -/

/-- The entry of a hallmark that covers an address. -/
def lookupTlb (l : List TlbEntry) (hm : Hm) (va : DWord) : Option TlbEntry :=
  l.find? (fun e => decide (e.hm = hm ∧ e.va = va.toNat / 2 ^ e.log))

/-- An entry serves an access unless the access would set D or is one the leaf did not allow: then it walks again
(R30, R31). -/
def serves (e : TlbEntry) : AccKind → Bool
  | .read => true
  | .write => e.w && e.d
  | .fetch => e.x

/-- Put an entry into a TLB of a capacity, in place of the one for the same page; the oldest leaves (log entry 7). -/
def addTlb (l : List TlbEntry) (e : TlbEntry) (cap : Nat) : List TlbEntry :=
  (e :: l.filter (fun x => !decide (x.hm = e.hm ∧ x.va = e.va ∧ x.log = e.log))).take cap

/-- The sets of a court's TLB: 4,096 entries in 8 ways (R32); an entry's set is its page number modulo 512 (log entry 7). -/
def courtSets : Nat := 512

/-- Put an entry into a court's TLB: the oldest of its set leaves where that holds eight others. -/
def addCourtTlb (l : List TlbEntry) (e : TlbEntry) : List TlbEntry :=
  let l := l.filter (fun x => !decide (x.hm = e.hm ∧ x.va = e.va ∧ x.log = e.log))
  match ((l.filter (fun x => x.va % courtSets = e.va % courtSets))[7]?) with
  | some x => e :: l.filter (fun y => y != x)
  | none => e :: l

/-- Whether a walk for a context may start: with another context's miss waiting, no context holds more than 16 walkers
(R34). Walks that run already go on when another context's miss arrives: the cap holds for starts (log entry 6). -/
def walkerFor (s : State) (hm : Hm) : Bool :=
  let other := s.courtQ.any (fun e => e.2.any (fun m => m.hm != hm))
  !other || decide ((s.walkers.filter (fun e => e.2.hm = hm)).length < 16)

/-- The next court, in turn, whose oldest miss may be walked (R34). -/
def nextCourt (s : State) : Option (Nat × Miss × List Miss) :=
  ((List.range 25).map (fun i => (s.walkNext + i) % 25)).findSome? (fun c =>
    match Tab.getD s.courtQ c [] with
    | m :: r => if walkerFor s m.hm then some (c, m, r) else none
    | [] => none)

/-- Whether two misses merge (R33): one hallmark and one 4 KiB page. -/
def Miss.same (m : Miss) (hm : Hm) (va : DWord) : Bool := decide (m.hm = hm ∧ m.va.toNat / 4096 = va.toNat / 4096)

/-- Enter a miss into the queue of a court, or merge it; false where the queue is full (R33). It merges with a miss of its own
court alone, and a walk completes that court's misses alone (log entry 6). -/
def queueMiss (s : State) (ct : Nat) (hm : Hm) (va : DWord) (kind : AccKind) (w : Waiter) : State × Bool :=
  let q := Tab.getD s.courtQ ct []
  let join (m : Miss) : Miss :=
    if m.court = ct ∧ m.same hm va ∧ ¬m.who.contains w then { m with who := m.who ++ [w] } else m
  if s.walkers.any (fun e => e.2.court == ct && e.2.same hm va) then
    ({ s with walkers := s.walkers.map (fun e => (e.1, join e.2)) }, true)
  else if q.any (fun m => m.same hm va) then
    ({ s with courtQ := Tab.set s.courtQ ct (q.map join) }, true)
  else if q.length < 32 then
    ({ s with courtQ := Tab.set s.courtQ ct (q ++ [{ court := ct, hm := hm, va := va, kind := kind, who := [w] }]) }, true)
  else (s, false)

/-- Whether someone waits for a miss that is queued or being walked. -/
def missPending (s : State) (ct : Nat) (hm : Hm) (va : DWord) (w : Waiter) : Bool :=
  let mine (m : Miss) : Bool := m.court == ct && m.same hm va && m.who.contains w
  s.walkers.any (fun e => mine e.2) || (Tab.getD s.courtQ ct []).any mine

/-- The walk for someone's access of a page that has ended in a fault, if one has. -/
def failedWalk (s : State) (w : Waiter) (hm : Hm) (va : DWord) : Option WalkMark :=
  s.walked.find? (fun m => decide (m.who = w ∧ m.hm = hm ∧ m.page = va.toNat / 4096))
def walkFaulted (s : State) (w : Waiter) (hm : Hm) (va : DWord) : Bool := (failedWalk s w hm va).isSome

/-- The outcome that an access shares with the walk that it waited for (R33): a refusal of W or X to an access of another kind is
none of its own, and it walks for itself (log entry 6). -/
def sharedOutcome (s : State) (w : Waiter) (hm : Hm) (va : DWord) (kind : AccKind) : Option Outcome :=
  (failedWalk s w hm va).bind (fun m =>
    if m.kind = kind ∨ (m.out ≠ (0x11, 0x01) ∧ m.out ≠ (0x11, 0x02)) then some m.out else none)

/-- The marks of failed walks of someone go. -/
def clearWalked (s : State) (w : Waiter) : State := { s with walked := s.walked.filter (fun m => m.who != w) }

/-- Fill the TLBs of a core and its court with an entry (R32). -/
def fillTlbs (s : State) (c : Nat) (e : TlbEntry) : State :=
  let s := modCore s c (fun k => { k with tlb := addTlb k.tlb e 128 })
  { s with courtTlb := Tab.set s.courtTlb (c / 8) (addCourtTlb (Tab.getD s.courtTlb (c / 8) []) e) }

/-- One access's place: its home address, the leaf's SK and MT. -/
structure Place where
  home : Nat
  sk : Bool
  mt : Bool
  deriving DecidableEq, Repr

/-- The place that an entry gives an access; the address must be backed for this access (R29). -/
def placeBy (s : State) (e : TlbEntry) (va : DWord) : Except Outcome Place :=
  match homeAddr s (e.pa + va.toNat % 2 ^ e.log) with
  | some a => .ok { home := a, sk := e.sk, mt := e.mt }
  | none => .error (0x11, 0x05)

/-- The translation of one access on a core in a context (R24 to R34). A context whose descriptor has V = 0 translates
nothing: the outcome is the one that R428 gives CPYP (log entry 40). -/
def xlate (s : State) (c : Nat) (hm : Hm) (va : DWord) (kind : AccKind) : State × Except Outcome Place :=
  let s := holdDesc s hm
  let d := descOf s hm
  if !d.v then (s, .error (0x11, 0x0C))
  else if !canonical va d.l5 then (s, .error (0x11, 0x04))
  else
    let k := coreAt s c
    match (lookupTlb k.tlb hm va).filter (fun e => serves e kind) with
    | some e => (s, placeBy s e va)
    | none =>
      match (lookupTlb (Tab.getD s.courtTlb (c / 8) []) hm va).filter (fun e => serves e kind) with
      | some e => let s := fillTlbs s c e; (s, placeBy s e va)
      | none =>
        match walk s hm va kind with
        | (s, .error o) => (s, .error o)
        | (s, .ok e) => let s := fillTlbs s c e; (s, placeBy s e va)

/-- Whether the TLBs that serve a core hold an entry for an access (R32). -/
def tlbServes (s : State) (c : Nat) (hm : Hm) (va : DWord) (kind : AccKind) : Bool :=
  ((lookupTlb (coreAt s c).tlb hm va).filter (fun e => serves e kind)).isSome ||
    ((lookupTlb (Tab.getD s.courtTlb (c / 8) []) hm va).filter (fun e => serves e kind)).isSome

/-- Whether an access of the issuing path stalls in place for its walk (R33): no TLB of its core serves it. -/
def xlateStalls (s : State) (c : Nat) (hm : Hm) (va : DWord) (kind : AccKind) : Bool :=
  isContext hm && (descOf s hm).v && canonical va (descOf s hm).l5 && !tlbServes s c hm va kind &&
    !walkFaulted s (.core c s.iss.slot) hm va

/-- The place of an access under a hallmark: translated in a context, physical under the device's own (R254), where bits
[63:52] of the address have no part (R20; log entry 38). -/
def place (s : State) (c : Nat) (hm : Hm) (va : DWord) (kind : AccKind) : State × Except Outcome Place :=
  if isContext hm then xlate s c hm va kind
  else
    match homeAddr s va.toNat with
    | some a => (s, .ok { home := a, sk := false, mt := false })
    | none => (s, .error (0x11, 0x05))

/-- The place of an access of the issuing path: one whose walk has failed shares the walk's outcome (R33). -/
def pathPlace (s : State) (c : Nat) (hm : Hm) (va : DWord) (kind : AccKind) : State × Except Outcome Place :=
  match sharedOutcome s (.core c s.iss.slot) hm va kind with
  | some o => (s, .error o)
  | none => place s c hm va kind

/-- Remove what R36 names of a hallmark: entries that meet a range of 4 KiB pages, or every entry. -/
def meets (e : TlbEntry) (lo n : Nat) : Bool :=
  decide (e.va * 2 ^ e.log < (lo + n) * 4096 ∧ lo * 4096 < (e.va + 1) * 2 ^ e.log)

/-- A TLBI of some contexts over a predicate of entries and of table pointers (R35, R36): no TLB, walk cache or walker
holds one, every access of those contexts made through an old entry is complete at its home, and a queued miss walks
afresh. A
walk that a walker has begun reads the tables when it completes, so none of before the TLBI is left. -/
def tlbInvalidate (s : State) (hms : Hm → Bool) (gone : TlbEntry → Bool) (ptr : WalkPtr → Bool) : State :=
  let s := settleStores s hms
  { mapCores s (fun k => { k with tlb := k.tlb.filter (fun x => !gone x) }) with
    courtTlb := s.courtTlb.map (fun e => (e.1, e.2.filter (fun x => !gone x)))
    netTlb := s.netTlb.filter (fun x => !gone x)
    walkCache := s.walkCache.filter (fun p => !ptr p) }

end Sys2Proof.Machine
end

