-- ==== Sys2Proof/Machine/Ops.lean ====
section
/-!
DEFINITION. The named operations over slots, threads, the pool, scratchpad, registers and latches (spec/05), the
checked accesses to memory and scratchpad (spec/02, spec/03, R367), and taking a trap (spec/09): the dugout, its
records and the signal frame.
-/

namespace Sys2Proof.Machine

/-! ## Lanes -/

/-- The lanes of a mask, ascending. -/
def lanesOf (m : Word) : List Nat := (List.range 32).filter (fun i => bitAt m i)

/-- The mask of some lanes. -/
def maskOf (l : List Nat) : Word := l.foldl (fun m i => m ||| ((1 : Word) <<< i)) 0

/-! ## Slots, threads, workgroups -/

/-- A warp slot of a core. -/
def slotAt (s : State) (c n : Nat) : Slot := Tab.getD (coreAt s c).slots n Slot.empty

/-- Change a warp slot. -/
def modSlot (s : State) (c n : Nat) (f : Slot → Slot) : State :=
  modCore s c (fun k => { k with slots := Tab.set k.slots n (f (Tab.getD k.slots n Slot.empty)) })

/-- The thread that stands in a lane. -/
def threadAt (s : State) (c n l : Nat) : Option Thread := Tab.get? (slotAt s c n).threads l

/-- Change the thread that stands in a lane. -/
def modThread (s : State) (c n l : Nat) (f : Thread → Thread) : State :=
  modSlot s c n (fun w => { w with threads := Tab.adjust w.threads l f })

/-- A quarter of a core. -/
def quarterAt (s : State) (c q : Nat) : Quarter := Tab.getD (coreAt s c).quarters q Quarter.reset

/-- Change a quarter. -/
def modQuarter (s : State) (c q : Nat) (f : Quarter → Quarter) : State :=
  modCore s c (fun k => { k with quarters := Tab.set k.quarters q (f (Tab.getD k.quarters q Quarter.reset)) })

/-- A workgroup that nothing has placed. -/
def Wg.empty : Wg :=
  { core := 0, hm := devHm, launch := 0, team := 0, number := 0, rank := 0, nthreads := 0, regc := 0, spg := 0, acc := 0,
    shd := 0, stk := 0, slots := [], sri := 0, tags := [], guards := [], barPw := [], barMode := [], barLeft := [], named := [],
    children := 0, barmode := false, amx := [], bind := [], shadow := [], flags := [], gens := [], dlim := 0,
    depth := 0, bound := none, zeroing := false, exiting := false, edit := false, rstep := false, resident := [],
    pins := [], floor := 0 }

/-- A workgroup by its handle. -/
def wgAt (s : State) (h : Nat) : Wg := Tab.getD s.wgs h Wg.empty

/-- Change a workgroup. -/
def modWg (s : State) (h : Nat) (f : Wg → Wg) : State := { s with wgs := Tab.adjust s.wgs h f }

/-- The workgroup that holds a slot. -/
def slotWg (s : State) (c n : Nat) : Nat := ((slotAt s c n).wg).getD 0

/-- The hallmark under which a slot's threads execute (R253): the umpire's is the device's own. -/
def slotHm (s : State) (c n : Nat) : Hm :=
  if n = 16 then devHm else match (slotAt s c n).wg with | some h => (wgAt s h).hm | none => devHm

/-- The hallmark under which a slot's loads and stores act (R254). -/
def accessHm (s : State) (c n : Nat) : Hm := if n = 16 then (coreAt s c).hmark else slotHm s c n

/-- The first warp slot of a workgroup, which names it in the page map (R110). -/
def firstSlot (w : Wg) : Nat := w.slots.headD 16

/-- A thread is live in every state but Exited (R170). -/
def Thread.live (t : Thread) : Bool := t.st != .exited

/-- Whether a thread is Ready to issue. -/
def Thread.ready (t : Thread) : Bool := t.st == .ready && !t.held

/-- Whether a thread is Parked, in the dugout or detached (R170, R226). -/
def Thread.parked (t : Thread) : Bool :=
  match t.st with
  | .parked _ => true
  | .detached _ _ => true
  | _ => false

/-- The lanes of a slot whose threads have a property. -/
def lanesWith (w : Slot) (p : Thread → Bool) : Word := maskOf ((w.threads.filter (fun e => p e.2)).map Prod.fst)

/-- The lanes of a slot that hold a live thread. -/
def liveLanes (w : Slot) : Word := lanesWith w Thread.live

/-- The home workgroup of the thread in a lane (R58). -/
def homeOf (s : State) (c n l : Nat) : Nat := ((threadAt s c n l).map Thread.home).getD (slotWg s c n)

/-! ## The pool (R106 to R111) -/

/-- The page of a core's map with an owner, a kind and an index (R110). -/
def pageWith (k : Core) (own kind idx : Nat) : Option Nat :=
  (k.pageMap.find? (fun e => decide (field e.2 13 5 = own ∧ field e.2 11 2 = kind ∧ field e.2 5 6 = idx))).map Prod.fst

/-- A word of the pool. -/
def poolWord (k : Core) (i : Nat) : Word := Tab.getD k.pool i 0

/-- Write a word of the pool; a word that reads 0 is not listed. Its block is dirty for both banks (R268). -/
def setPoolWord (k : Core) (i : Nat) (x : Word) : Core :=
  { k with pool := Tab.put k.pool i (if x = 0 then none else some x), cleanPool := Tab.del k.cleanPool (i / 256) }

/-- A byte of the pool. -/
def poolByte (k : Core) (a : Nat) : Byte := (poolWord k (a / 4)).extractLsb' (8 * (a % 4)) 8

/-- Write a byte of the pool. -/
def setPoolByte (k : Core) (a : Nat) (b : Byte) : Core :=
  let w := poolWord k (a / 4)
  let sh := 8 * (a % 4)
  setPoolWord k (a / 4) ((w &&& ~~~((0xFF : Word) <<< sh)) ||| ((b.setWidth 32) <<< sh))

/-- Bytes of the pool. -/
def poolBytes (k : Core) (a : Nat) : Nat → List Byte
  | 0 => []
  | n + 1 => poolByte k a :: poolBytes k (a + 1) n

/-- Write bytes of the pool. -/
def setPoolBytes (k : Core) (a : Nat) : List Byte → Core
  | [] => k
  | b :: r => setPoolBytes (setPoolByte k a b) (a + 1) r

/-- Zero pages of the pool. -/
def zeroPages (k : Core) (ps : List Nat) : Core :=
  { k with
    pool := k.pool.filter (fun e => !ps.contains (e.1 / 4096))
    cleanPool := k.cleanPool.filter (fun e => !ps.contains (e.1 / 16)) }

/-- The pool byte at an offset of a workgroup's scratchpad (R111); none where no page holds it. -/
def spadAt (s : State) (h o : Nat) : Option Nat :=
  let w := wgAt s h
  (pageWith (coreAt s w.core) (firstSlot w) 2 (o / 16384)).map (fun p => p * 16384 + o % 16384)

/-- Bytes of a workgroup's scratchpad that lie in one page. -/
def spadRead (s : State) (h o n : Nat) : List Byte :=
  match spadAt s h o with
  | some a => poolBytes (coreAt s (wgAt s h).core) a n
  | none => List.replicate n 0

/-- Where the fault records end in the umpire's scratchpad (R224, R232, R430, R469). -/
def recordEnd : Nat := 0x5C00

/-- How many of the bytes from an offset of a workgroup's scratchpad on lie in the umpire's fault records. -/
def recordBytes (h o : Nat) : Nat := if h < 192 then recordEnd - o else 0

/-- Whether a word of the pool lies in the umpire's fault records. -/
def recordWord (k : Core) (i : Nat) : Bool :=
  (List.range 2).any (fun j =>
    pageWith k 16 2 j == some (i / 4096) && decide (16384 * j + 4 * (i % 4096) < recordEnd))

/-- Write bytes of a workgroup's scratchpad that lie in one page; the umpire's fault records are read-only to it (R5,
R224). -/
def spadWrite (s : State) (h o : Nat) (bs : List Byte) : State :=
  match spadAt s h o with
  | some a => modCore s (wgAt s h).core (fun k => setPoolBytes k (a + recordBytes h o) (bs.drop (recordBytes h o)))
  | none => s

/-- A 64-bit word of a workgroup's scratchpad. -/
def spadWord (s : State) (h o : Nat) : DWord := BitVec.ofNat 64 (natOf (spadRead s h o 8))

/-! ## v registers (R120 to R127) -/

/-- A lane's word of a register row: in the workgroup's register pages, or in the umpire's own rows (log entry 4). -/
def rowWord (s : State) (c n row l : Nat) : Word :=
  if n = 16 then Tab.getD (coreAt s c).umpRows (32 * row + l) 0
  else
    match pageWith (coreAt s c) (firstSlot (wgAt s (slotWg s c n))) 1 (row / 128) with
    | some p => poolWord (coreAt s c) (4096 * p + 32 * (row % 128) + l)
    | none => 0

/-- Write a lane's word of a register row. -/
def setRowWord (s : State) (c n row l : Nat) (x : Word) : State :=
  if n = 16 then
    modCore s c (fun k => { k with umpRows := Tab.put k.umpRows (32 * row + l) (if x = 0 then none else some x) })
  else
    match pageWith (coreAt s c) (firstSlot (wgAt s (slotWg s c n))) 1 (row / 128) with
    | some p => modCore s c (fun k => setPoolWord k (4096 * p + 32 * (row % 128) + l) x)
    | none => s

/-- The register ceiling of a slot's warp (R107, R120). -/
def ceiling (s : State) (c n : Nat) : Nat := if n = 16 then 256 else 8 * (wgAt s (slotWg s c n)).regc

/-- The first row that a slot's warp owns, in its workgroup's register pages (R120). -/
def firstRow (s : State) (c n : Nat) : Nat := if n = 16 then 0 else (slotAt s c n).widx * ceiling s c n

/-- A free row of the warp in the bank of register `v`: the lowest (R126, log entry 10). -/
def allocRow (s : State) (c n v : Nat) : Nat :=
  let used := (slotAt s c n).vmap.filterMap (fun e => match e.2.form with | .full r => some r | .uniform => none)
  let base := firstRow s c n
  let free := ((List.range (ceiling s c n)).map (base + ·)).filter
    (fun r => decide ((r ^^^ n) % 8 = v % 8) && !used.contains r)
  free.headD (base + v)

/-- The value of a v register in a lane's cell or in its uniform cell; an absent register has none. -/
def vWord (s : State) (c n v l : Nat) : Word :=
  match Tab.get? (slotAt s c n).vmap v with
  | some { form := .uniform, .. } => Tab.getD (slotAt s c n).cells v 0
  | some { form := .full r, .. } => rowWord s c n r l
  | none => 0

/-- Write lanes of a row. -/
def setRow (s : State) (c n row : Nat) (ls : List Nat) (f : Nat → Word) : State :=
  ls.foldl (fun s l => setRowWord s c n row l (f l)) s

/-- Set the mapping of a v register. -/
def setVmap (s : State) (c n v : Nat) (m : Option VMap) : State :=
  modSlot s c n (fun w => { w with vmap := Tab.put w.vmap v m })

/-- Set the uniform cell of a v register. -/
def setCell (s : State) (c n v : Nat) (x : Option Word) : State :=
  modSlot s c n (fun w => { w with cells := Tab.put w.cells v x })

/-- Allocate a row for a register and fill all its lanes. -/
def newRow (s : State) (c n v : Nat) (rel : Word) (f : Nat → Word) : State :=
  let row := allocRow s c n v
  let s := setVmap s c n v (some { form := .full row, rel := rel })
  setRow (setCell s c n v none) c n row (List.range 32) f

/-- Write of a v register by the active lanes `a` of a path (R122); `uni` is whether the result is a uniform result. -/
def writeV (s : State) (c n v : Nat) (a : Word) (uni : Bool) (f : Nat → Word) : State :=
  let live := liveLanes (slotAt s c n)
  let cover := uni && (a &&& live == live)
  let one := f ((lanesOf a).headD 0)
  match Tab.get? (slotAt s c n).vmap v with
  | none =>
    if cover then setCell (setVmap s c n v (some { form := .uniform, rel := 0 })) c n v (some one)
    else newRow s c n v 0 (fun l => if bitAt a l then f l else 0)
  | some { form := .uniform, rel := r } =>
    if cover then setCell (setVmap s c n v (some { form := .uniform, rel := r &&& ~~~a })) c n v (some one)
    else
      let old := Tab.getD (slotAt s c n).cells v 0
      newRow s c n v (r &&& ~~~a) (fun l => if bitAt a l then f l else old)
  | some { form := .full row, rel := r } =>
    setRow (setVmap s c n v (some { form := .full row, rel := r &&& ~~~a })) c n row (lanesOf a) f

/-- Free a v register's row or cell: it becomes absent (R123). -/
def freeV (s : State) (c n v : Nat) : State := setCell (setVmap s c n v none) c n v none

/-- Free the registers whose release mask covers every live thread of the warp (R123). -/
def sweepRel (s : State) (c n : Nat) : State :=
  let live := liveLanes (slotAt s c n)
  ((slotAt s c n).vmap.filter (fun e => e.2.rel &&& live == live)).foldl (fun s e => freeV s c n e.1) s

/-- Add lanes to a register's release mask (R123). -/
def releaseV (s : State) (c n v : Nat) (a : Word) : State :=
  let s := modSlot s c n (fun w => { w with vmap := Tab.adjust w.vmap v (fun m => { m with rel := m.rel ||| a }) })
  sweepRel s c n

/-! ## s registers (R125) -/

/-- Write an s register, for the whole warp. -/
def writeS (s : State) (c n r : Nat) (x : Word) : State :=
  modSlot s c n (fun w => { w with sregs := Tab.set w.sregs r x })

/-- Free an s register. -/
def freeS (s : State) (c n r : Nat) : State := modSlot s c n (fun w => { w with sregs := Tab.del w.sregs r })

/-! ## Latches (R128, R129) -/

/-- The value that a latch supplies to a lane: the lane's result, or a free choice among its earlier results and zero
(R128). -/
def latchVal (t : Latch) (l code : Nat) : DWord :=
  match Tab.get? t.vals l with
  | some x => x
  | none =>
    let h := 0 :: Tab.getD t.hist l []
    h.getD (Config.pick code % h.length) 0

/-- Write a latch by the active lanes of a path (R128). -/
def writeLatch (s : State) (c q i : Nat) (res : List (Nat × DWord)) : State :=
  modQuarter s c q (fun k =>
    { k with
      latches := k.latches.mapIdx (fun j t =>
        if j = i then
          { vals := res, valid := true,
            hist := res.foldl (fun h e => Tab.set h e.1 (e.2 :: Tab.getD h e.1 [])) t.hist }
        else t) })

/-- All latches of a quarter are lost (R129). -/
def loseLatches (s : State) (c q : Nat) : State :=
  modQuarter s c q (fun k => { k with latches := k.latches.map (fun t => { t with valid := false }) })

/-- A quarter's run ends: its latches are lost (R129), and its hallmark and whether it was the umpire's stay for the next
choice (R128, R217). -/
def closeRun (s : State) (c q : Nat) : State :=
  match (quarterAt s c q).run with
  | none => s
  | some r =>
    let hm := slotHm s c r.slot
    modQuarter (loseLatches s c q) c q (fun k => { k with run := none, prevHm := some hm, prevUmpire := r.slot == 16 })

/-- The runs of some slots end, their threads being gone. -/
def dropRuns (s : State) (c : Nat) (p : Nat → Bool) : State :=
  (List.range 4).foldl (fun s q =>
    if (((quarterAt s c q).run).map (fun r => p r.slot)).getD false then closeRun s c q else s) s

/-! ## Event counters (R289 to R291) -/

/-- Add to an event counter, which stops at all ones until a sweep clears it (R289). -/
def bumpEvent (s : State) (c e n : Nat) : State :=
  modCore s c (fun k =>
    { k with events := Tab.set k.events e (BitVec.ofNat 32 (min ((Tab.getD k.events e 0).toNat + n) 0xFFFFFFFF)) })

/-- The event codes of a core that R290 marks A. -/
def attributable (e : Nat) : Bool := decide ((1 ≤ e ∧ e ≤ 0x11) ∨ (0x14 ≤ e ∧ e ≤ 0x16))

/-- Add to the attribution counters that count an event of a hallmark with a topmost region (R291). -/
def creditEvent (s : State) (c : Nat) (hm : Hm) (top : Half) (e n : Nat) : State :=
  modCore s c (fun k =>
    { k with
      acnt := (List.range 4).foldl (fun t i =>
        let g := Tab.getD k.acfg i 0
        if attributable e && bitAt g 0 && decide (field g 2 6 = e ∧ field g 50 14 = hm.toNat) &&
            (bitAt g 1 || decide (field g 34 16 = top.toNat)) then
          Tab.set t i (Tab.getD t i 0 + BitVec.ofNat 64 n)
        else t) k.acnt })

/-- The topmost stored entry of a thread's region stack (R275). -/
def Thread.top (t : Thread) : Half :=
  if t.depth = 0 then 0 else t.region.getD (min t.depth.toNat 16 - 1) 0

/-- Count an event that a thread causes (R289, R291). -/
def countAt (s : State) (c n l e k : Nat) : State :=
  let top := ((threadAt s c n l).map Thread.top).getD 0
  creditEvent (bumpEvent s c e k) c (slotHm s c n) top e k

/-- Count an event that the thread in a lane of the issuing path causes. -/
def countBy (s : State) (l e n : Nat) : State := countAt s s.iss.core s.iss.slot l e n

/-- Ask for a snapshot of a team on behalf of a thread (R266): the first to ask is the one that causes it (R291). -/
def askTeam (s : State) (t : Nat) (a : Asker) : State :=
  { s with teams := Tab.adjust s.teams t (fun m =>
      { m with snap := { m.snap with writing := true, asker := if m.snap.writing then m.snap.asker else some a } }) }

/-- Count an event that a path causes as a whole: it is taken for one of the thread in its lowest lane (log entry 32). -/
def count (s : State) (e n : Nat) : State := countBy s ((lanesOf s.iss.lanes).headD 0) e n

/-- Count the L1 TLB miss of an access that a lane of the issuing path makes, where the court's TLB serves it (R290); a miss there
counts when it enters the court's queue. -/
def countMisses (s : State) (l c : Nat) (hm : Hm) (va : DWord) (kind : AccKind) : State :=
  if !isContext hm || ((lookupTlb (coreAt s c).tlb hm va).filter (fun e => serves e kind)).isSome then s
  else if ((lookupTlb (Tab.getD s.courtTlb (c / 8) []) hm va).filter (fun e => serves e kind)).isSome then countBy s l 0x0A 1
  else s

/-! ## What a lane's check or performance may answer (R8, R218, R220) -/

/-- A trap in a lane: its cause and detail; the address, where it has one; SIZE, WR, FET and ATM as word 0x18 of the
record places them; for poison, the sector's home address and whether the leaf had SK; for a wait on a stopped command,
its tag, queue entry and progress (R224, R232, R257). -/
structure TrapInfo where
  cause : Byte
  detail : Byte
  addr : Option DWord := none
  info : Word := 0
  poison : Option (Nat × Bool) := none
  eng : Option (BitVec 6 × Nat × Nat) := none
  deriving DecidableEq, Repr

/-- A translation that no TLB holds: the hallmark, the address and the kind of the access. -/
abbrev MissAt := Hm × DWord × AccKind

/-- Why a lane does not complete: it traps, its path waits, or its access stalls in place, for a walk (R33) or for the fabric
(R260). -/
inductive Halt where
  | trap (t : TrapInfo)
  | wait (w : Wait)
  | stall (m : Option MissAt)
  deriving DecidableEq, Repr

/-- What is done in one lane: over the state, and it may halt. -/
abbrev Act (α : Type) := ExceptT Halt (StateM State) α

/-- Put the state back. -/
def setState (s : State) : Act Unit := set s

/-- Raise a trap that names no address. -/
def raise {α : Type} (cause detail : Byte) : Act α := throw (.trap { cause := cause, detail := detail })

/-- Raise a trap at an address. -/
def raiseAt {α : Type} (o : Outcome) (a : DWord) (info : Word) : Act α :=
  throw (.trap { cause := o.1, detail := o.2, addr := some a, info := info })

/-- Raise the outcome of a failed translation; a walk that read a poisoned entry consumed it (R256, R257). -/
def raiseWalk {α : Type} (o : Outcome) (hm : Hm) (va : DWord) (info : Word) : Act α := do
  let s ← get
  throw (.trap { cause := o.1, detail := o.2, addr := some va, info := info,
                 poison := (consumedPte s hm va o).map (fun a => (a, false)) })

/-- Break the path's run and wait (R218). -/
def waitFor {α : Type} (w : Wait) : Act α := throw (.wait w)

/-- Bits [10:0] of word 0x18 of a fault record (R224). -/
def accInfo (size : Nat) (wr fet atm : Bool) : Word :=
  BitVec.ofNat 32 (size + (if wr then 0x100 else 0) + (if fet then 0x200 else 0) + (if atm then 0x400 else 0))

/-! ## Race checking (R77 to R80) -/

/-- The words of the record of a workgroup's launch (R206). -/
def launchWord (s : State) (h i : Nat) : DWord :=
  match Tab.get? s.launches (wgAt s h).launch with
  | some l => l.words.getD i 0
  | none => 0

/-- Whether race checking applies to a workgroup (R77). -/
def raceOn (s : State) (h : Nat) : Bool :=
  s.racechk && bitAt (launchWord s h 1) 3 && (descOf s (wgAt s h).hm).rchk

/-- The mask of an access's bytes within its sector. -/
def sectorMask (a n : Nat) : Half := BitVec.ofNat 16 ((2 ^ n - 1) * 2 ^ (a % 16))

/-- Whether a checked access of a workgroup races with the record of its sector (R79). -/
def races (s : State) (h a n : Nat) : Bool :=
  match Tab.get? s.shadows (a / 16) with
  | none => false
  | some r =>
    let w := wgAt s h
    !(r.core == w.core && r.slot == firstSlot w) && r.hm == w.hm && (r.mask &&& sectorMask a n != 0) &&
      Tab.getD (coreAt s r.core).rel r.slot 0 == r.count

/-- A checked write leaves its record (R79) while its sector is in the L2; a sector outside it has none (R80, log entry 39). -/
def recordWrite (s : State) (h a n : Nat) : State :=
  if raceOn s h && isLocal a && (Tab.get? s.lines (a / 64)).isSome then
    let w := wgAt s h
    let cnt := Tab.getD (coreAt s w.core).rel (firstSlot w) 0
    let old := match Tab.get? s.shadows (a / 16) with
      | some r => if r.core = w.core ∧ r.slot = firstSlot w then r.mask else 0
      | none => 0
    let r : Shadow := { hm := w.hm, core := w.core, slot := firstSlot w, count := cnt, mask := old ||| sectorMask a n }
    { s with shadows := Tab.set s.shadows (a / 16) r }
  else s

/-- What a workgroup has stored is performed for every thread from now on (R61, R66; log entry 8). -/
def showStores (s : State) (h : Nat) : State :=
  { s with stores := s.stores.map (fun p => if p.wg = h then { p with done := some (p.done.getD s.now) } else p) }

/-- What other workgroups have performed is read by a workgroup from now on (R61; log entry 8). -/
def seeStores (s : State) (h : Nat) : State := modWg s h (fun w => { w with floor := s.now + 1 })

/-- Advance the release counts of a workgroup's slots (R78). -/
def countRelease (s : State) (h : Nat) : State :=
  let w := wgAt s h
  modCore s w.core (fun k =>
    { k with rel := w.slots.foldl (fun t n => Tab.set t n (Tab.getD t n 0 + 1)) k.rel })

/-- A release at team scope or wider (R61, R78): its workgroup's stores are performed, and its release counts advance. -/
def bumpRelease (s : State) (h : Nat) : State := countRelease (showStores s h) h

/-! ## Orders (R54, R57 to R61) -/

/-- Whether an order acquires, and whether it releases. -/
def acquires : MOrder → Bool
  | .acq | .ar | .sc => true
  | .rlx | .rel => false
def releases : MOrder → Bool
  | .rel | .ar | .sc => true
  | .rlx | .acq => false

/-- Domain or system scope (R54). -/
def wideScope : Scope → Bool
  | .dom | .sys => true
  | .thr | .wg | .team | .dev => false

/-- Team scope or wider (R78). -/
def teamScope : Scope → Bool
  | .thr | .wg => false
  | .team | .dev | .dom | .sys => true

/-- Whether race checking looks at an access of this order (R78). -/
def raceChecked : AccOrd → Bool
  | .plain => true
  | .marked _ .thr | .marked _ .wg => true
  | .marked _ _ => false

/-- What an order does before its access is performed: remote lines, which stores are read and are performed, and the release
count (R54, R61, R78). -/
def orderWork (s : State) (h : Nat) (o : MOrder) (sc : Scope) : State :=
  let hm := (wgAt s h).hm
  let s := if releases o && wideScope sc then releaseRemote s hm else s
  let s := if acquires o && wideScope sc then acquireRemote s hm else s
  let s := if acquires o && teamScope sc then seeStores s h else s
  if releases o && teamScope sc then bumpRelease s h else s

/-- Whether an order waits before its access: a release at domain or system scope (R54, R260). -/
def orderStalls (s : State) (h : Nat) (o : MOrder) (sc : Scope) : Bool :=
  releases o && wideScope sc && releaseStalls s (wgAt s h).hm

/-- A release flag of an engine command (R71): it counts at every scope (R78). Only a wait on the command's tag synchronises with
it, and so no other workgroup reads what it covers before a release of the waiting thread's own (R81, the test DRN). -/
def releaseFlag (s : State) (h : Nat) (sc : Scope) : State :=
  countRelease (if wideScope sc then releaseRemote s (wgAt s h).hm else s) h

/-- The same for an access's order field. -/
def ordWork (s : State) (h : Nat) : AccOrd → State
  | .plain => s
  | .marked o sc => orderWork s h o sc
def ordStalls (s : State) (h : Nat) : AccOrd → Bool
  | .plain => false
  | .marked o sc => orderStalls s h o sc

/-- Perform the order of an instruction for a workgroup. -/
def order (h : Nat) (o : MOrder) (sc : Scope) : Act Unit := do
  let s ← get
  if orderStalls s h o sc then throw (.stall none)
  setState (orderWork s h o sc)

/-- Perform the order field of an access. -/
def ordAcc (h : Nat) (o : AccOrd) : Act Unit := do
  let s ← get
  if ordStalls s h o then throw (.stall none)
  setState (ordWork s h o)

/-! ## Watchpoints (R281) -/

/-- The lowest watchpoint that an access meets; LEN = 31 counts as 30, and WPA is rounded down to 2^LEN (log entry 50). -/
def watchHit (s : State) (hm : Hm) (va : DWord) (n : Nat) (rd wr : Bool) : Option Nat :=
  (List.range 8).find? (fun i =>
    let c := Tab.getD s.wpc i 0
    let len := min (field c 13 5) 30
    let base := (Tab.getD s.wpa i 0).toNat / 2 ^ len * 2 ^ len
    bitAt c 0 && ((rd && bitAt c 1) || (wr && bitAt c 2)) && decide (field c 18 14 = hm.toNat) &&
      decide (base < va.toNat + n ∧ va.toNat < base + 2 ^ len))

/-! ## Global accesses of a thread (R366, R367) -/

/-- An access of a lane stalls in place while its translation is walked (R33). -/
def stallOn (va : DWord) (kind : AccKind) : Act Unit := do
  let s ← get
  let hm := accessHm s s.iss.core s.iss.slot
  if xlateStalls s s.iss.core hm va kind then throw (.stall (some (hm, va, kind))) else pure ()


/-- The checks of R367 on one lane's global access, in their order: canonical form, alignment, translation, watchpoints,
race records. -/
def checkGlobal (l : Nat) (va : DWord) (n : Nat) (rd wr checked atm : Bool) : Act Place := do
  let s ← get
  let i := s.iss
  let hm := accessHm s i.core i.slot
  let info := accInfo n wr false atm
  if isContext hm && !(descOf s hm).v then raiseAt (0x11, 0x0C) va info
  else if isContext hm && !canonical va (descOf s hm).l5 then raiseAt (0x11, 0x04) va info
  else if va.toNat % n ≠ 0 then raiseAt (0x12, 0) va info
  else
    stallOn va (if wr then .write else .read)
    let s := countMisses s l i.core hm va (if wr then .write else .read)
    let r := pathPlace s i.core hm va (if wr then .write else .read)
    set r.1
    match r.2 with
    | .error o => raiseWalk o hm va info
    | .ok p =>
      let t := threadAt s i.core i.slot l
      let skip := (t.bind Thread.pass) == some .watch
      match (if skip || !(freshDesc s hm).dbg then none else watchHit s hm va n rd wr) with
      | some k => raiseAt (0x61, BitVec.ofNat 8 k) va info
      | none =>
        let h := homeOf s i.core i.slot l
        if checked && raceOn s h && isLocal p.home && races s h p.home n then
          raiseAt (0x30, if wr then 0x02 else 0x01) va info
        else pure p

/-- Consume a sector: a poisoned one traps (R256). A remote one that must be asked for may be refused, or no answer comes,
and the lane traps, its request having gone (R19, R444); while the routing tables are being reset the access stalls in place
(R260, R445). `req` is an atomic's code and operand (R307). -/
def consume (p : Place) (va : DWord) (n : Nat) (info : Word) (req : Option (BitVec 4 × List Byte)) : Act Unit := do
  let s ← get
  let hm := accessHm s s.iss.core s.iss.slot
  let unc := req.isSome && isRemote p.home
  let asked : State := match req with
    | some r => sendUatin s hm (.atomic r.1) p.home n 0 r.2
    | none => askRead s hm p.mt p.home n
  let poison (detail : Byte) : Act Unit :=
    throw (.trap { cause := 0x51, detail := detail, addr := some va, info := info,
                   poison := some (poisonAt s p.home n, p.sk) })
  match remoteEnd s hm (p.mt || unc) p.home n with
  | .waits => throw (.stall none)
  | .refused => do
    set asked
    raiseAt (0x11, 0x05) va info
  | .timedOut => do
    set asked
    poison 0x05
  | .answered =>
    if isPoisoned s p.home n then poison (carrierOf s (some s.iss.core) (poisonAt s p.home n)) else pure ()

/-- The key index and key of a place, in the context that an access acts under. -/
def placeKey (s : State) (hm : Hm) (p : Place) : Option (BitVec 13) × Option (BitVec 128) := keyOf s hm p.sk

/-- Read at a place. -/
def readPlace (s : State) (d : Door) (hm : Hm) (p : Place) (uncached : Bool) (n : Nat) : List Byte × State :=
  let k := placeKey s hm p
  homeRead s d hm k.1 k.2 (p.mt || uncached) p.home n

/-- Write at a place. -/
def writePlace (s : State) (d : Door) (hm : Hm) (p : Place) (uncached : Bool) (bs : List Byte) : State :=
  let k := placeKey s hm p
  homeWrite s d hm k.1 k.2 (p.mt || uncached) p.home bs

/-- Bytes of a list that starts at an address, with those of another list over them. -/
def overlay (a : Nat) (old : List Byte) (b : Nat) (bs : List Byte) : List Byte :=
  old.mapIdx (fun i x => if b ≤ a + i ∧ a + i < b + bs.length then bs.getD (a + i - b) x else x)

/-- A store that its home has not acknowledged (R241), with what its bytes hold if it is lost: the bytes before it, or
those of a later store; it carries the hallmark of its access (R36, R253). -/
def notePending (s : State) (h : Nat) (t : Option Nat) (hm : Hm) (a : Nat) (old before bs : List Byte) (done : Bool) : State :=
  { s with stores := s.stores.map (fun p => { p with old := overlay p.addr p.old a bs }) ++
      [{ wg := h, tidx := t, hm := hm, addr := a, old := old, before := before, done := if done then some s.now else none,
         seen := [], remote := isRemote a, issued := s.now }] }

/-- The bytes that an access under a key finds in memory before it writes them. -/
def bytesBefore (s : State) (key : Option (BitVec 128)) (a n : Nat) : List Byte :=
  if isLocal a then localView s key a n else readBytes s.mem a n

/-! ## Reads of stores that are not yet performed (R60 to R67; log entry 8) -/

/-- A read as it goes back through the pending stores, the last first: its bytes, those that a store has fixed, the stores, and
how many choices it has made; whether it reads every store, as an access to an MT = 01 leaf does at the line's home (R52). -/
structure Past where
  bytes : List Byte
  fixed : List Bool
  stores : List PendStore
  picks : Nat
  all : Bool := false

/-- A pending store that a read of a workgroup meets. One of its own, one that it has read before, one that it must read, or one
below a store that it reads, is read; of any other the read takes the bytes or those before it, as a free choice. A store that
a thread other than its own reads is performed for every thread (R66). -/
def backPast (s : State) (h : Nat) (t : Option Nat) (hm : Hm) (a : Nat) (p : PendStore) (r : Past) : Past :=
  let meets (i : Nat) : Bool := decide (p.addr ≤ a + i ∧ a + i < p.addr + p.before.length)
  let at' := (List.range r.bytes.length).filter meets
  if p.remote || at'.isEmpty then { r with stores := p :: r.stores }
  else
    let must := r.all || p.wg == h || p.hm != hm || p.seen.contains h || at'.any (fun i => r.fixed.getD i false) ||
      (match p.done with
       | some c => decide (c < (wgAt s h).floor)
       | none => false)
    if must || Config.pick (s.fresh + 1 + r.picks) % 2 == 0 then
      { r with
        fixed := r.fixed.mapIdx (fun i x => x || meets i)
        stores := (if p.wg == h && p.tidx == t && t.isSome then p
          else { p with done := some (p.done.getD s.now), seen := if p.seen.contains h then p.seen else h :: p.seen }) :: r.stores
        picks := r.picks + 1 }
    else { r with bytes := overlay a r.bytes p.addr p.before, stores := p :: r.stores, picks := r.picks + 1 }

/-- What a read of a workgroup's thread or command takes, where memory holds some bytes. -/
def readPast (s : State) (h : Nat) (t : Option Nat) (hm : Hm) (a : Nat) (bs : List Byte) (all : Bool := false) :
    List Byte × State :=
  let r := s.stores.foldr (backPast s h t hm a)
    { bytes := bs, fixed := bs.map (fun _ => false), stores := [], picks := 0, all := all }
  if r.picks = 0 then (bs, s) else (r.bytes, { s with stores := r.stores, fresh := s.fresh + 1 + r.picks })

/-- Whether a write of a launch under the capture pass of a kernel replay must wait for its page's pre-image (R292). -/
def preImageDue (s : State) (h a : Nat) : Bool :=
  match s.replay with
  | some r => r.pass == 0 && (wgAt s h).launch == r.launch && !r.pages.contains (a / 4096)
  | none => false

/-- What ends a kernel replay early (R293): its first status stands until the replay reports it. -/
def endReplay (s : State) (h : Nat) (status : Byte) : State :=
  match s.replay with
  | some r =>
    if (wgAt s h).launch = r.launch ∧ r.status = 0 then { s with replay := some { r with status := status } } else s
  | none => s

/-- A write outside local HBM ends a kernel replay (R293). -/
def replayWrite (s : State) (h a : Nat) : State := if isLocal a then s else endReplay s h 0x02

/-- Count what an access of a lane finds in the L1 (R290); a remote line and one with MT = 01 are never there (R49). -/
def countL1 (s : State) (l : Nat) (hm : Hm) (p : Place) (n : Nat) : State :=
  if isRemote p.home || p.mt then s
  else countBy s l (if l1Hit s s.iss.core (placeKey s hm p).1 p.home n then 0x08 else 0x09) 1

/-- A lane's load of `n` bytes (R367, R56). -/
def loadGlobal (l : Nat) (va : DWord) (n : Nat) (o : AccOrd) (hint : Hint) : Act Nat := do
  let p ← checkGlobal l va n true false (raceChecked o) false
  consume p va n (accInfo n false false false) none
  let s ← get
  ordAcc (homeOf s s.iss.core s.iss.slot l) o
  let s ← get
  let i := s.iss
  let hm := accessHm s i.core i.slot
  let r := readPlace (countL1 s l hm p n) (.core i.core hint) hm p false n
  let r := readPast r.2 (homeOf s i.core i.slot l) ((threadAt s i.core i.slot l).map Thread.tidx) hm p.home r.1 p.mt
  set r.2
  pure (natOf r.1)

/-- What a lane's write at a checked place does (R367, R79, R241). Memory holds its bytes from its issue; until it is
acknowledged, other workgroups may read what stood before it (log entry 8), but for an atomic's and one to an MT = 01 leaf, which
are performed at their home at once (R52, R373). -/
def performWrite (s : State) (l : Nat) (d : Door) (p : Place) (uncached checked : Bool) (bs : List Byte) : State :=
  let i := s.iss
  let hm := accessHm s i.core i.slot
  let h := homeOf s i.core i.slot l
  let old := readBytes s.mem p.home bs.length
  let before := bytesBefore s (placeKey s hm p).2 p.home bs.length
  let s := writePlace s d hm p uncached bs
  let s := if checked then recordWrite s h p.home bs.length else s
  let s := replayWrite s h p.home
  notePending s h ((threadAt s i.core i.slot l).map Thread.tidx) hm p.home old before bs
    (p.mt || (match d with | .atomic _ _ => true | _ => false))

/-- A seq_cst store is performed for every thread before its thread goes on (R64). -/
def afterStore (s : State) (h : Nat) : AccOrd → State
  | .marked .sc _ => showStores s h
  | _ => s

/-- A lane's store of the low `n` bytes of a number (R367). -/
def storeGlobal (l : Nat) (va : DWord) (n : Nat) (x : Nat) (o : AccOrd) (hint : Hint) : Act Unit := do
  let p ← checkGlobal l va n false true (raceChecked o) false
  let s ← get
  let h := homeOf s s.iss.core s.iss.slot l
  if preImageDue s h p.home then waitFor (.preImage (p.home / 4096))
  else
    ordAcc h o
    let s ← get
    let s := countL1 s l (accessHm s s.iss.core s.iss.slot) p n
    set (afterStore (performWrite s l (.core s.iss.core hint) p false (raceChecked o) (bytesOf n x)) h o)

/-- A lane's atomic on `n` bytes: the old value, and what is written in its place, if anything. It is performed at the
line's home slice, in the L2 for host memory, and at the home device for remote memory (R373, R374), to which `req` goes:
its code and operand (R307, R444). -/
def atomicGlobal (l : Nat) (va : DWord) (n : Nat) (o : MOrder) (sc : Scope) (req : BitVec 4 × List Byte)
    (f : Nat → Option Nat) : Act Nat := do
  let ao := AccOrd.marked o sc
  let p ← checkGlobal l va n true true (raceChecked ao) true
  consume p va n (accInfo n true false true) (some req)
  let s ← get
  let i := s.iss
  let h := homeOf s i.core i.slot l
  if preImageDue s h p.home then waitFor (.preImage (p.home / 4096))
  else
    order h o sc
    let s ← get
    let d : Door := .atomic req.1 req.2
    let r := readPlace s d (accessHm s i.core i.slot) p (isRemote p.home) n
    let old := natOf r.1
    let u := readNewest r.2 [h] p.home n
    match f old with
    | some y => set (performWrite u l d p (isRemote p.home) (raceChecked ao) (bytesOf n y))
    | none => set u
    pure old

/-! ## Scratchpad accesses of a thread (R46, R111) -/

/-- The workgroups of a workgroup's team, in rank order. -/
def teamWgs (s : State) (h : Nat) : List Nat := ((Tab.get? s.teams (wgAt s h).team).map Team.wgs).getD [h]

/-- The checks on a scratchpad access: rank and offset, then alignment; the workgroup and offset. -/
def checkSpad (l : Nat) (a : Word) (n : Nat) (wr atm : Bool) : Act (Nat × Nat) := do
  let s ← get
  let own := homeOf s s.iss.core s.iss.slot l
  let info := accInfo n wr false atm
  let va : DWord := a.setWidth 64
  let rank := field a 28 4
  let o := field a 0 28
  let ws := teamWgs s own
  let h := if rank = 15 then own else ws.getD rank own
  if rank ≠ 15 ∧ (8 ≤ rank ∨ ws.length ≤ rank) then raiseAt (0x11, 0x06) va info
  else if (wgAt s h).spg * 16384 < o + n then raiseAt (0x11, 0x06) va info
  else if a.toNat % n ≠ 0 then raiseAt (0x12, 0) va info
  else if (spadAt s h o).isNone then raiseAt (0x11, 0x06) va info
  else pure (h, o)

/-- A lane's load from scratchpad. -/
def loadSpad (l : Nat) (a : Word) (n : Nat) (o : AccOrd) : Act Nat := do
  let w ← checkSpad l a n false false
  let s ← get
  ordAcc (homeOf s s.iss.core s.iss.slot l) o
  let s ← get
  pure (natOf (spadRead s w.1 w.2 n))

/-- A lane's store to scratchpad. -/
def storeSpad (l : Nat) (a : Word) (n : Nat) (x : Nat) (o : AccOrd) : Act Unit := do
  let w ← checkSpad l a n true false
  let s ← get
  ordAcc (homeOf s s.iss.core s.iss.slot l) o
  let s ← get
  set (spadWrite s w.1 w.2 (bytesOf n x))

/-- A lane's atomic on scratchpad. -/
def atomicSpad (l : Nat) (a : Word) (n : Nat) (o : MOrder) (sc : Scope) (f : Nat → Option Nat) : Act Nat := do
  let w ← checkSpad l a n true true
  let s ← get
  order (homeOf s s.iss.core s.iss.slot l) o sc
  let s ← get
  let old := natOf (spadRead s w.1 w.2 n)
  match f old with
  | some y => set (spadWrite s w.1 w.2 (bytesOf n y))
  | none => set s
  pure old

/-! ## Taking a trap: the dugout (R220 to R226) -/

/-- Note when an engine fault record of a kind was posted (R230): 1 of the copy queue, 2 of the matrix queue, 3 of the
network. -/
def noteFault (s : State) (c kind n : Nat) : State :=
  { modCore s c (fun k => { k with faultSeq := Tab.set k.faultSeq (4 * n + kind) s.stamp }) with stamp := s.stamp + 1 }

/-- Write bytes of the umpire's scratchpad on a core (R224, R232). -/
def umpSpadWrite (s : State) (c o : Nat) (bs : List Byte) : State :=
  match pageWith (coreAt s c) 16 2 (o / 16384) with
  | some p => modCore s c (fun k => setPoolBytes k (p * 16384 + o % 16384) bs)
  | none => s

/-- The words of a list as bytes. -/
def wordsBytes (ws : List DWord) : List Byte := ws.flatMap (fun w => bytesOf 8 w.toNat)

/-- The distinct 4 KiB pages of some addresses, each with its lowest address, in order of first appearance (R224). -/
def pageAddrs : List DWord → List DWord
  | [] => []
  | a :: r =>
    let same := r.filter (fun b => b.toNat / 4096 = a.toNat / 4096)
    let low := same.foldl (fun m b => if b.toNat < m.toNat then b else m) a
    low :: (pageAddrs r).filter (fun b => b.toNat / 4096 ≠ a.toNat / 4096)

/-- Word 0x18 of a record (R224). -/
def infoWord (op : Nat) (sig : Bool) (info : Word) : DWord :=
  BitVec.ofNat 64 (op % 1024 * 2 ^ 16 + (if sig then 2048 else 0) + info.toNat % 2048)

/-- The 320 bytes of a dugout record (R224). -/
def recordWords (e : DugEntry) (cbase : DWord) (prog : Nat) : List DWord :=
  [BitVec.ofNat 64 (e.cause.toNat * 2 ^ 56 + e.detail.toNat * 2 ^ 48 + e.hm.toNat * 2 ^ 34 + e.slot * 2 ^ 29 +
     (if e.eng then 2 ^ 28 else 0) + (if e.eng then e.tag.toNat * 2 ^ 22 else 0) + e.addrs.length * 2 ^ 16 +
     (if e.eng then e.qix * 2 ^ 10 else 0)),
   pair e.pc e.lanes, cbase, e.info, BitVec.ofNat 64 prog, 0, 0, 0] ++
    (e.addrs ++ List.replicate (32 - e.addrs.length) 0)

/-- A free entry of the dugout: the lowest (log entry 10). -/
def dugoutFree (k : Core) : Option Nat := Tab.freeKey k.dugout 32 0

/-- Take an exception: a group of lanes of a user slot parks at an instruction with one cause and detail. The record
saves the pc, the lanes and the code base; every lane's state becomes Parked, and the latch values that the
instruction read stay with it (R222, R224, R130). -/
def parkGroup (s : State) (c n : Nat) (ls : List Nat) (t : TrapInfo) (pc : Word) (op : Nat) (addrs : List DWord)
    (kept : Nat → Tab DWord) : State :=
  match dugoutFree (coreAt s c) with
  | none => s
  | some e =>
    let th := threadAt s c n (ls.headD 0)
    let sig := ((th.bind Thread.handler)).isSome
    let rec_ : DugEntry :=
      { slot := n, lanes := maskOf ls, pc := pc, cause := t.cause, detail := t.detail, hm := slotHm s c n,
        eng := t.eng.isSome, tag := (t.eng.map Prod.fst).getD 0, qix := (t.eng.map (fun x => x.2.1)).getD 0,
        addrs := pageAddrs addrs, info := infoWord op sig t.info, seq := s.stamp }
    let s := { s with stamp := s.stamp + 1 }
    let s := modCore s c (fun k => { k with dugout := Tab.set k.dugout e rec_ })
    let cb := (th.map Thread.cbase).getD 0
    let s := umpSpadWrite s c (320 * e) (wordsBytes (recordWords rec_ cb ((t.eng.map (fun x => x.2.2)).getD 0)))
    ls.foldl (fun s l => modThread s c n l (fun th =>
      { th with st := .parked e, pc := pc, kept := kept l })) s

/-- What an entry's threads keep once they are detached (R226). -/
def DugEntry.park (d : DugEntry) : Park := { seq := d.seq, eng := d.eng, tag := d.tag, addrs := d.addrs, info := d.info }

/-- The oldest entry of the dugout (R225). -/
def oldestEntry (k : Core) : Option Nat :=
  (k.dugout.foldl (fun (b : Option (Nat × Nat)) e =>
    match b with
    | none => some (e.1, e.2.seq)
    | some (j, q) => if e.2.seq < q then some (e.1, e.2.seq) else some (j, q)) none).map Prod.fst

/-- Free an entry of the dugout (R226). -/
def freeEntry (s : State) (c e : Nat) : State := modCore s c (fun k => { k with dugout := Tab.del k.dugout e })

end Sys2Proof.Machine
end

