-- ==== Sys2Proof/Machine/Release.lean ====
section
/-!
DEFINITION. What ends work: the host service queue's entries (R440, R441), completion counters and cancel (R182 to
R185), exit and kill of workgroups and teams (R249 to R252, R463), poison and ended contexts (R257, R258), and a
restart of Ninal (R231).
-/

namespace Sys2Proof.Machine

/-! ## The outbound ring (R440, R441) -/

/-- The address of a ring's entry in host memory. -/
def ringAddr (base size : DWord) (i : Nat) : Nat := 2 ^ 48 + (base.toNat + 64 * (i % max 1 size.toNat)) % 2 ^ 48

/-- Write entries to the outbound ring while it has room; the others stay on the die, in order (R440). Each advance of TAIL
is a release at system scope, of the device's own accesses too. -/
def drainOut (s : State) : Nat → State
  | 0 => s
  | n + 1 =>
    match s.host.outHeld with
    | [] => s
    | e :: r =>
      if s.host.otail.toNat - s.host.ohead.toNat < s.host.osize.toNat ∧ releaseStalls s devHm = false then
        let s := hostLink (releaseRemote s devHm)
        let s := { s with mem := writeBytes s.mem (ringAddr s.host.obase s.host.osize s.host.otail.toNat) (wordsBytes e) }
        drainOut { s with host := { s.host with
          outHeld := r, outRing := s.host.outRing ++ [e], otail := s.host.otail + 1, msix := s.host.msix ++ [(actPort s, 0)] } } n
      else s

/-- Post an entry: its TYPE, its core or 0xFF, its hallmark, and seven words of payload (R441). -/
def post (s : State) (type core : Nat) (hm : Hm) (payload : List DWord) : State :=
  let w0 := BitVec.ofNat 64 (type * 2 ^ 56 + core * 2 ^ 48 + hm.toNat * 2 ^ 34 + s.host.outSeq.toNat)
  let s := { s with host := { s.host with
    outSeq := s.host.outSeq + 1, outHeld := s.host.outHeld ++ [(w0 :: payload ++ List.replicate 7 0).take 8] } }
  drainOut s s.host.outHeld.length

/-- A containment report (R261). -/
def report (s : State) (kind carrier out loc : Nat) (hm : Hm) (addr : Nat) (lid : Word) (team gen : Nat) (pc : Word) :
    State :=
  post s 0x02 0xFF hm
    [BitVec.ofNat 64 (kind * 2 ^ 56 + carrier * 2 ^ 48 + out * 2 ^ 40 + loc * 2 ^ 32 + hm.toNat * 2 ^ 18),
     BitVec.ofNat 64 addr, BitVec.ofNat 64 (lid.toNat * 2 ^ 32 + team), BitVec.ofNat 64 (gen * 2 ^ 32 + pc.toNat)]

/-- The thread's cause, detail and PC in a kill report (R252). -/
structure Blame where
  cause : Byte
  detail : Byte
  pc : Word
  deriving DecidableEq, Repr

/-- Where no thread caused a kill. -/
def Blame.none : Blame := { cause := 0, detail := 0, pc := 0xFFFFFFFF }

/-- A kill report (R252); its fields' places are log entry 22's. -/
def killReport (s : State) (hm : Hm) (lid : Word) (team : Nat) (reason : Byte) (b : Blame) : State :=
  post s 0x01 0xFF hm
    [BitVec.ofNat 64 (lid.toNat * 2 ^ 32 + team),
     BitVec.ofNat 64 (b.pc.toNat * 2 ^ 32 + b.detail.toNat * 2 ^ 16 + b.cause.toNat * 2 ^ 8 + reason.toNat)]

/-- The answer to a team request (R464): its launch id, team, reason, operation and status. -/
def teamAnswer (s : State) (hm : Hm) (lid : Word) (team reason op status : Nat) : State :=
  post s 0x0B 0xFF hm
    [BitVec.ofNat 64 (lid.toNat * 2 ^ 32 + team), BitVec.ofNat 64 (reason * 256 + op), BitVec.ofNat 64 status]

/-- The operation that a save was asked for by (R464). -/
def StopKind.op : StopKind → Nat
  | .spill => 2
  | _ => 1

/-! ## Accesses in a context that no thread makes (R237, R244) -/

/-- A walk that read a poisoned entry consumed it, to be settled when the step ends (R256, R257). -/
def walkMetPoison (s : State) (hm : Hm) (va : DWord) (o : Outcome) : State :=
  { s with consumed := s.consumed ++ (consumedPte s hm va o).toList.map (fun a => (a, hm)) }

/-- Write bytes within one line in a context, or fail. -/
def ctxWriteLine (s : State) (c : Nat) (hm : Hm) (va : DWord) (bs : List Byte) : State × Bool :=
  match place s c hm va .write with
  | (s, .error o) => (walkMetPoison s hm va o, false)
  | (s, .ok p) => (writePlace s .home hm p false bs, true)

/-- Bytes of a list cut at line boundaries. -/
def linePieces (a : Nat) (bs : List Byte) : Nat → List (Nat × List Byte)
  | 0 => []
  | fuel + 1 =>
    match bs with
    | [] => []
    | _ :: _ =>
      let k := 64 - a % 64
      (a, bs.take k) :: linePieces (a + k) (bs.drop k) fuel

/-- Write bytes in a context; false where some of them could not be written. -/
def ctxWrite (s : State) (c : Nat) (hm : Hm) (va : DWord) (bs : List Byte) : State × Bool :=
  (linePieces va.toNat bs bs.length).foldl
    (fun r p => if r.2 then ctxWriteLine r.1 c hm (BitVec.ofNat 64 p.1) p.2 else r) (s, true)

/-- Read bytes within one line in a context. -/
def ctxReadLine (s : State) (c : Nat) (hm : Hm) (va : DWord) (n : Nat) : State × Option (List Byte) :=
  match place s c hm va .read with
  | (s, .error o) => (walkMetPoison s hm va o, none)
  | (s, .ok p) =>
    if isPoisoned s p.home n then ({ s with consumed := s.consumed ++ [(poisonAt s p.home n, hm)] }, none)
    else if remoteEnd s hm p.mt p.home n != .answered && !routingDown s then (askRead s hm p.mt p.home n, none)
    else
      let r := readPlace s .home hm p false n
      (r.2, some r.1)

/-- Read bytes in a context, line by line; none where some of them could not be read. -/
def ctxRead (s : State) (c : Nat) (hm : Hm) (va : DWord) (n : Nat) : State × Option (List Byte) :=
  (linePieces va.toNat (List.replicate n 0) n).foldl
    (fun r p =>
      match r.2 with
      | none => r
      | some bs =>
        match ctxReadLine r.1 c hm (BitVec.ofNat 64 p.1) p.2.length with
        | (s, some b) => (s, some (bs ++ b))
        | (s, none) => (s, none)) (s, some [])

/-- The address of an offset in the save record of a workgroup (R244). -/
def saveAddr (s : State) (hm : Hm) (sri off : Nat) : DWord :=
  BitVec.ofNat 64 ((descOf s hm).savebase.toNat + sri * 0x200000 + off)

/-- The mailbox of a thread of a workgroup (R234, R244). -/
def mailboxAt (s : State) (w : Wg) (t : Nat) : DWord := saveAddr s w.hm w.sri (0x1000 + 64 * t)

/-! ## Reservations and the operand buffer (R112 to R116) -/

/-- Free the granules of a reservation: its bytes become undefined to the next holder and are not kept. -/
def bufDrop (t : Tab Byte) (base size : Nat) : Tab Byte :=
  t.filter (fun e => !decide (base * 1024 ≤ e.1 ∧ e.1 < (base + size) * 1024))

/-- Free the granules of some reservations of a core. -/
def dropGranules (k : Core) (rs : List Resv) : Core :=
  { k with
    buf := rs.foldl (fun t r => bufDrop t r.base r.size) k.buf
    cleanBuf := k.cleanBuf.filter (fun e => !rs.any (fun r => decide (r.base ≤ e.1 ∧ e.1 < r.base + r.size))) }

/-! ## Engine commands that end with their workgroup (R101) -/

/-- The waiters of a queued or walking miss without some commands. -/
def dropWaiters (s : State) (gone : Waiter → Bool) : State :=
  { s with
    courtQ := s.courtQ.map (fun e => (e.1, e.2.map (fun m => { m with who := m.who.filter (fun w => !gone w) })))
    walkers := s.walkers.map (fun e => (e.1, { e.2 with who := e.2.who.filter (fun w => !gone w) })) }

/-- Discard the engine commands of a workgroup, and the fault records of those that stand stopped. -/
def dropCommands (s : State) (h : Nat) : State :=
  let c := (wgAt s h).core
  let k := coreAt s c
  let cs := (k.copyQ.filter (fun e => e.2.wg = h)).map Prod.fst
  let ms := (k.mtxQ.filter (fun e => e.2.wg = h)).map Prod.fst
  let s := dropWaiters s (fun w =>
    match w with
    | .copy c' n => c' == c && cs.contains n
    | .mtx c' n => c' == c && ms.contains n
    | .core _ _ | .net => false)
  modCore s c (fun k =>
    { k with
      copyQ := k.copyQ.filter (fun e => e.2.wg != h)
      mtxQ := k.mtxQ.filter (fun e => e.2.wg != h)
      engFaults := k.engFaults.filter (fun n => !cs.contains n)
      drainFaults := k.drainFaults.filter (fun n => !ms.contains n) })

/-! ## Tiles (R117 to R119, R244 to R248, R462, R463) -/

/-- The core tile slots of a workgroup, in the order of its accumulator pages (R117, R462). -/
def tileSlots (s : State) (h : Nat) : List Nat :=
  let w := wgAt s h
  ((List.range ((w.acc + w.shd + 3) / 4)).filterMap (fun i => pageWith (coreAt s w.core) (firstSlot w) 3 i)).flatMap
    (fun p => [4 * p, 4 * p + 1, 4 * p + 2, 4 * p + 3])

/-- The place of a workgroup's own tile in the tile images of its save record: accumulator slots first (R244). -/
def tileImage (w : Wg) (t : Nat) : Nat :=
  match w.bind.find? (fun e => e.2 = t) with
  | some e => e.1
  | none =>
    let free := (List.range (w.acc + w.shd)).filter (fun i => !(w.bind.any (fun e => e.2 = i)))
    16 + (free.findIdx? (· == t)).getD 0

/-- The 4,096 bytes of a core tile slot. -/
def tileBytes (k : Core) (ts : Nat) : List Byte := poolBytes k (4096 * ts) 4096

/-- Zero a tile slot and clear its owner (R247). -/
def clearTile (s : State) (c ts : Nat) : State :=
  modCore s c (fun k =>
    { k with
      pool := k.pool.filter (fun e => e.1 / 1024 != ts)
      cleanPool := k.cleanPool.filter (fun e => e.1 / 4 != ts)
      accown := Tab.del k.accown ts })

/-- The saved workgroup of a hallmark whose residence map names a core's tile slot (R245). -/
def residentOf (s : State) (hm : Hm) (c ts : Nat) : Option (Saved × WgImage × Nat) :=
  s.saved.findSome? (fun v =>
    v.images.findSome? (fun g =>
      if g.2.wg.hm = hm then
        (g.2.wg.resident.find? (fun e => e.2 = 256 * c + ts)).map (fun e => (v, g.2, e.1))
      else none))

/-- Take a tile out of every residence map. -/
def unreside (s : State) (c ts : Nat) : State :=
  { s with saved := s.saved.map (fun v =>
      { v with images := v.images.map (fun g =>
          (g.1, { g.2 with wg := { g.2.wg with resident := g.2.wg.resident.filter (fun e => e.2 != 256 * c + ts) } })) }) }

/-- Whether a 16-bit ACCOWN entry names an owner, and which (R119). -/
def accV (x : Half) : Bool := bitAt x 15
def accHm (x : Half) : Hm := x.extractLsb' 0 14

/-! ## Completion counters, launches and cancel (R182 to R185) -/

/-- Add 1 to a completion counter (R183). -/
def advanceCounter (s : State) (n : Nat) : State :=
  { s with counters := Tab.adjust s.counters n (fun k => { k with value := k.value + 1 }) }

/-- Set CANC on a counter. -/
def setCanc (s : State) (n : Nat) : State := { s with counters := Tab.adjust s.counters n (fun k => { k with canc := true }) }

/-- Whether a counter's entry is valid and of a context. -/
def ownsCounter (s : State) (n : Nat) (hm : Hm) : Bool :=
  ((Tab.get? s.counters n).map (fun k => k.v && k.hm == hm)).getD false

/-- The counters that a launch record names: launch, graph and job counter (R206). A child's launch counter 0 is none. -/
def Launch.lcnt (l : Launch) : Option Nat :=
  let n := field (l.words.getD 4 0) 0 12
  if l.child && n == 0 then none else some n
def Launch.gcnt (l : Launch) : Nat := field (l.words.getD 4 0) 12 12
def Launch.jcnt (l : Launch) : Nat := field (l.words.getD 4 0) 24 12
/-- The number of teams of a launch, their size, and the threads of a workgroup (R206). -/
def Launch.tcount (l : Launch) : Nat := field (l.words.getD 3 0) 40 24
def Launch.tsize (l : Launch) : Nat := field (l.words.getD 3 0) 36 4
def Launch.nthreads (l : Launch) : Nat := field (l.words.getD 3 0) 26 10
/-- The waits of a launch: pairs of counter and target (R184, R206). -/
def Launch.waits (l : Launch) : List (Nat × Nat) :=
  let c := l.words.getD 5 0
  let a := l.words.getD 6 0
  let b := l.words.getD 7 0
  if l.child then []
  else [(field c 0 12, field a 0 32), (field c 12 12, field a 32 32), (field c 24 12, field b 0 32),
        (field c 36 12, field b 32 32)].filter (fun w => w.1 != 0)

/-- The counters of a launch that advance at its completion. -/
def Launch.counts (l : Launch) : List Nat :=
  l.lcnt.toList ++ (if l.gcnt = 0 then [] else [l.gcnt]) ++ (if l.jcnt = 0 then [] else [l.jcnt])

/-- A flag of a launch record's word at 0x08 (R206): RB, RS, RC and HD are bits 1 to 4. -/
def Launch.flag (l : Launch) (i : Nat) : Bool := bitAt (l.words.getD 1 0) i

/-- Change a launch. -/
def modLaunch (s : State) (i : Nat) (f : Launch → Launch) : State := { s with launches := Tab.adjust s.launches i f }

/-- Bring a queue's HEAD and COUNT up to date with its records (R204, R205). -/
def tidyQueue (s : State) (q : Nat) : State :=
  let live := s.launches.filter (fun e => e.2.queue = q && !e.2.child && !e.2.retired)
  let u := Tab.getD s.queues q Queue.reset
  let head := match live with | e :: _ => BitVec.ofNat 4 e.2.slot | [] => u.tail
  { s with queues := Tab.set s.queues q { u with head := head, count := live.length } }

/-- The teams of a launch that are resident or saved. -/
def launchLive (s : State) (i : Nat) : Bool :=
  s.teams.any (fun e => e.2.launch = i) || s.saved.any (fun v => v.launch = i)

/-- Change the child counter of a workgroup, wherever it stands (R189); a rollback leaves it as it is, so a snapshot's image
follows it (R273). -/
def tallyChild (s : State) (h : Nat) (f : Half → Half) : State :=
  let inn (l : Tab WgImage) : Tab WgImage := Tab.adjust l h (fun g => { g with wg := { g.wg with children := f g.wg.children } })
  let s := modWg s h (fun w => { w with children := f w.children })
  { s with
    teams := s.teams.map (fun e => (e.1, { e.2 with snap := { e.2.snap with images := inn e.2.snap.images } }))
    saved := s.saved.map (fun v => { v with images := inn v.images, snap := { v.snap with images := inn v.snap.images } }) }

/-- The child counter of a workgroup falls (R189). -/
def childDone (s : State) (parent : Option Nat) : State :=
  match parent with
  | some h =>
    tallyChild s h (· - 1)
  | none => s

/-- Complete a launch when nothing of it is left (R183): its counters advance, unless its record was rejected or its
child was retired (R207, R468), as releases at system scope (R76); a launch under kernel replay waits for its last pass (R292). -/
def completeLaunch (s : State) (i : Nat) : State :=
  match Tab.get? s.launches i with
  | none => s
  | some l =>
    let ended := l.cancelled || l.failed || (decide (l.tcount ≤ l.nextTeam) && l.again.isEmpty)
    let held := match s.replay with | some r => r.launch == i | none => false
    if ended && !launchLive s i && !held && !releaseStalls s l.hm then
      let s := { s with launches := Tab.del s.launches i }
      let s := if l.child then s else tidyQueue s l.queue
      if l.failed then s else childDone (l.counts.foldl advanceCounter (releaseRemote s l.hm)) l.parent
    else s

/-! ## Exit and kill of a workgroup (R249, R250, R463) -/

/-- Spill a resident tile of a saved workgroup to its save record, and clear the slot; false where the record could not
be written (R247, R463). -/
def spillTile (s : State) (c ts : Nat) (g : WgImage) (t : Nat) : State × Bool :=
  let bs := tileBytes (coreAt s c) ts
  let r := ctxWrite s c g.wg.hm (saveAddr s g.wg.hm g.wg.sri (0x190000 + 4096 * tileImage g.wg t)) bs
  (clearTile (unreside r.1 c ts) c ts, r.2)

/-- An open service call of a killed team is abandoned: ST of the mailbox of thread t goes to 00 (R250). -/
def abandonCall (s : State) (w : Wg) (t : Nat) : State :=
  let a := mailboxAt s w t
  match ctxRead s w.core w.hm a 8 with
  | (s, some bs) => (ctxWrite s w.core w.hm a (bytesOf 8 (natOf bs - 2 ^ 48))).1
  | (s, none) => s

/-- The threads of a workgroup whose mailbox has ST = 01, whether they wait for the reply or a rollback took them back (R234,
R273). -/
def openMailboxes (s : State) (w : Wg) : List Nat :=
  (List.range w.nthreads).filter (fun t =>
    match (ctxRead s w.core w.hm (mailboxAt s w t) 8).2 with
    | some bs => natOf bs / 2 ^ 48 % 4 = 1
    | none => false)

/-- The open service calls of a workgroup are abandoned (R250). -/
def abandonCalls (s : State) (w : Wg) : State := (openMailboxes s w).foldl (fun s t => abandonCall s w t) s

/-- The open service calls of a saved team are abandoned (R250). -/
def abandonSaved (s : State) (v : Saved) : State := v.images.foldl (fun s g => abandonCalls s g.2.wg) s

/-- The pages that a saved workgroup still retains: (core, page) (R245, R246). -/
def retainedBy (s : State) (g : WgImage) : List (Nat × Nat) :=
  (g.kept.filter (fun p =>
    match Tab.get? (coreAt s g.wg.core).pageMap p with
    | some x => field x 11 2 == 3 && field x 13 5 == 31 && field x 18 14 == g.wg.hm.toNat
    | none => false)).map (fun p => (g.wg.core, p))

/-- A retained page that a placement takes is no saved workgroup's any more (R246). -/
def unkeepPage (s : State) (c p : Nat) : State :=
  { s with saved := s.saved.map (fun v =>
      { v with images := v.images.map (fun g =>
          (g.1, if g.2.wg.core = c then { g.2 with kept := g.2.kept.filter (· != p) } else g.2)) }) }

/-- The resident tiles of a saved team are scrubbed, and its retained pages freed once the tiles of other owners in them are
spilled (R246, R247); `kill` ends an owner whose record cannot be written. -/
def scrubSaved (kill : State → Saved → State) (s : State) (v : Saved) : State :=
  let mine := v.images.flatMap (fun g => g.2.wg.resident.map Prod.snd)
  let s := mine.foldl (fun s r => clearTile s (r / 256) (r % 256)) s
  let pages := v.images.flatMap (fun g => retainedBy s g.2)
  let s := pages.foldl (fun s p =>
    [0, 1, 2, 3].foldl (fun s i =>
      let ts := 4 * p.2 + i
      match residentOf s (accHm (Tab.getD (coreAt s p.1).accown ts 0)) p.1 ts with
      | some (u, g, t) =>
        let r := spillTile s p.1 ts g t
        if r.2 then r.1 else kill r.1 u
      | none => s) s) s
  pages.foldl (fun s p =>
    modCore s p.1 (fun k =>
      { zeroPages k [p.2] with
        pageMap := Tab.del k.pageMap p.2
        accown := k.accown.filter (fun e => e.1 / 4 != p.2) })) s

/-- Kill a saved team (R250 to R252): its calls are abandoned, its tiles scrubbed and its pages freed; an owner of another
tile there whose record cannot be written is killed in its turn, `fuel` deep. -/
def killSavedBy (fuel : Nat) (s : State) (v : Saved) (reason : Byte) : State :=
  let lid := ((Tab.get? s.launches v.launch).map Launch.id).getD 0
  let hm := ((v.images.head?).map (fun g => g.2.wg.hm)).getD devHm
  let s := abandonSaved { s with saved := s.saved.filter (fun x => x.team != v.team) } v
  let s := match fuel with
    | 0 => scrubSaved (fun s _ => s) s v
    | n + 1 => scrubSaved (fun s u => killSavedBy n s u 0x07) s v
  let s := killReport s hm lid v.number reason Blame.none
  let s := (List.range v.asks).foldl (fun s _ => teamAnswer s hm lid v.number 0 3 4) s
  completeLaunch s v.launch

/-- Kill a saved team whose save record could not be written or read, or for another reason (R250 to R252). -/
def killSaved (s : State) (v : Saved) (reason : Byte) : State := killSavedBy s.saved.length s v reason

/-- Spill or zero one tile slot that another hallmark owns (R247, R463). -/
def settleTile (s : State) (c ts : Nat) : State :=
  match residentOf s (accHm (Tab.getD (coreAt s c).accown ts 0)) c ts with
  | some (v, g, t) =>
    let r := spillTile s c ts g t
    if r.2 then r.1
    else clearTile (match r.1.saved.find? (fun x => decide (x.launch = v.launch ∧ x.number = v.number)) with
      | some v => killSaved r.1 v 0x07
      | none => r.1) c ts
  | none => clearTile s c ts

/-- Free the pool pages of a workgroup, scrubbed (R109, R249, R463). -/
def freePages (s : State) (h : Nat) : State :=
  let w := wgAt s h
  let c := w.core
  let foreign := (tileSlots s h).filter (fun ts =>
    let x := Tab.getD (coreAt s c).accown ts 0
    accV x && accHm x != w.hm)
  let s := foreign.foldl (fun s ts => settleTile s c ts) s
  modCore s c (fun k =>
    let ps := (k.pageMap.filter (fun e => decide (field e.2 13 5 = firstSlot w ∧ field e.2 11 2 ≠ 0))).map Prod.fst
    let k := zeroPages k ps
    { k with
      pageMap := k.pageMap.filter (fun e => !ps.contains e.1)
      accown := k.accown.filter (fun e => !ps.contains (e.1 / 4)) })

/-- The dugout entries and detached parks of a workgroup's threads end with it (R226, R249, R250). -/
def dropParks (s : State) (h : Nat) : State :=
  let c := (wgAt s h).core
  let mine (n l : Nat) : Bool := decide (homeOf s c n l = h)
  modCore s c (fun k =>
    { k with dugout := k.dugout.filterMap (fun e =>
        let left := (lanesOf e.2.lanes).filter (fun l => !mine e.2.slot l)
        if left.isEmpty then none else some (e.1, { e.2 with lanes := maskOf left })) })

/-- Release what a workgroup holds (R249): it leaves its slots, pages, reservations, pins and commands. -/
def releaseWg (s : State) (h : Nat) : State :=
  match Tab.get? s.wgs h with
  | none => s
  | some w =>
    let s := dropParks (dropCommands s h) h
    let s := dropRuns (freePages s h) w.core w.slots.contains
    let s := modCore s w.core (fun k =>
      { dropGranules k (k.resvs.filter (fun r => r.wg = h)) with
        resvs := k.resvs.filter (fun r => r.wg != h)
        pins := k.pins.filter (fun p => p.1 != h)
        slots := k.slots.filter (fun e => !w.slots.contains e.1) })
    { s with wgs := Tab.del s.wgs h }

/-- Every thread of a workgroup, wherever it stands on its core: (slot, lane, thread). -/
def threadsOf (s : State) (h : Nat) : List (Nat × Nat × Thread) :=
  (coreAt s (wgAt s h).core).slots.flatMap (fun e =>
    e.2.threads.filterMap (fun t => if t.2.home = h then some (e.1, t.1, t.2) else none))

/-- Whether a workgroup holds a live thread. -/
def wgLive (s : State) (h : Nat) : Bool := (threadsOf s h).any (fun t => t.2.2.live)

/-- The workgroups of the set that a workgroup is bound into (R196). -/
def boundSet (s : State) (h : Nat) : List Nat :=
  match (wgAt s h).bound with
  | none => [h]
  | some b =>
    (s.wgs.filter (fun e => e.2.bound == some b && e.2.core == (wgAt s h).core)).map Prod.fst

/-- Let a team go once none of its workgroups is left, and complete its launch (R183); a save asked for it can no longer be
carried out (R464). -/
def tidyTeam (s : State) (t : Nat) : State :=
  match Tab.get? s.teams t with
  | none => s
  | some m =>
    if m.wgs.all (fun h => (Tab.get? s.wgs h).isNone) then
      let s := { s with teams := Tab.del s.teams t }
      let l := Tab.get? s.launches m.launch
      let s := (m.stop.map Stop.asks).getD [] |>.foldl (fun s op =>
        teamAnswer s ((l.map Launch.hm).getD devHm) ((l.map Launch.id).getD 0) m.number 0 op 1) s
      let s := if s.replay.isSome then
          modLaunch s m.launch (fun l => { l with digests := Tab.set l.digests m.number m.digest })
        else s
      completeLaunch s m.launch
    else s

/-- Whether an engine command of a workgroup, other than a held one, has not ended (R101). -/
def commandsLeft (s : State) (h : Nat) : Bool :=
  let k := coreAt s (wgAt s h).core
  k.copyQ.any (fun e => e.2.wg == h && e.2.st != .held) || k.mtxQ.any (fun e => e.2.wg == h && e.2.st != .held)

/-- Release a workgroup whose threads have all exited; a bound one waits until the threads of its whole set have, and
their commands have ended (R101, R197, R249). -/
def retireWg (s : State) (h : Nat) : State :=
  let set := boundSet s h
  if (wgAt s h).bound.isSome && set.any (fun g => wgLive s g || commandsLeft s g) then s
  else
    set.foldl (fun s h =>
      let t := (wgAt s h).team
      tidyTeam (releaseWg s h) t) s

/-! ## Kills (R250 to R252) -/

/-- Whether a thread's service call is open: it is parked with cause 0x70 (R235). -/
def callOpen (s : State) (c : Nat) (t : Thread) : Bool :=
  match t.st with
  | .parked e => ((Tab.get? (coreAt s c).dugout e).map DugEntry.cause).getD 0 == 0x70
  | .detached cause _ => cause == 0x70
  | _ => false

/-- The running commands of a killed workgroup stop with their destination ranges undefined (R101). -/
def tearCommands (s : State) (h : Nat) : State :=
  let c := (wgAt s h).core
  let k := coreAt s c
  { s with
    torn := s.torn ++ (k.copyQ.filter (fun e => e.2.wg = h ∧ e.2.st = .running)).map (fun e => (c, e.2))
    tornMtx := s.tornMtx ++ (k.mtxQ.filter (fun e => e.2.wg = h ∧ e.2.st = .running)).map (fun e => (c, e.2)) }

/-- End a workgroup of a killed team: its threads stop at their instruction boundary (R250). -/
def killWg (s : State) (h : Nat) : State :=
  match Tab.get? s.wgs h with
  | none => s
  | some w =>
    let ts := threadsOf s h
    let s := abandonCalls s w
    let s := dropParks (dropCommands (tearCommands s h) h) h
    let s := modWg s h (fun w => { w with exiting := true })
    let s := ts.foldl (fun s t => modThread s w.core t.1 t.2.1 (fun th => { th with st := .exited })) s
    retireWg s h

/-- Kill a resident team: the report, the relaunch where it is due, and what its launch then needs (R250, R252). -/
def killTeam (s : State) (t : Nat) (reason : Byte) (relaunch : Bool) (b : Blame) : State :=
  match Tab.get? s.teams t with
  | none => s
  | some m =>
    if m.killed then s
    else
      let l := (Tab.get? s.launches m.launch)
      let hm := (l.map Launch.hm).getD devHm
      let lid := (l.map Launch.id).getD 0
      let s := killReport s hm lid m.number reason b
      let s := match m.stop with
        | some p => p.asks.foldl (fun s op => teamAnswer s hm lid m.number 0 op 3) s
        | none => s
      let s := if relaunch then modLaunch s m.launch (fun l => { l with again := insertNum m.number l.again }) else s
      let s := { s with teams := Tab.adjust s.teams t (fun m => { m with killed := true, stop := none }) }
      let s := m.wgs.foldl killWg s
      completeLaunch { s with teams := s.teams.filter (fun e => !(e.1 == t && e.2.wgs.all (fun h => (Tab.get? s.wgs h).isNone))) }
        m.launch

/-- Kill every team of a launch, resident or saved, without relaunch; `why` names the thread of a team that caused it. -/
def killLaunch (s : State) (i : Nat) (reason : Byte) (why : Nat → Blame) : State :=
  let s := ((s.teams.filter (fun e => e.2.launch = i)).map Prod.fst).foldl
    (fun s t => killTeam s t reason false (why t)) s
  (s.saved.filter (fun v => v.launch = i)).foldl (fun s v => killSaved s v reason) s

/-- Whether a launch is cancelled by a counter that it names with CANC set (R185): one of its own, or one it waits on. -/
def cancelDue (s : State) (l : Launch) : Bool :=
  let canc (n : Nat) : Bool :=
    match Tab.get? s.counters n with
    | some k => k.v && k.canc && k.hm == l.hm
    | none => false
  !l.cancelled && !l.failed && (l.counts.any canc || l.waits.any (fun w => canc w.1))

/-- Cancel a launch (R185): its teams are killed and not relaunched; it completes when they are gone; a launch that
waits on a cancelled counter has CANC set on its own. -/
def cancelLaunch (s : State) (i : Nat) : State :=
  match Tab.get? s.launches i with
  | none => s
  | some l =>
    let waits := l.waits.any (fun w => ((Tab.get? s.counters w.1).map Counter.canc).getD false)
    let s := modLaunch s i (fun l => { l with cancelled := true, retired := true, again := [] })
    let s := if waits then (l.lcnt.toList).foldl setCanc s else s
    let s := if l.child then s else tidyQueue s l.queue
    completeLaunch (killLaunch s i 0x03 (fun _ => Blame.none)) i

/-- Cancel every launch that is due, until none is (R185). -/
def cancelSweep (s : State) : Nat → State
  | 0 => s
  | n + 1 =>
    match s.launches.find? (fun e => cancelDue s e.2) with
    | some e => cancelSweep (cancelLaunch s e.1) n
    | none => s

/-- Set CANC on a counter, with the effects of R185. -/
def cancelCounter (s : State) (n : Nat) : State :=
  let s := setCanc s n
  cancelSweep s s.launches.length

/-- Reject a launch's record, or retire a child unplaced (R207, R468): no further team, CANC on its launch counter where
that counter is its context's. -/
def rejectLaunch (s : State) (i : Nat) : State :=
  match Tab.get? s.launches i with
  | none => s
  | some l =>
    let s := modLaunch s i (fun l => { l with failed := true, retired := true, again := [] })
    let s := if l.child then childDone s l.parent else tidyQueue s l.queue
    let s := completeLaunch s i
    match l.lcnt with
    | some n => if ownsCounter s n l.hm then cancelCounter s n else s
    | none => s

/-! ## Ending a context, poison, errors of a team's state (R257, R258) -/

/-- Close a queue pair that its context's end takes away, with its fault records. -/
def closePair (s : State) (q : Nat) : State :=
  { s with
    qps := Tab.del s.qps q
    netWait := s.netWait.filter (fun x => x.qp.toNat != q)
    cores := s.cores.map (fun e => (e.1, { e.2 with netFaults := e.2.netFaults.filter (fun f => f.2.toNat != q) })) }

/-- End a context (R257): `why` names the thread of a team that caused it (R252). -/
def endContextFor (s : State) (hm : Hm) (why : Nat → Blame) : State :=
  if !isContext hm || s.ended.contains hm.toNat then s
  else
    let mine := (s.launches.filter (fun e => e.2.hm = hm)).map Prod.fst
    let s := mine.foldl (fun s i => killLaunch s i 0x05 why) s
    let left := s.launches.filter (fun e => e.2.hm = hm)
    let s := left.foldl (fun s e =>
      let s := modLaunch s e.1 (fun l => { l with failed := true, retired := true, again := [] })
      let s := (e.2.counts.filter (fun n => !e.2.child || ownsCounter s n hm)).foldl setCanc s
      let s := if e.2.child then childDone s e.2.parent else tidyQueue s e.2.queue
      completeLaunch s e.1) s
    let s := cancelSweep s s.launches.length
    let lines := (s.lines.filter (fun e => e.2.hm = hm)).map Prod.fst
    let s := dropCode (lines.foldl discardLine s) (fun x => x.hm == hm)
    let s := (s.cores.map Prod.fst).foldl (fun s c => l1Discard s c hm) s
    let s := ((s.qps.filter (fun e => e.2.hm = hm)).map Prod.fst).foldl closePair s
    { s with
      ended := s.ended ++ [hm.toNat]
      cores := s.cores.map (fun e =>
        (e.1, { e.2 with
          copyQ := e.2.copyQ.filter (fun c => c.2.form == .cpyp || c.2.hm != hm)
          mtxQ := e.2.mtxQ.filter (fun c => c.2.hm != hm) })) }

/-- End a context that no thread's consumption ended (R257). -/
def endContext (s : State) (hm : Hm) : State := endContextFor s hm (fun _ => Blame.none)

/-- The launch of a team, and the words of its record that R258 and R263 look at. -/
def teamLaunch (s : State) (t : Nat) : Option Launch :=
  (Tab.get? s.teams t).bind (fun m => Tab.get? s.launches m.launch)

/-- Some teams with those that a workgroup of theirs is bound with (R196). -/
def boundTeams (s : State) (ts : List Nat) : List Nat :=
  let ws := ts.flatMap (fun t => ((Tab.get? s.teams t).map Team.wgs).getD [])
  let all := (ws.flatMap (boundSet s)).map (fun h => (wgAt s h).team)
  (s.teams.filter (fun e => ts.contains e.1 || all.contains e.1)).map Prod.fst

/-- Widen a list of teams some number of times. -/
def widen (f : List Nat → List Nat) (ts : List Nat) : Nat → List Nat
  | 0 => ts
  | n + 1 => widen f (f ts) n

/-- The teams of a team's rollback group (R197, R265): itself and every team that it is bound with, directly or through
others. -/
def rollbackGroup (s : State) (t : Nat) : List Nat := widen (boundTeams s) [t] (s.teams.length + 1)

/-- Whether a snapshot of a workgroup's rollback group is being written: its paths and engines stand still (R267). -/
def snapping (s : State) (h : Nat) : Bool :=
  let writing := (s.teams.filter (fun e => e.2.snap.writing)).map Prod.fst
  !writing.isEmpty && (rollbackGroup s (wgAt s h).team).any writing.contains

/-- The hallmarks of the lines, of the L2 and of the L1s, that hold a sector (R253): those that a context's read under a key
meets, or all of them for a read of the device's own. -/
def carriersOf (s : State) (hm : Hm) (key : Option (BitVec 13)) (a : Nat) : List Hm :=
  let ln := a / 64
  let i := a / 16 % 4
  let l2 := ((Tab.get? s.lines ln).toList.filter (fun l => bitAt l.valid i && (!isContext hm || l.serves hm key a))).map Line.hm
  let l1 := s.cores.flatMap (fun e => (e.2.l1.filter (fun x =>
    x.line == ln && bitAt x.valid i && (!isContext hm || (if isRemote a then x.hm == hm else x.key == key)))).map L1Line.hm)
  (l2 ++ l1).dedup

/-- What a consumed sector ends (R257): every context whose hallmark a line that holds it carries, and the consumer's teams
where none of them is its own; where the die does not hold it, the consumer's context, or its teams where the range is shared. A
consumption fills the line on the consumer's behalf. The report follows (R261): contexts ended, a team killed, or, where the
umpire consumed it, Ninal restarted. -/
def contain (s : State) (c : Option Nat) (a : Nat) (sk : Bool) (hm : Hm) (teams : List Nat) (carrier : Byte) (pc : Word) :
    State :=
  let t := teams.headD 0
  let lid := ((teamLaunch s t).map Launch.id).getD 0
  let num := ((Tab.get? s.teams t).map Team.number).getD 0
  let key := (keyOf s hm sk).1
  let b : Blame := { cause := 0x51, detail := carrier, pc := pc }
  let killAll (s : State) : State := teams.foldl (fun s t => killTeam s t 0x05 false b) s
  let stop (s : State) (o : Hm) : State := endContextFor s o (fun t => if teams.contains t then b else Blame.none)
  let out (os : List Hm) : Nat :=
    if os.any isContext then 4 else if !teams.isEmpty then 3 else if c.isSome then 5 else 0
  let tell (s : State) (o : Hm) (out : Nat) : State :=
    report s 1 carrier.toNat out (sectorLoc c (actPort s) carrier a) o a lid num 0 pc
  match carriersOf s hm key a with
  | o :: os => tell ((o :: os).foldl stop (if (o :: os).contains hm then s else killAll s)) o (out (o :: os))
  | [] =>
    if sk then tell (killAll (fillLine s hm key a 16)) hm (out [])
    else tell (stop s hm) hm (out [hm])

/-! ## Threads and registers at start (R171, R180) -/

/-- A thread as it starts (R171, R180). -/
def startThread (w : Wg) (h t : Nat) (entry : Word) (cbase : DWord) : Thread :=
  { pc := entry, mr := 0xFFFFFFFF, csp := BitVec.ofNat 32 (0xF0000000 + w.spg * 16384 - w.stk * t), pred := 0,
    fpctl := 0, fpstat := 0, age := 0, region := [], depth := 0, home := h, tidx := t, st := .ready, handler := none,
    cbase := cbase, pend52 := false, pend71 := none, pendSince := 0, held := false, yielded := false, stopMask := none,
    kept := [], resume := 0, due := [], pass := none, cmpst := none, escOk := false, group := 0, park := none }

/-! ## Ninal (R231, log entry 4) -/

/-- The umpire's workgroup on a core: 32 threads in slot 16, four pages of scratchpad. Its handle is the core's
number. -/
def umpireWg (c : Nat) : Wg :=
  { Wg.empty with core := c, nthreads := 32, regc := 32, spg := 4, slots := [16] }

/-- Slot 16 as Ninal starts in it. -/
def umpireSlot (c : Nat) : Slot :=
  { Slot.empty with
    wg := some c
    threads := (List.range 32).map (fun t =>
      (t, startThread (umpireWg c) c t Config.firmwareEntry (BitVec.ofNat 64 (64 * Config.firmwareBase.toNat)))) }

/-- Start Ninal in slot 16 of a core, at its firmware entry (R231, R449): its own work in progress goes. -/
def startNinal (s : State) (c : Nat) : State :=
  let s := dropRuns { s with wgs := Tab.set s.wgs c (umpireWg c) } c (fun n => n == 16)
  modCore s c (fun k =>
    { k with
      slots := Tab.set k.slots 16 (umpireSlot c)
      umpRows := []
      copyQ := k.copyQ.filter (fun e => e.2.wg != c)
      pageReqs := []
      dealt := [] })

end Sys2Proof.Machine
end

