-- ==== Sys2Proof/Machine/Operands.lean ====
section
/-!
DEFINITION. Reading operands: selectors, specials, immediates, permutes and the checks on source reads (R124, R128 to
R132, R181, R301 to R304).
-/

namespace Sys2Proof.Machine

/-- The lane that a permuted source reads in lane `i` (R131). -/
def permLane (p : Perm) (i : Nat) : Nat :=
  match p with
  | .none => i
  | .bc k => k.toNat
  | .rot k => (i + k.toNat) % 32
  | .bfly k => i ^^^ k.toNat
  | .mir k => i / 2 ^ k.val * 2 ^ k.val + (2 ^ k.val - 1) - i % 2 ^ k.val
  | .qb k => i / 4 * 4 + k.toNat

/-- A source as an instruction reads it: its selector, how many registers it names, and the value that a 9-bit
immediate has in it (R302, R303). -/
structure Rd where
  src : Src
  words : Nat
  imm : BitVec 9 → Nat

/-- A source read as an integer or as raw bits of `w` registers: immediates are sign-extended (R302). -/
def rdI (src : Src) (w : Nat) : Rd := { src := src, words := w, imm := fun i => (i.signExtend (32 * w)).toNat }

/-- The base of a memory access as a source. -/
def baseSrc : Base → Src
  | .v n last => .v n .none last
  | .s n last => .s n last
  | .zero => .zero

/-- The data of a memory access as a source. -/
def dataSrc : Data → Src
  | .v n last => .v n .none last
  | .s n last => .s n last
  | .latch n => .latch n .none
  | .zero => .zero
  | .spec x => .spec x
  | .imm i => .imm i

/-! ## Specials (R181, R301) -/

/-- The value of a special in a lane, as 64 bits. -/
def specVal (s : State) (l : Nat) (x : Special) : Nat :=
  let i := s.iss
  let t := threadAt s i.core i.slot l
  let w := wgAt s (homeOf s i.core i.slot l)
  let cyc := ((coreAt s i.core).cyc + BitVec.ofNat 64 (clock s)).toNat
  match x with
  | .lane => l
  | .tid => (t.map Thread.tidx).getD 0
  | .wslot => i.slot
  | .wgid => w.number % 2 ^ 32
  | .trank => w.rank
  | .core => i.core
  | .court => i.core / 8
  | .devno => s.host.devno.toNat % 2 ^ 12
  | .amask => i.lanes.toNat
  | .cyclo => cyc
  | .cychi => cyc / 2 ^ 32

/-- Whether a warp slot's workgroup is bound into a huddle set (R196). -/
def slotBound (s : State) (c n : Nat) : Bool := (wgAt s (slotWg s c n)).bound.isSome

/-- Whether a special is a uniform source (R181, R301). -/
def specUniform (s : State) : Special → Bool
  | .lane | .tid => false
  | .wgid | .trank => !slotBound s s.iss.core s.iss.slot
  | .wslot | .core | .court | .devno | .amask | .cyclo | .cychi => true

/-- Whether a source is uniform, taken as named (R122, R132). -/
def srcUniform (s : State) (r : Rd) : Bool :=
  match r.src with
  | .v n _ _ =>
    (List.range r.words).all (fun k =>
      match Tab.get? (slotAt s s.iss.core s.iss.slot).vmap (n.toNat + k) with
      | some { form := .uniform, .. } => true
      | _ => false)
  | .s _ _ => true
  | .latch _ _ => false
  | .zero => true
  | .spec x => specUniform s x
  | .imm _ => true

/-! ## Checks on source reads (R124, R129, R309) -/

/-- The latches of the issuing quarter. -/
def latchAt (s : State) (n : Nat) : Latch := (quarterAt s s.iss.core s.iss.quarter).latches.getD n Latch.empty

/-- The latch value that a replayed lane holds for a source, by its position (R130). -/
def keptVal (s : State) (l pos : Nat) : Option DWord :=
  (threadAt s s.iss.core s.iss.slot l).bind (fun t => Tab.get? t.kept pos)

/-- The latch-lost check of one source in a lane (R129). -/
def latchCheck (s : State) (l pos : Nat) (r : Rd) : Option (Byte × Byte) :=
  match r.src with
  | .latch n _ =>
    if (keptVal s l pos).isSome || (latchAt s n.toNat).valid then none else some (0x03, BitVec.ofNat 8 n.toNat)
  | _ => none

/-- The dead-register check of one v register in a lane (R124). -/
def deadV (s : State) (v l : Nat) : Option (Byte × Byte) :=
  if ceiling s s.iss.core s.iss.slot ≤ v then some (0x04, 0x03)
  else
    match Tab.get? (slotAt s s.iss.core s.iss.slot).vmap v with
    | none => some (0x04, 0x01)
    | some m => if bitAt m.rel l then some (0x04, 0x02) else none

/-- The dead-register check of one source in a lane (R124). -/
def deadCheck (s : State) (l : Nat) (r : Rd) : Option (Byte × Byte) :=
  match r.src with
  | .v n _ _ => (List.range r.words).findSome? (fun k => deadV s (n.toNat + k) l)
  | .s n _ =>
    (List.range r.words).findSome? (fun k =>
      if (Tab.get? (slotAt s s.iss.core s.iss.slot).sregs (n.toNat + k)).isNone then some (0x04, 0x01) else none)
  | _ => none

/-- The check on a destination at or above the ceiling (R120, R124). -/
def destCheck (s : State) (d : Dst) (words : Nat) : Option (Byte × Byte) :=
  match d with
  | .v n => if ceiling s s.iss.core s.iss.slot < n.toNat + words then some (0x04, 0x03) else none
  | _ => none

/-! ## Values of sources -/

/-- A fresh code for a free value of this instruction (log entry 9). -/
def freeCode (s : State) (pos l k : Nat) : Nat := ((s.fresh * 8 + pos) * 32 + l) * 4 + k

/-- A register's word as a lane reads it: a released lane of a full register is undefined (R132). -/
def vRead (s : State) (v l j code : Nat) : Word :=
  let i := s.iss
  match Tab.get? (slotAt s i.core i.slot).vmap v with
  | some { form := .full row, rel := rel } =>
    if l ≠ j ∧ bitAt rel j then Config.freeBits 32 code else rowWord s i.core i.slot row j
  | some { form := .uniform, .. } => Tab.getD (slotAt s i.core i.slot).cells v 0
  | none => 0

/-- The registers' words as one number, the lowest register lowest (R3). -/
def joinWords (f : Nat → Word) : Nat → Nat
  | 0 => 0
  | n + 1 => joinWords f n + (f n).toNat * 2 ^ (32 * n)

/-- The value that a lane reads from a source at a position. -/
def srcVal (s : State) (l pos : Nat) (r : Rd) : Nat :=
  match r.src with
  | .v n p _ => joinWords (fun k => vRead s (n.toNat + k) l (permLane p l) (freeCode s pos l k)) r.words
  | .s n _ => joinWords (fun k => Tab.getD (slotAt s s.iss.core s.iss.slot).sregs (n.toNat + k) 0) r.words
  | .latch n p =>
    let x := (keptVal s l pos).getD (latchVal (latchAt s n.toNat) (permLane p l) (freeCode s pos l 0))
    if r.words = 1 then x.toNat % 2 ^ 32 else x.toNat
  | .zero => 0
  | .spec x => if r.words = 1 then specVal s l x % 2 ^ 32 else specVal s l x
  | .imm i => r.imm i

/-- A list with its positions. -/
def withPos {α : Type} (l : List α) : List (Nat × α) := (List.range l.length).zip l

/-- The source reads of a lane (R309, order 5): latches first, then registers, then the destination's ceiling. -/
def readLane (s : State) (d : Dst) (dw : Nat) (rs : List Rd) (l : Nat) : Except Halt (List Nat) :=
  let ps := withPos rs
  match ps.findSome? (fun p => latchCheck s l p.1 p.2) with
  | some o => .error (.trap { cause := o.1, detail := o.2 })
  | none =>
    match ps.findSome? (fun p => deadCheck s l p.2) with
    | some o => .error (.trap { cause := o.1, detail := o.2 })
    | none =>
      match destCheck s d dw with
      | some o => .error (.trap { cause := o.1, detail := o.2 })
      | none => .ok (ps.map (fun p => srcVal s l p.1 p.2))

/-- The latch values that a lane read, to keep with its dugout entry (R130). -/
def keptOf (s : State) (rs : List Rd) (l : Nat) : Tab DWord :=
  (withPos rs).filterMap (fun p =>
    match p.2.src with
    | .latch n q =>
      some (p.1, (keptVal s l p.1).getD (latchVal (latchAt s n.toNat) (permLane q l) (freeCode s p.1 l 0)))
    | _ => none)

/-- The sources that a lane reads, where only some lanes read the first (R375): in the others it counts for nothing. -/
def readsOf (first : Option (List Nat)) (rs : List Rd) (l : Nat) : List Rd :=
  match first, rs with
  | some ls, r :: t => if ls.contains l then r :: t else { r with src := .zero } :: t
  | _, _ => rs

/-! ## Last reads (R123, R299) -/

/-- The v registers that a source releases, and the s registers that it frees. -/
def lastV (r : Rd) : List Nat :=
  match r.src with
  | .v n _ true => (List.range r.words).map (n.toNat + ·)
  | _ => []
def lastS (r : Rd) : List Nat :=
  match r.src with
  | .s n true => (List.range r.words).map (n.toNat + ·)
  | _ => []

/-! ## Waits on loads (R218) -/

/-- The register numbers that a source names, with the s registers from 256 on. -/
def srcRegs (r : Rd) : List Nat :=
  match r.src with
  | .v n _ _ => (List.range r.words).map (n.toNat + ·)
  | .s n _ => (List.range r.words).map (256 + n.toNat + ·)
  | _ => []

/-- The registers that a destination names. -/
def dstRegs (d : Dst) (words : Nat) : List Nat :=
  match d with
  | .v n => (List.range words).map (n.toNat + ·)
  | .s n => (List.range words).map (256 + n.toNat + ·)
  | _ => []

/-- Whether a source is permuted, so that it reads other lanes. -/
def permuted (r : Rd) : Bool :=
  match r.src with
  | .v _ p _ => p != .none
  | _ => false

/-- Whether a source is L3. -/
def readsL3 (r : Rd) : Bool :=
  match r.src with
  | .latch n _ => n == 3
  | _ => false

/-- A wait that an instruction must make for a global result that has not returned (R218, R129). -/
def loadWait (s : State) (d : Dst) (dw : Nat) (rs : List Rd) : Option Wait :=
  let i := s.iss
  let ls := (slotAt s i.core i.slot).loads
  let meets (p : PendLoad) : Bool :=
    rs.any (fun r => (srcRegs r).any p.regs.contains && (permuted r || (p.lanes &&& i.lanes) != 0)) ||
      ((dstRegs d dw).any p.regs.contains && (p.lanes &&& i.lanes) != 0) ||
      (p.latch && rs.any readsL3 && (latchAt s 3).valid && (p.lanes &&& i.lanes) != 0)
  (ls.find? meets).map (fun p => .load p.id)

end Sys2Proof.Machine
end

