-- ==== Sys2Proof/Machine/Flags.lean ====
section
/-!
DEFINITION. Flags: the predicate shift register and guards (R133), the sticky floating-point flags and their traps
(R164 to R167).
-/

namespace Sys2Proof.Machine

/-! ## Predicates (R133) -/

/-- Push a bit at depth 0; depth 7 falls off (R7, R133). -/
def pushPred (p : BitVec 8) (b : Bool) : BitVec 8 := (p <<< 1) ||| (if b then 1 else 0)

/-- Whether a guard passes (R133). -/
def guardPasses (g : Guard) (p : BitVec 8) : Bool :=
  match g with
  | .always => true
  | .p neg d => bitAt p d.val != neg

/-! ## Floating-point conditions (R164 to R167) -/

/-- The conditions that an operation raises. -/
structure Fpx where
  nv : Bool := false
  dz : Bool := false
  of : Bool := false
  uf : Bool := false
  nx : Bool := false
  qf : Bool := false
  sf : Bool := false
  deriving DecidableEq, Repr

/-- No condition. -/
def Fpx.none : Fpx := {}

/-- The union of two sets of conditions. -/
def Fpx.or (a b : Fpx) : Fpx :=
  { nv := a.nv || b.nv, dz := a.dz || b.dz, of := a.of || b.of, uf := a.uf || b.uf, nx := a.nx || b.nx,
    qf := a.qf || b.qf, sf := a.sf || b.sf }

/-- The bits of FPSTAT and of the tile flag byte (R156, R166). -/
def Fpx.bits (a : Fpx) : Nat :=
  (if a.nv then 1 else 0) + (if a.dz then 2 else 0) + (if a.of then 4 else 0) + (if a.uf then 8 else 0) +
    (if a.nx then 16 else 0) + (if a.qf then 32 else 0) + (if a.sf then 64 else 0)

/-- The trap that enabled conditions raise: the first of NV, DZ and OF (R167). `quiet` are conditions that never trap. -/
def fpTrap (fpctl : Word) (a : Fpx) : Option Byte :=
  if a.nv && bitAt fpctl 0 then some 0x20
  else if a.dz && bitAt fpctl 1 then some 0x21
  else if a.of && bitAt fpctl 2 then some 0x22
  else none

/-- The sticky flags of a thread after an instruction (R167). -/
def stickFlags (t : Thread) (bits : Nat) : Thread := { t with fpstat := t.fpstat ||| BitVec.ofNat 32 (bits % 128) }

end Sys2Proof.Machine
end

