-- ==== Sys2Proof/Machine/Trace.lean ====
section
/-!
DEFINITION. The trace ring of a core and its records (R284 to R288).
-/

namespace Sys2Proof.Machine

/-- The ring's base and size in bytes (R284). -/
def ringBase (k : Core) : Nat := field k.trcctl 12 40 * 4096
def ringSize (k : Core) : Nat := 2 ^ (min (field k.trcctl 8 4) 10 + 16)

/-- Write one 16-byte unit at an offset of the ring. -/
def traceUnit (s : State) (c off : Nat) (u : DWord × DWord) : State :=
  let k := coreAt s c
  devWrite s (ringBase k + off % ringSize k) (wordsBytes [u.1, u.2])

/-- Write a record, after the lost record that is owed for dropped ones (R285, R286): where both fit, or over the oldest
records; else it is dropped and counted. A write of TRCCTL leaves the count that is owed (log entry 32). -/
def traceRecord (s : State) (c : Nat) (us : List (DWord × DWord)) : State :=
  let k := coreAt s c
  let off := k.trcOff.toNat
  let lost : List (DWord × DWord) :=
    if k.trcOwed = 0 then [] else [(BitVec.ofNat 64 (5 * 2 ^ 60 + 1 * 2 ^ 56 + k.trcOwed.toNat), 0)]
  let us := lost ++ us
  let n := 16 * us.length
  if bitAt k.trcctl 4 || decide (off + n ≤ ringSize k) then
    let s := (withPos us).foldl (fun s p => traceUnit s c (off + 16 * p.1) p.2) s
    modCore s c (fun k =>
      { k with
        trcOff := BitVec.ofNat 32 (if bitAt k.trcctl 4 then (off + n) % ringSize k else off + n)
        trcOwed := 0 })
  else
    modCore s c (fun k =>
      { k with
        trcDrop := if k.trcDrop = 0xFFFFFFFF then k.trcDrop else k.trcDrop + 1
        trcOwed := if k.trcOwed = 0xFFFFFFFF then k.trcOwed else k.trcOwed + 1 })

/-- A thread's top four regions, and OVF (R275). -/
def Thread.topFour (t : Thread) : DWord :=
  let d := min t.depth.toNat 16
  BitVec.ofNat 64 (((List.range 4).map (fun i =>
    if i < d then (t.region.getD (d - 1 - i) 0).toNat * 2 ^ (16 * i) else 0)).foldl (· + ·) 0)
def Thread.ovf (t : Thread) : Bool := decide (16 < t.depth.toNat)

/-- CYC of a core (R17, R317): the cycles of the arithmetic clock. -/
def cycOf (s : State) (c : Nat) : DWord := (coreAt s c).cyc + BitVec.ofNat 64 (clock s)

/-- Word 0 of a sync, sample or causal record (R286). -/
def recHead (kind units n c : Nat) (hm : Hm) (rest : Nat) : DWord :=
  BitVec.ofNat 64 (kind * 2 ^ 60 + units * 2 ^ 56 + n * 2 ^ 51 + c * 2 ^ 43 + hm.toNat * 2 ^ 29 + rest)

/-- A sync record of a path (R286, R287). -/
def syncRecord (s : State) (c n : Nat) (lanes pc : Word) (rb : Bool) : State :=
  let t := threadAt s c n ((lanesOf lanes).headD 0)
  let ovf := (t.map Thread.ovf).getD false
  traceRecord s c
    [(recHead 1 2 n c (slotHm s c n) ((if rb then 2 ^ 28 else 0) + (if ovf then 2 ^ 27 else 0)), pair pc lanes),
     (cycOf s c, (t.map Thread.topFour).getD 0)]

/-- Whether a context holds the debug right (R278). -/
def hasRight (s : State) (hm : Hm) : Bool := (freshDesc s hm).dbg

/-- A causal record of the issuing path, when CEN is set (R288); a marker's also needs the context's right (R420). -/
def causal (s : State) (ck : Nat) (object value : DWord) : State :=
  let i := s.iss
  let hm := slotHm s i.core i.slot
  if bitAt (coreAt s i.core).trcctl 3 && (ck != 0 || hasRight s hm) then
    traceRecord s i.core
      [(recHead 4 2 i.slot i.core hm (ck * 2 ^ 25), object), (cycOf s i.core, value)]
  else s

/-- The sync record that a path owes at its run boundary, or that its slot owes (R287). -/
def syncAtRun (s : State) (c n : Nat) (lanes pc : Word) : State :=
  let w := slotAt s c n
  if bitAt (coreAt s c).trcctl 1 && (w.syncMore || lanes &&& w.syncDue != 0) && hasRight s (slotHm s c n) then
    let s := modSlot s c n (fun w =>
      { w with syncDue := w.syncDue &&& ~~~lanes, rbSync := w.rbSync &&& ~~~lanes, syncMore := false })
    syncRecord s c n lanes pc (lanes &&& w.rbSync != 0)
  else s

/-- The run record at the end of a run (R286, R287); one sync record more after every 256 that the ring has
taken. -/
def runRecord (s : State) (c : Nat) (r : Run) (endc : Nat) : State :=
  if bitAt (coreAt s c).trcctl 1 && decide (0 < r.count) && hasRight s (slotHm s c r.slot) then
    let s := traceRecord s c
      [(BitVec.ofNat 64 (2 * 2 ^ 60 + 1 * 2 ^ 56 + r.slot * 2 ^ 51 + r.count * 2 ^ 46 + endc * 2 ^ 43 + r.start.toNat),
        BitVec.ofNat 64 (r.lanes.toNat * 2 ^ 32 + r.taken.toNat * 2 ^ 8))]
    if (coreAt s c).trcOwed != 0 then s
    else modSlot s c r.slot (fun w =>
      if 255 ≤ w.runRecs then { w with runRecs := 0, syncMore := true } else { w with runRecs := w.runRecs + 1 })
  else s

end Sys2Proof.Machine
end

