-- ==== Sys2Proof/Machine/Service.lean ====
section
/-!
DEFINITION. What brings a stopped thread back: resuming parked lanes (R226), completing a service call (R235, R236),
delivering a signal and returning from one (R237 to R239), and a restart of Ninal (R231).
-/

namespace Sys2Proof.Machine

/-- Take lanes out of a dugout entry; the entry frees with its last lane (R226). TLANES then shows the lanes still parked,
and the fault record keeps those that parked (log entry 50). -/
def leaveEntry (s : State) (c e : Nat) (lanes : Word) : State :=
  modCore s c (fun k =>
    match Tab.get? k.dugout e with
    | none => k
    | some d =>
      let left := d.lanes &&& ~~~lanes
      if left = 0 then { k with dugout := Tab.del k.dugout e }
      else { k with dugout := Tab.set k.dugout e { d with lanes := left } })

/-- Take a thread out of its park, in the dugout or detached. -/
def leavePark (s : State) (c n l : Nat) : State :=
  match (threadAt s c n l).map Thread.st with
  | some (.parked e) => leaveEntry s c e (maskOf [l])
  | _ => modThread s c n l (fun t => { t with park := none })

/-- Release registers in one lane, as the completion of an instruction does (R123); s registers count from 256. -/
def releaseLane (s : State) (c n l : Nat) (regs : List Nat) : State :=
  regs.foldl (fun s r => if 256 ≤ r then freeS s c n (r - 256) else releaseV s c n r (maskOf [l])) s

/-! ## Meetings (R172) -/

/-- Whether a thread has a meeting register set (R169). -/
def Thread.meets (t : Thread) : Bool := t.mr != 0xFFFFFFFF

/-- Whether a meeting address is released: every sibling whose MR equals it stands at it or is parked (R172). -/
def meetingDone (w : Slot) (a : Word) : Bool :=
  w.threads.all (fun e => !(e.2.live && e.2.mr == a) || e.2.st == .meeting || e.2.parked)

/-- A thread that stands at its meeting waits there. -/
def arrive (t : Thread) : Thread := if t.st == .ready && t.meets && t.pc == t.mr then { t with st := .meeting } else t

/-- A thread whose meeting is released goes on, with no meeting set. -/
def depart (w : Slot) (t : Thread) : Thread :=
  if t.st == .meeting && meetingDone w t.mr then { t with st := .ready, mr := 0xFFFFFFFF } else t

/-- Change every thread of a slot. -/
def mapThreads (w : Slot) (f : Thread → Thread) : Slot := { w with threads := w.threads.map (fun e => (e.1, f e.2)) }

/-- Threads that reach their meeting wait, and meetings that are complete release their threads (R172). -/
def meetings (s : State) (c n : Nat) : State :=
  modSlot s c n (fun w =>
    let w := mapThreads w arrive
    mapThreads w (depart w))

/-! ## Service calls (R234 to R236) -/

/-- Complete an SVC or SVCQ: v2 to v5 receive the reply, ST returns to 00, the thread goes on at the next word and
acquires at system scope (R235). -/
def completeCall (s : State) (c n l : Nat) (res : List Word) : State :=
  match threadAt s c n l with
  | none => s
  | some t =>
    let w := wgAt s t.home
    let a := mailboxAt s w t.tidx
    let s := (ctxWrite s c w.hm (a + 0x28) (res.flatMap (fun x => bytesOf 4 x.toNat))).1
    let r := ctxRead s c w.hm a 8
    let s := match r.2 with
      | some bs => (ctxWrite r.1 c w.hm a (bytesOf 8 (natOf bs % 2 ^ 48))).1
      | none => r.1
    let s := leavePark s c n l
    let s := releaseLane s c n l t.due
    let s := (withPos res).foldl (fun s p => writeV s c n (2 + p.1) (maskOf [l]) false (fun _ => p.2)) s
    let s := modThread s c n l (fun t => { t with st := .ready, pc := t.resume, due := [], kept := [] })
    meetings (seeStores (acquireRemote s w.hm) t.home) c n

/-- The reply after a restart of Ninal or of the host service (R236). -/
def restartReply : List Word := [0xFFFFFFFE, 0, 0, 0]

/-! ## The call journal (R235, R236; log entry 48) -/

/-- The bytes of a record of a context's journal are written at JRNL: 16 bytes, whose format no rule gives, in the 4 KiB page
there by the record's place among those of the context (log entry 48). -/
def writeJournal (s : State) (hm : Hm) (i : Nat) : State :=
  devWrite { s with fresh := s.fresh + 1 } ((descOf s hm).jrnl.toNat + 16 * (i % 256))
    (bytesOf 16 (Config.freeBits 128 s.fresh).toNat)

/-- The place of a call's record among those of its context. -/
def journalPlace (s : State) (hm : Hm) (va : DWord) (cid : Word) : Option Nat :=
  (s.journal.filter (fun r => r.hm == hm)).findIdx? (fun r => r.va == va && r.cid == cid)

/-- The journal record of a call. -/
def callRec (s : State) (hm : Hm) (va : DWord) (cid : Word) : Option CallRec :=
  s.journal.find? (fun r => r.hm == hm && r.va == va && r.cid == cid)

/-- Bring a call's record to a state, where the call has one. -/
def markCall (s : State) (hm : Hm) (va : DWord) (cid : Word) (f : CallSt → CallSt) : State :=
  let s := match journalPlace s hm va cid with
    | some i => writeJournal s hm i
    | none => s
  { s with journal := s.journal.map (fun r =>
      if r.hm = hm ∧ r.va = va ∧ r.cid = cid then { r with st := f r.st } else r) }

/-- Record a call before it is served, where it is not recorded. -/
def recordCall (s : State) (hm : Hm) (va : DWord) (cid : Word) : State :=
  if (callRec s hm va cid).isSome then s
  else
    let s := writeJournal s hm (s.journal.filter (fun r => r.hm == hm)).length
    { s with journal := s.journal ++ [{ hm := hm, va := va, cid := cid, st := .open }] }

/-- A call's effect is done, with a reply. -/
def doneCall (s : State) (hm : Hm) (va : DWord) (cid : Word) (res : List Word) : State :=
  markCall (recordCall s hm va cid) hm va cid (fun x => match x with
    | .open | .orphan => .done (res.drop 1)
    | y => y)

/-- The call of a mailbox that is answered with the restart status can no longer be answered otherwise. -/
def orphanCall (s : State) (hm : Hm) (va : DWord) (cid : Word) : State :=
  markCall s hm va cid (fun x => match x with
    | .open => .orphan
    | y => y)

/-- The call id that a mailbox holds; 0 where it cannot be read. -/
def mailboxCid (s : State) (c : Nat) (w : Wg) (t : Nat) : Word :=
  match (ctxRead s c w.hm (mailboxAt s w t) 8).2 with
  | some bs => BitVec.ofNat 32 (natOf bs)
  | none => 0

/-- Answer an open call on a core with the restart status (R236). -/
def restartCall (s : State) (c n l : Nat) : State :=
  match threadAt s c n l with
  | none => s
  | some t =>
    let w := wgAt s t.home
    completeCall (orphanCall s w.hm (mailboxAt s w t.tidx) (mailboxCid s c w t.tidx)) c n l restartReply

/-- The threads of a core with an open service call: (slot, lane). -/
def openCalls (s : State) (c : Nat) : List (Nat × Nat) :=
  (coreAt s c).slots.flatMap (fun e =>
    (e.2.threads.filter (fun t => callOpen s c t.2)).map (fun t => (e.1, t.1)))

/-- Ninal restarts on a core (R231): every call in flight there is answered as a restart, and the host is told. In minimal mode it runs
on the court in service alone (R452). -/
def restartNinal (s : State) (c : Nat) : State :=
  if s.host.bootMin && (List.range 8).all (fun i => (coreAt s (8 * (c / 8) + i)).fenced) then s else
  let s := startNinal (clearWalked { s with unanswered := 0, refusing := 0 } (.core c 16)) c
  let s := (openCalls s c).foldl (fun s x => restartCall s c x.1 x.2) s
  post s 0x05 c devHm []

/-! ## Signals (R237 to R239) -/

/-- Where a thread's signal frame lies (R244). -/
def frameAt (s : State) (w : Wg) (t : Nat) : DWord := saveAddr s w.hm w.sri (0x9000 + 128 * t)

/-- Whether a register holds a value in a lane: mapped and not released (R237). -/
def holdsV (s : State) (c n v l : Nat) : Bool :=
  match Tab.get? (slotAt s c n).vmap v with
  | some m => !bitAt m.rel l
  | none => false

/-- The word of a register that a frame saves; where the register holds none, a free value. -/
def frameV (s : State) (c n v l : Nat) : Word :=
  if holdsV s c n v l then vWord s c n v l else Config.freeBits 32 (freeCode s v l 0)

/-- The 128 bytes of a signal frame (R237). -/
def frameWords (s : State) (c n l : Nat) (t : Thread) (cause detail : Byte) (addr info : DWord) (async : Bool)
    (pc : Word) : List DWord :=
  let svm := (if holdsV s c n 2 l then 1 else 0) + (if holdsV s c n 4 l then 2 else 0) +
    (if holdsV s c n 5 l then 4 else 0)
  [BitVec.ofNat 64 ((if async then 65536 else 0) + detail.toNat * 256 + cause.toNat), pair pc t.mr,
   BitVec.ofNat 64 (t.age.toNat * 2 ^ 40 + t.pred.toNat * 2 ^ 32 + t.csp.toNat), pair t.fpstat t.fpctl, addr, info,
   t.cbase, BitVec.ofNat 64 (svm * 2 ^ 32 + (frameV s c n 2 l).toNat),
   pair (frameV s c n 4 l) (frameV s c n 5 l), 0, 0, 0, 0, 0, 0, 0]

/-- Deliver a signal to a thread (R237, R239): the frame saves what SIGRET restores, the pc and the code base become the
handler's, MR is cleared, v2 and v4:v5 are written; or the team is killed where R239 says so. -/
def deliverSignal (s : State) (c n l : Nat) (cause detail : Byte) (addr info : DWord) (async : Bool) (pc : Word) :
    State :=
  match threadAt s c n l with
  | none => s
  | some t =>
    let w := wgAt s t.home
    let d := descOf s w.hm
    let b : Blame := { cause := cause, detail := detail, pc := pc }
    if d.sigbase = 0 then killTeam s w.team 0x01 false b
    else if t.handler.isSome then killTeam s w.team 0x02 false b
    else
      let a := frameAt s w t.tidx
      let r := ctxWrite s c w.hm a (wordsBytes (frameWords s c n l t cause detail addr info async pc))
      if !r.2 then killTeam r.1 w.team 0x07 false b
      else
        let s := leavePark r.1 c n l
        let one := maskOf [l]
        let s := writeV s c n 2 one false (fun _ => BitVec.ofNat 32 (cause.toNat + detail.toNat * 256))
        let s := writeV s c n 4 one false (fun _ => loWord a)
        let s := writeV s c n 5 one false (fun _ => hiWord a)
        let s := modThread s c n l (fun t =>
          { t with cbase := d.sigbase.setWidth 64, pc := d.sigpc, mr := 0xFFFFFFFF, handler := some a, st := .ready,
                   kept := [], due := [], pass := none, cmpst := none, escOk := false })
        meetings s c n

/-- The word at which a thread goes on after what it has executed (R237): one that waits at a barrier or huddle has
executed that instruction. -/
def Thread.nextPc (t : Thread) : Word :=
  match t.st with
  | .bar _ w | .barn _ w | .tbar _ w | .hudl _ _ _ w | .hudlHome w => w
  | _ => t.pc

/-- Note a departure of a workgroup's thread from a barrier at which it has arrived: its arrival stands (log entry 49). -/
def leftAt (w : Wg) (b : Nat) : Wg := { w with barLeft := Tab.set w.barLeft b (Tab.getD w.barLeft b 0 + 1) }

/-- A thread that a signal takes away from a barrier has arrived at it: BAR's 16 barriers, then TBAR's. -/
def keepArrival (s : State) (n : Nat) (t : Thread) : State :=
  match t.st with
  | .bar b _ => modWg s t.home (fun w =>
      let pw := Tab.getD w.barMode b w.barmode
      let w := { w with barMode := Tab.set w.barMode b pw }
      if pw then { w with barPw := Tab.set w.barPw b (n :: (Tab.getD w.barPw b []).filter (· != n)) } else leftAt w b)
  | .tbar b _ => modWg s t.home (fun w => leftAt w (16 + b))
  | _ => s

/-- Whether a thread takes the asynchronous signal that is pending for it (R239, R240): not in its handler, parked or stopped. -/
def mayDeliver (t : Thread) (n : Nat) : Bool :=
  !decide (n = 16 ∨ t.handler.isSome ∨ t.parked ∨ t.held ∨ t.st = .exited) && (t.pend52 || t.pend71.isSome)

/-- Deliver a pending asynchronous signal to a thread between instructions: cause 0x52 before 0x71 (log entry 49); its
frame's INFO is 0, since it has no fault record (log entry 49). In its handler, parked or stopped the thread keeps it pending (R239, R240). -/
def deliverPending (s : State) (c n l : Nat) : State :=
  match threadAt s c n l with
  | none => s
  | some t =>
    if !mayDeliver t n then s
    else if t.pend52 then
      deliverSignal (modThread (keepArrival s n t) c n l (fun t => { t with pend52 := false })) c n l 0x52 0 0 0 true t.nextPc
    else
      match t.pend71 with
      | some d =>
        deliverSignal (modThread (keepArrival s n t) c n l (fun t => { t with pend71 := none })) c n l 0x71 d 0 0 true t.nextPc
      | none => s

/-- Return from a signal (R238): the frame as it then stands gives back PC, MR, CSP, PRED, AGE, FPCTL, FPSTAT, the code
base and v2, v4, v5 in the thread's lane, the reserved bits of CSP, FPCTL and FPSTAT as zeros (R4). False where the frame cannot be read. -/
def returnSignal (s : State) (c n l : Nat) (frame : DWord) : State × Bool :=
  match threadAt s c n l with
  | none => (s, false)
  | some t =>
    let w := wgAt s t.home
    match ctxRead s c w.hm frame 128 with
    | (s, none) => (s, false)
    | (s, some bs) =>
      let word (i : Nat) : Nat := natOf ((bs.drop (8 * i)).take 8)
      let one := maskOf [l]
      let put (s : State) (v bit : Nat) (x : Nat) : State :=
        if word 7 / 2 ^ (32 + bit) % 2 = 1 then writeV s c n v one false (fun _ => BitVec.ofNat 32 x)
        else releaseV s c n v one
      let s := put s 2 0 (word 7)
      let s := put s 4 1 (word 8)
      let s := put s 5 2 (word 8 / 2 ^ 32)
      let s := modThread s c n l (fun t =>
        { t with
          pc := BitVec.ofNat 32 (word 1), mr := BitVec.ofNat 32 (word 1 / 2 ^ 32), csp := BitVec.ofNat 32 (word 2) &&& 0xFFFFFFF8,
          pred := BitVec.ofNat 8 (word 2 / 2 ^ 32), age := BitVec.ofNat 5 (word 2 / 2 ^ 40),
          fpstat := BitVec.ofNat 32 (word 3) &&& 0x7F, fpctl := BitVec.ofNat 32 (word 3 / 2 ^ 32) &&& 7,
          cbase := BitVec.ofNat 64 (word 6 % 2 ^ 57), handler := none })
      (s, true)

end Sys2Proof.Machine
end

