-- ==== Sys2Proof/Machine/Issue.lean ====
section
/-!
DEFINITION. Performing one instruction on a path (R207 to R223, R309): what every instruction shares. An instruction
gives its sources and what it does in one lane; `perform` reads the sources, performs the lanes in ascending order,
parks the lanes that trap, and commits the others: registers, latches, predicates, flags and PCs. Then the run goes on
or ends (R218).
-/

namespace Sys2Proof.Machine

/-! ## Waits (R170, R218) -/

/-- The state of a tag of a workgroup (R91). -/
def tagOf (w : Wg) (t : Nat) : Tag := Tab.getD w.tags t { st := .idle, count := 0, some := false, fail := none, pc := 0 }

/-- A tag is ready when it is Done, Dropped or Failed (R91, R94). -/
def tagReady (w : Wg) (t : Nat) : Bool :=
  match (tagOf w t).st with
  | .done | .dropped | .failed => true
  | .idle | .busy => false

/-- TAGRDY (R94). -/
def tagRdy (w : Wg) : DWord :=
  (List.range 64).foldl (fun m t => if tagReady w t then m ||| ((1 : DWord) <<< t) else m) 0

/-- The stopped command of a workgroup's tag: its queue entry, its progress, and the cause and detail that it stopped
at (R232). -/
def stoppedOn (s : State) (h t : Nat) : Option (Nat × Nat × (Byte × Byte)) :=
  let k := coreAt s (wgAt s h).core
  match k.copyQ.find? (fun e => decide (e.2.wg = h ∧ e.2.tag.toNat = t ∧ e.2.st = .stopped)) with
  | some e => some (e.1, e.2.p, e.2.why)
  | none =>
    (k.mtxQ.find? (fun e => decide (e.2.wg = h ∧ (e.2.tag.map BitVec.toNat) = some t ∧ e.2.st = .stopped))).map
      (fun e => (e.1, e.2.p, e.2.why))

/-- Word 0 of the entries that wait in the inbound ring (R440, R441). -/
def inboundWords (s : State) : List DWord :=
  (List.range (s.host.itail.toNat - s.host.ihead.toNat)).map (fun i =>
    devWord s (ringAddr s.host.ibase s.host.isize (s.host.ihead.toNat + i)))

/-- Whether an inbound entry is for a core: its own, or the whole device's. -/
def inboundFor (c : Nat) (w : DWord) : Bool := field w 48 8 == c || field w 48 8 == 0xFF

/-- Whether a containment report is still on the die (R440). -/
def reportHeld (s : State) : Bool := s.host.outHeld.any (fun e => field (e.headD 0) 56 8 == 2)

/-- Whether an engine fault record is pending on a core (R424, R469). -/
def engFaultPending (k : Core) : Bool := !k.engFaults.isEmpty || !k.drainFaults.isEmpty || !k.netFaults.isEmpty

/-- Whether a save or restore request is pending on a core: a team request in the ring, or a team there that is asked to
stop for a save (R229, R240, R464). -/
def savePending (s : State) (c : Nat) : Bool :=
  (inboundWords s).any (fun w => inboundFor c w && field w 56 8 == 0x82) ||
    s.wgs.any (fun e => e.2.core == c &&
      (match (Tab.get? s.teams e.2.team).bind Team.stop with
       | some p => p.kind != .debug
       | none => false))

/-- The work that makes the umpire Ready (R229). -/
def umpireWork (s : State) (c : Nat) : Bool :=
  let k := coreAt s c
  !k.dugout.isEmpty || engFaultPending k || (inboundWords s).any (inboundFor c) || savePending s c || reportHeld s

/-- Entries of the copy queue and of the matrix queue that a workgroup may take (R87, R382). -/
def copyRoom (s : State) (h : Nat) : Bool :=
  let k := coreAt s (wgAt s h).core
  decide (k.copyQ.length < 64 ∧ (k.copyQ.filter (fun e => e.2.wg = h)).length < 32)
def mtxRoom (s : State) (h : Nat) : Bool :=
  let k := coreAt s (wgAt s h).core
  decide (k.mtxQ.length < 32 ∧ (k.mtxQ.filter (fun e => e.2.wg = h)).length < 16)

/-- Whether a step reads a NEXT for an NCANC. -/
def NetStep.reads (x : NetStep) : Bool :=
  match x with
  | .next _ _ => true
  | _ => false

/-- Whether what a thread waits for has come. -/
def waitOver (s : State) (c n : Nat) (t : Thread) (w : Wait) : Bool :=
  match w with
  | .load i => !(slotAt s c n).loads.any (fun p => p.id == i)
  | .tag i => let g := (tagOf (wgAt s t.home) i.toNat).st; g != .busy || (stoppedOn s t.home i.toNat).isSome
  | .anyTag m =>
    let g := wgAt s t.home
    m == 0 || (m &&& tagRdy g) != 0 ||
      (List.range 64).any (fun i => bitAt m i && (stoppedOn s t.home i).isSome) ||
      (List.range 64).all (fun i => !bitAt m i || (tagOf g i).st == .idle)
  | .copyEntry => copyRoom s t.home
  | .mtxEntry => mtxRoom s t.home
  | .dugout k => decide (k + (coreAt s c).dugout.length ≤ 32)
  | .children => (wgAt s t.home).children == 0
  | .counter _ => false
  | .chain q => ((Tab.get? s.qps q).map (fun p => !p.stopped && !p.todo.any NetStep.reads)).getD true
  | .event => umpireWork s c
  | .snapshot => t.escOk
  | .preImage p => match s.replay with | some r => r.pages.contains p | none => true

/-- Whether a thread waits on a command that stands stopped, at which it parks whatever the other lanes of its instruction
wait for (R99, R232). -/
def parksNow (s : State) (t : Thread) (w : Wait) : Bool :=
  match w with
  | .tag i => (stoppedOn s t.home i.toNat).isSome
  | .anyTag m => (m &&& tagRdy (wgAt s t.home)) == 0 && (List.range 64).any (fun i => bitAt m i && (stoppedOn s t.home i).isSome)
  | _ => false

/-- Whether a thread is Ready, or waits for what has come, together with every thread that began to wait on its path (R93,
R170, R418); a sleeping umpire is Ready once it has work (R229). -/
def isReady (s : State) (c n : Nat) (t : Thread) : Bool :=
  !t.held && !(wgAt s t.home).zeroing && !snapping s t.home &&
    (match t.st with
     | .ready => true
     | .wait w =>
       waitOver s c n t w && (parksNow s t w ||
         (slotAt s c n).threads.all (fun e =>
           match e.2.st with
           | .wait w' => e.2.group != t.group || waitOver s c n e.2 w'
           | _ => true))
     | .sleeping _ => n == 16 && umpireWork s c
     | _ => false)

/-- Whether a slot has a Ready path (R216). -/
def slotReady (s : State) (c n : Nat) : Bool := (slotAt s c n).threads.any (fun e => isReady s c n e.2)

/-- The slots of a quarter (R12, R13). -/
def quarterSlots (q : Nat) : List Nat := [4 * q, 4 * q + 1, 4 * q + 2, 4 * q + 3] ++ (if q = 0 then [16] else [])

/-! ## The end of a run (R218) -/

/-- The digest of a team's runs in a kernel replay (R292). -/
def digestRun (s : State) (c : Nat) (r : Run) : State :=
  match s.replay with
  | none => s
  | some p =>
    let w := wgAt s (slotWg s c r.slot)
    if r.slot ≠ 16 ∧ w.launch = p.launch then
      { s with teams := Tab.adjust s.teams w.team (fun m =>
          { m with digest := Config.runDigest m.digest r.start r.lanes }) }
    else s

/-- End the run of a quarter: its record, and its latches are lost (R129, R218, R286); no outcome of a walk is kept for it (R31). -/
def finishRun (s : State) (c q endc : Nat) : State :=
  match (quarterAt s c q).run with
  | none => s
  | some r =>
    closeRun (digestRun (runRecord (clearWalked s (.core c r.slot)) c r endc) c r) c q

/-- Keep the latches of a path's run with its slot (R130). -/
def storeLatches (s : State) (c : Nat) (r : Run) (ls : List Latch) : State :=
  modSlot s c r.slot (fun w => { w with latches := (r.lanes, ls) :: w.latches.filter (fun m => m.1 &&& r.lanes = 0) })

/-- The run of a quarter ends at a stop away from a safe point: its path keeps its valid latches (R130). -/
def keepLatches (s : State) (c q : Nat) : State :=
  let k := quarterAt s c q
  match k.run with
  | none => s
  | some r => finishRun (if k.latches.any Latch.valid then storeLatches s c r k.latches else s) c q 6

/-- A lane of a running path leaves it between instructions, as for a handler: the path splits, its run ends and its latches are
lost (R129, R174). -/
def splitRun (s : State) (c n l : Nat) : State :=
  (List.range 4).foldl (fun s q =>
    match (quarterAt s c q).run with
    | some r => if r.slot = n ∧ bitAt r.lanes l then finishRun s c q 4 else s
    | none => s) s

/-- Whether a team is asked to stop, and how (R240, R277). -/
def stopOf (s : State) (h : Nat) : Option Stop := (Tab.get? s.teams (wgAt s h).team).bind Team.stop

/-- A thread stops for a save or a debug stop (R240, R277): at a safe point or after a region edge, at any boundary
once the stop is forced, and where it waits. -/
def stopAt (s : State) (sp : Option LiveMask) (edge : Bool) (t : Thread) : Thread :=
  match stopOf s t.home with
  | none => t
  | some p =>
    if t.held || t.st == .exited then t
    else if t.st != .ready then { t with held := true }
    else
      match p.kind with
      | .debug => if edge || p.forced then { t with held := true } else t
      | _ =>
        match sp with
        | some m => { t with held := true, stopMask := some m }
        | none => if p.forced then { t with held := true } else t

/-! ## One instruction on a path -/

/-- What the shared steps need to know of an instruction: its head, destination and result's registers, the latch that
it writes, whether its result can be uniform and whether it is known to be, whether it pushes, its opcode, whether it is
a region edge, whether its result returns later, whether it never traps after decode, and which lanes read its first
source, where not all do. -/
structure Shape where
  head : Head
  op : Nat
  dst : Dst := .zero
  words : Nat := 0
  latch : Option Nat := none
  perLane : Bool := false
  uni : Option Bool := none
  push : Bool := false
  edge : Bool := false
  load : Bool := false
  calm : Bool := false
  first : Option (List Nat) := none

/-- What one lane of an instruction produces: its result, the bit it pushes, the flags it raises, its next PC where that
is not the next word, whether it took a branch, the state it enters, why it stays at the instruction, and the trap that
it takes at its next word. -/
structure Out where
  val : Nat := 0
  push : Bool := false
  flags : Nat := 0
  next : Option Word := none
  taken : Bool := false
  st : Option TState := none
  stay : Option Wait := none
  after : Option TrapInfo := none

/-- The lanes of the issuing path, and those that pass the guard (R133, R309). -/
def pathLanes (s : State) : List Nat := lanesOf s.iss.lanes
def activeLanes (s : State) (g : Guard) : List Nat :=
  (pathLanes s).filter (fun l => guardPasses g (((threadAt s s.iss.core s.iss.slot l).map Thread.pred).getD 0))

/-- The next word (R295). -/
def nextWord (s : State) (h : Head) : Word := s.iss.pc + (if h.sp.isSome then 2 else 1)

/-- Perform the lanes in ascending order over the state (R220, R313). -/
def runLanes (s : State) (ls : List Nat) (f : Nat → Act Out) : State × List (Nat × Except Halt Out) :=
  ls.foldl (fun r l => let x := (f l) r.1; (x.2, r.2 ++ [(l, x.1)])) (s, [])

/-- The trapping lanes grouped by cause and detail, in the order of their lowest lane (R220). -/
def groupTraps : List (Nat × TrapInfo) → Nat → List (TrapInfo × List (Nat × TrapInfo))
  | _, 0 => []
  | [], _ => []
  | (l, t) :: r, n + 1 =>
    let same := r.filter (fun x => decide (x.2.cause = t.cause ∧ x.2.detail = t.detail))
    let other := r.filter (fun x => !decide (x.2.cause = t.cause ∧ x.2.detail = t.detail))
    (t, (l, t) :: same) :: groupTraps other n

/-- The path breaks its run and waits: nothing of the instruction is performed (R218, R222). -/
def breakRun (s : State) (ws : Nat → Wait) : State :=
  let i := s.iss
  let s := count s 0x03 1
  let s := (pathLanes s).foldl (fun s l =>
    modThread s i.core i.slot l (fun t => stopAt s none false { t with st := .wait (ws l), group := s.fresh })) s
  finishRun s i.core i.quarter 2

/-- An instruction begins: its free values are new ones (log entry 9). -/
def begun (s : State) : State := { s with fresh := s.fresh + 1, iss := { s.iss with short := false } }

/-- What a lane's wait asks of the rest of the machine: a page's pre-image (R292), a snapshot (R266). -/
def requestWait (s : State) (l : Nat) (w : Wait) : State :=
  match w with
  | .preImage p =>
    (match s.replay with
     | some r => if r.copying.contains p then s else { s with replay := some { r with copying := r.copying ++ [p] } }
     | none => s)
  | .snapshot =>
    askTeam s (wgAt s (slotWg s s.iss.core s.iss.slot)).team
      { hm := slotHm s s.iss.core s.iss.slot, top := ((threadAt s s.iss.core s.iss.slot l).map Thread.top).getD 0 }
  | _ => s

/-- Write the result of the completing active lanes to the destination (R122, R125, R300, R313). -/
def writeResult (s : State) (sh : Shape) (uni : Bool) (done : List (Nat × Out)) : State :=
  let i := s.iss
  let val (l : Nat) : Nat := (((done.find? (fun e => e.1 = l)).map (fun e => e.2.val)).getD 0)
  let a := maskOf (done.map Prod.fst)
  if done.isEmpty then s
  else
    match sh.dst with
    | .v n =>
      (List.range sh.words).foldl (fun s k =>
        writeV s i.core i.slot (n.toNat + k) a uni (fun l => BitVec.ofNat 32 (val l / 2 ^ (32 * k)))) s
    | .s n =>
      let x := (done.getLast?.map (fun e => e.2.val)).getD 0
      (List.range sh.words).foldl (fun s k =>
        writeS s i.core i.slot (n.toNat + k) (BitVec.ofNat 32 (x / 2 ^ (32 * k)))) s
    | .discard => s
    | .zero => s

/-- The releases of an instruction's last reads (R123): the lanes that complete, whether they pass the guard or not. -/
def releaseReads (s : State) (rs : List Rd) (lanes : List Nat) : State :=
  let i := s.iss
  if lanes.isEmpty then s
  else
    let s := (rs.flatMap lastV).foldl (fun s v => releaseV s i.core i.slot v (maskOf lanes)) s
    (rs.flatMap lastS).foldl (fun s r => freeS s i.core i.slot r) s

/-- A completing lane's thread after the instruction: its predicate, flags, PC and state. -/
def stepThread (sh : Shape) (nw : Word) (o : Option Out) (t : Thread) : Thread :=
  let x := o.getD {}
  { t with
    pred := if sh.push then pushPred t.pred x.push else t.pred
    fpstat := t.fpstat ||| BitVec.ofNat 32 (x.flags % 128)
    pc := x.next.getD nw
    st := x.st.getD (if t.st == .exited then .exited else .ready)
    kept := []
    pass := none
    cmpst := none
    escOk := false }

/-- Commit the lanes that complete (R122 to R128, R133, R167). A latch receives a 32-bit result with bits [63:32] zero (log
entry 50). -/
def commitLanes (s : State) (sh : Shape) (rs : List Rd) (uni : Bool) (lanes : List Nat) (done : List (Nat × Out)) :
    State :=
  let i := s.iss
  let nw := nextWord s sh.head
  let s := releaseReads s rs lanes
  let s := writeResult s sh uni done
  let s := match sh.latch with
    | some k =>
      if done.isEmpty then s
      else
        let s := writeLatch s i.core i.quarter k (done.map (fun e => (e.1, BitVec.ofNat 64 e.2.val)))
        if k = 3 then
          modSlot s i.core i.slot (fun w => { w with loads := w.loads.map (fun p => { p with latch := false }) })
        else s
    | none => s
  let s :=
    if sh.load && !done.isEmpty then
      modSlot s i.core i.slot (fun w =>
        { w with loads := w.loads ++ [{ id := s.fresh, lanes := maskOf (done.map Prod.fst), regs := dstRegs sh.dst sh.words,
                                        pc := i.pc, latch := true, hm := accessHm s i.core i.slot }] })
    else s
  lanes.foldl (fun s l =>
    modThread s i.core i.slot l (stepThread sh nw ((done.find? (fun e => e.1 = l)).map Prod.snd))) s

/-- The threads of a slot that wait at a meeting, by lane. -/
def atMeeting (s : State) (c n : Nat) : List Nat :=
  ((slotAt s c n).threads.filter (fun e => e.2.st == .meeting)).map Prod.fst

/-- Whether a release has joined lanes of other paths to the issuing path: they then form one path (R172, R173). -/
def joins (s : State) (waiting : List Nat) : Bool :=
  let i := s.iss
  let at? (l : Nat) : Option (Word × DWord) := ((threadAt s i.core i.slot l).filter (fun t => t.st == .ready)).map
    (fun t => (t.pc, t.cbase))
  (pathLanes s).any (fun l => (at? l).isSome && waiting.any (fun k => !(pathLanes s).contains k && at? k == at? l))

/-- Where a run goes after an instruction (R218): it goes on, or it ends with a code of R286; a stop away from a safe point
keeps its latches (R130). A run that a meeting joins
to other lanes breaks, since paths are formed anew only before a run (log entry 29). `ended` is whether the instruction
completed in a lane, and so counts in the run's record (R286). -/
def afterInstr (s : State) (sh : Shape) (trapped stayed ended taken : Bool) : State :=
  let i := s.iss
  let waiting := atMeeting s i.core i.slot
  let s := meetings (clearWalked s (.core i.core i.slot)) i.core i.slot
  let joined := joins s waiting
  let s := modSlot s i.core i.slot (fun w =>
    mapThreads w (fun t => if t.st == .exited then t else stopAt s none false t))
  match (quarterAt s i.core i.quarter).run with
  | none => s
  | some r =>
    let ts := (pathLanes s).filterMap (fun l => threadAt s i.core i.slot l)
    let live := ts.filter Thread.live
    let waits := !live.isEmpty && live.all (fun t => t.st != .ready) && !trapped
    let r := if !ended || (waits && !live.all (fun t => t.st == .meeting)) then r else
      { r with count := r.count + 1, taken := if taken then r.taken ||| ((1 : BitVec 24) <<< r.count) else r.taken }
    let s := modQuarter s i.core i.quarter (fun k => { k with run := some { r with stalled := false } })
    let one := match live with
      | [] => false
      | t :: _ => live.all (fun u => u.st == .ready && !u.held && u.pc == t.pc && u.cbase == t.cbase)
    let other := (quarterSlots i.quarter).any (fun n => n != i.slot && slotReady s i.core n)
    if trapped then finishRun s i.core i.quarter 3
    else if live.isEmpty then finishRun s i.core i.quarter 0
    else if waits then finishRun (count s 0x03 1) i.core i.quarter 2
    else if live.any Thread.held && live.all (fun t => t.held || t.st != .ready) then
      (if live.all (fun t => !t.held || t.stopMask.isSome) then finishRun s i.core i.quarter 6 else keepLatches s i.core i.quarter)
    else if stayed then finishRun (count s 0x03 1) i.core i.quarter 2
    else if !one then finishRun s i.core i.quarter 4
    else if joined then finishRun (count s 0x03 1) i.core i.quarter 2
    else if sh.head.eor then finishRun s i.core i.quarter 0
    else if 24 ≤ r.count then finishRun s i.core i.quarter 1
    else if sh.head.yld && other then finishRun s i.core i.quarter 5
    else s

/-- Stop at a safe point or a region edge the lanes that complete (R240, R277). -/
def stopLanes (s : State) (sh : Shape) (lanes : List Nat) : State :=
  lanes.foldl (fun s l => modThread s s.iss.core s.iss.slot l (fun t => stopAt s sh.head.sp sh.edge t)) s

/-- Park the trapping groups of an instruction (R220, R222), count what R290 counts, and keep with each lane what its
completion or replay will need: the latch values that it read, but for a read of a lost latch (R130). A trapped escape
meets its next snapshot anew (R266). -/
def parkGroups (s s0 : State) (sh : Shape) (rs : List Rd) (gs : List (TrapInfo × List (Nat × TrapInfo)))
    (pc : Nat → Word) : State :=
  let i := s.iss
  let nw := nextWord s sh.head
  gs.foldl (fun s g =>
    let ls := g.2.map Prod.fst
    let s := countBy s (ls.headD 0) 0x06 1
    let s := if g.1.cause = 0x42 ∧ g.1.detail = 0x01 then countBy s (ls.headD 0) 0x14 1 else s
    let s := if g.1.cause = 0x03 then countBy s (ls.headD 0) 0x15 1 else s
    let s := parkGroup s i.core i.slot ls g.1 (pc (ls.headD 0)) sh.op (g.2.filterMap (fun x => x.2.addr))
      (fun l => if g.1.cause = 0x03 then [] else keptOf s0 rs l)
    ls.foldl (fun s l => modThread s i.core i.slot l (fun t =>
      { t with escOk := false, resume := nw, due := rs.flatMap (fun r => lastV r ++ (lastS r).map (256 + ·)) })) s) s

/-- What poison ends, after the lanes that consumed it have parked (R257), under the hallmark of the access. -/
def containAll (s : State) (hm : Hm) (ts : List (Nat × TrapInfo)) : State :=
  let i := s.iss
  ts.foldl (fun s x =>
    match x.2.poison with
    | some (a, sk) =>
      let h := homeOf s i.core i.slot x.1
      contain s (some i.core) a sk hm (if i.slot = 16 then [] else [(wgAt s h).team]) x.2.detail i.pc
    | none => s) s

/-- What a poisoned instruction fetch ends (R257): one consumption, for the teams of all the lanes of the path. -/
def containFetch (s : State) (hm : Hm) (ls : List Nat) (t : TrapInfo) : State :=
  let i := s.iss
  match t.poison with
  | some (a, sk) =>
    let teams := if i.slot = 16 then [] else (ls.map (fun l => (wgAt s (homeOf s i.core i.slot l)).team)).dedup
    contain s (some i.core) a sk hm teams t.detail i.pc
  | none => s

/-- Whether a lane's access stalls in place (R33, R260): the instruction then issues again with nothing performed. -/
def stalls (r : List (Nat × Except Halt Out)) : Bool := r.any (fun e => match e.2 with | .error (.stall _) => true | _ => false)

/-- The walks that the stalled lanes wait for. -/
def missesOf (r : List (Nat × Except Halt Out)) : List (Nat × MissAt) :=
  r.filterMap (fun e => match e.2 with | .error (.stall m) => m.map (fun x => (e.1, x)) | _ => none)

/-- The issuing path stalls in place: its lanes' misses enter the court's queue, or merge there (R33), and count when they
first do (R290). -/
def stallPath (s : State) (ms : List (Nat × MissAt)) : State :=
  let i := s.iss
  let w : Waiter := .core i.core i.slot
  let s1 := modQuarter s i.core i.quarter (fun k => { k with run := k.run.map (fun r => { r with stalled := true }) })
  ms.foldl (fun t x =>
    let r := queueMiss t (i.core / 8) x.2.1 x.2.2.1 x.2.2.2 w
    if !r.2 || missPending s (i.core / 8) x.2.1 x.2.2.1 w then r.1
    else countBy (countBy r.1 x.1 0x0A 1) x.1 0x0B 1) s1

/-- The lanes that wait, that trap, and that answer. -/
def waitsOf (r : List (Nat × Except Halt Out)) : List (Nat × Wait) :=
  r.filterMap (fun e => match e.2 with | .error (.wait w) => some (e.1, w) | _ => none)
def trapsOf (r : List (Nat × Except Halt Out)) : List (Nat × TrapInfo) :=
  r.filterMap (fun e => match e.2 with | .error (.trap t) => some (e.1, t) | _ => none)
def outsOf (r : List (Nat × Except Halt Out)) : List (Nat × Out) :=
  r.filterMap (fun e => match e.2 with | .ok o => some (e.1, o) | _ => none)

/-- The cycles that an instruction's register reads lose to bank conflicts (R126): of its distinct full registers, each
after the first in a bank. -/
def bankConflicts (s : State) (rs : List Rd) : Nat :=
  let full (v : Nat) : Bool :=
    match Tab.get? (slotAt s s.iss.core s.iss.slot).vmap v with
    | some { form := .full _, .. } => true
    | _ => false
  let vs := ((rs.flatMap (fun r =>
    match r.src with
    | .v n _ _ => (List.range r.words).map (n.toNat + ·)
    | _ => [])).filter full).dedup
  vs.length - (vs.map (· % 8)).dedup.length

/-- Count an instruction issued, and its bank conflicts (R290): `s0` is the state that it read. -/
def countIssue (s0 s : State) (rs : List Rd) : State :=
  let s := count s 0x01 1
  match bankConflicts s0 rs with
  | 0 => s
  | n + 1 => count s 0x05 (n + 1)

/-- What a lane that stays at the instruction waits for: one that names no tag of its own waits for none (R93). A path that waits for a queue entry goes on when one frees for its
first lane (R87): its other lanes wait for nothing of their own. -/
def stayWait (stay : List (Nat × Wait)) (l : Nat) : Wait :=
  match stay with
  | [] => .event
  | (k, w) :: _ =>
    match w with
    | .copyEntry | .mtxEntry => if l = k then w else .anyTag 0
    | .tag _ | .anyTag _ => ((stay.find? (fun e => e.1 = l)).map Prod.snd).getD (.anyTag 0)
    | _ => ((stay.find? (fun e => e.1 = l)).map Prod.snd).getD w

/-- Perform an instruction on the issuing path (R309, order 4 on): `f lane values` is what it does in one lane. A
trap in a lane of the umpire's restarts Ninal once the other lanes have completed; what they wrote in the slot and its threads
goes with Ninal's own work (R220, R231). -/
def performOn (s : State) (sh : Shape) (rs : List Rd) (f : Nat → List Nat → Act Out) : State :=
  let i := s.iss
  let s := begun s
  let path := pathLanes s
  let act := activeLanes s sh.head.guard
  match loadWait s sh.dst sh.words rs with
  | some w => breakRun s (fun _ => w)
  | none =>
    let reads := act.map (fun l => (l, readLane s sh.dst sh.words (readsOf sh.first rs l) l))
    let r := runLanes s act (fun l =>
      match (reads.find? (fun e => e.1 = l)).map Prod.snd with
      | some (.ok v) => f l v
      | some (.error e) => if sh.calm then pure ({} : Out) else throw e
      | none => pure ({} : Out))
    let waits := waitsOf r.2
    if stalls r.2 then stallPath s (missesOf r.2)
    else match waits with
    | (_, w) :: _ =>
      let dflt : Wait := match w with | .tag _ | .anyTag _ => .anyTag 0 | _ => w
      breakRun (waits.foldl (fun s x => requestWait s x.1 x.2) s)
        (fun l => ((waits.find? (fun e => e.1 = l)).map Prod.snd).getD dflt)
    | [] =>
      let traps := trapsOf r.2
      let outs := outsOf r.2
      let stay := outs.filterMap (fun e => e.2.stay.map (fun w => (e.1, w)))
      let done := outs.filter (fun e => e.2.stay.isNone)
      let lates := done.filterMap (fun e => e.2.after.map (fun t => (e.1, t)))
      let gs := groupTraps traps traps.length
      let gl := groupTraps lates lates.length
      let need := gs.length + gl.length
      if i.slot = 16 && decide (0 < need) then containAll (restartNinal (countIssue s r.1 rs) i.core) (accessHm s i.core i.slot) traps
      else if decide (0 < need) && decide (32 < need + (coreAt s i.core).dugout.length) then
        breakRun (count s 0x07 1) (fun _ => .dugout need)
      else
        let stays := if done.isEmpty && !stay.isEmpty then
            path.filter (fun l => !traps.any (fun e => e.1 = l))
          else stay.map Prod.fst
        let lanes := path.filter (fun l => !traps.any (fun e => e.1 = l) && !stays.contains l)
        let uni := sh.uni.getD (!sh.perLane && rs.all (srcUniform s))
        let s1 := if done.isEmpty && traps.isEmpty && !stay.isEmpty then r.1 else countIssue s r.1 rs
        let s1 := commitLanes s1 sh rs uni lanes done
        let s1 := stays.foldl (fun s l => modThread s i.core i.slot l (fun t =>
          { t with group := s.fresh, st := .wait (stayWait stay l) })) s1
        let s1 := parkGroups s1 s sh rs gs (fun _ => i.pc)
        let s1 := parkGroups s1 s sh rs gl (fun l =>
          ((done.find? (fun e => e.1 = l)).bind (fun e => e.2.next)).getD (nextWord s sh.head))
        let s1 := stopLanes s1 sh lanes
        let s1 := if sh.head.sp.isSome then lanes.foldl (fun s l => deliverPending s i.core i.slot l) s1 else s1
        let s1 := afterInstr s1 sh (decide (0 < need)) (!stays.isEmpty) (!lanes.isEmpty) (done.any (fun e => e.2.taken))
        containAll s1 (slotHm s i.core i.slot) traps

/-- Perform an instruction: the next state. -/
def perform (s : State) (sh : Shape) (rs : List Rd) (f : Nat → List Nat → Act Out) :
    Host.Outcome State Fault Refusal :=
  .next (performOn s sh rs f)

/-- A trap of every lane of the path, before any lane is looked at (R309, orders 1 to 3). -/
def trapPath (s : State) (sh : Shape) (t : TrapInfo) : State :=
  let i := s.iss
  if i.slot = 16 then containFetch (restartNinal s i.core) devHm (pathLanes s) t
  else if 32 ≤ (coreAt s i.core).dugout.length then breakRun (count s 0x07 1) (fun _ => .dugout 1)
  else
    let g := [(t, (pathLanes s).map (fun l => (l, t)))]
    let s1 := parkGroups s s sh [] g (fun _ => i.pc)
    let s1 := afterInstr s1 sh true false false false
    containFetch s1 (slotHm s i.core i.slot) (pathLanes s) t

/-- A privileged instruction (R311): outside the umpire warp every lane of the path takes cause 0x02. -/
def privileged (s : State) (sh : Shape) (rs : List Rd) (f : Nat → List Nat → Act Out) :
    Host.Outcome State Fault Refusal :=
  if s.iss.slot = 16 then perform s sh rs f
  else .next (trapPath (begun s) sh { cause := 0x02, detail := 0 })

/-- Take a queue entry in a lane, or stay at the instruction: from the first lane that finds none on, every lane stays
(R87, R382). -/
def takeEntryFor (room : State → Bool) (w : Wait) (take : State → State) : Act Out := do
  let s ← get
  if !s.iss.short && room s then do
    setState (take s)
    pure {}
  else do
    setState { s with iss := { s.iss with short := true } }
    pure { stay := some w }

/-! ## Escapes and their log (R266, R270, R272) -/

/-- Whether a workgroup's launch is marked `.rollback` (R265). -/
def rollbackWg (s : State) (h : Nat) : Bool := bitAt (launchWord s h 1) 1

/-- The first record of the log that a lane has not replayed at the issuing instruction (R272). -/
def logFor (s : State) (l : Nat) : Option (Nat × LogRec) :=
  let i := s.iss
  let m := Tab.get? s.teams (wgAt s (homeOf s i.core i.slot l)).team
  match m with
  | none => none
  | some m => (withPos m.snap.log).find? (fun e =>
      decide (e.2.slot = i.slot ∧ e.2.pc = i.pc ∧ e.2.wg = slotWg s i.core i.slot) && e.2.eng.isNone && bitAt e.2.lanes l &&
        !bitAt e.2.replayed l)

/-- Replay a logged escape in a lane: the record's result and bit, and nothing is performed (R272). -/
def replayLog (l : Nat) (e : Nat × LogRec) : Act Out := do
  let s ← get
  let t := (wgAt s (homeOf s s.iss.core s.iss.slot l)).team
  setState { s with teams := Tab.adjust s.teams t (fun m =>
    { m with snap := { m.snap with log := m.snap.log.mapIdx (fun i r =>
        if i = e.1 then { r with replayed := r.replayed ||| maskOf [l] } else r) } }) }
  pure { val := (Tab.getD e.2.results l 0).toNat, push := bitAt e.2.pushed l }

/-- Record an escape performed after a commit in the log of the committed bank (R270). -/
def appendLog (l : Nat) (o : Out) : Act Unit := do
  let s ← get
  let i := s.iss
  let t := (wgAt s (homeOf s i.core i.slot l)).team
  let r : LogRec := { wg := slotWg s i.core i.slot, slot := i.slot, lanes := maskOf [l], pc := i.pc,
                      results := [(l, BitVec.ofNat 64 o.val)], pushed := if o.push then maskOf [l] else 0,
                      replayed := 0xFFFFFFFF, eng := none }
  setState { s with teams := Tab.adjust s.teams t (fun m =>
    if m.snap.valid then { m with snap := { m.snap with log := m.snap.log ++ [r] } } else m) }

/-- One lane of an escape (R266): in a `.rollback` launch it replays its log record, or it waits for a snapshot and is
then performed and logged. -/
def escape (l : Nat) (a : Act Out) : Act Out := do
  let s ← get
  let i := s.iss
  if i.slot ≠ 16 ∧ rollbackWg s (homeOf s i.core i.slot l) then
    match logFor s l with
    | some e => replayLog l e
    | none =>
      if ((threadAt s i.core i.slot l).map Thread.escOk).getD true then do
        let o ← a
        appendLog l o
        pure o
      else waitFor .snapshot
  else a

/-! ## Shapes of plain results -/

/-- A result of one lane that changes nothing else. -/
def result (x : Nat) : Act Out := pure { val := x }

/-- A result with a pushed bit. -/
def resultPush (x : Nat) (b : Bool) : Act Out := pure { val := x, push := b }

end Sys2Proof.Machine
end

