-- ==== Sys2Proof/Machine/Barrier.lean ====
section
/-!
DEFINITION. Barriers: BAR, BARN and TBAR (R198 to R201, R406 to R408), and the traps of barriers that cannot complete.
-/

namespace Sys2Proof.Machine

/-! ## Leaving a wait -/

/-- A waiting thread goes on at a word: the last reads of its instruction take effect (R123). -/
def leaveWait (s : State) (c n l : Nat) (next : Word) : State :=
  let due := ((threadAt s c n l).map Thread.due).getD []
  let s := releaseLane s c n l due
  modThread s c n l (fun t => { t with st := .ready, pc := next, due := [] })

/-- Lanes of one core leave their waits; threads that then stand at their meeting wait there. -/
def leaveAll (s : State) (c : Nat) (ws : List (Nat × Nat × Word)) : State :=
  let s := ws.foldl (fun s w => leaveWait s c w.1 w.2.1 w.2.2) s
  ((ws.map Prod.fst).dedup).foldl (fun s n => meetings s c n) s

/-- The lanes of a slot at one PC and code base, among some of it. -/
def waitGroup (s : State) (c : Nat) (ws : List (Nat × Nat)) (n l : Nat) : List Nat :=
  let at_ (n l : Nat) : Option (Word × DWord) := (threadAt s c n l).map (fun t => (t.pc, t.cbase))
  (ws.filter (fun w => w.1 = n ∧ at_ w.1 w.2 = at_ n l)).map Prod.snd

/-- Waiting threads trap at their instruction: each group of a slot parks, or keeps its trap until the dugout has an entry
for it (R199, R220, R222); in the umpire warp a trap restarts Ninal (R231). -/
def trapWaiters (s : State) (c : Nat) (ws : List (Nat × Nat)) (cause detail : Byte) (op : Nat) : State :=
  ws.foldl (fun s w =>
    match (threadAt s c w.1 w.2).map Thread.st with
    | none => s
    | some (.parked _) => s
    | some _ =>
      if w.1 = 16 then restartNinal s c
      else
        let ls := (waitGroup s c ws w.1 w.2).mergeSort
        if 32 ≤ (coreAt s c).dugout.length then
          ls.foldl (fun s l => modThread s c w.1 l (fun t => { t with st := .trapping cause detail op })) s
        else
        let pc := ((threadAt s c w.1 w.2).map Thread.pc).getD 0
        let s := ls.foldl (fun s l => modThread s c w.1 l (fun t => { t with due := [], resume := pc + 1 })) s
        parkGroup (countAt s c w.1 (ls.headD w.2) 0x06 1) c w.1 ls { cause := cause, detail := detail } pc op [] (fun _ => [])) s

/-- What a waiting thread keeps until it leaves: the registers that its instruction reads for the last time. -/
def keepDue (s : State) (rs : List Rd) (waiting : TState → Bool) : State :=
  let i := s.iss
  let due := rs.flatMap (fun r => lastV r ++ (lastS r).map (256 + ·))
  (pathLanes s).foldl (fun s l =>
    modThread s i.core i.slot l (fun t => if waiting t.st then { t with due := due } else t)) s

/-- A source without its last-read mark, which a waiting instruction applies when it ends. -/
def unlast (r : Rd) : Rd :=
  match r.src with
  | .v n p _ => { r with src := .v n p false }
  | .s n _ => { r with src := .s n false }
  | _ => r

/-! ## Counting threads -/

/-- The live threads of a workgroup, and whether a thread created for it has exited; of a workgroup that has been
released every thread has (R249, R405). -/
def liveCount (s : State) (h : Nat) : Nat := ((threadsOf s h).filter (fun t => t.2.2.live)).length
def someExited (s : State) (h : Nat) : Bool :=
  (Tab.get? s.wgs h).isNone || decide (liveCount s h < (wgAt s h).nthreads)

/-- The workgroup that a warp counts for under PW = 1: the home of the thread in its lowest lane that holds a live
thread (R201). -/
def warpCounts (s : State) (c n : Nat) : Option Nat :=
  ((slotAt s c n).threads.find? (fun e => e.2.live)).map (fun e => e.2.home)

/-- Whether the open instance of a workgroup's barrier counts warps (R200). -/
def countsWarps (s : State) (h b : Nat) : Bool := Tab.getD (wgAt s h).barMode b false

/-- Whether a barrier instance is open: it has had an arrival (R198). -/
def barOpen (s : State) (h b : Nat) : Bool := (Tab.get? (wgAt s h).barMode b).isSome

/-- Whether a workgroup's barrier counts warps: as its open instance does, else as BARMODE would have it (R200). -/
def barCountsWarps (s : State) (h b : Nat) : Bool := if barOpen s h b then countsWarps s h b else (wgAt s h).barmode

/-- The workgroup in whose instance a thread of a slot waits at a barrier (R199, R201): its own where that counts threads;
else the one that its warp counts for, where that counts warps. -/
def barOwner (s : State) (c n b : Nat) (t : Thread) : Nat :=
  if !barCountsWarps s t.home b then t.home
  else
    match warpCounts s c n with
    | some h => if barCountsWarps s h b then h else t.home
    | none => t.home

/-- The threads that wait in a workgroup's instance of a barrier: (slot, lane, the word that they leave to). -/
def barWaiters (s : State) (h b : Nat) : List (Nat × Nat × Word) :=
  let c := (wgAt s h).core
  (coreAt s c).slots.flatMap (fun e =>
    e.2.threads.filterMap (fun t =>
      match t.2.st with
      | .bar b' next => if b' = b && barOwner s c e.1 b t.2 == h then some (e.1, t.1, next) else none
      | _ => none))

/-- Close an instance. -/
def closeBar (s : State) (h b : Nat) : State :=
  modWg s h (fun w =>
    { w with barMode := Tab.del w.barMode b, barPw := Tab.del w.barPw b, barLeft := Tab.del w.barLeft b })

/-- The detail with which an instance that counts threads traps those that wait in it (R199). -/
def barTrap (s : State) (h b : Nat) : Option Byte :=
  if !barOpen s h b || countsWarps s h b || (barWaiters s h b).isEmpty then none
  else if someExited s h then some 0x01
  else if (threadsOf s h).any (fun t => match t.2.2.st with | .bar b' _ => b' != b | _ => false) then some 0x02
  else none

/-- An instance completes, or goes on waiting (R199, R201). One whose every arrival has trapped is closed. -/
def completeBar (s : State) (h b : Nat) : State :=
  let w := wgAt s h
  let ws := barWaiters s h b
  if !barOpen s h b then s
  else if countsWarps s h b then
    let warps := ((coreAt s w.core).slots.filter (fun e => warpCounts s w.core e.1 == some h)).map Prod.fst
    if warps.all (Tab.getD w.barPw b []).contains then leaveAll (closeBar s h b) w.core ws else s
  else if ws.isEmpty && Tab.getD w.barLeft b 0 == 0 then closeBar s h b
  else if w.nthreads ≤ ws.length + Tab.getD w.barLeft b 0 then leaveAll (closeBar s h b) w.core ws
  else s

/-- The workgroup barriers of a workgroup: the instances that cannot complete trap, each judged as all of them stand,
and the others complete or go on waiting. -/
def sweepBars (s : State) (h : Nat) : State :=
  let bs := (wgAt s h).barMode.map Prod.fst
  let vs := bs.filterMap (fun b => (barTrap s h b).map (fun d => (barWaiters s h b, d)))
  let s := vs.foldl (fun s v => trapWaiters s (wgAt s h).core (v.1.map (fun x => (x.1, x.2.1))) 0x80 v.2 0x388) s
  bs.foldl (fun s b => completeBar s h b) s

/-- A path that has executed BAR arrives (R198, R200, R201): it opens the instance where none is open. -/
def arriveBar (s : State) (b : Nat) : State :=
  let i := s.iss
  let openIt (s : State) (h : Nat) : State :=
    modWg s h (fun w =>
      if (Tab.get? w.barMode b).isSome then w else { w with barMode := Tab.set w.barMode b w.barmode })
  let owners := ((pathLanes s).filterMap (fun l => (threadAt s i.core i.slot l).map (barOwner s i.core i.slot b))).dedup
  let warp := (warpCounts s i.core i.slot).filter (fun h => barCountsWarps s h b)
  let s := owners.foldl openIt s
  match warp with
  | none => s
  | some h =>
    modWg (openIt s h) h (fun w =>
      { w with barPw := Tab.set w.barPw b (i.slot :: (Tab.getD w.barPw b []).filter (· != i.slot)) })

/-- The home workgroups of the issuing path's lanes. -/
def homesOfPath (s : State) : List Nat := ((pathLanes s).map (homeOf s s.iss.core s.iss.slot)).dedup

/-- Whether a thread waits at a barrier of each kind. -/
def atBar : TState → Bool
  | .bar _ _ => true
  | _ => false
def atBarn : TState → Bool
  | .barn _ _ => true
  | _ => false

/-- BAR (R199, R201, R406). -/
def execBar (h : Head) (b : BitVec 4) (s : State) : Host.Outcome State Fault Refusal :=
  let pc := s.iss.pc
  let s := performOn s { head := h, op := 0x388 } [] (fun _ _ =>
    pure { st := some (.bar b.toNat (nextWord s h)), next := some pc })
  let waiting := (pathLanes s).any (fun l =>
    ((threadAt s s.iss.core s.iss.slot l).map (fun t => atBar t.st)).getD false)
  .next (if waiting then
      let hs := (warpCounts s s.iss.core s.iss.slot).toList ++ homesOfPath s
      hs.foldl sweepBars (arriveBar s b.toNat)
    else s)

/-! ## Named barriers (R408) -/

/-- The open instance of a workgroup's named barrier. -/
def namedAt (s : State) (h a : Nat) : Option Named := (wgAt s h).named.find? (fun m => m.addr = a)

/-- Change or remove the open instance. -/
def setNamed (s : State) (h a : Nat) (m : Option Named) : State :=
  modWg s h (fun w => { w with named := w.named.filter (fun x => x.addr != a) ++ m.toList })

/-- A thread arrives at a named barrier (R408): the checks in their order, then the count; the last arrival closes the
instance. -/
def arriveNamed (l : Nat) (a : Word) (x : Nat) : Act Unit := do
  let s ← get
  let h := homeOf s s.iss.core s.iss.slot l
  let w := wgAt s h
  let rank := field a 28 4
  let o := field a 0 28
  let info := accInfo 8 false false false
  if (rank ≠ 15 ∧ rank ≠ w.rank) ∨ w.spg * 16384 ≤ o then raiseAt (0x11, 0x06) (a.setWidth 64) info
  else if a.toNat % 8 ≠ 0 then raiseAt (0x12, 0) (a.setWidth 64) info
  else if x = 0 ∨ 512 < x then raise 0x80 0x03
  else
    match namedAt s h o with
    | some m =>
      if m.count ≠ x then raise 0x80 0x03
      else if m.arrived + 1 = m.count then setState (setNamed s h o none)
      else setState (setNamed s h o (some { m with arrived := m.arrived + 1 }))
    | none =>
      if 4 ≤ w.named.length then raise 0x80 0x04
      else if x = 1 then pure ()
      else setState (setNamed s h o (some { addr := o, count := x, arrived := 1 }))

/-- The threads of a workgroup that wait at a named barrier. -/
def namedWaiters (s : State) (h a : Nat) : List (Nat × Nat × Word) :=
  (threadsOf s h).filterMap (fun t =>
    match t.2.2.st with
    | .barn a' next => if a' = a then some (t.1, t.2.1, next) else none
    | _ => none)

/-- Some instance of a named barrier completed while lanes of the issuing path arrived: the threads that waited before
leave, and of the path's lanes all but the last that opened or joined the instance now open (R408). -/
def settleNamed (s : State) (h a : Nat) (mine : List Nat) : State :=
  let i := s.iss
  let m := ((namedAt s h a).map Named.arrived).getD 0
  if mine.length ≤ m then s
  else
    let stay := mine.drop (mine.length - m)
    let ws := (namedWaiters s h a).filter (fun x => !(decide (x.1 = i.slot) && stay.contains x.2.1))
    leaveAll s (wgAt s h).core ws

/-- A named barrier that its workgroup's live threads cannot complete traps every waiting thread (R408). -/
def sweepNamed (s : State) (h : Nat) : State :=
  (wgAt s h).named.foldl (fun s m =>
    if liveCount s h < m.count then
      let ws := (namedWaiters s h m.addr).map (fun x => (x.1, x.2.1))
      let s := trapWaiters s (wgAt s h).core ws 0x80 0x05 0x389
      if (namedWaiters s h m.addr).isEmpty then setNamed s h m.addr none else s
    else s) s

/-- BARN (R408). -/
def execBarn (h : Head) (a x : Src) (s : State) : Host.Outcome State Fault Refusal :=
  let i := s.iss
  let rs := [rdI a 1, rdI x 1]
  let s := performOn s { head := h, op := 0x389 } (rs.map unlast) (fun l v => do
    let p : Word := BitVec.ofNat 32 (v.getD 0 0)
    arriveNamed l p (v.getD 1 0)
    pure { st := some (.barn (field p 0 28) (nextWord s h)), next := some i.pc })
  let s := keepDue s rs atBarn
  let here := (pathLanes s).filterMap (fun l =>
    match threadAt s i.core i.slot l with
    | some t => (match t.st with | .barn o _ => some (t.home, o, l) | _ => none)
    | none => none)
  let keys := (here.map (fun e => (e.1, e.2.1))).dedup
  let s := keys.foldl (fun s k =>
    settleNamed s k.1 k.2 ((here.filter (fun e => e.1 = k.1 ∧ e.2.1 = k.2)).map (fun e => e.2.2))) s
  .next ((homesOfPath s).foldl sweepNamed s)

/-! ## Team barriers (R407) -/

/-- The threads of a team that wait at TBAR: (core, slot, lane, barrier, next word). -/
def teamWaiters (s : State) (t : Nat) : List (Nat × Nat × Nat × Nat × Word) :=
  (((Tab.get? s.teams t).map Team.wgs).getD []).flatMap (fun h =>
    (threadsOf s h).filterMap (fun x =>
      match x.2.2.st with
      | .tbar b next => some ((wgAt s h).core, x.1, x.2.1, b, next)
      | _ => none))

/-- Over the cores of some waiting threads. -/
def perCore (ws : List (Nat × Nat × Nat × Nat × Word)) (f : State → Nat → List (Nat × Nat × Word) → State) (s : State) :
    State :=
  ((ws.map Prod.fst).dedup).foldl (fun s c =>
    f s c ((ws.filter (fun w => w.1 = c)).map (fun w => (w.2.1, w.2.2.1, w.2.2.2.2)))) s

/-- The threads of a team that wait at one barrier. -/
def atTbar (s : State) (t b : Nat) : List (Nat × Nat × Nat × Nat × Word) :=
  (teamWaiters s t).filter (fun w => w.2.2.2.1 = b)

/-- The detail with which a team barrier traps those that wait at it (R407). -/
def tbarTrap (s : State) (t b : Nat) : Option Byte :=
  let hs := ((Tab.get? s.teams t).map Team.wgs).getD []
  if (atTbar s t b).isEmpty then none
  else if hs.any (someExited s) then some 0x01
  else if (teamWaiters s t).any (fun w => w.2.2.2.1 != b) then some 0x02
  else none

/-- A team barrier completes or goes on waiting (R407). -/
def completeTbar (s : State) (t b : Nat) : State :=
  let hs := ((Tab.get? s.teams t).map Team.wgs).getD []
  let ws := atTbar s t b
  let left := (hs.map (fun h => Tab.getD (wgAt s h).barLeft (16 + b) 0)).sum
  if (ws.isEmpty && left == 0) || hs.any (someExited s) then s
  else if (hs.map (fun h => (wgAt s h).nthreads)).sum ≤ ws.length + left then
    perCore ws leaveAll (hs.foldl (fun s h =>
      modWg (showStores s h) h (fun w => { w with barLeft := Tab.del w.barLeft (16 + b), floor := s.now + 1 })) s)
  else s

/-- The team barriers of a team: those that cannot complete trap, each judged as all of them stand, and the others
complete or go on waiting. -/
def sweepTeam (s : State) (t : Nat) : State :=
  let vs := (List.range 4).filterMap (fun b => (tbarTrap s t b).map (fun d => (atTbar s t b, d)))
  let s := vs.foldl (fun s v =>
    perCore v.1 (fun s c l => trapWaiters s c (l.map (fun x => (x.1, x.2.1))) 0x80 v.2 0x38A) s) s
  (List.range 4).foldl (fun s b => completeTbar s t b) s

/-- TBAR (R407): an arrival is a release at team scope (R68, R78). -/
def execTbar (h : Head) (b : BitVec 2) (s : State) : Host.Outcome State Fault Refusal :=
  let i := s.iss
  let s := performOn s { head := h, op := 0x38A } [] (fun l _ => do
    let s ← get
    setState (orderWork s (homeOf s i.core i.slot l) .rel .team)
    pure { st := some (.tbar b.toNat (nextWord s h)), next := some i.pc })
  let ts := ((homesOfPath s).map (fun h => (wgAt s h).team)).dedup
  .next (ts.foldl sweepTeam s)

/-- Every barrier of a workgroup after a step in which some thread may have exited (R199, R408). -/
def sweepBarriers (s : State) (h : Nat) : State :=
  let s := sweepBars s h
  let s := sweepNamed s h
  sweepTeam s (wgAt s h).team

end Sys2Proof.Machine
end

