-- ==== Sys2Proof/Machine/Crypto.lean ====
section
/-!
DEFINITION. SM3 and SM2, which the boot ROM computes (R449, R453, R455, R456). The functions and the curve are those of the
standards that the manual names (log entry 52).
-/

namespace Sys2Proof.Machine

/-! ## SM3 -/

/-- Bytes as one number, the first byte highest; and a number as `n` such bytes. -/
def natBE (l : List Byte) : Nat := natOf l.reverse
def bytesBE (n x : Nat) : List Byte := (bytesOf n x).reverse

/-- The first chaining value. -/
def sm3Start : List Word :=
  [0x7380166F, 0x4914B2B9, 0x172442D7, 0xDA8A0600, 0xA96F30BC, 0x163138AA, 0xE38DEE4D, 0xB0FB0E4E]

/-- The two permutations. -/
def sm3P0 (x : Word) : Word := x ^^^ x.rotateLeft 9 ^^^ x.rotateLeft 17
def sm3P1 (x : Word) : Word := x ^^^ x.rotateLeft 15 ^^^ x.rotateLeft 23

/-- Words of a block's message schedule, the latest first: each from the sixteen before it. -/
def sm3Expand : Nat → List Word → List Word
  | 0, l => l
  | n + 1, l =>
    let w (i : Nat) : Word := l.getD (i - 1) 0
    sm3Expand n ((sm3P1 (w 16 ^^^ w 9 ^^^ (w 3).rotateLeft 15) ^^^ (w 13).rotateLeft 7 ^^^ w 6) :: l)

/-- One round: `x` is the schedule's word of the round, and `y` that word joined to the one four further on. -/
def sm3Round (j : Nat) (x y : Word) (v : List Word) : List Word :=
  match v with
  | [a, b, c, d, e, f, g, h] =>
    let t : Word := if j < 16 then 0x79CC4519 else 0x7A879D8A
    let s1 := ((a.rotateLeft 12) + e + t.rotateLeft (j % 32)).rotateLeft 7
    let s2 := s1 ^^^ a.rotateLeft 12
    let ff := if j < 16 then a ^^^ b ^^^ c else (a &&& b) ||| (a &&& c) ||| (b &&& c)
    let gg := if j < 16 then e ^^^ f ^^^ g else (e &&& f) ||| (~~~e &&& g)
    [ff + d + s2 + y, a, b.rotateLeft 9, c, sm3P0 (gg + h + s1 + x), e, f.rotateLeft 19, g]
  | _ => v

/-- The rounds from one on. -/
def sm3Rounds : Nat → Nat → List Word → List Word → List Word
  | 0, _, _, v => v
  | n + 1, j, ws, v => sm3Rounds n (j + 1) ws.tail (sm3Round j (ws.getD 0 0) (ws.getD 0 0 ^^^ ws.getD 4 0) v)

/-- A block of 64 bytes joins the chaining value. -/
def sm3Block (v : List Word) (blk : List Byte) : List Word :=
  let first := (List.range 16).map (fun i => BitVec.ofNat 32 (natBE ((blk.drop (4 * i)).take 4)))
  let r := sm3Rounds 64 0 (sm3Expand 52 first.reverse).reverse v
  (v.zip r).map (fun x => x.1 ^^^ x.2)

/-- Blocks join the chaining value in turn. -/
def sm3Blocks : Nat → List Word → List Byte → List Word
  | 0, v, _ => v
  | n + 1, v, l => sm3Blocks n (sm3Block v (l.take 64)) (l.drop 64)

/-- The message with its padding and its length in bits. -/
def sm3Pad (m : List Byte) : List Byte :=
  m ++ [0x80] ++ List.replicate ((119 - m.length % 64) % 64) 0 ++ bytesBE 8 (8 * m.length)

/-- SM3 of a string of bytes: 32 bytes in the standard's order, byte 0 in the lowest bits. -/
def sm3 (m : List Byte) : BitVec 256 :=
  let l := sm3Pad m
  BitVec.ofNat 256 (natOf ((sm3Blocks (l.length / 64) sm3Start l).flatMap (fun w => bytesBE 4 w.toNat)))

/-! ## The curve of SM2 -/

/-- Its field's prime, its coefficient a, the order of its base point, and the base point. -/
def sm2P : Nat := 0xFFFFFFFEFFFFFFFFFFFFFFFFFFFFFFFFFFFFFFFF00000000FFFFFFFFFFFFFFFF
def sm2A : Nat := sm2P - 3
def sm2N : Nat := 0xFFFFFFFEFFFFFFFFFFFFFFFFFFFFFFFF7203DF6B21C6052B53BBF40939D54123
def sm2G : Nat × Nat :=
  (0x32C4AE2C1F1981195F9904466A39C9948FE30BBFF2660BE1715A4589334C74C7,
   0xBC3736A2F4F6779C59BDCEE36B692153D0A9877CC62A474002DF32E52139F0A0)

/-- A power modulo `m`: the exponent has at most as many bits as the first number says. -/
def powMod (m : Nat) : Nat → Nat → Nat → Nat
  | 0, _, _ => 1
  | k + 1, b, e =>
    let h := powMod m k (b * b % m) (e / 2)
    if e % 2 = 1 then b * h % m else h

/-- The inverse modulo a prime. -/
def invMod (m x : Nat) : Nat := powMod m 256 (x % m) (m - 2)

/-- The sum of two points; none is the point at infinity. -/
def sm2Add (p q : Option (Nat × Nat)) : Option (Nat × Nat) :=
  match p, q with
  | none, _ => q
  | _, none => p
  | some (x1, y1), some (x2, y2) =>
    let slope : Option Nat :=
      if x1 = x2 then
        (if (y1 + y2) % sm2P = 0 then none
         else some ((3 * x1 * x1 + sm2A) * invMod sm2P (2 * y1) % sm2P))
      else some ((y2 + sm2P - y1) * invMod sm2P (x2 + sm2P - x1) % sm2P)
    slope.map (fun k =>
      let x := (k * k + 2 * sm2P - x1 - x2) % sm2P
      (x, (k * (x1 + sm2P - x) + sm2P - y1) % sm2P))

/-- A multiple of a point: the number has at most as many bits as the first one says. -/
def sm2Mul : Nat → Nat → Option (Nat × Nat) → Option (Nat × Nat)
  | 0, _, _ => none
  | k + 1, n, p =>
    let h := sm2Mul k (n / 2) (sm2Add p p)
    if n % 2 = 1 then sm2Add p h else h

/-- The x coordinate of a point. -/
def sm2X (p : Option (Nat × Nat)) : Nat := (p.map Prod.fst).getD 0

/-- Whether a public key accepts a signature (r, s) over a digest, taken as a number. -/
def sm2Accepts (key : Nat × Nat) (e r s : Nat) : Bool :=
  let t := (r + s) % sm2N
  decide (1 ≤ r ∧ r < sm2N ∧ 1 ≤ s ∧ s < sm2N ∧ t ≠ 0) &&
    (e + sm2X (sm2Add (sm2Mul 256 s (some sm2G)) (sm2Mul 256 t (some key)))) % sm2N == r

/-- The signature of a digest with a secret number and a number used once; none where another must be used. -/
def sm2SignWith (d e k : Nat) : Option (Nat × Nat) :=
  let r := (e + sm2X (sm2Mul 256 k (some sm2G))) % sm2N
  let s := invMod sm2N (1 + d) * (k + sm2N * sm2N - r * d) % sm2N
  if r = 0 ∨ r + k = sm2N ∨ s = 0 then none else some (r, s)

/-! ## The boot ROM's keys (R449, R455) -/

/-- A string of bytes, byte 0 in the lowest bits, as the number that the standards read from it. -/
def sm2Num (n : Nat) (x : Nat) : Nat := natBE (bytesOf n x)

/-- The vendor's public key as a point. -/
def vendorPoint : Nat × Nat :=
  let l := bytesOf 64 Config.vendorKey.toNat
  (natBE (l.take 32), natBE (l.drop 32))

/-- What stage 3 finds of an image's digest and signature: 5 where the vendor key's digest is not the fused one, 4 for a bad
signature, else 0 (R449, R453; log entry 52). -/
def imageCheck (digest : BitVec 256) (sig : List Byte) : Nat :=
  if sm3 (bytesOf 64 Config.vendorKey.toNat) ≠ Config.fusedDigest then 5
  else if sm2Accepts vendorPoint (sm2Num 32 digest.toNat) (natBE (sig.take 32)) (natBE ((sig.drop 32).take 32)) then 0
  else 4

/-- The identity key's secret number, and its public key as 64 bytes: x then y. -/
def identityNum : Nat := Config.identitySecret.toNat % (sm2N - 2) + 1
def identityKey : List Byte :=
  match sm2Mul 256 identityNum (some sm2G) with
  | some (x, y) => bytesBE 32 x ++ bytesBE 32 y
  | none => List.replicate 64 0

/-- The identity key's signature over a digest, 64 bytes: r then s. The numbers used once are free values, and the first that
the standard admits is taken. -/
def identitySign (digest : BitVec 256) (n : Nat) : List Byte :=
  let ks := (List.range 8).map (fun i => (Config.freeBits 256 (8 * n + i)).toNat % (sm2N - 1) + 1)
  match ks.findSome? (fun k => sm2SignWith identityNum (sm2Num 32 digest.toNat) k) with
  | some (r, s) => bytesBE 32 r ++ bytesBE 32 s
  | none => List.replicate 64 0

end Sys2Proof.Machine
end

