-- ==== Sys2Proof/WellFormed.lean ====
section
/-!
DEFINITION. Which instructions are well formed: the checks of decoding that concern an instruction's operands
together (spec/12, R299 to R310), each with the detail of R310 that it raises. An event is always well formed.
-/

namespace Sys2Proof

/-- The failing check of a decoding: the details 0x01 to 0x09 of R310, and a list of bytes too short for a word,
which a fetch never gives. -/
inductive DecodeError where
  | unassigned | modifier | selector | register | permute | guard | mask | reserved | sreg | tooShort
  deriving DecidableEq, Repr

/-- The detail of the illegal-instruction trap (R310). -/
def DecodeError.detail : DecodeError → BitVec 8
  | .unassigned => 0x01 | .modifier => 0x02 | .selector => 0x03 | .register => 0x04 | .permute => 0x05
  | .guard => 0x06 | .mask => 0x07 | .reserved => 0x08 | .sreg => 0x09 | .tooShort => 0x01

/-- The width at which an operand is read or written: one register, a pair, a group of four (R303). -/
inductive OpW where
  | w32 | w64 | w128
  deriving DecidableEq, Repr

def ITy.opW : ITy → OpW
  | .n32 => .w32 | .i32 => .w32 | .n64 => .w64 | .i64 => .w64

def Wd.opW : Wd → OpW
  | .w32 => .w32 | .w64 => .w64

def RTy.opW : RTy → OpW
  | .int t => t.opW
  | .f32 => .w32

def RTy.isInt : RTy → Bool
  | .int _ => true
  | .f32 => false

/-- The logical reductions are for integer types only (R359). -/
def ROp.isLogic : ROp → Bool
  | .and => true | .or => true | .xor => true | .add => false | .min => false | .max => false

/-- The scans for integer types only (R360). -/
def SOp.isIntOnly : SOp → Bool
  | .red o => o.isLogic
  | .xadd => true

/-- Loads of 8 and 16 bits extend to one register (R306). -/
def MWidth.opW : MWidth → OpW
  | .n8 => .w32 | .i8 => .w32 | .n16 => .w32 | .i16 => .w32 | .w32 => .w32 | .w64 => .w64 | .w128 => .w128

/-- The widths of stores: no sign-extending code (R306). -/
def MWidth.isPlain : MWidth → Bool
  | .n8 => true | .i8 => false | .n16 => true | .i16 => false | .w32 => true | .w64 => true | .w128 => true

/-- The widths of an atomic (R372). -/
def MWidth.isAtomic : MWidth → Bool
  | .w32 => true | .w64 => true | .n8 => false | .i8 => false | .n16 => false | .i16 => false | .w128 => false

/-- The widths of an exchange (R372). -/
def MWidth.isExch : MWidth → Bool
  | .w128 => true
  | w => w.isAtomic

/-- The data of a compare-and-swap: the compare value and the new one (R372). -/
def MWidth.casW : MWidth → OpW
  | .w64 => .w128
  | _ => .w64

/-- The formats that BSCL, QPK and QUPK take: FMT 2 to 7 (R350, R351). -/
def Fmt.isNarrow : Fmt → Bool
  | .bf16 => false | .fp16 => false | .e4m3 => true | .e5m2 => true | .int8 => true | .q4x => true
  | .e2m1 => true | .i4 => true

/-- Eight packed elements: a pair for the 8-bit formats, one register for the 4-bit ones (R352). -/
def Fmt.packW : Fmt → OpW
  | .e4m3 => .w64 | .e5m2 => .w64 | .int8 => .w64 | _ => .w32

/-- The conversions that are exact for every input (R347). -/
def CvtF.exact : CvtF → Bool
  | .f64f32 => true | .f32f16 => true | .f32bf16 => true | .f32e4m3 => true | .f32e5m2 => true | .f32e2m1 => true
  | .f32f64 => false | .f16f32 => false | .bf16f32 => false | .e4m3f32 => false | .e4m3f32nosat => false
  | .e5m2f32 => false | .e2m1f32 => false

def CvtF.srcW : CvtF → OpW
  | .f32f64 => .w64
  | _ => .w32

def CvtF.dstW : CvtF → OpW
  | .f64f32 => .w64
  | _ => .w32

def CvtI.srcW : CvtI → OpW
  | .i32f64 => .w64 | .n32f64 => .w64 | .i64f64 => .w64 | .n64f64 => .w64
  | _ => .w32

def CvtI.dstW : CvtI → OpW
  | .i64f32 => .w64 | .n64f32 => .w64 | .i64f64 => .w64 | .n64f64 => .w64
  | _ => .w32

/-- Codes 0100 and 0101 are exact (R349). -/
def CvtN.exact : CvtN → Bool
  | .f64i32 => true
  | .f64n32 => true
  | _ => false

def CvtN.srcW : CvtN → OpW
  | .f32i64 => .w64 | .f32n64 => .w64 | .f64i64 => .w64 | .f64n64 => .w64
  | _ => .w32

def CvtN.dstW : CvtN → OpW
  | .f64i32 => .w64 | .f64n32 => .w64 | .f64i64 => .w64 | .f64n64 => .w64
  | _ => .w32

/-- The widths of the system registers (R317). -/
def SReg.opW : SReg → OpW
  | .cyc => .w64 | .tagrdy => .w64 | .taddr => .w64 | .tinfo => .w64 | .savebase => .w64 | .ctxtab => .w64
  | .trcctl => .w64 | .trcwp => .w64 | .wpa _ => .w64 | .acfg _ => .w64 | .acnt _ => .w64
  | .gstate => .w32 | .ctxid => .w32 | .fpctl => .w32 | .fpstat => .w32 | .lndepth => .w32 | .barmode => .w32
  | .csp => .w32 | .amx _ => .w32 | .tcause => .w32 | .trpc => .w32 | .tlanes => .w32 | .dgqh => .w32
  | .hmark => .w32 | .keysel => .w32 | .dbgright => .w32 | .racechk => .w32 | .wpc _ => .w32 | .accown _ => .w32

/-- The orders of a load (R59). -/
def AccOrd.okLoad : AccOrd → Bool
  | .plain => true
  | .marked o _ => match o with | .rlx => true | .acq => true | .sc => true | .rel => false | .ar => false

/-- The orders of a store and of CMPST (R59). -/
def AccOrd.okStore : AccOrd → Bool
  | .plain => true
  | .marked o _ => match o with | .rlx => true | .rel => true | .sc => true | .acq => false | .ar => false

/-- The orders of RED (R59). -/
def MOrder.okRed : MOrder → Bool
  | .rlx => true | .rel => true | .acq => false | .ar => false | .sc => false

/-- `none` where the condition holds, the failing check otherwise. -/
def need (c : Bool) (e : DecodeError) : Option DecodeError := if c then none else some e

/-- The first failing check of a list. -/
def firstError : List (Option DecodeError) → Option DecodeError
  | [] => none
  | some e :: _ => some e
  | none :: r => firstError r

/-- A v register at a width: a pair is even, a group is a multiple of 4 (R303). -/
def vOkAt (n : BitVec 8) : OpW → Option DecodeError
  | .w32 => none
  | .w64 => need (n.toNat % 2 == 0) .register
  | .w128 => need (n.toNat % 4 == 0) .register

/-- An s register at a width: a pair is even, and no s register names a group (R303, R326). -/
def sOkAt (n : BitVec 6) : OpW → Option DecodeError
  | .w32 => none
  | .w64 => need (n.toNat % 2 == 0) .register
  | .w128 => some .selector

/-- An operand that is no register at a width: a group names a v register (R303, R366). -/
def otherOkAt : OpW → Option DecodeError
  | .w128 => some .selector
  | _ => none

def Src.okAt (w : OpW) : Src → Option DecodeError
  | .v n _ _ => vOkAt n w
  | .s n _ => sOkAt n w
  | .latch _ _ => otherOkAt w
  | .zero => otherOkAt w
  | .spec _ => otherOkAt w
  | .imm _ => otherOkAt w

/-- The permute, mark and unused value of a source stand in its type; a base register is read at its width. -/
def Base.okAt (w : OpW) : Base → Option DecodeError
  | .v n _ => vOkAt n w
  | .s n _ => sOkAt n w
  | .zero => none

def Data.okAt (w : OpW) : Data → Option DecodeError
  | .v n _ => vOkAt n w
  | .s n _ => sOkAt n w
  | .latch _ => otherOkAt w
  | .zero => otherOkAt w
  | .spec _ => otherOkAt w
  | .imm _ => otherOkAt w

/-- A destination at its width. An s register is allowed to every instruction whose description does not forbid it: the checks
below name those that take none (R301; log entry 15). -/
def Dst.okAt (w : OpW) : Dst → Option DecodeError
  | .v n => vOkAt n w
  | .s n => sOkAt n w
  | .discard => none
  | .zero => none

/-- Loads, atomics and LNCH take no s destination (R366, R372, R416). -/
def Dst.notS : Dst → Option DecodeError
  | .s _ => some .selector
  | _ => none

/-- HUDL writes an s register, or discards with WBS = 1 (R409). -/
def Dst.hudlOk : Dst → Option DecodeError
  | .s _ => none
  | .discard => none
  | .v _ => some .selector
  | .zero => some .selector

/-- The base of BARN is a register (R408). -/
def Src.isReg : Src → Option DecodeError
  | .v _ _ _ => none
  | .s _ _ => none
  | _ => some .selector

/-- The source that holds rnd, or the unused value (R338). -/
def Rnd.src : Rnd → Src
  | .dir _ => .zero
  | .rs c => c

/-- The threshold of VOTE, or the unused value (R358). -/
def VoteTest.src : VoteTest → Src
  | .ge b => b
  | .lt b => b
  | .agree => .zero
  | .most => .zero

/-- An instruction that takes no guard (R364, R401). -/
def Head.unguarded (h : Head) : Option DecodeError := need (decide (h.guard = .always)) .modifier

/-- The failing operand check of an instruction, if any (R299 to R310). -/
def Instr.check (i : Instr) : Option DecodeError :=
  match i with
  | .iadd _ d a b t _ => firstError [d.okAt t.opW, a.okAt t.opW, b.okAt t.opW]
  | .isub _ d a b t _ => firstError [d.okAt t.opW, a.okAt t.opW, b.okAt t.opW]
  | .imul _ d a b t _ => firstError [d.okAt t.opW, a.okAt t.opW, b.okAt t.opW]
  | .imulh _ d a b t => firstError [d.okAt t.opW, a.okAt t.opW, b.okAt t.opW]
  | .imad _ d a b c t _ => firstError [d.okAt t.opW, a.okAt t.opW, b.okAt t.opW, c.okAt t.opW]
  | .imadw _ d a b c _ _ => firstError [d.okAt .w64, a.okAt .w32, b.okAt .w32, c.okAt .w64]
  | .imin _ d a b t => firstError [d.okAt t.opW, a.okAt t.opW, b.okAt t.opW]
  | .imax _ d a b t => firstError [d.okAt t.opW, a.okAt t.opW, b.okAt t.opW]
  | .iabs _ d a w _ => firstError [d.okAt w.opW, a.okAt w.opW]
  | .ineg _ d a t _ => firstError [d.okAt t.opW, a.okAt t.opW]
  | .isad _ d a b c t _ => firstError [d.okAt t.opW, a.okAt t.opW, b.okAt t.opW, c.okAt t.opW]
  | .and _ d a b w => firstError [d.okAt w.opW, a.okAt w.opW, b.okAt w.opW]
  | .or _ d a b w => firstError [d.okAt w.opW, a.okAt w.opW, b.okAt w.opW]
  | .xor _ d a b w => firstError [d.okAt w.opW, a.okAt w.opW, b.okAt w.opW]
  | .not _ d a w => firstError [d.okAt w.opW, a.okAt w.opW]
  | .andn _ d a b w => firstError [d.okAt w.opW, a.okAt w.opW, b.okAt w.opW]
  | .shl _ d a b t => firstError [d.okAt t.opW, a.okAt t.opW, b.okAt .w32]
  | .shr _ d a b t => firstError [d.okAt t.opW, a.okAt t.opW, b.okAt .w32]
  | .sar _ d a b t => firstError [d.okAt t.opW, a.okAt t.opW, b.okAt .w32]
  | .rotl _ d a b t => firstError [d.okAt t.opW, a.okAt t.opW, b.okAt .w32]
  | .bfx _ d a b t => firstError [d.okAt t.opW, a.okAt t.opW, b.okAt .w32]
  | .bfi _ d a b c t => firstError [d.okAt t.opW, a.okAt t.opW, b.okAt .w32, c.okAt t.opW]
  | .brev _ d a w => firstError [d.okAt w.opW, a.okAt w.opW]
  | .popc _ d a w => firstError [d.okAt .w32, a.okAt w.opW]
  | .clz _ d a w => firstError [d.okAt .w32, a.okAt w.opW]
  | .ctz _ d a w => firstError [d.okAt .w32, a.okAt w.opW]
  | .lea _ d a b c t _ => firstError [d.okAt .w64, a.okAt .w64, b.okAt t.opW, c.okAt .w32]
  | .mov _ d a w => firstError [d.okAt w.opW, a.okAt w.opW]
  | .sel _ d a b w _ => firstError [d.okAt w.opW, a.okAt w.opW, b.okAt w.opW]
  | .icmp _ d a b t _ => firstError [d.okAt .w32, a.okAt t.opW, b.okAt t.opW]
  | .iaddI _ d a _ t _ => firstError [d.okAt t.opW, a.okAt t.opW]
  | .isubI _ d a _ t _ => firstError [d.okAt t.opW, a.okAt t.opW]
  | .imulI _ d a _ t _ => firstError [d.okAt t.opW, a.okAt t.opW]
  | .iminI _ d a _ t => firstError [d.okAt t.opW, a.okAt t.opW]
  | .imaxI _ d a _ t => firstError [d.okAt t.opW, a.okAt t.opW]
  | .andI _ d a _ w => firstError [d.okAt w.opW, a.okAt w.opW]
  | .orI _ d a _ w => firstError [d.okAt w.opW, a.okAt w.opW]
  | .xorI _ d a _ w => firstError [d.okAt w.opW, a.okAt w.opW]
  | .andnI _ d a _ w => firstError [d.okAt w.opW, a.okAt w.opW]
  | .shlI _ d a _ t => firstError [d.okAt t.opW, a.okAt t.opW]
  | .shrI _ d a _ t => firstError [d.okAt t.opW, a.okAt t.opW]
  | .sarI _ d a _ t => firstError [d.okAt t.opW, a.okAt t.opW]
  | .rotlI _ d a _ t => firstError [d.okAt t.opW, a.okAt t.opW]
  | .leaI _ d a _ _ _ => firstError [d.okAt .w64, a.okAt .w64]
  | .icmpI _ d a _ t _ => firstError [d.okAt .w32, a.okAt t.opW]
  | .movi _ d _ t => firstError [d.okAt t.opW]
  | .fadd _ d a b r => firstError [d.okAt .w32, a.okAt .w32, b.okAt .w32, r.src.okAt .w32]
  | .fsub _ d a b r => firstError [d.okAt .w32, a.okAt .w32, b.okAt .w32, r.src.okAt .w32]
  | .fmul _ d a b r => firstError [d.okAt .w32, a.okAt .w32, b.okAt .w32, r.src.okAt .w32]
  | .ffma _ d a b c _ => firstError [d.okAt .w32, a.okAt .w32, b.okAt .w32, c.okAt .w32]
  | .fmin _ d a b _ => firstError [d.okAt .w32, a.okAt .w32, b.okAt .w32]
  | .fmax _ d a b _ => firstError [d.okAt .w32, a.okAt .w32, b.okAt .w32]
  | .fcmp _ d a b _ => firstError [d.okAt .w32, a.okAt .w32, b.okAt .w32]
  | .fclass _ d a t => firstError [d.okAt .w32, a.okAt (if t = .f64 then .w64 else .w32)]
  | .frnd _ d a _ => firstError [d.okAt .w32, a.okAt .w32]
  | .frcp _ d a _ => firstError [d.okAt .w32, a.okAt .w32]
  | .frsq _ d a _ => firstError [d.okAt .w32, a.okAt .w32]
  | .fsqrt _ d a _ => firstError [d.okAt .w32, a.okAt .w32]
  | .fex2 _ d a => firstError [d.okAt .w32, a.okAt .w32]
  | .flg2 _ d a => firstError [d.okAt .w32, a.okAt .w32]
  | .fsin _ d a => firstError [d.okAt .w32, a.okAt .w32]
  | .fcos _ d a => firstError [d.okAt .w32, a.okAt .w32]
  | .ftanh _ d a => firstError [d.okAt .w32, a.okAt .w32]
  | .fsig _ d a => firstError [d.okAt .w32, a.okAt .w32]
  | .hadd2 _ d a b _ r => firstError [d.okAt .w32, a.okAt .w32, b.okAt .w32, r.src.okAt .w32]
  | .hmul2 _ d a b _ r => firstError [d.okAt .w32, a.okAt .w32, b.okAt .w32, r.src.okAt .w32]
  | .hfma2 _ d a b c _ _ => firstError [d.okAt .w32, a.okAt .w32, b.okAt .w32, c.okAt .w32]
  | .hmax2 _ d a b _ _ => firstError [d.okAt .w32, a.okAt .w32, b.okAt .w32]
  | .hmin2 _ d a b _ _ => firstError [d.okAt .w32, a.okAt .w32, b.okAt .w32]
  | .dadd _ d a b _ => firstError [d.okAt .w64, a.okAt .w64, b.okAt .w64]
  | .dmul _ d a b _ => firstError [d.okAt .w64, a.okAt .w64, b.okAt .w64]
  | .dfma _ d a b c _ => firstError [d.okAt .w64, a.okAt .w64, b.okAt .w64, c.okAt .w64]
  | .dcmp _ d a b _ => firstError [d.okAt .w32, a.okAt .w64, b.okAt .w64]
  | .dmin _ d a b _ => firstError [d.okAt .w64, a.okAt .w64, b.okAt .w64]
  | .dmax _ d a b _ => firstError [d.okAt .w64, a.okAt .w64, b.okAt .w64]
  | .faddI _ d a _ _ => firstError [d.okAt .w32, a.okAt .w32]
  | .fsubI _ d a _ _ => firstError [d.okAt .w32, a.okAt .w32]
  | .fmulI _ d a _ _ => firstError [d.okAt .w32, a.okAt .w32]
  | .fminI _ d a _ _ => firstError [d.okAt .w32, a.okAt .w32]
  | .fmaxI _ d a _ _ => firstError [d.okAt .w32, a.okAt .w32]
  | .fcmpI _ d a _ _ => firstError [d.okAt .w32, a.okAt .w32]
  | .cvtf _ d a code r => firstError [need (!code.exact || decide (r = .dir .rn)) .modifier, d.okAt code.dstW, a.okAt code.srcW, r.src.okAt .w32]
  | .cvti _ d a code r => firstError [d.okAt code.dstW, a.okAt code.srcW, r.src.okAt .w32]
  | .cvtn _ d a code r => firstError [need (!code.exact || decide (r = .dir .rn)) .modifier, d.okAt code.dstW, a.okAt code.srcW, r.src.okAt .w32]
  | .qpk _ d a b c f _ => firstError [need f.isNarrow .modifier, d.okAt f.packW, a.okAt .w128, b.okAt .w128, c.okAt .w32]
  | .qupk _ d a c f _ _ => firstError [need f.isNarrow .modifier, d.okAt .w128, a.okAt f.packW, c.okAt .w32]
  | .bscl _ d a f => firstError [need f.isNarrow .modifier, d.okAt .w32, a.okAt .w32]
  | .amax _ a _ _ => firstError [a.okAt .w32]
  | .cbrg _ d a b out => firstError [d.okAt (if out = .all then .w128 else .w32), a.okAt .w64, b.okAt .w128]
  | .shfl _ d a b c _ _ => firstError [d.okAt .w32, a.okAt .w32, b.okAt .w32, c.okAt .w32]
  | .vote _ d test _ _ => firstError [d.okAt .w32, test.src.okAt .w32]
  | .ballot _ d _ _ => firstError [d.okAt .w32]
  | .redx _ d a op t => firstError [need (!op.isLogic || t.isInt) .modifier, d.okAt t.opW, a.okAt t.opW]
  | .scan _ d a b op t => firstError [need (!op.isIntOnly || t.isInt) .modifier, d.okAt t.opW, a.okAt t.opW, b.okAt t.opW]
  | .matchLanes _ d a w => firstError [d.okAt .w32, a.okAt w.opW]
  | .elect _ d _ _ => firstError [d.okAt .w32]
  | .psh _ a _ => firstError [a.okAt .w32]
  | .pdrop h _ => firstError [h.unguarded]
  | .pdup _ _ => none
  | .plog _ _ _ _ _ => none
  | .pmov _ (.read d) => d.okAt .w32
  | .pmov _ (.write a) => a.okAt .w32
  | .pswp h _ => firstError [h.unguarded]
  | .ld _ d b _ w o _ => firstError [need o.okLoad .modifier, d.notS, d.okAt w.opW, b.okAt .w64]
  | .st _ b _ x w o _ => firstError [need o.okStore .modifier, need w.isPlain .modifier, b.okAt .w64, x.okAt w.opW]
  | .lds _ d b _ w o => firstError [need o.okLoad .modifier, d.notS, d.okAt w.opW, b.okAt .w32]
  | .sts _ b _ x w o => firstError [need o.okStore .modifier, need w.isPlain .modifier, b.okAt .w32, x.okAt w.opW]
  | .pref _ b _ _ _ => firstError [b.okAt .w64]
  | .cctlCln _ b _ => firstError [b.okAt .w64]
  | .cctlInv _ b _ => firstError [b.okAt .w64]
  | .cctlPin _ d b _ => firstError [d.okAt .w32, b.okAt .w64]
  | .cctlUnpin _ b _ => firstError [b.okAt .w64]
  | .fence _ o _ => firstError [need (decide (o ≠ .rlx)) .modifier]
  | .cmpst _ d b _ x w o spad => firstError [need o.okStore .modifier, need w.isPlain .modifier, d.okAt .w64, b.okAt (if spad then .w32 else .w64), x.okAt w.opW]
  | .ipref _ _ _ => none
  | .atomAdd _ d b _ x w _ _ _ => firstError [need w.isAtomic .modifier, d.notS, d.okAt w.opW, b.okAt .w64, x.okAt w.opW]
  | .atomMin _ d b _ x w _ _ _ => firstError [need w.isAtomic .modifier, d.notS, d.okAt w.opW, b.okAt .w64, x.okAt w.opW]
  | .atomMax _ d b _ x w _ _ _ => firstError [need w.isAtomic .modifier, d.notS, d.okAt w.opW, b.okAt .w64, x.okAt w.opW]
  | .atomAnd _ d b _ x w _ _ _ => firstError [need w.isAtomic .modifier, d.notS, d.okAt w.opW, b.okAt .w64, x.okAt w.opW]
  | .atomOr _ d b _ x w _ _ _ => firstError [need w.isAtomic .modifier, d.notS, d.okAt w.opW, b.okAt .w64, x.okAt w.opW]
  | .atomXor _ d b _ x w _ _ _ => firstError [need w.isAtomic .modifier, d.notS, d.okAt w.opW, b.okAt .w64, x.okAt w.opW]
  | .atomExch _ d b _ x w _ _ _ => firstError [need w.isExch .modifier, d.notS, d.okAt w.opW, b.okAt .w64, x.okAt w.opW]
  | .atomCas _ d b _ x w _ _ _ => firstError [need w.isAtomic .modifier, d.notS, d.okAt w.opW, b.okAt .w64, x.okAt w.casW]
  | .atomAddcl _ d b _ x w _ _ _ => firstError [need w.isAtomic .modifier, d.notS, d.okAt w.opW, b.okAt .w64, x.okAt w.opW]
  | .atomSubcl _ d b _ x w _ _ _ => firstError [need w.isAtomic .modifier, d.notS, d.okAt w.opW, b.okAt .w64, x.okAt w.opW]
  | .atomFadd _ d b _ x w _ _ _ => firstError [need w.isAtomic .modifier, d.notS, d.okAt w.opW, b.okAt .w64, x.okAt w.opW]
  | .atomFmin _ d b _ x w _ _ _ => firstError [need w.isAtomic .modifier, d.notS, d.okAt w.opW, b.okAt .w64, x.okAt w.opW]
  | .atomFmax _ d b _ x w _ _ _ => firstError [need w.isAtomic .modifier, d.notS, d.okAt w.opW, b.okAt .w64, x.okAt w.opW]
  | .atomMinU _ d b _ x w _ _ _ => firstError [need w.isAtomic .modifier, d.notS, d.okAt w.opW, b.okAt .w64, x.okAt w.opW]
  | .atomMaxU _ d b _ x w _ _ _ => firstError [need w.isAtomic .modifier, d.notS, d.okAt w.opW, b.okAt .w64, x.okAt w.opW]
  | .atomsAdd _ d b _ x w _ _ => firstError [need w.isAtomic .modifier, d.notS, d.okAt w.opW, b.okAt .w32, x.okAt w.opW]
  | .atomsMin _ d b _ x w _ _ => firstError [need w.isAtomic .modifier, d.notS, d.okAt w.opW, b.okAt .w32, x.okAt w.opW]
  | .atomsMax _ d b _ x w _ _ => firstError [need w.isAtomic .modifier, d.notS, d.okAt w.opW, b.okAt .w32, x.okAt w.opW]
  | .atomsAnd _ d b _ x w _ _ => firstError [need w.isAtomic .modifier, d.notS, d.okAt w.opW, b.okAt .w32, x.okAt w.opW]
  | .atomsOr _ d b _ x w _ _ => firstError [need w.isAtomic .modifier, d.notS, d.okAt w.opW, b.okAt .w32, x.okAt w.opW]
  | .atomsXor _ d b _ x w _ _ => firstError [need w.isAtomic .modifier, d.notS, d.okAt w.opW, b.okAt .w32, x.okAt w.opW]
  | .atomsExch _ d b _ x w _ _ => firstError [need w.isExch .modifier, d.notS, d.okAt w.opW, b.okAt .w32, x.okAt w.opW]
  | .atomsCas _ d b _ x w _ _ => firstError [need w.isAtomic .modifier, d.notS, d.okAt w.opW, b.okAt .w32, x.okAt w.casW]
  | .atomsAddcl _ d b _ x w _ _ => firstError [need w.isAtomic .modifier, d.notS, d.okAt w.opW, b.okAt .w32, x.okAt w.opW]
  | .atomsSubcl _ d b _ x w _ _ => firstError [need w.isAtomic .modifier, d.notS, d.okAt w.opW, b.okAt .w32, x.okAt w.opW]
  | .atomsFadd _ d b _ x w _ _ => firstError [need w.isAtomic .modifier, d.notS, d.okAt w.opW, b.okAt .w32, x.okAt w.opW]
  | .atomsFmin _ d b _ x w _ _ => firstError [need w.isAtomic .modifier, d.notS, d.okAt w.opW, b.okAt .w32, x.okAt w.opW]
  | .atomsFmax _ d b _ x w _ _ => firstError [need w.isAtomic .modifier, d.notS, d.okAt w.opW, b.okAt .w32, x.okAt w.opW]
  | .atomsMinU _ d b _ x w _ _ => firstError [need w.isAtomic .modifier, d.notS, d.okAt w.opW, b.okAt .w32, x.okAt w.opW]
  | .atomsMaxU _ d b _ x w _ _ => firstError [need w.isAtomic .modifier, d.notS, d.okAt w.opW, b.okAt .w32, x.okAt w.opW]
  | .redAdd _ b _ x w o _ _ => firstError [need o.okRed .modifier, need w.isAtomic .modifier, b.okAt .w64, x.okAt w.opW]
  | .redMin _ b _ x w o _ _ => firstError [need o.okRed .modifier, need w.isAtomic .modifier, b.okAt .w64, x.okAt w.opW]
  | .redMax _ b _ x w o _ _ => firstError [need o.okRed .modifier, need w.isAtomic .modifier, b.okAt .w64, x.okAt w.opW]
  | .redAnd _ b _ x w o _ _ => firstError [need o.okRed .modifier, need w.isAtomic .modifier, b.okAt .w64, x.okAt w.opW]
  | .redOr _ b _ x w o _ _ => firstError [need o.okRed .modifier, need w.isAtomic .modifier, b.okAt .w64, x.okAt w.opW]
  | .redXor _ b _ x w o _ _ => firstError [need o.okRed .modifier, need w.isAtomic .modifier, b.okAt .w64, x.okAt w.opW]
  | .redAddcl _ b _ x w o _ _ => firstError [need o.okRed .modifier, need w.isAtomic .modifier, b.okAt .w64, x.okAt w.opW]
  | .redSubcl _ b _ x w o _ _ => firstError [need o.okRed .modifier, need w.isAtomic .modifier, b.okAt .w64, x.okAt w.opW]
  | .redFadd _ b _ x w o _ _ => firstError [need o.okRed .modifier, need w.isAtomic .modifier, b.okAt .w64, x.okAt w.opW]
  | .redFmin _ b _ x w o _ _ => firstError [need o.okRed .modifier, need w.isAtomic .modifier, b.okAt .w64, x.okAt w.opW]
  | .redFmax _ b _ x w o _ _ => firstError [need o.okRed .modifier, need w.isAtomic .modifier, b.okAt .w64, x.okAt w.opW]
  | .redMinU _ b _ x w o _ _ => firstError [need o.okRed .modifier, need w.isAtomic .modifier, b.okAt .w64, x.okAt w.opW]
  | .redMaxU _ b _ x w o _ _ => firstError [need o.okRed .modifier, need w.isAtomic .modifier, b.okAt .w64, x.okAt w.opW]
  | .cpy _ k _ _ => firstError [k.sa.okAt .w32]
  | .cpys _ k _ _ => firstError [k.sa.okAt .w32]
  | .cpyx _ k _ _ => firstError [k.sa.okAt .w32]
  | .strm _ k _ _ => firstError [k.sa.okAt .w32]
  | .scnt _ x _ => firstError [x.okAt .w32]
  | .wtag _ _ => none
  | .wany _ d a => firstError [d.okAt .w32, a.okAt .w64]
  | .tffr _ d a => firstError [d.okAt .w32, a.okAt .w64]
  | .tclr _ _ => none
  | .trdy _ d a => firstError [d.okAt .w64, a.okAt .w64]
  | .gresCmt _ _ => none
  | .gresDsc _ _ => none
  | .rsv _ d a b => firstError [d.okAt .w32, a.okAt .w32, b.okAt .w32]
  | .rls _ a => firstError [a.okAt .w32]
  | .rrec _ d a => firstError [d.okAt .w64, a.okAt .w32]
  | .mma _ k _ _ => firstError [k.sa.okAt .w32]
  | .mmas _ k _ _ => firstError [k.sa.okAt .w32]
  | .aclr _ _ => none
  | .ald _ k _ _ => firstError [k.sa.okAt .w32]
  | .ast _ k _ _ => firstError [k.sa.okAt .w32]
  | .mdrn _ k _ => firstError [k.sa.okAt .w32]
  | .acmt _ _ => none
  | .adsc _ _ => none
  | .npost _ k => firstError [k.sa.okAt .w32]
  | .nwait _ d a b => firstError [d.okAt .w64, a.okAt .w64, b.okAt .w64]
  | .ncanc _ d a => firstError [d.okAt .w32, a.okAt .w32]
  | .bra _ _ _ => none
  | .brx _ a _ => firstError [a.okAt .w32]
  | .call _ _ => none
  | .callx _ a => firstError [a.okAt .w32]
  | .ret _ => none
  | .meet _ _ => none
  | .exit _ => none
  | .bar h _ => firstError [h.unguarded]
  | .barn h a x => firstError [h.unguarded, a.isReg, a.okAt .w32, x.okAt .w32]
  | .tbar h _ => firstError [h.unguarded]
  | .hudl h d k _ => firstError [h.unguarded, d.hudlOk, k.okAt .w32]
  | .hudlHome h => firstError [h.unguarded]
  | .yieldRun h => firstError [h.unguarded]
  | .sleep h a => firstError [h.unguarded, a.okAt .w32]
  | .nop _ => none
  | .trapSelf _ b => firstError [b.okAt .w32]
  | .trapOne _ a b => firstError [a.okAt .w32, b.okAt .w32]
  | .trapWgrp _ b => firstError [b.okAt .w32]
  | .trapTgrp _ b => firstError [b.okAt .w32]
  | .svc _ a => firstError [a.okAt .w32]
  | .svcq _ => none
  | .sigret _ => none
  | .lnch _ d k => firstError [d.notS, d.okAt .w32, k.sa.okAt .w32]
  | .lwait h => firstError [h.unguarded]
  | .gctr _ d a => firstError [d.okAt .w64, a.okAt .w32]
  | .cncl _ a => firstError [a.okAt .w32]
  | .rge _ _ => none
  | .rgl _ => none
  | .bkpt _ => none
  | .snap h => firstError [h.unguarded]
  | .trmk _ a => firstError [a.okAt .w64]
  | .mfsr _ d r => firstError [d.okAt r.opW]
  | .mtsr _ a r => firstError [need (decide (r ≠ .racechk)) .sreg, a.okAt r.opW]
  | .racechkClr _ a => firstError [a.okAt .w32]
  | .eret _ d a => firstError [d.okAt .w32, a.okAt .w32]
  | .rply _ a => firstError [a.okAt .w32]
  | .rplySig _ a => firstError [a.okAt .w32]
  | .rplyDet _ a b => firstError [a.okAt .w32, b.okAt .w32]
  | .park _ a => firstError [a.okAt .w32]
  | .kill _ a b => firstError [a.okAt .w32, b.okAt .w32]
  | .tlbiCtx _ a => firstError [a.okAt .w32]
  | .tlbiRng _ a b c => firstError [a.okAt .w32, b.okAt .w64, c.okAt .w32]
  | .tlbiAll _ => none
  | .poolrdMap _ d a => firstError [d.okAt .w32, a.okAt .w32]
  | .poolrdDat _ d a b => firstError [d.okAt .w32, a.okAt .w32, b.okAt .w32]
  | .poolwrMap _ a b => firstError [a.okAt .w32, b.okAt .w32]
  | .poolwrDat _ a b c => firstError [a.okAt .w32, b.okAt .w32, c.okAt .w32]
  | .cpyp _ k _ => firstError [k.sa.okAt .w32]
  | .svresp _ a b c => firstError [a.okAt .w64, b.okAt .w128, c.okAt .w32]
  | .erst _ a => firstError [a.okAt .w32]
  | .erstMtx _ a => firstError [a.okAt .w32]
  | .erstNet _ a => firstError [a.okAt .w32]
  | .erstFail _ a b => firstError [a.okAt .w32, b.okAt .w32]
  | .erstFailMtx _ a b => firstError [a.okAt .w32, b.okAt .w32]
  | .erstFailNet _ a b => firstError [a.okAt .w32, b.okAt .w32]
  | .keyld _ a => firstError [a.okAt .w128]
  | .keyldClr _ => none
  | .hmchk _ d a => firstError [d.okAt .w32, a.okAt .w32]
  | .runSelect .. => none
  | .fetchReturn .. => none
  | .loadReturn .. => none
  | .storeAck .. => none
  | .remoteStoreLost .. => none
  | .walkStart .. => none
  | .walkComplete .. => none
  | .copyStart .. => none
  | .copySectorDone .. => none
  | .mmaStart .. => none
  | .mmaStep .. => none
  | .drainSectorDone .. => none
  | .huddleMove .. => none
  | .sleepExpiry .. => none
  | .nwaitPoll .. => none
  | .saveForce .. => none
  | .debugStopForce .. => none
  | .asyncSignalForce .. => none
  | .placeTeam .. => none
  | .streamAgeing .. => none
  | .counterSweep .. => none
  | .stallSample .. => none
  | .errorDiscovery .. => none
  | .hbmScrub .. => none
  | .coreFence .. => none
  | .snapshotCommit .. => none
  | .rollback .. => none
  | .launchCommit .. => none
  | .renew .. => none
  | .leaseExpiry .. => none
  | .clearFails .. => none
  | .flashErase .. => none
  | .flashProgram .. => none
  | .flashEraseDone .. => none
  | .flashProgramDone .. => none
  | .registerWrite .. => none
  | .hostMemoryAccess .. => none
  | .hostSnoop .. => none
  | .deviceReset .. => none
  | .bootstOk .. => none
  | .firmwareTimeout .. => none
  | .serviceReply .. => none
  | .teamSave .. => none
  | .teamSaveSpill .. => none
  | .teamRestore .. => none
  | .teamKill .. => none
  | .debugStopRequest .. => none
  | .debugResumeRequest .. => none
  | .revokeNotice .. => none
  | .kernelReplayRequest .. => none
  | .replayPassEnd .. => none
  | .contextTlbiRequest .. => none
  | .qpOpen .. => none
  | .qpClose .. => none
  | .setReceiveRing .. => none
  | .setMemoryKey .. => none
  | .clearMemoryKey .. => none
  | .attestationRequest .. => none
  | .pageReply .. => none
  | .uatinRequest .. => none
  | .uatinTimeout .. => none
  | .flitReplay .. => none
  | .portStateChange .. => none
  | .netTakeRequest .. => none
  | .netPacketReceive .. => none
  | .netAckReceive .. => none
  | .netRetransmitTimeout .. => none
  | .throttleStepDown .. => none
  | .throttleT3 .. => none
  | .throttleT4 .. => none
  | .throttleLeaveT4 .. => none
  | .throttleStepUp .. => none
  | .tempRefresh .. => none
  | .hostPortDown .. => none
  | .outboundHeadAdvance .. => none
  | .unitResetDone .. => none
  | .hostServiceRestart .. => none
  | .pageZeroingDone .. => none
  | .preImageCopied .. => none
  | .netRefusalReceive .. => none

/-- An instruction is well formed when no operand check fails. -/
def Instr.wf (i : Instr) : Bool := i.check.isNone

end Sys2Proof
end

