-- ==== Sys2Proof/Decode.lean ====
section
/-!
DEFINITION. The encoding of the V9's instructions (spec/12, R294 to R316, and the encoding tables of spec/13 to
spec/15): the decoder, total on any bytes, which names the failing check of R310; and after it the encoder, written
from the same tables. A word is read in three stages: its bits, its operands (`Form`), its instruction.
-/

namespace Sys2Proof

/-! ## Bits of the operands -/

/-- The selector of a special (R301). -/
def Special.code : Special → BitVec 10
  | .lane => 0x181 | .tid => 0x182 | .wslot => 0x183 | .wgid => 0x184 | .trank => 0x185
  | .core => 0x186 | .court => 0x187 | .devno => 0x188 | .amask => 0x189 | .cyclo => 0x18A | .cychi => 0x18B

/-- The special that a selector names (R301). -/
def Special.ofCode (c : BitVec 10) : Option Special :=
  match c.toNat with
  | 0x181 => some .lane | 0x182 => some .tid | 0x183 => some .wslot | 0x184 => some .wgid
  | 0x185 => some .trank | 0x186 => some .core | 0x187 => some .court | 0x188 => some .devno
  | 0x189 => some .amask | 0x18A => some .cyclo | 0x18B => some .cychi
  | _ => none

/-- The mode and parameter of a permute (R131, R304). -/
def Perm.code : Perm → BitVec 8
  | .none => 0
  | .bc k => 1#3 ++ k
  | .rot k => 2#3 ++ k
  | .bfly k => 3#3 ++ k
  | .mir k => 4#3 ++ BitVec.ofNat 5 k.val
  | .qb k => 5#3 ++ (0#3 ++ k)

/-- The permute that a mode and parameter name (R131). -/
def Perm.ofCode (c : BitVec 8) : Option Perm :=
  let k : BitVec 5 := c.extractLsb' 0 5
  match (c.extractLsb' 5 3).toNat with
  | 0 => if k = 0 then some .none else Option.none
  | 1 => some (.bc k)
  | 2 => some (.rot k)
  | 3 => some (.bfly k)
  | 4 => if h : k.toNat < 6 then some (.mir ⟨k.toNat, h⟩) else Option.none
  | 5 => if k.toNat < 4 then some (.qb (k.extractLsb' 0 2)) else Option.none
  | _ => Option.none

/-- What a 10-bit selector names (R301), before the position decides whether it is allowed there. -/
inductive Sel where
  | v (n : BitVec 8)
  | s (n : BitVec 6)
  | latch (n : BitVec 2)
  | zero
  | spec (x : Special)
  | imm (i : BitVec 9)
  deriving DecidableEq, Repr

/-- The selector's bits (R301). -/
def Sel.code : Sel → BitVec 10
  | .v n => 0#2 ++ n
  | .s n => 4#4 ++ n
  | .latch n => 0x50#8 ++ n
  | .zero => 0x180
  | .spec x => x.code
  | .imm i => 1#1 ++ i

/-- The selector that bits name; none for a reserved one (R301). -/
def Sel.ofCode (c : BitVec 10) : Option Sel :=
  if c.getLsbD 9 then some (.imm (c.extractLsb' 0 9))
  else if c.extractLsb' 8 2 = 0#2 then some (.v (c.extractLsb' 0 8))
  else if c.extractLsb' 6 4 = 4#4 then some (.s (c.extractLsb' 0 6))
  else if c.extractLsb' 2 8 = 0x50#8 then some (.latch (c.extractLsb' 0 2))
  else if c = 0x180 then some .zero
  else (Special.ofCode c).map .spec

/-- Which selector a source names. -/
def Src.sel : Src → Sel
  | .v n _ _ => .v n
  | .s n _ => .s n
  | .latch n _ => .latch n
  | .zero => .zero
  | .spec x => .spec x
  | .imm i => .imm i

/-- The permute of a source (R131). -/
def Src.perm : Src → Perm
  | .v _ p _ => p
  | .latch _ p => p
  | _ => .none

/-- The last-read mark of a source (R299). -/
def Src.last : Src → Bool
  | .v _ _ l => l
  | .s _ l => l
  | _ => false

/-- The 18-bit field of a source (R304). -/
def Src.code (a : Src) : BitVec 18 := a.sel.code ++ a.perm.code

/-- The source that an 18-bit field and its last-read mark name (R299, R301, R304). -/
def Src.ofCode (c : BitVec 18) (last : Bool) : Except DecodeError Src :=
  match Sel.ofCode (c.extractLsb' 8 10), Perm.ofCode (c.extractLsb' 0 8) with
  | none, _ => .error .selector
  | some _, none => .error .permute
  | some (.v n), some p => .ok (.v n p last)
  | some (.latch n), some p => if last then .error .reserved else .ok (.latch n p)
  | some sel, some p =>
    if p ≠ .none then .error .permute
    else
      match sel with
      | .s n => .ok (.s n last)
      | .zero => if last then .error .reserved else .ok .zero
      | .spec x => if last then .error .reserved else .ok (.spec x)
      | .imm i => if last then .error .reserved else .ok (.imm i)
      | .v n => .ok (.v n .none last)
      | .latch n => if last then .error .reserved else .ok (.latch n .none)

/-- The selector of a base (R306). -/
def Base.code : Base → BitVec 10
  | .v n _ => (Sel.v n).code
  | .s n _ => (Sel.s n).code
  | .zero => Sel.zero.code

/-- The last-read mark of a base: LRA (R299). -/
def Base.last : Base → Bool
  | .v _ l => l
  | .s _ l => l
  | .zero => false

/-- The base that a selector names (R306). -/
def Base.ofCode (c : BitVec 10) (last : Bool) : Except DecodeError Base :=
  match Sel.ofCode c with
  | some (.v n) => .ok (.v n last)
  | some (.s n) => .ok (.s n last)
  | some .zero => if last then .error .reserved else .ok .zero
  | _ => .error .selector

/-- The selector of a data operand (R366). -/
def Data.code : Data → BitVec 10
  | .v n _ => (Sel.v n).code
  | .s n _ => (Sel.s n).code
  | .latch n => (Sel.latch n).code
  | .zero => Sel.zero.code
  | .spec x => (Sel.spec x).code
  | .imm i => (Sel.imm i).code

/-- The last-read mark of a data operand: LRB (R299). -/
def Data.last : Data → Bool
  | .v _ l => l
  | .s _ l => l
  | _ => false

/-- The data operand that a selector names (R301, R366). -/
def Data.ofCode (c : BitVec 10) (last : Bool) : Except DecodeError Data :=
  match Sel.ofCode c with
  | none => .error .selector
  | some (.v n) => .ok (.v n last)
  | some (.s n) => .ok (.s n last)
  | some (.latch n) => if last then .error .reserved else .ok (.latch n)
  | some .zero => if last then .error .reserved else .ok .zero
  | some (.spec x) => if last then .error .reserved else .ok (.spec x)
  | some (.imm i) => if last then .error .reserved else .ok (.imm i)

/-- The selector of a destination (R300, R301). -/
def Dst.code : Dst → BitVec 10
  | .v n => (Sel.v n).code
  | .s n => (Sel.s n).code
  | .discard => Sel.zero.code
  | .zero => Sel.zero.code

/-- The write-back suppress bit of a destination (R300). -/
def Dst.wbs : Dst → Bool
  | .discard => true
  | _ => false

/-- The destination that a selector and WBS name (R300, R301). -/
def Dst.ofCode (c : BitVec 10) (wbs : Bool) : Except DecodeError Dst :=
  match Sel.ofCode c with
  | some (.v n) => if wbs then .error .reserved else .ok (.v n)
  | some (.s n) => if wbs then .error .reserved else .ok (.s n)
  | some .zero => .ok (if wbs then .discard else .zero)
  | _ => if wbs then .error .reserved else .error .selector

/-- GN and GD of a guard (R297). -/
def Guard.code : Guard → BitVec 4
  | .always => 7
  | .p neg d => bit neg ++ BitVec.ofNat 3 d.val

/-- The guard that GN and GD name; GN = 1 with GD = 7 is illegal (R297). -/
def Guard.ofCode (c : BitVec 4) : Option Guard :=
  let d : BitVec 3 := c.extractLsb' 0 3
  if h : d.toNat < 7 then some (.p (c.getLsbD 3) ⟨d.toNat, h⟩)
  else if c.getLsbD 3 then none else some .always

/-! ## Codes of the modifiers -/

/-- The type field of an integer type (R308). -/
def ITy.code : ITy → BitVec 4
  | .n32 => 0 | .i32 => 1 | .n64 => 2 | .i64 => 3

def ITy.ofCode (c : BitVec 4) : Option ITy :=
  match c.toNat with
  | 0 => some .n32 | 1 => some .i32 | 2 => some .n64 | 3 => some .i64 | _ => none

/-- The type field of an untyped width (R331). -/
def Wd.code : Wd → BitVec 4
  | .w32 => 0 | .w64 => 2

def Wd.ofCode (c : BitVec 4) : Option Wd :=
  match c.toNat with
  | 0 => some .w32 | 2 => some .w64 | _ => none

/-- The type field of IABS, which is signed (R329). -/
def Wd.codeSigned : Wd → BitVec 4
  | .w32 => 1 | .w64 => 3

def Wd.ofCodeSigned (c : BitVec 4) : Option Wd :=
  match c.toNat with
  | 1 => some .w32 | 3 => some .w64 | _ => none

/-- The condition of ICMP (R337). -/
def ICond.code : ICond → BitVec 3
  | .eq => 0 | .ne => 1 | .lt => 2 | .le => 3 | .gt => 4 | .ge => 5

def ICond.ofCode (c : BitVec 3) : Option ICond :=
  match c.toNat with
  | 0 => some .eq | 1 => some .ne | 2 => some .lt | 3 => some .le | 4 => some .gt | 5 => some .ge | _ => none

/-- The condition of FCMP and DCMP (R340). -/
def FCond.code : FCond → BitVec 3
  | .eq => 0 | .ne => 1 | .lt => 2 | .le => 3 | .gt => 4 | .ge => 5 | .un => 6 | .ord => 7

def FCond.ofCode (c : BitVec 3) : FCond :=
  match c.toNat with
  | 0 => .eq | 1 => .ne | 2 => .lt | 3 => .le | 4 => .gt | 5 => .ge | 6 => .un | _ => .ord

/-- The code of a directed rounding mode (R144). -/
def DirMode.code : DirMode → BitVec 3
  | .rn => 0 | .rz => 1 | .rp => 2 | .rm => 3

def DirMode.ofCode (c : BitVec 3) : Option DirMode :=
  match c.toNat with
  | 0 => some .rn | 1 => some .rz | 2 => some .rp | 3 => some .rm | _ => none

/-- The rounding code of a field that admits `.rs` (R144). -/
def Rnd.code : Rnd → BitVec 3
  | .dir m => m.code
  | .rs _ => 4

def Rnd.ofCode (c : BitVec 3) (x : Src) : Option Rnd :=
  if c = 4 then some (.rs x) else (DirMode.ofCode c).map .dir

/-- The source format of FCLASS (R341). -/
def FTy.code : FTy → BitVec 4
  | .f32 => 8 | .f64 => 9 | .f16 => 10 | .bf16 => 11

def FTy.ofCode (c : BitVec 4) : Option FTy :=
  match c.toNat with
  | 8 => some .f32 | 9 => some .f64 | 10 => some .f16 | 11 => some .bf16 | _ => none

/-- The format of the paired-half instructions (R344). -/
def HTy.code : HTy → BitVec 4
  | .f16 => 10 | .bf16 => 11

def HTy.ofCode (c : BitVec 4) : Option HTy :=
  match c.toNat with
  | 10 => some .f16 | 11 => some .bf16 | _ => none

/-- The conversion codes of CVTF (R347). -/
def CvtF.code : CvtF → BitVec 4
  | .f32f64 => 0 | .f64f32 => 1 | .f16f32 => 2 | .f32f16 => 3 | .bf16f32 => 4 | .f32bf16 => 5
  | .e4m3f32 => 6 | .e4m3f32nosat => 7 | .f32e4m3 => 8 | .e5m2f32 => 9 | .f32e5m2 => 10
  | .e2m1f32 => 11 | .f32e2m1 => 12

def CvtF.ofCode (c : BitVec 4) : Option CvtF :=
  match c.toNat with
  | 0 => some .f32f64 | 1 => some .f64f32 | 2 => some .f16f32 | 3 => some .f32f16 | 4 => some .bf16f32
  | 5 => some .f32bf16 | 6 => some .e4m3f32 | 7 => some .e4m3f32nosat | 8 => some .f32e4m3
  | 9 => some .e5m2f32 | 10 => some .f32e5m2 | 11 => some .e2m1f32 | 12 => some .f32e2m1 | _ => none

/-- The conversion codes of CVTI (R348). -/
def CvtI.code : CvtI → BitVec 4
  | .i32f32 => 0 | .n32f32 => 1 | .i64f32 => 2 | .n64f32 => 3 | .i32f64 => 4 | .n32f64 => 5 | .i64f64 => 6
  | .n64f64 => 7 | .i8f32 => 8 | .n8f32 => 9 | .i16f32 => 10 | .n16f32 => 11 | .i32f16 => 12 | .i32bf16 => 13

def CvtI.ofCode (c : BitVec 4) : Option CvtI :=
  match c.toNat with
  | 0 => some .i32f32 | 1 => some .n32f32 | 2 => some .i64f32 | 3 => some .n64f32 | 4 => some .i32f64
  | 5 => some .n32f64 | 6 => some .i64f64 | 7 => some .n64f64 | 8 => some .i8f32 | 9 => some .n8f32
  | 10 => some .i16f32 | 11 => some .n16f32 | 12 => some .i32f16 | 13 => some .i32bf16 | _ => none

/-- The conversion codes of CVTN (R349). -/
def CvtN.code : CvtN → BitVec 4
  | .f32i32 => 0 | .f32n32 => 1 | .f32i64 => 2 | .f32n64 => 3 | .f64i32 => 4 | .f64n32 => 5 | .f64i64 => 6
  | .f64n64 => 7 | .f16i32 => 8 | .bf16i32 => 9 | .e4m3i32 => 10 | .e4m3i32nosat => 11

def CvtN.ofCode (c : BitVec 4) : Option CvtN :=
  match c.toNat with
  | 0 => some .f32i32 | 1 => some .f32n32 | 2 => some .f32i64 | 3 => some .f32n64 | 4 => some .f64i32
  | 5 => some .f64n32 | 6 => some .f64i64 | 7 => some .f64n64 | 8 => some .f16i32 | 9 => some .bf16i32
  | 10 => some .e4m3i32 | 11 => some .e4m3i32nosat | _ => none

/-- The FMT codes (R113). -/
def Fmt.code : Fmt → BitVec 4
  | .bf16 => 0 | .fp16 => 1 | .e4m3 => 2 | .e5m2 => 3 | .int8 => 4 | .q4x => 5 | .e2m1 => 6 | .i4 => 7

def Fmt.ofCode (c : BitVec 4) : Option Fmt :=
  match c.toNat with
  | 0 => some .bf16 | 1 => some .fp16 | 2 => some .e4m3 | 3 => some .e5m2 | 4 => some .int8
  | 5 => some .q4x | 6 => some .e2m1 | 7 => some .i4 | _ => none

/-- The block-size codes (R113, R351). -/
def Blk.code : Blk → BitVec 2
  | .b16 => 0 | .b32 => 1 | .b64 => 2

def Blk.ofCode (c : BitVec 2) : Option Blk :=
  match c.toNat with
  | 0 => some .b16 | 1 => some .b32 | 2 => some .b64 | _ => none

/-- The source codes of AMAX (R354). -/
def AmaxSrc.code : AmaxSrc → BitVec 3
  | .f32 => 0 | .bf16x2 => 1 | .f16x2 => 2

def AmaxSrc.ofCode (c : BitVec 3) : Option AmaxSrc :=
  match c.toNat with
  | 0 => some .f32 | 1 => some .bf16x2 | 2 => some .f16x2 | _ => none

/-- The result codes of CBRG (R355). -/
def CbrgOut.code : CbrgOut → BitVec 3
  | .all => 0
  | .word k => 1#1 ++ k

def CbrgOut.ofCode (c : BitVec 3) : Option CbrgOut :=
  if c = 0 then some .all else if c.getLsbD 2 then some (.word (c.extractLsb' 0 2)) else none

/-- The mode codes of SHFL (R357). -/
def ShflMode.code : ShflMode → BitVec 3
  | .from => 0 | .turn => 1 | .slide => 2 | .lead => 3

def ShflMode.ofCode (c : BitVec 3) : Option ShflMode :=
  match c.toNat with
  | 0 => some .from | 1 => some .turn | 2 => some .slide | 3 => some .lead | _ => none

/-- The test codes of VOTE (R358). -/
def VoteTest.code : VoteTest → BitVec 2
  | .ge _ => 0 | .lt _ => 1 | .agree => 2 | .most => 3

def VoteTest.ofCode (c : BitVec 2) (b : Src) : VoteTest :=
  match c.toNat with
  | 0 => .ge b | 1 => .lt b | 2 => .agree | _ => .most

/-- The type codes of REDX and SCAN (R359). -/
def RTy.code : RTy → BitVec 4
  | .int t => t.code
  | .f32 => 8

def RTy.ofCode (c : BitVec 4) : Option RTy :=
  if c = 8 then some .f32 else (ITy.ofCode c).map .int

/-- The operation codes of REDX (R359). -/
def ROp.code : ROp → BitVec 3
  | .add => 0 | .min => 1 | .max => 2 | .and => 3 | .or => 4 | .xor => 5

def ROp.ofCode (c : BitVec 3) : Option ROp :=
  match c.toNat with
  | 0 => some .add | 1 => some .min | 2 => some .max | 3 => some .and | 4 => some .or | 5 => some .xor
  | _ => none

/-- The operation codes of SCAN (R360). -/
def SOp.code : SOp → BitVec 3
  | .red o => o.code
  | .xadd => 6

def SOp.ofCode (c : BitVec 3) : Option SOp :=
  if c = 6 then some .xadd else (ROp.ofCode c).map .red

/-- The operation codes of PLOG (R363). -/
def PlogOp.code : PlogOp → BitVec 2
  | .and => 0 | .or => 1 | .xor => 2 | .andn => 3

def PlogOp.ofCode (c : BitVec 2) : PlogOp :=
  match c.toNat with
  | 0 => .and | 1 => .or | 2 => .xor | _ => .andn

/-- A depth from 0 to 6 in three bits; 7 is reserved (R336, R358, R362). -/
def depthCode (d : Fin 7) : BitVec 3 := BitVec.ofNat 3 d.val

def depthOf (c : BitVec 3) : Option (Fin 7) :=
  if h : c.toNat < 7 then some ⟨c.toNat, h⟩ else none

/-- A count from 1 to 7 that is encoded as it is (R364). -/
def count7Code (d : Fin 7) : BitVec 3 := BitVec.ofNat 3 (d.val + 1)

def count7Of (c : BitVec 3) : Option (Fin 7) :=
  if h : c.toNat - 1 < 7 then (if c = 0 then none else some ⟨c.toNat - 1, h⟩) else none

/-- A depth from 1 to 6 that is encoded as it is (R364). -/
def depth6Code (d : Fin 6) : BitVec 3 := BitVec.ofNat 3 (d.val + 1)

def depth6Of (c : BitVec 3) : Option (Fin 6) :=
  if h : c.toNat - 1 < 6 then (if c = 0 then none else some ⟨c.toNat - 1, h⟩) else none

/-- log2 of the group size of SHFL (R357). -/
def groupCode (g : Fin 6) : BitVec 3 := BitVec.ofNat 3 g.val

def groupOf (c : BitVec 3) : Option (Fin 6) :=
  if h : c.toNat < 6 then some ⟨c.toNat, h⟩ else none

/-- The width codes (R306). -/
def MWidth.code : MWidth → BitVec 3
  | .n8 => 0 | .i8 => 1 | .n16 => 2 | .i16 => 3 | .w32 => 4 | .w64 => 5 | .w128 => 6

def MWidth.ofCode (c : BitVec 3) : Option MWidth :=
  match c.toNat with
  | 0 => some .n8 | 1 => some .i8 | 2 => some .n16 | 3 => some .i16 | 4 => some .w32 | 5 => some .w64
  | 6 => some .w128 | _ => none

/-- The order codes of a marked access (R57). -/
def MOrder.code : MOrder → BitVec 3
  | .rlx => 1 | .acq => 2 | .rel => 3 | .ar => 4 | .sc => 5

def MOrder.ofCode (c : BitVec 3) : Option MOrder :=
  match c.toNat with
  | 1 => some .rlx | 2 => some .acq | 3 => some .rel | 4 => some .ar | 5 => some .sc | _ => none

/-- The scope codes (R58). -/
def Scope.code : Scope → BitVec 3
  | .thr => 0 | .wg => 1 | .team => 2 | .dev => 3 | .dom => 4 | .sys => 5

def Scope.ofCode (c : BitVec 3) : Option Scope :=
  match c.toNat with
  | 0 => some .thr | 1 => some .wg | 2 => some .team | 3 => some .dev | 4 => some .dom | 5 => some .sys
  | _ => none

/-- The order and scope fields together (R59). -/
def AccOrd.order : AccOrd → BitVec 3
  | .plain => 0
  | .marked o _ => o.code

def AccOrd.scope : AccOrd → BitVec 3
  | .plain => 0
  | .marked _ s => s.code

def AccOrd.ofCode (o s : BitVec 3) : Option AccOrd :=
  if o = 0 then (if s = 0 then some .plain else none)
  else
    match MOrder.ofCode o, Scope.ofCode s with
    | some o', some s' => some (.marked o' s')
    | _, _ => none

/-- The hint codes (R56). -/
def Hint.code : Hint → BitVec 2
  | .none => 0 | .ef => 1 | .l2 => 2 | .kp => 3

def Hint.ofCode (c : BitVec 2) : Hint :=
  match c.toNat with
  | 0 => .none | 1 => .ef | 2 => .l2 | _ => .kp

/-- The numbers of the system registers (R317). -/
def SReg.code : SReg → BitVec 12
  | .cyc => 0x000 | .tagrdy => 0x001 | .gstate => 0x002 | .ctxid => 0x003 | .fpctl => 0x004 | .fpstat => 0x005
  | .lndepth => 0x006 | .barmode => 0x007 | .csp => 0x008
  | .amx n => 1#8 ++ n
  | .tcause => 0x100 | .trpc => 0x101 | .tlanes => 0x102 | .taddr => 0x103 | .tinfo => 0x104 | .dgqh => 0x105
  | .hmark => 0x106 | .savebase => 0x107 | .ctxtab => 0x108 | .keysel => 0x109 | .trcctl => 0x10A
  | .trcwp => 0x10B | .dbgright => 0x10C | .racechk => 0x10D
  | .wpa n => 0x22#9 ++ n
  | .wpc n => 0x23#9 ++ n
  | .acfg n => 0x48#10 ++ n
  | .acnt n => 0x49#10 ++ n
  | .accown n => 4#4 ++ n

/-- The system register that a number names (R317). -/
def SReg.ofCode (c : BitVec 12) : Option SReg :=
  if c.extractLsb' 4 8 = 1#8 then some (.amx (c.extractLsb' 0 4))
  else if c.extractLsb' 3 9 = 0x22#9 then some (.wpa (c.extractLsb' 0 3))
  else if c.extractLsb' 3 9 = 0x23#9 then some (.wpc (c.extractLsb' 0 3))
  else if c.extractLsb' 2 10 = 0x48#10 then some (.acfg (c.extractLsb' 0 2))
  else if c.extractLsb' 2 10 = 0x49#10 then some (.acnt (c.extractLsb' 0 2))
  else if c.extractLsb' 8 4 = 4#4 then some (.accown (c.extractLsb' 0 8))
  else
    match c.toNat with
    | 0x000 => some .cyc | 0x001 => some .tagrdy | 0x002 => some .gstate | 0x003 => some .ctxid
    | 0x004 => some .fpctl | 0x005 => some .fpstat | 0x006 => some .lndepth | 0x007 => some .barmode
    | 0x008 => some .csp | 0x100 => some .tcause | 0x101 => some .trpc | 0x102 => some .tlanes
    | 0x103 => some .taddr | 0x104 => some .tinfo | 0x105 => some .dgqh | 0x106 => some .hmark
    | 0x107 => some .savebase | 0x108 => some .ctxtab | 0x109 => some .keysel | 0x10A => some .trcctl
    | 0x10B => some .trcwp | 0x10C => some .dbgright | 0x10D => some .racechk
    | _ => none

/-- GV and GSL of an optional guard slot (R305). -/
def gvCode (g : Option (BitVec 4)) : Bit := bit g.isSome

def gslCode (g : Option (BitVec 4)) : BitVec 4 := g.getD 0

def gOf (gv : Bit) (gsl : BitVec 4) : Option (BitVec 4) := if gv = 1 then some gsl else none

/-- MF and MOFF of an optional meeting address (R305). -/
def moffCode (j : Option (BitVec 16)) : BitVec 16 := j.getD 0

def joinOf (mf : Bit) (moff : BitVec 16) : Option (BitVec 16) := if mf = 1 then some moff else none

/-! ## Operands of a word -/

/-- A word as its opcode and operands, in the six formats of R305. Codes that only the instruction gives a meaning
stay as they are. -/
inductive Form where
  | fr (op : BitVec 10) (d : Dst) (a b c : Src) (mod : BitVec 7)
  | fi (op : BitVec 10) (d : Dst) (a : Src) (imod : BitVec 11) (imm : Word)
  | fm (op : BitVec 10) (d : Dst) (base : Base) (data : Data) (width order scope : BitVec 3) (hint : BitVec 2)
      (off : BitVec 30)
  | fb (op : BitVec 10) (d : Dst) (a : Src) (mf : Bit) (res : BitVec 2) (moff : BitVec 16) (off : BitVec 24)
  | fe (op : BitVec 10) (d : Dst) (a : Src) (tag : BitVec 6) (gv : Bit) (gsl : BitVec 4) (efl : BitVec 8)
      (eoff : BitVec 24)
  | fs (op : BitVec 10) (d : Dst) (a : Src) (sreg : BitVec 12) (res : BitVec 31)
  deriving DecidableEq, Repr

/-- The opcodes of each format (R312), none for an unassigned one. -/
inductive Format where
  | r | i | m | b | e | s
  deriving DecidableEq, Repr

def formatOf (op : BitVec 10) : Option Format :=
  match op.toNat with
  | 0x000 | 0x001 | 0x002 | 0x003 | 0x004 | 0x005 | 0x006 | 0x007 | 0x008 | 0x009 => some .r
  | 0x00A | 0x010 | 0x011 | 0x012 | 0x013 | 0x014 | 0x018 | 0x019 | 0x01A | 0x01B => some .r
  | 0x020 | 0x021 | 0x022 | 0x023 | 0x024 | 0x025 | 0x030 | 0x038 | 0x039 | 0x03A => some .r
  | 0x100 | 0x101 | 0x102 | 0x103 | 0x104 | 0x105 | 0x106 | 0x107 | 0x108 | 0x110 => some .r
  | 0x111 | 0x112 | 0x113 | 0x114 | 0x115 | 0x116 | 0x117 | 0x118 | 0x120 | 0x121 => some .r
  | 0x122 | 0x123 | 0x124 | 0x130 | 0x131 | 0x132 | 0x133 | 0x134 | 0x135 | 0x1C0 => some .r
  | 0x1C1 | 0x1C2 | 0x1C8 | 0x1C9 | 0x1CA | 0x1CB | 0x1D0 | 0x200 | 0x201 | 0x202 => some .r
  | 0x203 | 0x204 | 0x205 | 0x206 | 0x240 | 0x241 | 0x242 | 0x243 | 0x244 | 0x245 => some .r
  | 0x309 | 0x30A | 0x30C | 0x310 | 0x311 | 0x312 | 0x342 | 0x346 | 0x347 | 0x361 => some .r
  | 0x362 | 0x386 | 0x388 | 0x389 | 0x38A | 0x390 | 0x391 | 0x398 | 0x399 | 0x39A => some .r
  | 0x3A0 | 0x3A1 | 0x3A2 | 0x3A3 | 0x3B1 | 0x3B2 | 0x3B3 | 0x3C1 | 0x3C2 | 0x3C3 => some .r
  | 0x3C4 | 0x3E2 | 0x3E3 | 0x3E4 | 0x3E5 | 0x3E6 | 0x3E7 | 0x3E8 | 0x3EA | 0x3EB => some .r
  | 0x3EC | 0x3ED => some .r
  | 0x080 | 0x081 | 0x082 | 0x086 | 0x087 | 0x090 | 0x091 | 0x092 | 0x094 | 0x098 => some .i
  | 0x099 | 0x09A | 0x09B | 0x0B0 | 0x0BA | 0x0C0 | 0x180 | 0x181 | 0x182 | 0x184 => some .i
  | 0x185 | 0x186 | 0x3C0 => some .i
  | 0x280 | 0x281 | 0x282 | 0x283 | 0x290 | 0x291 | 0x292 | 0x293 | 0x294 | 0x2A0 => some .m
  | 0x2A1 | 0x2A2 | 0x2A3 | 0x2A4 | 0x2A5 | 0x2A6 | 0x2A7 | 0x2A8 | 0x2A9 | 0x2AA => some .m
  | 0x2AB | 0x2AC | 0x2AD | 0x2AE | 0x2B0 | 0x2B1 | 0x2B2 | 0x2B3 | 0x2B4 | 0x2B5 => some .m
  | 0x2B6 | 0x2B7 | 0x2B8 | 0x2B9 | 0x2BA | 0x2BB | 0x2BC | 0x2BD | 0x2BE | 0x2C0 => some .m
  | 0x2C1 | 0x2C2 | 0x2C3 | 0x2C4 | 0x2C5 | 0x2C8 | 0x2C9 | 0x2CA | 0x2CB | 0x2CC => some .m
  | 0x2CD | 0x2CE => some .m
  | 0x380 | 0x381 | 0x382 | 0x383 | 0x384 | 0x385 => some .b
  | 0x300 | 0x301 | 0x302 | 0x303 | 0x340 | 0x341 | 0x304 | 0x308 | 0x30B | 0x30D => some .e
  | 0x343 | 0x344 | 0x345 | 0x3E9 | 0x360 | 0x3B0 => some .e
  | 0x3E0 | 0x3E1 => some .s
  | _ => none

/-- The head and operands of an instruction (R296, R305, R312); none for an event, which has no word. -/
def Instr.form (i : Instr) : Option (Head × Form) :=
  match i with
  | .iadd h d a b t sat => some (h, .fr 0x000 d a b .zero (t.code ++ (0#2 ++ bit sat)))
  | .isub h d a b t sat => some (h, .fr 0x001 d a b .zero (t.code ++ (0#2 ++ bit sat)))
  | .imul h d a b t sat => some (h, .fr 0x002 d a b .zero (t.code ++ (0#2 ++ bit sat)))
  | .imulh h d a b t => some (h, .fr 0x003 d a b .zero (t.code ++ 0#3))
  | .imad h d a b c t sat => some (h, .fr 0x004 d a b c (t.code ++ (0#2 ++ bit sat)))
  | .imadw h d a b c signed sat => some (h, .fr 0x005 d a b c ((0#3 ++ bit signed) ++ (0#2 ++ bit sat)))
  | .imin h d a b t => some (h, .fr 0x006 d a b .zero (t.code ++ 0#3))
  | .imax h d a b t => some (h, .fr 0x007 d a b .zero (t.code ++ 0#3))
  | .iabs h d a w sat => some (h, .fr 0x008 d a .zero .zero (w.codeSigned ++ (0#2 ++ bit sat)))
  | .ineg h d a t sat => some (h, .fr 0x009 d a .zero .zero (t.code ++ (0#2 ++ bit sat)))
  | .isad h d a b c t sat => some (h, .fr 0x00A d a b c (t.code ++ (0#2 ++ bit sat)))
  | .and h d a b w => some (h, .fr 0x010 d a b .zero (w.code ++ 0#3))
  | .or h d a b w => some (h, .fr 0x011 d a b .zero (w.code ++ 0#3))
  | .xor h d a b w => some (h, .fr 0x012 d a b .zero (w.code ++ 0#3))
  | .not h d a w => some (h, .fr 0x013 d a .zero .zero (w.code ++ 0#3))
  | .andn h d a b w => some (h, .fr 0x014 d a b .zero (w.code ++ 0#3))
  | .shl h d a b t => some (h, .fr 0x018 d a b .zero (t.code ++ 0#3))
  | .shr h d a b t => some (h, .fr 0x019 d a b .zero (t.code ++ 0#3))
  | .sar h d a b t => some (h, .fr 0x01A d a b .zero (t.code ++ 0#3))
  | .rotl h d a b t => some (h, .fr 0x01B d a b .zero (t.code ++ 0#3))
  | .bfx h d a b t => some (h, .fr 0x020 d a b .zero (t.code ++ 0#3))
  | .bfi h d a b c t => some (h, .fr 0x021 d a b c (t.code ++ 0#3))
  | .brev h d a w => some (h, .fr 0x022 d a .zero .zero (w.code ++ 0#3))
  | .popc h d a w => some (h, .fr 0x023 d a .zero .zero (w.code ++ 0#3))
  | .clz h d a w => some (h, .fr 0x024 d a .zero .zero (w.code ++ 0#3))
  | .ctz h d a w => some (h, .fr 0x025 d a .zero .zero (w.code ++ 0#3))
  | .lea h d a b c t k => some (h, .fr 0x030 d a b c (t.code ++ k))
  | .mov h d a w => some (h, .fr 0x038 d a .zero .zero (w.code ++ 0#3))
  | .sel h d a b w p => some (h, .fr 0x039 d a b .zero (w.code ++ depthCode p))
  | .icmp h d a b t cond => some (h, .fr 0x03A d a b .zero (t.code ++ cond.code))
  | .fadd h d a b r => some (h, .fr 0x100 d a b r.src (8#4 ++ r.code))
  | .fsub h d a b r => some (h, .fr 0x101 d a b r.src (8#4 ++ r.code))
  | .fmul h d a b r => some (h, .fr 0x102 d a b r.src (8#4 ++ r.code))
  | .ffma h d a b c m => some (h, .fr 0x103 d a b c (8#4 ++ m.code))
  | .fmin h d a b nan => some (h, .fr 0x104 d a b .zero (8#4 ++ (0#2 ++ bit nan)))
  | .fmax h d a b nan => some (h, .fr 0x105 d a b .zero (8#4 ++ (0#2 ++ bit nan)))
  | .fcmp h d a b cond => some (h, .fr 0x106 d a b .zero (8#4 ++ cond.code))
  | .fclass h d a t => some (h, .fr 0x107 d a .zero .zero (t.code ++ 0#3))
  | .frnd h d a m => some (h, .fr 0x108 d a .zero .zero (8#4 ++ m.code))
  | .frcp h d a m => some (h, .fr 0x110 d a .zero .zero (8#4 ++ m.code))
  | .frsq h d a m => some (h, .fr 0x111 d a .zero .zero (8#4 ++ m.code))
  | .fsqrt h d a m => some (h, .fr 0x112 d a .zero .zero (8#4 ++ m.code))
  | .fex2 h d a => some (h, .fr 0x113 d a .zero .zero (8#4 ++ 0#3))
  | .flg2 h d a => some (h, .fr 0x114 d a .zero .zero (8#4 ++ 0#3))
  | .fsin h d a => some (h, .fr 0x115 d a .zero .zero (8#4 ++ 0#3))
  | .fcos h d a => some (h, .fr 0x116 d a .zero .zero (8#4 ++ 0#3))
  | .ftanh h d a => some (h, .fr 0x117 d a .zero .zero (8#4 ++ 0#3))
  | .fsig h d a => some (h, .fr 0x118 d a .zero .zero (8#4 ++ 0#3))
  | .hadd2 h d a b t r => some (h, .fr 0x120 d a b r.src (t.code ++ r.code))
  | .hmul2 h d a b t r => some (h, .fr 0x121 d a b r.src (t.code ++ r.code))
  | .hfma2 h d a b c t m => some (h, .fr 0x122 d a b c (t.code ++ m.code))
  | .hmax2 h d a b t nan => some (h, .fr 0x123 d a b .zero (t.code ++ (0#2 ++ bit nan)))
  | .hmin2 h d a b t nan => some (h, .fr 0x124 d a b .zero (t.code ++ (0#2 ++ bit nan)))
  | .dadd h d a b m => some (h, .fr 0x130 d a b .zero (9#4 ++ m.code))
  | .dmul h d a b m => some (h, .fr 0x131 d a b .zero (9#4 ++ m.code))
  | .dfma h d a b c m => some (h, .fr 0x132 d a b c (9#4 ++ m.code))
  | .dcmp h d a b cond => some (h, .fr 0x133 d a b .zero (9#4 ++ cond.code))
  | .dmin h d a b nan => some (h, .fr 0x134 d a b .zero (9#4 ++ (0#2 ++ bit nan)))
  | .dmax h d a b nan => some (h, .fr 0x135 d a b .zero (9#4 ++ (0#2 ++ bit nan)))
  | .cvtf h d a code r => some (h, .fr 0x1C0 d a r.src .zero (code.code ++ r.code))
  | .cvti h d a code r => some (h, .fr 0x1C1 d a r.src .zero (code.code ++ r.code))
  | .cvtn h d a code r => some (h, .fr 0x1C2 d a r.src .zero (code.code ++ r.code))
  | .qpk h d a b c f n => some (h, .fr 0x1C8 d a b c (f.code ++ (n.code ++ 0#1)))
  | .qupk h d a c f n hi => some (h, .fr 0x1C9 d a .zero c (f.code ++ (n.code ++ bit hi)))
  | .bscl h d a f => some (h, .fr 0x1CA d a .zero .zero (f.code ++ 0#3))
  | .amax h a n src => some (h, .fr 0x1CB .zero a .zero .zero (src.code ++ n))
  | .cbrg h d a b out => some (h, .fr 0x1D0 d a b .zero (0#4 ++ out.code))
  | .shfl h d a b c mode g => some (h, .fr 0x200 d a b c (0#1 ++ (groupCode g ++ mode.code)))
  | .vote h d test p neg => some (h, .fr 0x201 d .zero test.src .zero (0#1 ++ (test.code ++ (bit neg ++ depthCode p))))
  | .ballot h d p neg => some (h, .fr 0x202 d .zero .zero .zero (0#3 ++ (bit neg ++ depthCode p)))
  | .redx h d a op t => some (h, .fr 0x203 d a .zero .zero (t.code ++ op.code))
  | .scan h d a b op t => some (h, .fr 0x204 d a b .zero (t.code ++ op.code))
  | .matchLanes h d a w => some (h, .fr 0x205 d a .zero .zero (w.code ++ 0#3))
  | .elect h d cand hi => some (h, .fr 0x206 d .zero .zero .zero (0#2 ++ (bit hi ++ (bit cand.isSome ++ (cand.map depthCode).getD 0))))
  | .psh h a inv => some (h, .fr 0x240 .zero a .zero .zero (0#6 ++ bit inv))
  | .pdrop h n => some (h, .fr 0x241 .zero .zero .zero .zero (0#4 ++ count7Code n))
  | .pdup h p => some (h, .fr 0x242 .zero .zero .zero .zero (0#4 ++ depthCode p))
  | .plog h op p rep inv => some (h, .fr 0x243 .zero .zero .zero .zero (bit inv ++ (bit rep ++ (op.code ++ depthCode p))))
  | .pmov h (.read d) => some (h, .fr 0x244 d .zero .zero .zero 0)
  | .pmov h (.write a) => some (h, .fr 0x244 .zero a .zero .zero 1)
  | .pswp h p => some (h, .fr 0x245 .zero .zero .zero .zero (0#4 ++ depth6Code p))
  | .wany h d a => some (h, .fr 0x309 d a .zero .zero (0))
  | .tffr h d a => some (h, .fr 0x30A d a .zero .zero (0))
  | .trdy h d a => some (h, .fr 0x30C d a .zero .zero (0))
  | .rsv h d a b => some (h, .fr 0x310 d a b .zero (0))
  | .rls h a => some (h, .fr 0x311 .zero a .zero .zero (0))
  | .rrec h d a => some (h, .fr 0x312 d a .zero .zero (0))
  | .aclr h slot => some (h, .fr 0x342 .zero .zero .zero .zero (0#3 ++ slot))
  | .acmt h slot => some (h, .fr 0x346 .zero .zero .zero .zero (0#3 ++ slot))
  | .adsc h slot => some (h, .fr 0x347 .zero .zero .zero .zero (0#3 ++ slot))
  | .nwait h d a b => some (h, .fr 0x361 d a b .zero (0))
  | .ncanc h d a => some (h, .fr 0x362 d a .zero .zero (0))
  | .exit h => some (h, .fr 0x386 .zero .zero .zero .zero (0))
  | .bar h b => some (h, .fr 0x388 .zero .zero .zero .zero (0#3 ++ b))
  | .barn h a x => some (h, .fr 0x389 .zero a x .zero (0))
  | .tbar h b => some (h, .fr 0x38A .zero .zero .zero .zero (0#5 ++ b))
  | .hudl h d k id => some (h, .fr 0x390 d k .zero .zero (id))
  | .hudlHome h => some (h, .fr 0x391 .zero .zero .zero .zero (0))
  | .yieldRun h => some (h, .fr 0x398 .zero .zero .zero .zero (0))
  | .sleep h a => some (h, .fr 0x399 .zero a .zero .zero (0))
  | .nop h => some (h, .fr 0x39A .zero .zero .zero .zero (0))
  | .trapSelf h b => some (h, .fr 0x3A0 .zero .zero b .zero 0)
  | .trapOne h a b => some (h, .fr 0x3A0 .zero a b .zero 1)
  | .trapWgrp h b => some (h, .fr 0x3A0 .zero .zero b .zero 2)
  | .trapTgrp h b => some (h, .fr 0x3A0 .zero .zero b .zero 3)
  | .svc h a => some (h, .fr 0x3A1 .zero a .zero .zero (0))
  | .svcq h => some (h, .fr 0x3A2 .zero .zero .zero .zero (0))
  | .sigret h => some (h, .fr 0x3A3 .zero .zero .zero .zero (0))
  | .lwait h => some (h, .fr 0x3B1 .zero .zero .zero .zero (0))
  | .gctr h d a => some (h, .fr 0x3B2 d a .zero .zero (0))
  | .cncl h a => some (h, .fr 0x3B3 .zero a .zero .zero (0))
  | .rgl h => some (h, .fr 0x3C1 .zero .zero .zero .zero (0))
  | .bkpt h => some (h, .fr 0x3C2 .zero .zero .zero .zero (0))
  | .snap h => some (h, .fr 0x3C3 .zero .zero .zero .zero (0))
  | .trmk h a => some (h, .fr 0x3C4 .zero a .zero .zero (0))
  | .eret h d a => some (h, .fr 0x3E2 d a .zero .zero (0))
  | .rply h a => some (h, .fr 0x3E3 .zero a .zero .zero 0)
  | .rplyDet h a b => some (h, .fr 0x3E3 .zero a b .zero 1)
  | .rplySig h a => some (h, .fr 0x3E3 .zero a .zero .zero 2)
  | .park h a => some (h, .fr 0x3E4 .zero a .zero .zero (0))
  | .kill h a b => some (h, .fr 0x3E5 .zero a b .zero (0))
  | .tlbiCtx h a => some (h, .fr 0x3E6 .zero a .zero .zero 0)
  | .tlbiRng h a b c => some (h, .fr 0x3E6 .zero a b c 1)
  | .tlbiAll h => some (h, .fr 0x3E6 .zero .zero .zero .zero 2)
  | .poolrdMap h d a => some (h, .fr 0x3E7 d a .zero .zero 0)
  | .poolrdDat h d a b => some (h, .fr 0x3E7 d a b .zero 1)
  | .poolwrMap h a b => some (h, .fr 0x3E8 .zero a b .zero 0)
  | .poolwrDat h a b c => some (h, .fr 0x3E8 .zero a b c 1)
  | .svresp h a b c => some (h, .fr 0x3EA .zero a b c (0))
  | .erst h a => some (h, .fr 0x3EB .zero a .zero .zero 0)
  | .erstMtx h a => some (h, .fr 0x3EB .zero a .zero .zero 2)
  | .erstNet h a => some (h, .fr 0x3EB .zero a .zero .zero 4)
  | .erstFail h a b => some (h, .fr 0x3EB .zero a b .zero 1)
  | .erstFailMtx h a b => some (h, .fr 0x3EB .zero a b .zero 3)
  | .erstFailNet h a b => some (h, .fr 0x3EB .zero a b .zero 5)
  | .keyld h a => some (h, .fr 0x3EC .zero a .zero .zero 0)
  | .keyldClr h => some (h, .fr 0x3EC .zero .zero .zero .zero 1)
  | .hmchk h d a => some (h, .fr 0x3ED d a .zero .zero (0))
  | .iaddI h d a imm t sat => some (h, .fi 0x080 d a (0#4 ++ (t.code ++ (0#2 ++ bit sat))) imm)
  | .isubI h d a imm t sat => some (h, .fi 0x081 d a (0#4 ++ (t.code ++ (0#2 ++ bit sat))) imm)
  | .imulI h d a imm t sat => some (h, .fi 0x082 d a (0#4 ++ (t.code ++ (0#2 ++ bit sat))) imm)
  | .iminI h d a imm t => some (h, .fi 0x086 d a (0#4 ++ (t.code ++ 0#3)) imm)
  | .imaxI h d a imm t => some (h, .fi 0x087 d a (0#4 ++ (t.code ++ 0#3)) imm)
  | .andI h d a imm w => some (h, .fi 0x090 d a (0#4 ++ (w.code ++ 0#3)) imm)
  | .orI h d a imm w => some (h, .fi 0x091 d a (0#4 ++ (w.code ++ 0#3)) imm)
  | .xorI h d a imm w => some (h, .fi 0x092 d a (0#4 ++ (w.code ++ 0#3)) imm)
  | .andnI h d a imm w => some (h, .fi 0x094 d a (0#4 ++ (w.code ++ 0#3)) imm)
  | .shlI h d a imm t => some (h, .fi 0x098 d a (0#4 ++ (t.code ++ 0#3)) imm)
  | .shrI h d a imm t => some (h, .fi 0x099 d a (0#4 ++ (t.code ++ 0#3)) imm)
  | .sarI h d a imm t => some (h, .fi 0x09A d a (0#4 ++ (t.code ++ 0#3)) imm)
  | .rotlI h d a imm t => some (h, .fi 0x09B d a (0#4 ++ (t.code ++ 0#3)) imm)
  | .leaI h d a imm t k => some (h, .fi 0x0B0 d a (0#4 ++ (t.code ++ k)) imm)
  | .icmpI h d a imm t cond => some (h, .fi 0x0BA d a (0#4 ++ (t.code ++ cond.code)) imm)
  | .movi h d imm t => some (h, .fi 0x0C0 d .zero (0#4 ++ (t.code ++ 0#3)) imm)
  | .faddI h d a imm m => some (h, .fi 0x180 d a (0#4 ++ (8#4 ++ m.code)) imm)
  | .fsubI h d a imm m => some (h, .fi 0x181 d a (0#4 ++ (8#4 ++ m.code)) imm)
  | .fmulI h d a imm m => some (h, .fi 0x182 d a (0#4 ++ (8#4 ++ m.code)) imm)
  | .fminI h d a imm nan => some (h, .fi 0x184 d a (0#4 ++ (8#4 ++ (0#2 ++ bit nan))) imm)
  | .fmaxI h d a imm nan => some (h, .fi 0x185 d a (0#4 ++ (8#4 ++ (0#2 ++ bit nan))) imm)
  | .fcmpI h d a imm cond => some (h, .fi 0x186 d a (0#4 ++ (8#4 ++ cond.code)) imm)
  | .rge h id => some (h, .fi 0x3C0 .zero .zero 0 (0#16 ++ id))
  | .ld h d b off w o hint => some (h, .fm 0x280 d b .zero w.code o.order o.scope hint.code off)
  | .st h b off x w o hint => some (h, .fm 0x281 .zero b x w.code o.order o.scope hint.code off)
  | .lds h d b off w o => some (h, .fm 0x282 d b .zero w.code o.order o.scope 0 off)
  | .sts h b off x w o => some (h, .fm 0x283 .zero b x w.code o.order o.scope 0 off)
  | .pref h b off n hint => some (h, .fm 0x290 .zero b .zero (depthCode n) 0 0 hint.code off)
  | .cctlCln h b off => some (h, .fm 0x291 .zero b .zero 0 0 0 0 off)
  | .cctlInv h b off => some (h, .fm 0x291 .zero b .zero 1 0 0 0 off)
  | .cctlPin h d b off => some (h, .fm 0x291 d b .zero 2 0 0 0 off)
  | .cctlUnpin h b off => some (h, .fm 0x291 .zero b .zero 3 0 0 0 off)
  | .fence h o s => some (h, .fm 0x292 .zero .zero .zero 0 o.code s.code 0 0)
  | .cmpst h d b off x w o spad => some (h, .fm 0x293 d b x w.code o.order o.scope (bit spad ++ 0#1) off)
  | .ipref h off n => some (h, .fm 0x294 .zero .zero .zero (depthCode n) 0 0 0 off)
  | .atomAdd h d b off x w o s hint => some (h, .fm 0x2A0 d b x w.code o.code s.code hint.code off)
  | .atomMin h d b off x w o s hint => some (h, .fm 0x2A1 d b x w.code o.code s.code hint.code off)
  | .atomMax h d b off x w o s hint => some (h, .fm 0x2A2 d b x w.code o.code s.code hint.code off)
  | .atomAnd h d b off x w o s hint => some (h, .fm 0x2A3 d b x w.code o.code s.code hint.code off)
  | .atomOr h d b off x w o s hint => some (h, .fm 0x2A4 d b x w.code o.code s.code hint.code off)
  | .atomXor h d b off x w o s hint => some (h, .fm 0x2A5 d b x w.code o.code s.code hint.code off)
  | .atomExch h d b off x w o s hint => some (h, .fm 0x2A6 d b x w.code o.code s.code hint.code off)
  | .atomCas h d b off x w o s hint => some (h, .fm 0x2A7 d b x w.code o.code s.code hint.code off)
  | .atomAddcl h d b off x w o s hint => some (h, .fm 0x2A8 d b x w.code o.code s.code hint.code off)
  | .atomSubcl h d b off x w o s hint => some (h, .fm 0x2A9 d b x w.code o.code s.code hint.code off)
  | .atomFadd h d b off x w o s hint => some (h, .fm 0x2AA d b x w.code o.code s.code hint.code off)
  | .atomFmin h d b off x w o s hint => some (h, .fm 0x2AB d b x w.code o.code s.code hint.code off)
  | .atomFmax h d b off x w o s hint => some (h, .fm 0x2AC d b x w.code o.code s.code hint.code off)
  | .atomMinU h d b off x w o s hint => some (h, .fm 0x2AD d b x w.code o.code s.code hint.code off)
  | .atomMaxU h d b off x w o s hint => some (h, .fm 0x2AE d b x w.code o.code s.code hint.code off)
  | .atomsAdd h d b off x w o s => some (h, .fm 0x2B0 d b x w.code o.code s.code 0 off)
  | .atomsMin h d b off x w o s => some (h, .fm 0x2B1 d b x w.code o.code s.code 0 off)
  | .atomsMax h d b off x w o s => some (h, .fm 0x2B2 d b x w.code o.code s.code 0 off)
  | .atomsAnd h d b off x w o s => some (h, .fm 0x2B3 d b x w.code o.code s.code 0 off)
  | .atomsOr h d b off x w o s => some (h, .fm 0x2B4 d b x w.code o.code s.code 0 off)
  | .atomsXor h d b off x w o s => some (h, .fm 0x2B5 d b x w.code o.code s.code 0 off)
  | .atomsExch h d b off x w o s => some (h, .fm 0x2B6 d b x w.code o.code s.code 0 off)
  | .atomsCas h d b off x w o s => some (h, .fm 0x2B7 d b x w.code o.code s.code 0 off)
  | .atomsAddcl h d b off x w o s => some (h, .fm 0x2B8 d b x w.code o.code s.code 0 off)
  | .atomsSubcl h d b off x w o s => some (h, .fm 0x2B9 d b x w.code o.code s.code 0 off)
  | .atomsFadd h d b off x w o s => some (h, .fm 0x2BA d b x w.code o.code s.code 0 off)
  | .atomsFmin h d b off x w o s => some (h, .fm 0x2BB d b x w.code o.code s.code 0 off)
  | .atomsFmax h d b off x w o s => some (h, .fm 0x2BC d b x w.code o.code s.code 0 off)
  | .atomsMinU h d b off x w o s => some (h, .fm 0x2BD d b x w.code o.code s.code 0 off)
  | .atomsMaxU h d b off x w o s => some (h, .fm 0x2BE d b x w.code o.code s.code 0 off)
  | .redAdd h b off x w o s hint => some (h, .fm 0x2C0 .zero b x w.code o.code s.code hint.code off)
  | .redMin h b off x w o s hint => some (h, .fm 0x2C1 .zero b x w.code o.code s.code hint.code off)
  | .redMax h b off x w o s hint => some (h, .fm 0x2C2 .zero b x w.code o.code s.code hint.code off)
  | .redAnd h b off x w o s hint => some (h, .fm 0x2C3 .zero b x w.code o.code s.code hint.code off)
  | .redOr h b off x w o s hint => some (h, .fm 0x2C4 .zero b x w.code o.code s.code hint.code off)
  | .redXor h b off x w o s hint => some (h, .fm 0x2C5 .zero b x w.code o.code s.code hint.code off)
  | .redAddcl h b off x w o s hint => some (h, .fm 0x2C8 .zero b x w.code o.code s.code hint.code off)
  | .redSubcl h b off x w o s hint => some (h, .fm 0x2C9 .zero b x w.code o.code s.code hint.code off)
  | .redFadd h b off x w o s hint => some (h, .fm 0x2CA .zero b x w.code o.code s.code hint.code off)
  | .redFmin h b off x w o s hint => some (h, .fm 0x2CB .zero b x w.code o.code s.code hint.code off)
  | .redFmax h b off x w o s hint => some (h, .fm 0x2CC .zero b x w.code o.code s.code hint.code off)
  | .redMinU h b off x w o s hint => some (h, .fm 0x2CD .zero b x w.code o.code s.code hint.code off)
  | .redMaxU h b off x w o s hint => some (h, .fm 0x2CE .zero b x w.code o.code s.code hint.code off)
  | .cpy h k tag g => some (h, .fe 0x300 .zero k.sa tag (gvCode g) (gslCode g) 0 k.eoff)
  | .cpys h k tag g => some (h, .fe 0x301 .zero k.sa tag (gvCode g) (gslCode g) 0 k.eoff)
  | .cpyx h k tag g => some (h, .fe 0x302 .zero k.sa tag (gvCode g) (gslCode g) 0 k.eoff)
  | .strm h k tag g => some (h, .fe 0x303 .zero k.sa tag (gvCode g) (gslCode g) 0 k.eoff)
  | .mma h k tag g => some (h, .fe 0x340 .zero k.sa tag (gvCode g) (gslCode g) 0 k.eoff)
  | .mmas h k tag g => some (h, .fe 0x341 .zero k.sa tag (gvCode g) (gslCode g) 0 k.eoff)
  | .scnt h x tag => some (h, .fe 0x304 .zero x tag 0 0 0 0)
  | .wtag h tag => some (h, .fe 0x308 .zero .zero tag 0 0 0 0)
  | .tclr h tag => some (h, .fe 0x30B .zero .zero tag 0 0 0 0)
  | .gresCmt h g => some (h, .fe 0x30D .zero .zero 0 1 g 0 0)
  | .gresDsc h g => some (h, .fe 0x30D .zero .zero 0 1 g 1 0)
  | .ald h k tag slot => some (h, .fe 0x343 .zero k.sa tag 0 0 (0#4 ++ slot) k.eoff)
  | .ast h k tag slot => some (h, .fe 0x344 .zero k.sa tag 0 0 (0#4 ++ slot) k.eoff)
  | .mdrn h k tag => some (h, .fe 0x345 .zero k.sa tag 0 0 0 k.eoff)
  | .cpyp h k tag => some (h, .fe 0x3E9 .zero k.sa tag 0 0 0 k.eoff)
  | .npost h k => some (h, .fe 0x360 .zero k.sa 0 0 0 0 k.eoff)
  | .lnch h d k => some (h, .fe 0x3B0 d k.sa 0 0 0 0 k.eoff)
  | .bra h off j => some (h, .fb 0x380 .zero .zero (bit j.isSome) 0 (moffCode j) off)
  | .brx h a j => some (h, .fb 0x381 .zero a (bit j.isSome) 0 (moffCode j) 0)
  | .call h off => some (h, .fb 0x382 .zero .zero 0 0 0 off)
  | .callx h a => some (h, .fb 0x383 .zero a 0 0 0 0)
  | .ret h => some (h, .fb 0x384 .zero .zero 0 0 0 0)
  | .meet h j => some (h, .fb 0x385 .zero .zero 1 0 j 0)
  | .mfsr h d r => some (h, .fs 0x3E0 d .zero r.code 0)
  | .mtsr h a r => some (h, .fs 0x3E1 .zero a r.code 0)
  | .racechkClr h a => some (h, .fs 0x3E1 .zero a SReg.racechk.code 0)
  | .runSelect .. => none
  | .fetchReturn .. => none
  | .loadReturn .. => none
  | .storeAck .. => none
  | .remoteStoreLost .. => none
  | .walkStart .. => none
  | .walkComplete .. => none
  | .copyStart .. => none
  | .copySectorDone .. => none
  | .mmaStart .. => none
  | .mmaStep .. => none
  | .drainSectorDone .. => none
  | .huddleMove .. => none
  | .sleepExpiry .. => none
  | .nwaitPoll .. => none
  | .saveForce .. => none
  | .debugStopForce .. => none
  | .asyncSignalForce .. => none
  | .placeTeam .. => none
  | .streamAgeing .. => none
  | .counterSweep .. => none
  | .stallSample .. => none
  | .errorDiscovery .. => none
  | .hbmScrub .. => none
  | .coreFence .. => none
  | .snapshotCommit .. => none
  | .rollback .. => none
  | .launchCommit .. => none
  | .renew .. => none
  | .leaseExpiry .. => none
  | .clearFails .. => none
  | .flashErase .. => none
  | .flashProgram .. => none
  | .flashEraseDone .. => none
  | .flashProgramDone .. => none
  | .registerWrite .. => none
  | .hostMemoryAccess .. => none
  | .hostSnoop .. => none
  | .deviceReset .. => none
  | .bootstOk .. => none
  | .firmwareTimeout .. => none
  | .serviceReply .. => none
  | .teamSave .. => none
  | .teamSaveSpill .. => none
  | .teamRestore .. => none
  | .teamKill .. => none
  | .debugStopRequest .. => none
  | .debugResumeRequest .. => none
  | .revokeNotice .. => none
  | .kernelReplayRequest .. => none
  | .replayPassEnd .. => none
  | .contextTlbiRequest .. => none
  | .qpOpen .. => none
  | .qpClose .. => none
  | .setReceiveRing .. => none
  | .setMemoryKey .. => none
  | .clearMemoryKey .. => none
  | .attestationRequest .. => none
  | .pageReply .. => none
  | .uatinRequest .. => none
  | .uatinTimeout .. => none
  | .flitReplay .. => none
  | .portStateChange .. => none
  | .netTakeRequest .. => none
  | .netPacketReceive .. => none
  | .netAckReceive .. => none
  | .netRetransmitTimeout .. => none
  | .throttleStepDown .. => none
  | .throttleT3 .. => none
  | .throttleT4 .. => none
  | .throttleLeaveT4 .. => none
  | .throttleStepUp .. => none
  | .tempRefresh .. => none
  | .hostPortDown .. => none
  | .outboundHeadAdvance .. => none
  | .unitResetDone .. => none
  | .hostServiceRestart .. => none
  | .pageZeroingDone .. => none
  | .preImageCopied .. => none
  | .netRefusalReceive .. => none

/-- A code that a table does not list is a reserved modifier (R305). -/
def orMod {α : Type} (x : Option α) : Except DecodeError α :=
  match x with
  | some y => .ok y
  | none => .error .modifier

/-- An SREG that names no register (R310). -/
def orSreg (x : Option SReg) : Except DecodeError SReg :=
  match x with
  | some y => .ok y
  | none => .error .sreg

/-- The instruction of an R word. -/
def instrOfR (h : Head) (op : Nat) (d : Dst) (a b c : Src) (m : BitVec 7) : Except DecodeError Instr :=
  let mt : BitVec 4 := m.extractLsb' 3 4
  let lo : BitVec 3 := m.extractLsb' 0 3
  match op with
  | 0x000 => do let t ← orMod (ITy.ofCode mt); pure (.iadd h d a b t (bitAt m 0))
  | 0x001 => do let t ← orMod (ITy.ofCode mt); pure (.isub h d a b t (bitAt m 0))
  | 0x002 => do let t ← orMod (ITy.ofCode mt); pure (.imul h d a b t (bitAt m 0))
  | 0x003 => do let t ← orMod (ITy.ofCode mt); pure (.imulh h d a b t)
  | 0x004 => do let t ← orMod (ITy.ofCode mt); pure (.imad h d a b c t (bitAt m 0))
  | 0x005 => do let t ← orMod (ITy.ofCode mt); pure (.imadw h d a b c (decide (t = .i32)) (bitAt m 0))
  | 0x006 => do let t ← orMod (ITy.ofCode mt); pure (.imin h d a b t)
  | 0x007 => do let t ← orMod (ITy.ofCode mt); pure (.imax h d a b t)
  | 0x008 => do let w ← orMod (Wd.ofCodeSigned mt); pure (.iabs h d a w (bitAt m 0))
  | 0x009 => do let t ← orMod (ITy.ofCode mt); pure (.ineg h d a t (bitAt m 0))
  | 0x00A => do let t ← orMod (ITy.ofCode mt); pure (.isad h d a b c t (bitAt m 0))
  | 0x010 => do let w ← orMod (Wd.ofCode mt); pure (.and h d a b w)
  | 0x011 => do let w ← orMod (Wd.ofCode mt); pure (.or h d a b w)
  | 0x012 => do let w ← orMod (Wd.ofCode mt); pure (.xor h d a b w)
  | 0x013 => do let w ← orMod (Wd.ofCode mt); pure (.not h d a w)
  | 0x014 => do let w ← orMod (Wd.ofCode mt); pure (.andn h d a b w)
  | 0x018 => do let t ← orMod (ITy.ofCode mt); pure (.shl h d a b t)
  | 0x019 => do let t ← orMod (ITy.ofCode mt); pure (.shr h d a b t)
  | 0x01A => do let t ← orMod (ITy.ofCode mt); pure (.sar h d a b t)
  | 0x01B => do let t ← orMod (ITy.ofCode mt); pure (.rotl h d a b t)
  | 0x020 => do let t ← orMod (ITy.ofCode mt); pure (.bfx h d a b t)
  | 0x021 => do let t ← orMod (ITy.ofCode mt); pure (.bfi h d a b c t)
  | 0x022 => do let w ← orMod (Wd.ofCode mt); pure (.brev h d a w)
  | 0x023 => do let w ← orMod (Wd.ofCode mt); pure (.popc h d a w)
  | 0x024 => do let w ← orMod (Wd.ofCode mt); pure (.clz h d a w)
  | 0x025 => do let w ← orMod (Wd.ofCode mt); pure (.ctz h d a w)
  | 0x030 => do let t ← orMod (ITy.ofCode mt); pure (.lea h d a b c t lo)
  | 0x038 => do let w ← orMod (Wd.ofCode mt); pure (.mov h d a w)
  | 0x039 => do let w ← orMod (Wd.ofCode mt); let p ← orMod (depthOf lo); pure (.sel h d a b w p)
  | 0x03A => do let t ← orMod (ITy.ofCode mt); let q ← orMod (ICond.ofCode lo); pure (.icmp h d a b t q)
  | 0x100 => do let r ← orMod (Rnd.ofCode lo c); pure (.fadd h d a b r)
  | 0x101 => do let r ← orMod (Rnd.ofCode lo c); pure (.fsub h d a b r)
  | 0x102 => do let r ← orMod (Rnd.ofCode lo c); pure (.fmul h d a b r)
  | 0x103 => do let r ← orMod (DirMode.ofCode lo); pure (.ffma h d a b c r)
  | 0x104 => pure (.fmin h d a b (bitAt m 0))
  | 0x105 => pure (.fmax h d a b (bitAt m 0))
  | 0x106 => pure (.fcmp h d a b (FCond.ofCode lo))
  | 0x107 => do let t ← orMod (FTy.ofCode mt); pure (.fclass h d a t)
  | 0x108 => do let r ← orMod (DirMode.ofCode lo); pure (.frnd h d a r)
  | 0x110 => do let r ← orMod (DirMode.ofCode lo); pure (.frcp h d a r)
  | 0x111 => do let r ← orMod (DirMode.ofCode lo); pure (.frsq h d a r)
  | 0x112 => do let r ← orMod (DirMode.ofCode lo); pure (.fsqrt h d a r)
  | 0x113 => pure (.fex2 h d a)
  | 0x114 => pure (.flg2 h d a)
  | 0x115 => pure (.fsin h d a)
  | 0x116 => pure (.fcos h d a)
  | 0x117 => pure (.ftanh h d a)
  | 0x118 => pure (.fsig h d a)
  | 0x120 => do let t ← orMod (HTy.ofCode mt); let r ← orMod (Rnd.ofCode lo c); pure (.hadd2 h d a b t r)
  | 0x121 => do let t ← orMod (HTy.ofCode mt); let r ← orMod (Rnd.ofCode lo c); pure (.hmul2 h d a b t r)
  | 0x122 => do let t ← orMod (HTy.ofCode mt); let r ← orMod (DirMode.ofCode lo); pure (.hfma2 h d a b c t r)
  | 0x123 => do let t ← orMod (HTy.ofCode mt); pure (.hmax2 h d a b t (bitAt m 0))
  | 0x124 => do let t ← orMod (HTy.ofCode mt); pure (.hmin2 h d a b t (bitAt m 0))
  | 0x130 => do let r ← orMod (DirMode.ofCode lo); pure (.dadd h d a b r)
  | 0x131 => do let r ← orMod (DirMode.ofCode lo); pure (.dmul h d a b r)
  | 0x132 => do let r ← orMod (DirMode.ofCode lo); pure (.dfma h d a b c r)
  | 0x133 => pure (.dcmp h d a b (FCond.ofCode lo))
  | 0x134 => pure (.dmin h d a b (bitAt m 0))
  | 0x135 => pure (.dmax h d a b (bitAt m 0))
  | 0x1C0 => do let t ← orMod (CvtF.ofCode mt); let r ← orMod (Rnd.ofCode lo b); pure (.cvtf h d a t r)
  | 0x1C1 => do let t ← orMod (CvtI.ofCode mt); let r ← orMod (Rnd.ofCode lo b); pure (.cvti h d a t r)
  | 0x1C2 => do let t ← orMod (CvtN.ofCode mt); let r ← orMod (Rnd.ofCode lo b); pure (.cvtn h d a t r)
  | 0x1C8 => do let f ← orMod (Fmt.ofCode mt); let n ← orMod (Blk.ofCode (m.extractLsb' 1 2)); pure (.qpk h d a b c f n)
  | 0x1C9 => do let f ← orMod (Fmt.ofCode mt); let n ← orMod (Blk.ofCode (m.extractLsb' 1 2)); pure (.qupk h d a c f n (bitAt m 0))
  | 0x1CA => do let f ← orMod (Fmt.ofCode mt); pure (.bscl h d a f)
  | 0x1CB => do let q ← orMod (AmaxSrc.ofCode (m.extractLsb' 4 3)); pure (.amax h a (m.extractLsb' 0 4) q)
  | 0x1D0 => do let q ← orMod (CbrgOut.ofCode lo); pure (.cbrg h d a b q)
  | 0x200 => do let q ← orMod (ShflMode.ofCode lo); let g ← orMod (groupOf (m.extractLsb' 3 3)); pure (.shfl h d a b c q g)
  | 0x201 => do let p ← orMod (depthOf lo); pure (.vote h d (VoteTest.ofCode (m.extractLsb' 4 2) b) p (bitAt m 3))
  | 0x202 => do let p ← orMod (depthOf lo); pure (.ballot h d p (bitAt m 3))
  | 0x203 => do let t ← orMod (RTy.ofCode mt); let q ← orMod (ROp.ofCode lo); pure (.redx h d a q t)
  | 0x204 => do let t ← orMod (RTy.ofCode mt); let q ← orMod (SOp.ofCode lo); pure (.scan h d a b q t)
  | 0x205 => do let w ← orMod (Wd.ofCode mt); pure (.matchLanes h d a w)
  | 0x206 => do let q ← orMod (if bitAt m 3 then (depthOf lo).map some else some none); pure (.elect h d q (bitAt m 4))
  | 0x240 => pure (.psh h a (bitAt m 0))
  | 0x241 => do let n ← orMod (count7Of lo); pure (.pdrop h n)
  | 0x242 => do let p ← orMod (depthOf lo); pure (.pdup h p)
  | 0x243 => do let p ← orMod (depthOf lo); pure (.plog h (PlogOp.ofCode (m.extractLsb' 3 2)) p (bitAt m 5) (bitAt m 6))
  | 0x244 => pure (.pmov h (if bitAt m 0 then .write a else .read d))
  | 0x245 => do let p ← orMod (depth6Of lo); pure (.pswp h p)
  | 0x309 => pure (.wany h d a)
  | 0x30A => pure (.tffr h d a)
  | 0x30C => pure (.trdy h d a)
  | 0x310 => pure (.rsv h d a b)
  | 0x311 => pure (.rls h a)
  | 0x312 => pure (.rrec h d a)
  | 0x342 => pure (.aclr h (m.extractLsb' 0 4))
  | 0x346 => pure (.acmt h (m.extractLsb' 0 4))
  | 0x347 => pure (.adsc h (m.extractLsb' 0 4))
  | 0x361 => pure (.nwait h d a b)
  | 0x362 => pure (.ncanc h d a)
  | 0x386 => pure (.exit h)
  | 0x388 => pure (.bar h (m.extractLsb' 0 4))
  | 0x389 => pure (.barn h a b)
  | 0x38A => pure (.tbar h (m.extractLsb' 0 2))
  | 0x390 => pure (.hudl h d a m)
  | 0x391 => pure (.hudlHome h)
  | 0x398 => pure (.yieldRun h)
  | 0x399 => pure (.sleep h a)
  | 0x39A => pure (.nop h)
  | 0x3A0 =>
    match (m.extractLsb' 0 2).toNat with
    | 0 => pure (.trapSelf h b)
    | 1 => pure (.trapOne h a b)
    | 2 => pure (.trapWgrp h b)
    | _ => pure (.trapTgrp h b)
  | 0x3A1 => pure (.svc h a)
  | 0x3A2 => pure (.svcq h)
  | 0x3A3 => pure (.sigret h)
  | 0x3B1 => pure (.lwait h)
  | 0x3B2 => pure (.gctr h d a)
  | 0x3B3 => pure (.cncl h a)
  | 0x3C1 => pure (.rgl h)
  | 0x3C2 => pure (.bkpt h)
  | 0x3C3 => pure (.snap h)
  | 0x3C4 => pure (.trmk h a)
  | 0x3E2 => pure (.eret h d a)
  | 0x3E3 =>
    match (m.extractLsb' 0 2).toNat with
    | 0 => pure (.rply h a)
    | 1 => pure (.rplyDet h a b)
    | 2 => pure (.rplySig h a)
    | _ => throw .modifier
  | 0x3E4 => pure (.park h a)
  | 0x3E5 => pure (.kill h a b)
  | 0x3E6 =>
    match (m.extractLsb' 0 2).toNat with
    | 0 => pure (.tlbiCtx h a)
    | 1 => pure (.tlbiRng h a b c)
    | 2 => pure (.tlbiAll h)
    | _ => throw .modifier
  | 0x3E7 => pure (if bitAt m 0 then .poolrdDat h d a b else .poolrdMap h d a)
  | 0x3E8 => pure (if bitAt m 0 then .poolwrDat h a b c else .poolwrMap h a b)
  | 0x3EA => pure (.svresp h a b c)
  | 0x3EB =>
    match lo.toNat with
    | 0 => pure (.erst h a)
    | 1 => pure (.erstFail h a b)
    | 2 => pure (.erstMtx h a)
    | 3 => pure (.erstFailMtx h a b)
    | 4 => pure (.erstNet h a)
    | 5 => pure (.erstFailNet h a b)
    | _ => throw .modifier
  | 0x3EC => pure (if bitAt m 0 then .keyldClr h else .keyld h a)
  | 0x3ED => pure (.hmchk h d a)
  | _ => throw .unassigned

/-- The instruction of an I word. -/
def instrOfI (h : Head) (op : Nat) (d : Dst) (a : Src) (im : BitVec 11) (imm : Word) : Except DecodeError Instr :=
  let m : BitVec 7 := im.extractLsb' 0 7
  let mt : BitVec 4 := m.extractLsb' 3 4
  let lo : BitVec 3 := m.extractLsb' 0 3
  match op with
  | 0x080 => do let t ← orMod (ITy.ofCode mt); pure (.iaddI h d a imm t (bitAt m 0))
  | 0x081 => do let t ← orMod (ITy.ofCode mt); pure (.isubI h d a imm t (bitAt m 0))
  | 0x082 => do let t ← orMod (ITy.ofCode mt); pure (.imulI h d a imm t (bitAt m 0))
  | 0x086 => do let t ← orMod (ITy.ofCode mt); pure (.iminI h d a imm t)
  | 0x087 => do let t ← orMod (ITy.ofCode mt); pure (.imaxI h d a imm t)
  | 0x090 => do let w ← orMod (Wd.ofCode mt); pure (.andI h d a imm w)
  | 0x091 => do let w ← orMod (Wd.ofCode mt); pure (.orI h d a imm w)
  | 0x092 => do let w ← orMod (Wd.ofCode mt); pure (.xorI h d a imm w)
  | 0x094 => do let w ← orMod (Wd.ofCode mt); pure (.andnI h d a imm w)
  | 0x098 => do let t ← orMod (ITy.ofCode mt); pure (.shlI h d a imm t)
  | 0x099 => do let t ← orMod (ITy.ofCode mt); pure (.shrI h d a imm t)
  | 0x09A => do let t ← orMod (ITy.ofCode mt); pure (.sarI h d a imm t)
  | 0x09B => do let t ← orMod (ITy.ofCode mt); pure (.rotlI h d a imm t)
  | 0x0B0 => do let t ← orMod (ITy.ofCode mt); pure (.leaI h d a imm t lo)
  | 0x0BA => do let t ← orMod (ITy.ofCode mt); let q ← orMod (ICond.ofCode lo); pure (.icmpI h d a imm t q)
  | 0x0C0 => do let t ← orMod (ITy.ofCode mt); pure (.movi h d imm t)
  | 0x180 => do let r ← orMod (DirMode.ofCode lo); pure (.faddI h d a imm r)
  | 0x181 => do let r ← orMod (DirMode.ofCode lo); pure (.fsubI h d a imm r)
  | 0x182 => do let r ← orMod (DirMode.ofCode lo); pure (.fmulI h d a imm r)
  | 0x184 => pure (.fminI h d a imm (bitAt m 0))
  | 0x185 => pure (.fmaxI h d a imm (bitAt m 0))
  | 0x186 => pure (.fcmpI h d a imm (FCond.ofCode lo))
  | 0x3C0 => pure (.rge h (imm.extractLsb' 0 16))
  | _ => throw .unassigned

/-- The instruction of an M word. -/
def instrOfM (h : Head) (op : Nat) (d : Dst) (b : Base) (x : Data) (w o s : BitVec 3) (hint : BitVec 2)
    (off : BitVec 30) : Except DecodeError Instr :=
  match op with
  | 0x280 => do let w' ← orMod (MWidth.ofCode w); let o' ← orMod (AccOrd.ofCode o s); pure (.ld h d b off w' o' (Hint.ofCode hint))
  | 0x281 => do let w' ← orMod (MWidth.ofCode w); let o' ← orMod (AccOrd.ofCode o s); pure (.st h b off x w' o' (Hint.ofCode hint))
  | 0x282 => do let w' ← orMod (MWidth.ofCode w); let o' ← orMod (AccOrd.ofCode o s); pure (.lds h d b off w' o')
  | 0x283 => do let w' ← orMod (MWidth.ofCode w); let o' ← orMod (AccOrd.ofCode o s); pure (.sts h b off x w' o')
  | 0x290 => do let n ← orMod (depthOf w); pure (.pref h b off n (Hint.ofCode hint))
  | 0x291 =>
    match w.toNat with
    | 0 => pure (.cctlCln h b off)
    | 1 => pure (.cctlInv h b off)
    | 2 => pure (.cctlPin h d b off)
    | 3 => pure (.cctlUnpin h b off)
    | _ => throw .modifier
  | 0x292 => do let o' ← orMod (MOrder.ofCode o); let s' ← orMod (Scope.ofCode s); pure (.fence h o' s')
  | 0x293 => do let w' ← orMod (MWidth.ofCode w); let o' ← orMod (AccOrd.ofCode o s); pure (.cmpst h d b off x w' o' (bitAt hint 1))
  | 0x294 => do let n ← orMod (depthOf w); pure (.ipref h off n)
  | 0x2A0 => do let w' ← orMod (MWidth.ofCode w); let o' ← orMod (MOrder.ofCode o); let s' ← orMod (Scope.ofCode s); pure (.atomAdd h d b off x w' o' s' (Hint.ofCode hint))
  | 0x2A1 => do let w' ← orMod (MWidth.ofCode w); let o' ← orMod (MOrder.ofCode o); let s' ← orMod (Scope.ofCode s); pure (.atomMin h d b off x w' o' s' (Hint.ofCode hint))
  | 0x2A2 => do let w' ← orMod (MWidth.ofCode w); let o' ← orMod (MOrder.ofCode o); let s' ← orMod (Scope.ofCode s); pure (.atomMax h d b off x w' o' s' (Hint.ofCode hint))
  | 0x2A3 => do let w' ← orMod (MWidth.ofCode w); let o' ← orMod (MOrder.ofCode o); let s' ← orMod (Scope.ofCode s); pure (.atomAnd h d b off x w' o' s' (Hint.ofCode hint))
  | 0x2A4 => do let w' ← orMod (MWidth.ofCode w); let o' ← orMod (MOrder.ofCode o); let s' ← orMod (Scope.ofCode s); pure (.atomOr h d b off x w' o' s' (Hint.ofCode hint))
  | 0x2A5 => do let w' ← orMod (MWidth.ofCode w); let o' ← orMod (MOrder.ofCode o); let s' ← orMod (Scope.ofCode s); pure (.atomXor h d b off x w' o' s' (Hint.ofCode hint))
  | 0x2A6 => do let w' ← orMod (MWidth.ofCode w); let o' ← orMod (MOrder.ofCode o); let s' ← orMod (Scope.ofCode s); pure (.atomExch h d b off x w' o' s' (Hint.ofCode hint))
  | 0x2A7 => do let w' ← orMod (MWidth.ofCode w); let o' ← orMod (MOrder.ofCode o); let s' ← orMod (Scope.ofCode s); pure (.atomCas h d b off x w' o' s' (Hint.ofCode hint))
  | 0x2A8 => do let w' ← orMod (MWidth.ofCode w); let o' ← orMod (MOrder.ofCode o); let s' ← orMod (Scope.ofCode s); pure (.atomAddcl h d b off x w' o' s' (Hint.ofCode hint))
  | 0x2A9 => do let w' ← orMod (MWidth.ofCode w); let o' ← orMod (MOrder.ofCode o); let s' ← orMod (Scope.ofCode s); pure (.atomSubcl h d b off x w' o' s' (Hint.ofCode hint))
  | 0x2AA => do let w' ← orMod (MWidth.ofCode w); let o' ← orMod (MOrder.ofCode o); let s' ← orMod (Scope.ofCode s); pure (.atomFadd h d b off x w' o' s' (Hint.ofCode hint))
  | 0x2AB => do let w' ← orMod (MWidth.ofCode w); let o' ← orMod (MOrder.ofCode o); let s' ← orMod (Scope.ofCode s); pure (.atomFmin h d b off x w' o' s' (Hint.ofCode hint))
  | 0x2AC => do let w' ← orMod (MWidth.ofCode w); let o' ← orMod (MOrder.ofCode o); let s' ← orMod (Scope.ofCode s); pure (.atomFmax h d b off x w' o' s' (Hint.ofCode hint))
  | 0x2AD => do let w' ← orMod (MWidth.ofCode w); let o' ← orMod (MOrder.ofCode o); let s' ← orMod (Scope.ofCode s); pure (.atomMinU h d b off x w' o' s' (Hint.ofCode hint))
  | 0x2AE => do let w' ← orMod (MWidth.ofCode w); let o' ← orMod (MOrder.ofCode o); let s' ← orMod (Scope.ofCode s); pure (.atomMaxU h d b off x w' o' s' (Hint.ofCode hint))
  | 0x2B0 => do let w' ← orMod (MWidth.ofCode w); let o' ← orMod (MOrder.ofCode o); let s' ← orMod (Scope.ofCode s); pure (.atomsAdd h d b off x w' o' s')
  | 0x2B1 => do let w' ← orMod (MWidth.ofCode w); let o' ← orMod (MOrder.ofCode o); let s' ← orMod (Scope.ofCode s); pure (.atomsMin h d b off x w' o' s')
  | 0x2B2 => do let w' ← orMod (MWidth.ofCode w); let o' ← orMod (MOrder.ofCode o); let s' ← orMod (Scope.ofCode s); pure (.atomsMax h d b off x w' o' s')
  | 0x2B3 => do let w' ← orMod (MWidth.ofCode w); let o' ← orMod (MOrder.ofCode o); let s' ← orMod (Scope.ofCode s); pure (.atomsAnd h d b off x w' o' s')
  | 0x2B4 => do let w' ← orMod (MWidth.ofCode w); let o' ← orMod (MOrder.ofCode o); let s' ← orMod (Scope.ofCode s); pure (.atomsOr h d b off x w' o' s')
  | 0x2B5 => do let w' ← orMod (MWidth.ofCode w); let o' ← orMod (MOrder.ofCode o); let s' ← orMod (Scope.ofCode s); pure (.atomsXor h d b off x w' o' s')
  | 0x2B6 => do let w' ← orMod (MWidth.ofCode w); let o' ← orMod (MOrder.ofCode o); let s' ← orMod (Scope.ofCode s); pure (.atomsExch h d b off x w' o' s')
  | 0x2B7 => do let w' ← orMod (MWidth.ofCode w); let o' ← orMod (MOrder.ofCode o); let s' ← orMod (Scope.ofCode s); pure (.atomsCas h d b off x w' o' s')
  | 0x2B8 => do let w' ← orMod (MWidth.ofCode w); let o' ← orMod (MOrder.ofCode o); let s' ← orMod (Scope.ofCode s); pure (.atomsAddcl h d b off x w' o' s')
  | 0x2B9 => do let w' ← orMod (MWidth.ofCode w); let o' ← orMod (MOrder.ofCode o); let s' ← orMod (Scope.ofCode s); pure (.atomsSubcl h d b off x w' o' s')
  | 0x2BA => do let w' ← orMod (MWidth.ofCode w); let o' ← orMod (MOrder.ofCode o); let s' ← orMod (Scope.ofCode s); pure (.atomsFadd h d b off x w' o' s')
  | 0x2BB => do let w' ← orMod (MWidth.ofCode w); let o' ← orMod (MOrder.ofCode o); let s' ← orMod (Scope.ofCode s); pure (.atomsFmin h d b off x w' o' s')
  | 0x2BC => do let w' ← orMod (MWidth.ofCode w); let o' ← orMod (MOrder.ofCode o); let s' ← orMod (Scope.ofCode s); pure (.atomsFmax h d b off x w' o' s')
  | 0x2BD => do let w' ← orMod (MWidth.ofCode w); let o' ← orMod (MOrder.ofCode o); let s' ← orMod (Scope.ofCode s); pure (.atomsMinU h d b off x w' o' s')
  | 0x2BE => do let w' ← orMod (MWidth.ofCode w); let o' ← orMod (MOrder.ofCode o); let s' ← orMod (Scope.ofCode s); pure (.atomsMaxU h d b off x w' o' s')
  | 0x2C0 => do let w' ← orMod (MWidth.ofCode w); let o' ← orMod (MOrder.ofCode o); let s' ← orMod (Scope.ofCode s); pure (.redAdd h b off x w' o' s' (Hint.ofCode hint))
  | 0x2C1 => do let w' ← orMod (MWidth.ofCode w); let o' ← orMod (MOrder.ofCode o); let s' ← orMod (Scope.ofCode s); pure (.redMin h b off x w' o' s' (Hint.ofCode hint))
  | 0x2C2 => do let w' ← orMod (MWidth.ofCode w); let o' ← orMod (MOrder.ofCode o); let s' ← orMod (Scope.ofCode s); pure (.redMax h b off x w' o' s' (Hint.ofCode hint))
  | 0x2C3 => do let w' ← orMod (MWidth.ofCode w); let o' ← orMod (MOrder.ofCode o); let s' ← orMod (Scope.ofCode s); pure (.redAnd h b off x w' o' s' (Hint.ofCode hint))
  | 0x2C4 => do let w' ← orMod (MWidth.ofCode w); let o' ← orMod (MOrder.ofCode o); let s' ← orMod (Scope.ofCode s); pure (.redOr h b off x w' o' s' (Hint.ofCode hint))
  | 0x2C5 => do let w' ← orMod (MWidth.ofCode w); let o' ← orMod (MOrder.ofCode o); let s' ← orMod (Scope.ofCode s); pure (.redXor h b off x w' o' s' (Hint.ofCode hint))
  | 0x2C8 => do let w' ← orMod (MWidth.ofCode w); let o' ← orMod (MOrder.ofCode o); let s' ← orMod (Scope.ofCode s); pure (.redAddcl h b off x w' o' s' (Hint.ofCode hint))
  | 0x2C9 => do let w' ← orMod (MWidth.ofCode w); let o' ← orMod (MOrder.ofCode o); let s' ← orMod (Scope.ofCode s); pure (.redSubcl h b off x w' o' s' (Hint.ofCode hint))
  | 0x2CA => do let w' ← orMod (MWidth.ofCode w); let o' ← orMod (MOrder.ofCode o); let s' ← orMod (Scope.ofCode s); pure (.redFadd h b off x w' o' s' (Hint.ofCode hint))
  | 0x2CB => do let w' ← orMod (MWidth.ofCode w); let o' ← orMod (MOrder.ofCode o); let s' ← orMod (Scope.ofCode s); pure (.redFmin h b off x w' o' s' (Hint.ofCode hint))
  | 0x2CC => do let w' ← orMod (MWidth.ofCode w); let o' ← orMod (MOrder.ofCode o); let s' ← orMod (Scope.ofCode s); pure (.redFmax h b off x w' o' s' (Hint.ofCode hint))
  | 0x2CD => do let w' ← orMod (MWidth.ofCode w); let o' ← orMod (MOrder.ofCode o); let s' ← orMod (Scope.ofCode s); pure (.redMinU h b off x w' o' s' (Hint.ofCode hint))
  | 0x2CE => do let w' ← orMod (MWidth.ofCode w); let o' ← orMod (MOrder.ofCode o); let s' ← orMod (Scope.ofCode s); pure (.redMaxU h b off x w' o' s' (Hint.ofCode hint))
  | _ => throw .unassigned

/-- The instruction of a B word. -/
def instrOfB (h : Head) (op : Nat) (a : Src) (mf : Bit) (moff : BitVec 16) (off : BitVec 24) :
    Except DecodeError Instr :=
  match op with
  | 0x380 => pure (.bra h off (joinOf mf moff))
  | 0x381 => pure (.brx h a (joinOf mf moff))
  | 0x382 => pure (.call h off)
  | 0x383 => pure (.callx h a)
  | 0x384 => pure (.ret h)
  | 0x385 => pure (.meet h moff)
  | _ => throw .unassigned

/-- The instruction of an E word. -/
def instrOfE (h : Head) (op : Nat) (d : Dst) (a : Src) (tag : BitVec 6) (gv : Bit) (gsl : BitVec 4) (efl : BitVec 8)
    (eoff : BitVec 24) : Except DecodeError Instr :=
  match op with
  | 0x300 => pure (.cpy h ⟨a, eoff⟩ tag (gOf gv gsl))
  | 0x301 => pure (.cpys h ⟨a, eoff⟩ tag (gOf gv gsl))
  | 0x302 => pure (.cpyx h ⟨a, eoff⟩ tag (gOf gv gsl))
  | 0x303 => pure (.strm h ⟨a, eoff⟩ tag (gOf gv gsl))
  | 0x340 => pure (.mma h ⟨a, eoff⟩ tag (gOf gv gsl))
  | 0x341 => pure (.mmas h ⟨a, eoff⟩ tag (gOf gv gsl))
  | 0x304 => pure (.scnt h a tag)
  | 0x308 => pure (.wtag h tag)
  | 0x30B => pure (.tclr h tag)
  | 0x30D => pure (if bitAt efl 0 then .gresDsc h gsl else .gresCmt h gsl)
  | 0x343 => pure (.ald h ⟨a, eoff⟩ tag (efl.extractLsb' 0 4))
  | 0x344 => pure (.ast h ⟨a, eoff⟩ tag (efl.extractLsb' 0 4))
  | 0x345 => pure (.mdrn h ⟨a, eoff⟩ tag)
  | 0x3E9 => pure (.cpyp h ⟨a, eoff⟩ tag)
  | 0x360 => pure (.npost h ⟨a, eoff⟩)
  | 0x3B0 => pure (.lnch h d ⟨a, eoff⟩)
  | _ => throw .unassigned

/-- The instruction of an S word. -/
def instrOfS (h : Head) (op : Nat) (d : Dst) (a : Src) (sreg : BitVec 12) : Except DecodeError Instr :=
  match op with
  | 0x3E0 => do let r ← orSreg (SReg.ofCode sreg); pure (.mfsr h d r)
  | 0x3E1 => do let r ← orSreg (SReg.ofCode sreg); pure (if r = .racechk then .racechkClr h a else .mtsr h a r)
  | _ => throw .unassigned

/-- The instruction that a word's operands name, before its reserved and unused fields are checked. -/
def instrOfForm (h : Head) (f : Form) : Except DecodeError Instr :=
  match f with
  | .fr op d a b c m => instrOfR h op.toNat d a b c m
  | .fi op d a im imm => instrOfI h op.toNat d a im imm
  | .fm op d b x w o s hint off => instrOfM h op.toNat d b x w o s hint off
  | .fb op _ a mf _ moff off => instrOfB h op.toNat a mf moff off
  | .fe op d a tag gv gsl efl eoff => instrOfE h op.toNat d a tag gv gsl efl eoff
  | .fs op d a sreg _ => instrOfS h op.toNat d a sreg

/-- The detail of a word whose fields are not those of the instruction it names: a reserved modifier bit or code
(R310 detail 0x02), or a reserved or unused field that does not hold its value (detail 0x08). -/
def Form.mismatch (got want : Form) : DecodeError :=
  match got, want with
  | .fr _ _ _ _ _ m, .fr _ _ _ _ _ m' => if m = m' then .reserved else .modifier
  | .fi op _ _ im _, .fi _ _ _ im' _ => if op = 0x3C0 ∨ im = im' then .reserved else .modifier
  | .fm _ _ _ _ w o s hint _, .fm _ _ _ _ w' o' s' hint' _ =>
    if w = w' ∧ o = o' ∧ s = s' ∧ hint = hint' then .reserved else .modifier
  | _, _ => .reserved

/-- A word's operands with every check of R310 made on them: the instruction, its reserved and unused fields, its
operand checks. -/
def decodeForm (h : Head) (f : Form) : Except DecodeError Instr :=
  match instrOfForm h f with
  | .error e => .error e
  | .ok i =>
    match i.form with
    | none => .error .unassigned
    | some (_, f') =>
      if f = f' then
        match i.check with
        | some e => .error e
        | none => .ok i
      else .error (f.mismatch f')

/-! ## Bits of a word -/

/-- The 96 bits of a word, field by field (R296, R305). -/
structure Raw where
  op : BitVec 10
  guard : BitVec 4
  eor : Bit
  sp : Bit
  stall : BitVec 4
  yld : Bit
  lra : Bit
  lrb : Bit
  lrc : Bit
  wbs : Bit
  dst : BitVec 10
  body : BitVec 61
  deriving DecidableEq, Repr

/-- The word made of its fields (R296). -/
def Raw.toBits (x : Raw) : BitVec 96 :=
  x.op ++ (x.guard ++ (x.eor ++ (x.sp ++ (x.stall ++ (x.yld ++ (x.lra ++ (x.lrb ++ (x.lrc ++ (x.wbs ++
    (x.dst ++ x.body))))))))))

/-- The fields of a word (R296). -/
def Raw.ofBits (w : BitVec 96) : Raw :=
  { op := w.extractLsb' 86 10, guard := w.extractLsb' 82 4, eor := w.extractLsb' 81 1, sp := w.extractLsb' 80 1,
    stall := w.extractLsb' 76 4, yld := w.extractLsb' 75 1, lra := w.extractLsb' 74 1, lrb := w.extractLsb' 73 1,
    lrc := w.extractLsb' 72 1, wbs := w.extractLsb' 71 1, dst := w.extractLsb' 61 10, body := w.extractLsb' 0 61 }

/-- The opcode of a word's operands. -/
def Form.op : Form → BitVec 10
  | .fr op .. => op
  | .fi op .. => op
  | .fm op .. => op
  | .fb op .. => op
  | .fe op .. => op
  | .fs op .. => op

/-- The destination of a word's operands. -/
def Form.dst : Form → Dst
  | .fr _ d .. => d | .fi _ d .. => d | .fm _ d .. => d | .fb _ d .. => d | .fe _ d .. => d | .fs _ d .. => d

/-- LRA, LRB and LRC (R299). -/
def Form.lra : Form → Bool
  | .fr _ _ a .. => a.last | .fi _ _ a .. => a.last | .fm _ _ b .. => b.last | .fb _ _ a .. => a.last
  | .fe _ _ a .. => a.last | .fs _ _ a .. => a.last

def Form.lrb : Form → Bool
  | .fr _ _ _ b .. => b.last | .fm _ _ _ x .. => x.last | _ => false

def Form.lrc : Form → Bool
  | .fr _ _ _ _ c .. => c.last | _ => false

/-- The body bits of a word's operands (R305). -/
def Form.body : Form → BitVec 61
  | .fr _ _ a b c m => a.code ++ (b.code ++ (c.code ++ m))
  | .fi _ _ a im imm => a.code ++ (im ++ imm)
  | .fm _ _ b x w o s hint off => b.code ++ (x.code ++ (w ++ (o ++ (s ++ (hint ++ off)))))
  | .fb _ _ a mf res moff off => a.code ++ (mf ++ (res ++ (moff ++ off)))
  | .fe _ _ a tag gv gsl efl eoff => a.code ++ (tag ++ (gv ++ (gsl ++ (efl ++ eoff))))
  | .fs _ _ a sreg res => a.code ++ (sreg ++ res)

/-- The fields of an instruction's word. -/
def rawOf (h : Head) (f : Form) : Raw :=
  { op := f.op, guard := h.guard.code, eor := bit h.eor, sp := bit h.sp.isSome, stall := h.stall, yld := bit h.yld,
    lra := bit f.lra, lrb := bit f.lrb, lrc := bit f.lrc, wbs := bit f.dst.wbs, dst := f.dst.code, body := f.body }

/-- A last-read mark on a source that the format does not have is a reserved field (R299). -/
def noMark (x : Bit) : Except DecodeError Unit := if x = 1 then .error .reserved else .ok ()

/-- The operands of a word of a given format (R299 to R305). -/
def formOf (x : Raw) : Format → Except DecodeError Form
  | .r => do
    let d ← Dst.ofCode x.dst (x.wbs = 1)
    let a ← Src.ofCode (x.body.extractLsb' 43 18) (x.lra = 1)
    let b ← Src.ofCode (x.body.extractLsb' 25 18) (x.lrb = 1)
    let c ← Src.ofCode (x.body.extractLsb' 7 18) (x.lrc = 1)
    pure (.fr x.op d a b c (x.body.extractLsb' 0 7))
  | .i => do
    let d ← Dst.ofCode x.dst (x.wbs = 1)
    let a ← Src.ofCode (x.body.extractLsb' 43 18) (x.lra = 1)
    noMark x.lrb
    noMark x.lrc
    pure (.fi x.op d a (x.body.extractLsb' 32 11) (x.body.extractLsb' 0 32))
  | .m => do
    let d ← Dst.ofCode x.dst (x.wbs = 1)
    let b ← Base.ofCode (x.body.extractLsb' 51 10) (x.lra = 1)
    let t ← Data.ofCode (x.body.extractLsb' 41 10) (x.lrb = 1)
    noMark x.lrc
    pure (.fm x.op d b t (x.body.extractLsb' 38 3) (x.body.extractLsb' 35 3) (x.body.extractLsb' 32 3)
      (x.body.extractLsb' 30 2) (x.body.extractLsb' 0 30))
  | .b => do
    let d ← Dst.ofCode x.dst (x.wbs = 1)
    let a ← Src.ofCode (x.body.extractLsb' 43 18) (x.lra = 1)
    noMark x.lrb
    noMark x.lrc
    pure (.fb x.op d a (x.body.extractLsb' 42 1) (x.body.extractLsb' 40 2) (x.body.extractLsb' 24 16)
      (x.body.extractLsb' 0 24))
  | .e => do
    let d ← Dst.ofCode x.dst (x.wbs = 1)
    let a ← Src.ofCode (x.body.extractLsb' 43 18) (x.lra = 1)
    noMark x.lrb
    noMark x.lrc
    pure (.fe x.op d a (x.body.extractLsb' 37 6) (x.body.extractLsb' 36 1) (x.body.extractLsb' 32 4)
      (x.body.extractLsb' 24 8) (x.body.extractLsb' 0 24))
  | .s => do
    let d ← Dst.ofCode x.dst (x.wbs = 1)
    let a ← Src.ofCode (x.body.extractLsb' 43 18) (x.lra = 1)
    noMark x.lrb
    noMark x.lrc
    pure (.fs x.op d a (x.body.extractLsb' 31 12) (x.body.extractLsb' 0 31))

/-! ## Bad fields that an instruction does not use (R300, R304) -/

/-- What a field gives, or a stand-in where it names no operand. -/
def okOr {α : Type} (r : Except DecodeError α) (p : α) : α := match r with | .ok a => a | .error _ => p

/-- The operands of a word with stand-ins for the fields that name none. -/
def formProbe (x : Raw) (k : Format) : Form :=
  let d := okOr (Dst.ofCode x.dst (x.wbs = 1)) (.v 0)
  let a := okOr (Src.ofCode (x.body.extractLsb' 43 18) (x.lra = 1)) (.imm 1)
  match k with
  | .r =>
    .fr x.op d a (okOr (Src.ofCode (x.body.extractLsb' 25 18) (x.lrb = 1)) (.imm 1))
      (okOr (Src.ofCode (x.body.extractLsb' 7 18) (x.lrc = 1)) (.imm 1)) (x.body.extractLsb' 0 7)
  | .i => .fi x.op d a (x.body.extractLsb' 32 11) (x.body.extractLsb' 0 32)
  | .m =>
    .fm x.op d (okOr (Base.ofCode (x.body.extractLsb' 51 10) (x.lra = 1)) (.v 0 false))
      (okOr (Data.ofCode (x.body.extractLsb' 41 10) (x.lrb = 1)) (.imm 1)) (x.body.extractLsb' 38 3)
      (x.body.extractLsb' 35 3) (x.body.extractLsb' 32 3) (x.body.extractLsb' 30 2) (x.body.extractLsb' 0 30)
  | .b =>
    .fb x.op d a (x.body.extractLsb' 42 1) (x.body.extractLsb' 40 2) (x.body.extractLsb' 24 16)
      (x.body.extractLsb' 0 24)
  | .e =>
    .fe x.op d a (x.body.extractLsb' 37 6) (x.body.extractLsb' 36 1) (x.body.extractLsb' 32 4)
      (x.body.extractLsb' 24 8) (x.body.extractLsb' 0 24)
  | .s => .fs x.op d a (x.body.extractLsb' 31 12) (x.body.extractLsb' 0 31)

/-- Which operand fields of a word its instruction leaves as they are: the destination, then the sources. -/
def Form.kept (got want : Form) : List Bool :=
  match got, want with
  | .fr _ d a b c _, .fr _ d' a' b' c' _ => [d == d', a == a', b == b', c == c']
  | .fm _ d b t _ _ _ _ _, .fm _ d' b' t' _ _ _ _ _ => [d == d', b == b', t == t']
  | .fi _ d a _ _, .fi _ d' a' _ _ => [d == d', a == a']
  | .fb _ d a _ _ _ _, .fb _ d' a' _ _ _ _ => [d == d', a == a']
  | .fe _ d a _ _ _ _ _, .fe _ d' a' _ _ _ _ _ => [d == d', a == a']
  | .fs _ d a _ _, .fs _ d' a' _ _ => [d == d', a == a']
  | _, _ => []

/-- Whether a field names no operand. -/
def isBad {α : Type} (r : Except DecodeError α) : Bool := match r with | .ok _ => false | .error _ => true

/-- The operand fields of a word that name no operand, in the order of `Form.kept`. -/
def badFields (x : Raw) (k : Format) : List Bool :=
  let d := isBad (Dst.ofCode x.dst (x.wbs = 1))
  let a := isBad (Src.ofCode (x.body.extractLsb' 43 18) (x.lra = 1))
  match k with
  | .r => [d, a, isBad (Src.ofCode (x.body.extractLsb' 25 18) (x.lrb = 1)),
           isBad (Src.ofCode (x.body.extractLsb' 7 18) (x.lrc = 1))]
  | .m => [d, isBad (Base.ofCode (x.body.extractLsb' 51 10) (x.lra = 1)),
           isBad (Data.ofCode (x.body.extractLsb' 41 10) (x.lrb = 1))]
  | _ => [d, a]

/-- The failing check of a word one of whose fields names no operand: where its instruction does not use the first such
field, that is an unused field that does not hold its value (R300, R304, R310 detail 0x08). -/
def badFieldError (x : Raw) (k : Format) (e : DecodeError) : DecodeError :=
  let h : Head := { guard := .always, eor := false, sp := none, stall := 0, yld := false }
  let f := formProbe x k
  match instrOfForm h f with
  | .error _ => e
  | .ok i =>
    match i.form with
    | none => e
    | some (_, f') =>
      match ((badFields x k).zip (f.kept f')).find? Prod.fst with
      | some (_, false) => .reserved
      | _ => e

/-! ## The live-mask word (R314, R315) -/

/-- The live-mask word of a mask. -/
def LiveMask.toBits (m : LiveMask) : BitVec 96 :=
  0x3FF#10 ++ (m.vlive ++ (m.slive ++ (m.alive ++ (bit m.tags ++ (bit m.guards ++ 0#4)))))

/-- The mask that a word at PC + 1 holds; none where it is no live-mask word (R310 detail 0x07). -/
def LiveMask.ofBits (w : BitVec 96) : Option LiveMask :=
  if w.extractLsb' 86 10 = 0x3FF#10 ∧ w.extractLsb' 0 4 = 0#4 then
    some { vlive := w.extractLsb' 22 64, slive := w.extractLsb' 14 8, alive := w.extractLsb' 6 8,
           tags := w.getLsbD 5, guards := w.getLsbD 4 }
  else none

/-- The mask word of an instruction: none where SP = 0 (R314). -/
def spOf (sp : Bit) (mask : BitVec 96) : Except DecodeError (Option LiveMask) :=
  if sp = 1 then
    match LiveMask.ofBits mask with
    | some m => .ok (some m)
    | none => .error .mask
  else .ok none

/-! ## The decoder -/

/-- The instruction of a word and, when SP = 1, of the word that follows it, or the failing check of R310. -/
def decodeWords (w mask : BitVec 96) : Except DecodeError Instr :=
  let x := Raw.ofBits w
  if x.op = 0x3FF then .error .mask
  else
    match formatOf x.op with
    | none => .error .unassigned
    | some k => do
      let g ← (match Guard.ofCode x.guard with | some g => Except.ok g | none => .error .guard)
      let sp ← spOf x.sp mask
      let f ← (match formOf x k with | .ok f => Except.ok f | .error e => .error (badFieldError x k e))
      decodeForm { guard := g, eor := x.eor = 1, sp := sp, stall := x.stall, yld := x.yld = 1 } f

/-- Whether a word has a mask word after it: SP (R296, R314). -/
def wordHasMask (w : BitVec 96) : Bool := w.getLsbD 80

/-- The first 12 bytes of a list as a word, and the rest (R294); bytes that are missing make no word. -/
def takeWord (bs : List Byte) : Option (BitVec 96 × List Byte) :=
  if bs.length < 12 then none else some (BitVec.ofNat 96 (natOf (bs.take 12)), bs.drop 12)

/-- Decode the instruction at the head of a list of bytes, and give the bytes that follow it; a live-mask word is none
(R315). -/
def decode (bs : List Byte) : Except DecodeError (Instr × List Byte) :=
  match takeWord bs with
  | none => .error .tooShort
  | some (w, r) =>
    if w.extractLsb' 86 10 = 0x3FF then .error .mask
    else if wordHasMask w then
      match takeWord r with
      | none => .error .tooShort
      | some (mw, r') =>
        match decodeWords w mw with
        | .ok i => .ok (i, r')
        | .error e => .error e
    else
      match decodeWords w 0 with
      | .ok i => .ok (i, r)
      | .error e => .error e

/-! ## The encoder -/

/-- The words of an instruction: its own and, at a safe point, its live-mask word (R294, R314). An event has none. -/
def Instr.words (i : Instr) : List (BitVec 96) :=
  match i.form with
  | none => []
  | some (h, f) =>
    (rawOf h f).toBits :: (match h.sp with | some m => [m.toBits] | none => [])

/-- The bytes of an instruction, lowest address first (R294). -/
def encode (i : Instr) : List Byte := i.words.flatMap (fun w => bytesOf 12 w.toNat)

/-- The instruction that the decoder reads from bits numbered as the opcode table numbers them: the word's bit 0 is
bit 0, every bit at `nbits` and above is 0, and the bytes lie as R294 lays them. -/
def decodeTableWord (nbits w : Nat) : Option Instr :=
  match decode (bytesOf 24 (w % 2 ^ nbits)) with
  | .ok (i, _) => some i
  | .error _ => none

end Sys2Proof
end

