-- ==== Sys2Proof/Machine/Fetch.lean ====
section
/-!
DEFINITION. Fetching an instruction (R25, R55, R219, R294, R309): its bytes, by translation and through the
instruction cache.
-/

namespace Sys2Proof.Machine

/-- What a fetch of some bytes gives: a trap, a stall for the fabric or for a walk (R33, R260), or the bytes and the lines that the instruction
cache lacks. -/
structure Fetched where
  trap : Option TrapInfo := none
  stall : Bool := false
  miss : Option MissAt := none
  bytes : List Byte := []
  missing : List CodeLine := []

/-- The code address of a word (R294). -/
def codeAddr (cbase : DWord) (pc : Word) : DWord := cbase + 12 * pc.setWidth 64

/-- Fetch the bytes of one line's piece (R25, R55): translation for fetch, what becomes of a remote access (R260,
R445), then poison. An uncached leaf's line is recalled
from every cache, read at its home and held in no instruction cache (R26, R52, log entry 39). -/
def fetchPiece (s : State) (c : Nat) (hm : Hm) (va : DWord) (n : Nat) (f : Fetched) : State × Fetched :=
  if f.trap.isSome || f.stall then (s, f)
  else if xlateStalls s c hm va .fetch then (s, { f with stall := true, miss := some (hm, va, .fetch) })
  else
    let info := accInfo 12 false true false
    match pathPlace (countMisses s ((lanesOf s.iss.lanes).headD 0) c hm va .fetch) c hm va .fetch with
    | (s, .error o) =>
      (s, { f with trap := some { cause := o.1, detail := o.2, addr := some va, info := info,
                                  poison := (consumedPte s hm va o).map (fun a => (a, false)) } })
    | (s, .ok p) =>
      let bad := poisonAt s p.home n
      let poisoned (code : Byte) : State × Fetched :=
        (s, { f with trap := some { cause := 0x51, detail := code, addr := some va, info := info, poison := some (bad, p.sk) } })
      match remoteEnd s hm p.mt p.home n with
      | .waits => (s, { f with stall := true })
      | .refused => (askRead s hm p.mt p.home n, { f with trap := some { cause := 0x11, detail := 0x05, addr := some va, info := info } })
      | .timedOut =>
        (askRead s hm p.mt p.home n, (poisoned 0x05).2)
      | .answered =>
      let s := readNewest s (((lanesOf s.iss.lanes).map (homeOf s c s.iss.slot)).dedup) p.home n
      if isPoisoned s p.home n then poisoned (carrierOf s none bad)
      else if p.mt then
        let r := readPlace s .home hm p true n
        (r.2, { f with bytes := f.bytes ++ r.1 })
      else
        let bs := if isLocal p.home then localView s (placeKey s hm p).2 p.home n else (readPlace s .home hm p false n).1
        let ln : CodeLine := { line := p.home / 64, hm := hm, key := (placeKey s hm p).1 }
        (s, { f with bytes := f.bytes ++ bs, missing := f.missing ++ (if codeHeld s c ln then [] else [ln]) })

/-- Fetch the twelve bytes of a word: at most two lines (R25, R55). -/
def fetchWord (s : State) (c : Nat) (hm : Hm) (va : DWord) (f : Fetched) : State × Fetched :=
  let k := min 12 (64 - va.toNat % 64)
  let r := fetchPiece s c hm va k f
  if k = 12 then r else fetchPiece r.1 c hm (va + BitVec.ofNat 64 k) (12 - k) r.2

/-- Whether a word is followed by a mask word: SP, in a word that is no mask word itself (R296, R314). -/
def maskFollows (bs : List Byte) : Bool :=
  let w := BitVec.ofNat 96 (natOf (bs.take 12))
  bitAt w 80 && w.extractLsb' 86 10 != 0x3FF

/-- Fetch the instruction at a PC: its word and, at a safe point, its mask word (R309, order 1). -/
def fetchInstr (s : State) (c : Nat) (hm : Hm) (cbase : DWord) (pc : Word) : State × Fetched :=
  let r := fetchWord s c hm (codeAddr cbase pc) {}
  if r.2.trap.isNone && !r.2.stall && maskFollows r.2.bytes then fetchWord r.1 c hm (codeAddr cbase (pc + 1)) r.2 else r

/-- The opcode of fetched bytes, or a free value where the word could not be fetched. -/
def fetchedOp (s : State) (bs : List Byte) : Nat :=
  if bs.length < 12 then (Config.freeBits 10 s.fresh).toNat
  else ((BitVec.ofNat 96 (natOf (bs.take 12))).extractLsb' 86 10).toNat

/-- The shape of a trap that comes before the instruction is known. -/
def rawShape (op : Nat) : Shape := { head := { guard := .always, eor := false, sp := none, stall := 0, yld := false }, op := op }

/-- The lanes of a quarter's run that still stand together Ready. -/
def runLanesNow (s : State) (c : Nat) (r : Run) : List Nat :=
  let ts := (lanesOf r.lanes).filterMap (fun l => (threadAt s c r.slot l).map (fun t => (l, t)))
  match ts.filter (fun e => e.2.ready) with
  | [] => []
  | e :: es => (e :: es).filterMap (fun x => if x.2.pc = e.2.pc ∧ x.2.cbase = e.2.cbase then some x.1 else none)

end Sys2Proof.Machine
end

