-- ==== Sys2Proof/Machine/Integer.lean ====
section
/-!
DEFINITION. Integer arithmetic, logic, shifts, bit fields, addresses, moves and comparisons (R329 to R337), with their
immediate forms (R327).
-/

namespace Sys2Proof.Machine

/-! ## Types -/

/-- The width of an integer type in registers and bits, and its signedness (R308, R329). -/
def ITy.words : ITy → Nat
  | .n32 | .i32 => 1
  | .n64 | .i64 => 2
def ityBits (t : ITy) : Nat := 32 * ITy.words t
def ITy.signed : ITy → Bool
  | .i32 | .i64 => true
  | .n32 | .n64 => false
def Wd.words : Wd → Nat
  | .w32 => 1
  | .w64 => 2

/-- The integer that `n` bits hold. -/
def intOf (n : Nat) (signed : Bool) (x : Nat) : Int :=
  let x := x % 2 ^ n
  if signed && decide (2 ^ (n - 1) ≤ x) then (x : Int) - 2 ^ n else x

/-- The bits of an integer, modulo 2 to the width (R7). -/
def bitsOf (n : Nat) (x : Int) : Nat := (x % 2 ^ n).toNat

/-- The range of an integer type. -/
def minOf (n : Nat) (signed : Bool) : Int := if signed then -2 ^ (n - 1) else 0
def maxOf (n : Nat) (signed : Bool) : Int := if signed then 2 ^ (n - 1) - 1 else 2 ^ n - 1

/-- The result of an exact integer: saturated to the type's range, or its low bits (R330). -/
def fitInt (n : Nat) (signed sat : Bool) (x : Int) : Nat :=
  if sat then bitsOf n (min (max x (minOf n signed)) (maxOf n signed)) else bitsOf n x

/-- IMM in place of source B of an integer instruction: sign-extended to the type's width (R327). -/
def immRd (imm : Word) (w : Nat) : Nat := (imm.signExtend (32 * w)).toNat

/-! ## The shared form: one result from the sources, in the ALU (R325) -/

/-- An ALU instruction whose result is a function of its sources' values. -/
def alu (s : State) (h : Head) (op : Nat) (d : Dst) (words : Nat) (rs : List Rd) (f : List Nat → Nat) :
    Host.Outcome State Fault Refusal :=
  perform s { head := h, op := op, dst := d, words := words, latch := some 0 } rs (fun _ v => result (f v))

/-- The exact functions of R330. -/
def arith1 (t : ITy) (sat : Bool) (f : Int → Int) (v : List Nat) : Nat :=
  let n := ityBits t
  fitInt n (ITy.signed t) sat (f (intOf n (ITy.signed t) (v.getD 0 0)))
def arith2 (t : ITy) (sat : Bool) (f : Int → Int → Int) (v : List Nat) : Nat :=
  let n := ityBits t
  fitInt n (ITy.signed t) sat (f (intOf n (ITy.signed t) (v.getD 0 0)) (intOf n (ITy.signed t) (v.getD 1 0)))
def arith3 (t : ITy) (sat : Bool) (f : Int → Int → Int → Int) (v : List Nat) : Nat :=
  let n := ityBits t
  let g (i : Nat) := intOf n (ITy.signed t) (v.getD i 0)
  fitInt n (ITy.signed t) sat (f (g 0) (g 1) (g 2))

/-- Two typed sources. -/
def two (a b : Src) (t : ITy) : List Rd := [rdI a (ITy.words t), rdI b (ITy.words t)]

/-- Source A and an immediate in place of B. -/
def aluImm (s : State) (h : Head) (op : Nat) (d : Dst) (words : Nat) (a : Rd) (b : Nat) (f : List Nat → Nat) :
    Host.Outcome State Fault Refusal :=
  alu s h op d words [a] (fun v => f [v.getD 0 0, b])

/-! ## Arithmetic (R330) -/

/-- IADD (R330). -/
def execIadd (h : Head) (d : Dst) (a b : Src) (t : ITy) (sat : Bool) (s : State) : Host.Outcome State Fault Refusal :=
  alu s h 0x000 d (ITy.words t) (two a b t) (arith2 t sat (· + ·))

/-- ISUB (R330). -/
def execIsub (h : Head) (d : Dst) (a b : Src) (t : ITy) (sat : Bool) (s : State) : Host.Outcome State Fault Refusal :=
  alu s h 0x001 d (ITy.words t) (two a b t) (arith2 t sat (· - ·))

/-- IMUL (R330). -/
def execImul (h : Head) (d : Dst) (a b : Src) (t : ITy) (sat : Bool) (s : State) : Host.Outcome State Fault Refusal :=
  alu s h 0x002 d (ITy.words t) (two a b t) (arith2 t sat (· * ·))

/-- IMULH (R330): the floor of the product over 2 to the width. -/
def execImulh (h : Head) (d : Dst) (a b : Src) (t : ITy) (s : State) : Host.Outcome State Fault Refusal :=
  alu s h 0x003 d (ITy.words t) (two a b t) (arith2 t false (fun x y => (x * y) / 2 ^ ityBits t))

/-- IMAD (R330). -/
def execImad (h : Head) (d : Dst) (a b c : Src) (t : ITy) (sat : Bool) (s : State) :
    Host.Outcome State Fault Refusal :=
  alu s h 0x004 d (ITy.words t) (two a b t ++ [rdI c (ITy.words t)]) (arith3 t sat (fun x y z => x * y + z))

/-- IMADW (R330): 32-bit factors, a 64-bit addend and result. -/
def execImadw (h : Head) (d : Dst) (a b c : Src) (signed sat : Bool) (s : State) : Host.Outcome State Fault Refusal :=
  alu s h 0x005 d 2 [rdI a 1, rdI b 1, rdI c 2] (fun v =>
    fitInt 64 signed sat
      (intOf 32 signed (v.getD 0 0) * intOf 32 signed (v.getD 1 0) + intOf 64 signed (v.getD 2 0)))

/-- IMIN (R330). -/
def execImin (h : Head) (d : Dst) (a b : Src) (t : ITy) (s : State) : Host.Outcome State Fault Refusal :=
  alu s h 0x006 d (ITy.words t) (two a b t) (arith2 t false min)

/-- IMAX (R330). -/
def execImax (h : Head) (d : Dst) (a b : Src) (t : ITy) (s : State) : Host.Outcome State Fault Refusal :=
  alu s h 0x007 d (ITy.words t) (two a b t) (arith2 t false max)

/-- IABS (R330): its types are the signed ones. -/
def execIabs (h : Head) (d : Dst) (a : Src) (w : Wd) (sat : Bool) (s : State) : Host.Outcome State Fault Refusal :=
  let t : ITy := match w with | .w32 => .i32 | .w64 => .i64
  alu s h 0x008 d (Wd.words w) [rdI a (Wd.words w)] (arith1 t sat (fun x => max x (-x)))

/-- INEG (R330). -/
def execIneg (h : Head) (d : Dst) (a : Src) (t : ITy) (sat : Bool) (s : State) : Host.Outcome State Fault Refusal :=
  alu s h 0x009 d (ITy.words t) [rdI a (ITy.words t)] (arith1 t sat (fun x => -x))

/-- ISAD (R330). -/
def execIsad (h : Head) (d : Dst) (a b c : Src) (t : ITy) (sat : Bool) (s : State) :
    Host.Outcome State Fault Refusal :=
  alu s h 0x00A d (ITy.words t) (two a b t ++ [rdI c (ITy.words t)])
    (arith3 t sat (fun x y z => max (x - y) (y - x) + z))

/-! ## Logic (R331) -/

/-- Two sources of raw bits. -/
def twoW (a b : Src) (w : Wd) : List Rd := [rdI a (Wd.words w), rdI b (Wd.words w)]

/-- The bits of a width that a mask's complement keeps. -/
def notBits (w : Wd) (x : Nat) : Nat := 2 ^ (32 * Wd.words w) - 1 - x % 2 ^ (32 * Wd.words w)

/-- AND (R331). -/
def execAnd (h : Head) (d : Dst) (a b : Src) (w : Wd) (s : State) : Host.Outcome State Fault Refusal :=
  alu s h 0x010 d (Wd.words w) (twoW a b w) (fun v => v.getD 0 0 &&& v.getD 1 0)

/-- OR (R331). -/
def execOr (h : Head) (d : Dst) (a b : Src) (w : Wd) (s : State) : Host.Outcome State Fault Refusal :=
  alu s h 0x011 d (Wd.words w) (twoW a b w) (fun v => v.getD 0 0 ||| v.getD 1 0)

/-- XOR (R331). -/
def execXor (h : Head) (d : Dst) (a b : Src) (w : Wd) (s : State) : Host.Outcome State Fault Refusal :=
  alu s h 0x012 d (Wd.words w) (twoW a b w) (fun v => v.getD 0 0 ^^^ v.getD 1 0)

/-- NOT (R331). -/
def execNot (h : Head) (d : Dst) (a : Src) (w : Wd) (s : State) : Host.Outcome State Fault Refusal :=
  alu s h 0x013 d (Wd.words w) [rdI a (Wd.words w)] (fun v => notBits w (v.getD 0 0))

/-- ANDN (R331). -/
def execAndn (h : Head) (d : Dst) (a b : Src) (w : Wd) (s : State) : Host.Outcome State Fault Refusal :=
  alu s h 0x014 d (Wd.words w) (twoW a b w) (fun v => v.getD 0 0 &&& notBits w (v.getD 1 0))

/-! ## Shifts (R332) -/

/-- A shift's sources: the value at the type's width, the count as one register. -/
def shiftRs (a b : Src) (t : ITy) : List Rd := [rdI a (ITy.words t), rdI b 1]

/-- SHL, SHR, SAR and ROTL on `n` bits (R332). -/
def shl (n x c : Nat) : Nat := if c < n then x * 2 ^ c % 2 ^ n else 0
def shr (n x c : Nat) : Nat := if c < n then x / 2 ^ c else 0
def sar (n x c : Nat) : Nat := bitsOf n (intOf n true x / 2 ^ (min c n))
def rotl (n x c : Nat) : Nat := x * 2 ^ (c % n) % 2 ^ n + x / 2 ^ (n - c % n)

/-- A shift of the first value by the second. -/
def shiftBy (f : Nat → Nat → Nat → Nat) (t : ITy) (v : List Nat) : Nat :=
  f (ityBits t) (v.getD 0 0) (v.getD 1 0)

/-- SHL (R332). -/
def execShl (h : Head) (d : Dst) (a b : Src) (t : ITy) (s : State) : Host.Outcome State Fault Refusal :=
  alu s h 0x018 d (ITy.words t) (shiftRs a b t) (shiftBy shl t)

/-- SHR (R332). -/
def execShr (h : Head) (d : Dst) (a b : Src) (t : ITy) (s : State) : Host.Outcome State Fault Refusal :=
  alu s h 0x019 d (ITy.words t) (shiftRs a b t) (shiftBy shr t)

/-- SAR (R332). -/
def execSar (h : Head) (d : Dst) (a b : Src) (t : ITy) (s : State) : Host.Outcome State Fault Refusal :=
  alu s h 0x01A d (ITy.words t) (shiftRs a b t) (shiftBy sar t)

/-- ROTL (R332). -/
def execRotl (h : Head) (d : Dst) (a b : Src) (t : ITy) (s : State) : Host.Outcome State Fault Refusal :=
  alu s h 0x01B d (ITy.words t) (shiftRs a b t) (shiftBy rotl t)

/-! ## Bit fields and counts (R333, R334) -/

/-- The width of the field that B names in `n` bits, and its position (R333). -/
def fieldPos (b : Nat) : Nat := b % 256
def fieldLen (n b : Nat) : Nat :=
  let len := b / 256 % 256
  if len = 0 ∨ n ≤ fieldPos b then 0 else min len (n - fieldPos b)

/-- BFX (R333). -/
def bfx (t : ITy) (a b : Nat) : Nat :=
  let n := ityBits t
  let w := fieldLen n b
  let f := a / 2 ^ fieldPos b % 2 ^ w
  if ITy.signed t && decide (0 < w) then bitsOf n (intOf w true f) else f

/-- BFI (R333). -/
def bfi (t : ITy) (a b c : Nat) : Nat :=
  let n := ityBits t
  let p := fieldPos b
  let w := fieldLen n b
  if w = 0 then c else c / 2 ^ (p + w) * 2 ^ (p + w) + a % 2 ^ w * 2 ^ p + c % 2 ^ p

/-- BFX (R333). -/
def execBfx (h : Head) (d : Dst) (a b : Src) (t : ITy) (s : State) : Host.Outcome State Fault Refusal :=
  alu s h 0x020 d (ITy.words t) (shiftRs a b t) (fun v => bfx t (v.getD 0 0) (v.getD 1 0))

/-- BFI (R333). -/
def execBfi (h : Head) (d : Dst) (a b c : Src) (t : ITy) (s : State) : Host.Outcome State Fault Refusal :=
  alu s h 0x021 d (ITy.words t) (shiftRs a b t ++ [rdI c (ITy.words t)])
    (fun v => bfi t (v.getD 0 0) (v.getD 1 0) (v.getD 2 0))

/-- The bits of a number, bit 0 first. -/
def bitList (n x : Nat) : List Bool := (List.range n).map (fun i => x.testBit i)

/-- The reversed bits, the number of set bits, and the zero bits above and below (R334). -/
def brev (n x : Nat) : Nat := (bitList n x).foldl (fun r b => 2 * r + b.toNat) 0
def popc (n x : Nat) : Nat := (bitList n x).countP (· = true)
def clz (n x : Nat) : Nat := ((bitList n x).reverse.takeWhile (· = false)).length
def ctz (n x : Nat) : Nat := ((bitList n x).takeWhile (· = false)).length

/-- BREV (R334). -/
def execBrev (h : Head) (d : Dst) (a : Src) (w : Wd) (s : State) : Host.Outcome State Fault Refusal :=
  alu s h 0x022 d (Wd.words w) [rdI a (Wd.words w)] (fun v => brev (32 * Wd.words w) (v.getD 0 0))

/-- POPC (R334). -/
def execPopc (h : Head) (d : Dst) (a : Src) (w : Wd) (s : State) : Host.Outcome State Fault Refusal :=
  alu s h 0x023 d 1 [rdI a (Wd.words w)] (fun v => popc (32 * Wd.words w) (v.getD 0 0))

/-- CLZ (R334). -/
def execClz (h : Head) (d : Dst) (a : Src) (w : Wd) (s : State) : Host.Outcome State Fault Refusal :=
  alu s h 0x024 d 1 [rdI a (Wd.words w)] (fun v => clz (32 * Wd.words w) (v.getD 0 0))

/-- CTZ (R334). -/
def execCtz (h : Head) (d : Dst) (a : Src) (w : Wd) (s : State) : Host.Outcome State Fault Refusal :=
  alu s h 0x025 d 1 [rdI a (Wd.words w)] (fun v => ctz (32 * Wd.words w) (v.getD 0 0))

/-! ## Addresses, moves, selects and comparisons (R335 to R337) -/

/-- The index of an address, extended by its type (R335). -/
def leaIndex (t : ITy) (b : Nat) : Nat := bitsOf 64 (intOf (ityBits t) (ITy.signed t) b)

/-- LEA (R335). -/
def execLea (h : Head) (d : Dst) (a b c : Src) (t : ITy) (k : BitVec 3) (s : State) :
    Host.Outcome State Fault Refusal :=
  alu s h 0x030 d 2 [rdI a 2, rdI b (ITy.words t), rdI c 1] (fun v =>
    (v.getD 0 0 + leaIndex t (v.getD 1 0) * 2 ^ k.toNat + bitsOf 64 (intOf 32 true (v.getD 2 0))) % 2 ^ 64)

/-- MOV (R336). -/
def execMov (h : Head) (d : Dst) (a : Src) (w : Wd) (s : State) : Host.Outcome State Fault Refusal :=
  alu s h 0x038 d (Wd.words w) [rdI a (Wd.words w)] (fun v => v.getD 0 0)

/-- SEL (R336): the form of its result depends on what the active lanes select. -/
def execSel (h : Head) (d : Dst) (a b : Src) (w : Wd) (p : Fin 7) (s : State) : Host.Outcome State Fault Refusal :=
  let pick (l : Nat) : Bool :=
    ((threadAt s s.iss.core s.iss.slot l).map (fun t => bitAt t.pred p.val)).getD false
  let act := activeLanes s h.guard
  let uni := (act.all pick && srcUniform s (rdI a (Wd.words w))) ||
    (act.all (fun l => !pick l) && srcUniform s (rdI b (Wd.words w)))
  perform s { head := h, op := 0x039, dst := d, words := Wd.words w, latch := some 0, uni := some uni } (twoW a b w)
    (fun l v => result (if pick l then v.getD 0 0 else v.getD 1 0))

/-- A comparison by a condition (R337). -/
def icmp (t : ITy) (c : ICond) (a b : Nat) : Bool :=
  let x := intOf (ityBits t) (ITy.signed t) a
  let y := intOf (ityBits t) (ITy.signed t) b
  match c with
  | .eq => x == y
  | .ne => x != y
  | .lt => decide (x < y)
  | .le => decide (x ≤ y)
  | .gt => decide (y < x)
  | .ge => decide (y ≤ x)

/-- An ALU instruction that writes and pushes an outcome (R337). -/
def aluTest (s : State) (h : Head) (op : Nat) (d : Dst) (rs : List Rd) (f : List Nat → Bool) :
    Host.Outcome State Fault Refusal :=
  perform s { head := h, op := op, dst := d, words := 1, latch := some 0, push := true } rs
    (fun _ v => resultPush (f v).toNat (f v))

/-- ICMP (R337). -/
def execIcmp (h : Head) (d : Dst) (a b : Src) (t : ITy) (cond : ICond) (s : State) :
    Host.Outcome State Fault Refusal :=
  aluTest s h 0x03A d (two a b t) (fun v => icmp t cond (v.getD 0 0) (v.getD 1 0))

/-! ## Immediate forms (R327) -/

/-- IADD, immediate form. -/
def execIaddI (h : Head) (d : Dst) (a : Src) (imm : Word) (t : ITy) (sat : Bool) (s : State) :
    Host.Outcome State Fault Refusal :=
  aluImm s h 0x080 d (ITy.words t) (rdI a (ITy.words t)) (immRd imm (ITy.words t)) (arith2 t sat (· + ·))

/-- ISUB, immediate form. -/
def execIsubI (h : Head) (d : Dst) (a : Src) (imm : Word) (t : ITy) (sat : Bool) (s : State) :
    Host.Outcome State Fault Refusal :=
  aluImm s h 0x081 d (ITy.words t) (rdI a (ITy.words t)) (immRd imm (ITy.words t)) (arith2 t sat (· - ·))

/-- IMUL, immediate form. -/
def execImulI (h : Head) (d : Dst) (a : Src) (imm : Word) (t : ITy) (sat : Bool) (s : State) :
    Host.Outcome State Fault Refusal :=
  aluImm s h 0x082 d (ITy.words t) (rdI a (ITy.words t)) (immRd imm (ITy.words t)) (arith2 t sat (· * ·))

/-- IMIN, immediate form. -/
def execIminI (h : Head) (d : Dst) (a : Src) (imm : Word) (t : ITy) (s : State) : Host.Outcome State Fault Refusal :=
  aluImm s h 0x086 d (ITy.words t) (rdI a (ITy.words t)) (immRd imm (ITy.words t)) (arith2 t false min)

/-- IMAX, immediate form. -/
def execImaxI (h : Head) (d : Dst) (a : Src) (imm : Word) (t : ITy) (s : State) : Host.Outcome State Fault Refusal :=
  aluImm s h 0x087 d (ITy.words t) (rdI a (ITy.words t)) (immRd imm (ITy.words t)) (arith2 t false max)

/-- AND, immediate form. -/
def execAndI (h : Head) (d : Dst) (a : Src) (imm : Word) (w : Wd) (s : State) : Host.Outcome State Fault Refusal :=
  aluImm s h 0x090 d (Wd.words w) (rdI a (Wd.words w)) (immRd imm (Wd.words w)) (fun v => v.getD 0 0 &&& v.getD 1 0)

/-- OR, immediate form. -/
def execOrI (h : Head) (d : Dst) (a : Src) (imm : Word) (w : Wd) (s : State) : Host.Outcome State Fault Refusal :=
  aluImm s h 0x091 d (Wd.words w) (rdI a (Wd.words w)) (immRd imm (Wd.words w)) (fun v => v.getD 0 0 ||| v.getD 1 0)

/-- XOR, immediate form. -/
def execXorI (h : Head) (d : Dst) (a : Src) (imm : Word) (w : Wd) (s : State) : Host.Outcome State Fault Refusal :=
  aluImm s h 0x092 d (Wd.words w) (rdI a (Wd.words w)) (immRd imm (Wd.words w)) (fun v => v.getD 0 0 ^^^ v.getD 1 0)

/-- ANDN, immediate form. -/
def execAndnI (h : Head) (d : Dst) (a : Src) (imm : Word) (w : Wd) (s : State) : Host.Outcome State Fault Refusal :=
  aluImm s h 0x094 d (Wd.words w) (rdI a (Wd.words w)) (immRd imm (Wd.words w))
    (fun v => v.getD 0 0 &&& notBits w (v.getD 1 0))

/-- SHL, immediate form: IMM is the unsigned 32-bit count. -/
def execShlI (h : Head) (d : Dst) (a : Src) (imm : Word) (t : ITy) (s : State) : Host.Outcome State Fault Refusal :=
  aluImm s h 0x098 d (ITy.words t) (rdI a (ITy.words t)) imm.toNat (shiftBy shl t)

/-- SHR, immediate form. -/
def execShrI (h : Head) (d : Dst) (a : Src) (imm : Word) (t : ITy) (s : State) : Host.Outcome State Fault Refusal :=
  aluImm s h 0x099 d (ITy.words t) (rdI a (ITy.words t)) imm.toNat (shiftBy shr t)

/-- SAR, immediate form. -/
def execSarI (h : Head) (d : Dst) (a : Src) (imm : Word) (t : ITy) (s : State) : Host.Outcome State Fault Refusal :=
  aluImm s h 0x09A d (ITy.words t) (rdI a (ITy.words t)) imm.toNat (shiftBy sar t)

/-- ROTL, immediate form. -/
def execRotlI (h : Head) (d : Dst) (a : Src) (imm : Word) (t : ITy) (s : State) : Host.Outcome State Fault Refusal :=
  aluImm s h 0x09B d (ITy.words t) (rdI a (ITy.words t)) imm.toNat (shiftBy rotl t)

/-- LEA, immediate form (R327, R335): the index is IMM at its type's width, extended by the type; there is no C term. -/
def execLeaI (h : Head) (d : Dst) (a : Src) (imm : Word) (t : ITy) (k : BitVec 3) (s : State) :
    Host.Outcome State Fault Refusal :=
  let x := leaIndex t (immRd imm (ITy.words t))
  alu s h 0x0B0 d 2 [rdI a 2] (fun v => (v.getD 0 0 + x * 2 ^ k.toNat) % 2 ^ 64)

/-- ICMP, immediate form. -/
def execIcmpI (h : Head) (d : Dst) (a : Src) (imm : Word) (t : ITy) (cond : ICond) (s : State) :
    Host.Outcome State Fault Refusal :=
  aluTest s h 0x0BA d [rdI a (ITy.words t)] (fun v => icmp t cond (v.getD 0 0) (immRd imm (ITy.words t)))

/-- MOVI (R336): widened by the signedness of its type. -/
def execMovi (h : Head) (d : Dst) (imm : Word) (t : ITy) (s : State) : Host.Outcome State Fault Refusal :=
  alu s h 0x0C0 d (ITy.words t) [] (fun _ => bitsOf (ityBits t) (intOf 32 (ITy.signed t) imm.toNat))

end Sys2Proof.Machine
end

