-- ==== Sys2Proof/Machine/Number.lean ====
section
/-!
DEFINITION. Exact arithmetic on floating-point values and its one rounding (R134 to R139, R144 to R148): the formats,
their decoding, rounding of an exact value in every mode, and the special functions of R343 (log entry 13).
-/

namespace Sys2Proof.Machine

/-! ## Formats (R134, R136 to R138) -/

/-- The floating-point formats. -/
inductive FFmt where
  | f64 | f32 | f16 | bf16 | e4m3 | e5m2 | e2m1
  deriving DecidableEq, Repr

/-- The widths of the exponent and of the fraction. -/
def ebOf : FFmt → Nat
  | .f64 => 11 | .f32 => 8 | .f16 => 5 | .bf16 => 8 | .e4m3 => 4 | .e5m2 => 5 | .e2m1 => 2
def mbOf : FFmt → Nat
  | .f64 => 52 | .f32 => 23 | .f16 => 10 | .bf16 => 7 | .e4m3 => 3 | .e5m2 => 2 | .e2m1 => 1

/-- The exponent of the least normal value, and of the spacing of the subnormals. -/
def eminOf (f : FFmt) : Int := 2 - 2 ^ (ebOf f - 1)
def qminOf (f : FFmt) : Int := eminOf f - mbOf f

/-- The code of the largest finite magnitude, and of infinity in the formats that have one. -/
def infOf (f : FFmt) : Nat := (2 ^ ebOf f - 1) * 2 ^ mbOf f
def maxMag : FFmt → Nat
  | .e4m3 => 0x7E
  | .e2m1 => 7
  | f => infOf f - 1

/-- The sign bit, and the canonical NaN (R135). -/
def signBit (f : FFmt) : Nat := 2 ^ (ebOf f + mbOf f)
def nanOf : FFmt → Nat
  | .e4m3 => 0x7F
  | .e2m1 => 0
  | f => infOf f + 2 ^ (mbOf f - 1)

/-- A value: a NaN, signalling or not, an infinity, or a signed m × 2^e. -/
inductive FVal where
  | nan (sig : Bool)
  | inf (neg : Bool)
  | fin (neg : Bool) (m : Nat) (e : Int)
  deriving DecidableEq, Repr

/-- The value of a code (R134, R136 to R138). -/
def fdec (f : FFmt) (x : Nat) : FVal :=
  let x := x % (2 * signBit f)
  let neg := decide (signBit f ≤ x)
  let mag := x % signBit f
  let ex := mag / 2 ^ mbOf f
  let fr := mag % 2 ^ mbOf f
  if maxMag f < mag then
    if mag = infOf f ∧ f ≠ .e4m3 then .inf neg else .nan (f != .e4m3 && decide (fr < 2 ^ (mbOf f - 1)))
  else if ex = 0 then .fin neg fr (qminOf f)
  else .fin neg (2 ^ mbOf f + fr) (qminOf f + ((ex : Int) - 1))

/-- The code of a magnitude with a sign. -/
def fsign (f : FFmt) (neg : Bool) (mag : Nat) : Nat := if neg then signBit f + mag else mag

/-! ## Rounding (R144 to R146) -/

/-- A rounding mode: directed, or stochastic with its random byte. -/
inductive Mode where
  | dir (m : DirMode)
  | rs (rnd : Nat)
  deriving DecidableEq, Repr

/-- Round to nearest, ties to even. -/
abbrev rne : Mode := .dir .rn

/-- The integer next to `n / d` that a mode takes, and whether the quotient was inexact. -/
def roundDiv (m : Mode) (neg : Bool) (n d : Nat) : Nat × Bool :=
  let lo := n / d
  let r := n % d
  let up := match m with
    | .dir .rn => decide (d < 2 * r) || (decide (2 * r = d) && lo % 2 == 1)
    | .dir .rz => false
    | .dir .rp => !neg && r != 0
    | .dir .rm => neg && r != 0
    | .rs rnd => decide (256 ≤ r * 256 / d + rnd % 256)
  (if up then lo + 1 else lo, r != 0)

/-- Round `num / den × 2^e` to a multiple of 2^q: the multiple, and whether it was inexact. -/
def roundAt (m : Mode) (neg : Bool) (num den : Nat) (e q : Int) : Nat × Bool :=
  if q ≤ e then roundDiv m neg (num * 2 ^ (e - q).toNat) den else roundDiv m neg num (den * 2 ^ (q - e).toNat)

/-- The floor of the logarithm to the base 2 of `num / den × 2^e`. -/
def logOf (num den : Nat) (e : Int) : Int :=
  let a := num.log2
  let b := den.log2
  let below := if b ≤ a then decide (num < den * 2 ^ (a - b)) else decide (num * 2 ^ (b - a) < den)
  (a : Int) - b + e - (if below then 1 else 0)

/-- A rounded result: its code and the conditions that it raises. -/
structure FRes where
  bits : Nat
  x : Fpx := {}
  quiet : Fpx := {}
  deriving DecidableEq, Repr

/-- The code that an overflow gives (R146). -/
def overflowCode (f : FFmt) (m : Mode) (neg nosat : Bool) : Nat :=
  match f with
  | .e4m3 => if nosat then nanOf f else fsign f neg (maxMag f)
  | .e2m1 => fsign f neg (maxMag f)
  | _ =>
    let big := match m with
      | .dir .rz => false
      | .dir .rp => !neg
      | .dir .rm => neg
      | _ => true
    fsign f neg (if big then infOf f else maxMag f)

/-- Whether a format's conditions never trap: the saturating narrow formats (R146). -/
def quietFmt : FFmt → Bool
  | .e4m3 | .e2m1 => true
  | _ => false

/-- Conditions where the format lets them trap, or not. -/
def FRes.of (f : FFmt) (bits : Nat) (x : Fpx) : FRes :=
  if quietFmt f then { bits := bits, quiet := x } else { bits := bits, x := x }

/-- Round the exact value ± num / den × 2^e, not zero, into a format (R144 to R146, R164). -/
def roundTo (f : FFmt) (m : Mode) (nosat neg : Bool) (num den : Nat) (e : Int) : FRes :=
  let l := logOf num den e
  let q := max (qminOf f) (l - mbOf f)
  let r := roundAt m neg num den e q
  let mag := (q - qminOf f).toNat * 2 ^ mbOf f + r.1
  if maxMag f < mag then FRes.of f (overflowCode f m neg nosat) { of := true, nx := true }
  else
    let tiny := decide (l < eminOf f) &&
      !(decide (l = eminOf f - 1) && (roundAt m neg num den e (l - mbOf f)).1 == 2 ^ (mbOf f + 1))
    FRes.of f (fsign f neg mag) { uf := tiny && r.2, nx := r.2 }

/-- Round a value into a format (R135, R147): NaNs and infinities by the format. -/
def roundVal (f : FFmt) (m : Mode) (nosat : Bool) (v : FVal) : FRes :=
  match v with
  | .nan sig =>
    match f with
    | .e4m3 => { bits := nanOf f, quiet := { nv := true } }
    | .e2m1 => { bits := 0, quiet := { nv := true } }
    | _ => { bits := nanOf f, x := { nv := sig } }
  | .inf neg =>
    match f with
    | .e4m3 => { bits := if nosat then nanOf f else fsign f neg (maxMag f), quiet := { of := true } }
    | .e2m1 => { bits := fsign f neg (maxMag f), quiet := { of := true } }
    | _ => { bits := fsign f neg (infOf f) }
  | .fin neg n e => if n = 0 then { bits := fsign f neg 0 } else roundTo f m nosat neg n 1 e

/-! ## Exact operations (R338, R155) -/

/-- An exact result: a value, with NV where the operation is invalid. -/
structure FEx where
  v : FVal
  nv : Bool := false
  deriving DecidableEq, Repr

/-- Whether a value is a NaN, or a signalling one. -/
def FVal.isNan : FVal → Bool
  | .nan _ => true
  | _ => false
def FVal.isSig : FVal → Bool
  | .nan s => s
  | _ => false

/-- Change the sign. -/
def FVal.neg : FVal → FVal
  | .nan s => .nan s
  | .inf n => .inf (!n)
  | .fin n m e => .fin (!n) m e

/-- The integer that a finite value is, in units of 2^q. -/
def toUnits (neg : Bool) (m : Nat) (e q : Int) : Int :=
  let x : Int := (m * 2 ^ (e - q).toNat : Nat)
  if neg then -x else x

/-- A sum, exact; `down` is whether an exact zero of two signs is −0 (R338). -/
def exactAdd (down : Bool) (a b : FVal) : FEx :=
  match a, b with
  | .nan s, .nan t => { v := .nan false, nv := s || t }
  | .nan s, _ => { v := .nan false, nv := s }
  | _, .nan t => { v := .nan false, nv := t }
  | .inf x, .inf y => if x = y then { v := .inf x } else { v := .nan false, nv := true }
  | .inf x, .fin _ _ _ => { v := .inf x }
  | .fin _ _ _, .inf y => { v := .inf y }
  | .fin x m e, .fin y n g =>
    let q := min e g
    let z := toUnits x m e q + toUnits y n g q
    if z = 0 then { v := .fin (if m = 0 ∧ n = 0 ∧ x = y then x else down) 0 q }
    else { v := .fin (decide (z < 0)) z.natAbs q }

/-- A product, exact. -/
def exactMul (a b : FVal) : FEx :=
  match a, b with
  | .nan s, .nan t => { v := .nan false, nv := s || t }
  | .nan s, _ => { v := .nan false, nv := s }
  | _, .nan t => { v := .nan false, nv := t }
  | .inf x, .inf y => { v := .inf (x != y) }
  | .inf x, .fin y n _ => if n = 0 then { v := .nan false, nv := true } else { v := .inf (x != y) }
  | .fin x m _, .inf y => if m = 0 then { v := .nan false, nv := true } else { v := .inf (x != y) }
  | .fin x m e, .fin y n g => { v := .fin (x != y) (m * n) (e + g) }

/-- A fused multiply and add, exact: where the product is invalid and the addend a quiet NaN, whether NV is signalled is
the implementation's. -/
def exactFma (down : Bool) (a b c : FVal) : FEx :=
  let p := exactMul a b
  let r := exactAdd down p.v c
  let own := p.nv && !(a.isNan || b.isNan)
  { v := r.v, nv := r.nv || (if own && c.isNan && !c.isSig then Config.fmaInvalid else p.nv) }

/-- Round an exact result, with its NV. -/
def roundEx (f : FFmt) (m : Mode) (r : FEx) : FRes :=
  let y := roundVal f m false r.v
  { y with x := { y.x with nv := y.x.nv || r.nv } }

/-- Whether a mode rounds toward −∞. -/
def downMode : Mode → Bool
  | .dir .rm => true
  | _ => false

/-! ## Order (R339, R340) -/

/-- The order of two numbers, −0 equal to +0; none where one is a NaN. -/
def fcompare (a b : FVal) : Option Ordering :=
  match a, b with
  | .nan _, _ => none
  | _, .nan _ => none
  | .inf x, .inf y => some (compare (!x).toNat (!y).toNat)
  | .inf x, .fin _ _ _ => some (if x then .lt else .gt)
  | .fin _ _ _, .inf y => some (if y then .gt else .lt)
  | .fin x m e, .fin y n g =>
    let q := min e g
    some (compare (toUnits x m e q) (toUnits y n g q))

/-- The sign of a value. -/
def FVal.sign : FVal → Bool
  | .nan _ => false
  | .inf n => n
  | .fin n _ _ => n

/-- Whether a is less than b, with −0 less than +0 (R339). -/
def fless (a b : FVal) : Bool :=
  match fcompare a b with
  | some .lt => true
  | some .eq => a.sign && !b.sign
  | _ => false

/-- The lesser or greater of two codes under a NaN rule (R339). -/
def fminmax (f : FFmt) (most nan : Bool) (x y : Nat) : FRes :=
  let a := fdec f x
  let b := fdec f y
  let nv := a.isSig || b.isSig
  let bits :=
    if a.isNan && b.isNan then nanOf f
    else if a.isNan then (if nan then nanOf f else y)
    else if b.isNan then (if nan then nanOf f else x)
    else if (if most then fless a b else fless b a) then y else x
  { bits := bits, x := { nv := nv } }

/-- A comparison: its outcome and NV (R340). -/
def fcond (c : FCond) (a b : FVal) : Bool × Bool :=
  let o := fcompare a b
  let sig := a.isSig || b.isSig
  let quiet := o.isNone
  match c with
  | .eq => (o == some .eq, sig)
  | .ne => (o != some .eq, sig)
  | .lt => (o == some .lt, sig || quiet)
  | .le => (o == some .lt || o == some .eq, sig || quiet)
  | .gt => (o == some .gt, sig || quiet)
  | .ge => (o == some .gt || o == some .eq, sig || quiet)
  | .un => (quiet, sig)
  | .ord => (!quiet, sig)

/-- The class of a code (R341). -/
def fclass (f : FFmt) (x : Nat) : Nat :=
  match fdec f x with
  | .nan true => 2 ^ 8
  | .nan false => 2 ^ 9
  | .inf n => if n then 1 else 2 ^ 7
  | .fin n m e =>
    if m = 0 then (if n then 2 ^ 3 else 2 ^ 4)
    else if decide (m < 2 ^ mbOf f) && e == qminOf f then (if n then 2 ^ 2 else 2 ^ 5)
    else (if n then 2 else 2 ^ 6)

/-- An integral value of the format (R342). -/
def fround (f : FFmt) (m : Mode) (x : Nat) : FRes :=
  match fdec f x with
  | .nan s => { bits := nanOf f, x := { nv := s } }
  | .inf _ => { bits := x }
  | .fin n v e =>
    if v = 0 then { bits := x }
    else
      let r := (roundAt m n v 1 e 0).1
      { bits := (roundVal f m false (.fin n r 0)).bits }

/-! ## Roots (R343) -/

/-- The floor of the square root: bits from `2^k` down. -/
def isqrt (x : Nat) : Nat → Nat → Nat
  | 0, r => r
  | k + 1, r => isqrt x k (if (r + 2 ^ k) * (r + 2 ^ k) ≤ x then r + 2 ^ k else r)

/-- A magnitude `r × 2^e` with what was discarded below it kept as one more bit. -/
def sticky (r : Nat) (e : Int) (inexact : Bool) : Nat × Int := (2 * r + inexact.toNat, e - 1)

/-- The square root of m × 2^e. -/
def sqrtOf (m : Nat) (e : Int) : Nat × Int :=
  let m' := if e % 2 = 0 then m else 2 * m
  let x := m' * 2 ^ 128
  let r := isqrt x 128 0
  sticky r (e / 2 - 64) (r * r != x)

/-- One over the square root of m × 2^e. -/
def rsqrtOf (m : Nat) (e : Int) : Nat × Int :=
  let m' := if e % 2 = 0 then m else 2 * m
  let r := isqrt (2 ^ 256 / m') 129 0
  sticky r (-(e / 2) - 128) (r * r * m' != 2 ^ 256)

/-! ## Fixed-point series, in units of 2^-512 (R343, log entry 13) -/

/-- One. -/
def fxOne : Nat := 2 ^ 512

/-- The sum of the terms of the exponential series of `x`, from term `k` on. -/
def expSeries (x : Nat) : Nat → Nat → Nat → Nat
  | 0, _, _ => 0
  | n + 1, k, t => t + expSeries x n (k + 1) (t * x / fxOne / (k + 1))

/-- e^x for x below 1. -/
def fxExp (x : Nat) : Nat := expSeries x 120 0 fxOne

/-- The sum over odd powers z^k / k, from `p = z^k` on, by the square of z. -/
def atanhSeries (z2 : Nat) : Nat → Nat → Nat → Nat
  | 0, _, _ => 0
  | n + 1, k, p => p / k + atanhSeries z2 n (k + 2) (p * z2 / fxOne)

/-- The natural logarithm of num / den, in 1 to 2: twice the inverse hyperbolic tangent of (num − den)/(num + den). -/
def fxLn (num den : Nat) : Nat :=
  let z := (num - den) * fxOne / (num + den)
  2 * atanhSeries (z * z / fxOne) 180 1 z

/-- ln 2. -/
def fxLn2 : Nat := fxLn 2 1

/-- The inverse tangent of 1/n: its positive and its negative terms. -/
def atanSeries (n2 : Nat) : Nat → Nat → Nat → Nat × Nat
  | 0, _, _ => (0, 0)
  | n + 1, k, p => let r := atanSeries n2 n (k + 2) (p / n2); (p / k + r.2, r.1)
def fxAtan (n : Nat) : Nat := let r := atanSeries (n * n) 120 1 (fxOne / n); r.1 - r.2

/-- π. -/
def fxPi : Nat := 16 * fxAtan 5 - 4 * fxAtan 239

/-- sin x for x up to π/2: its positive and its negative terms. -/
def sinSeries (x2 : Nat) : Nat → Nat → Nat → Nat × Nat
  | 0, _, _ => (0, 0)
  | n + 1, k, t =>
    let r := sinSeries x2 n (k + 2) (t * x2 / fxOne / ((k + 1) * (k + 2)))
    (t + r.2, r.1)
def fxSin (x : Nat) : Nat := let r := sinSeries (x * x / fxOne) 70 1 x; r.1 - r.2

/-- sin(π h) for h in 0 to 1/2. -/
def fxSinPi (h : Nat) : Nat := fxSin (fxPi * h / fxOne)

/-- e^y as m × 2^n / 2^512, for y at least 0. -/
def fxExpBig (y : Nat) : Nat × Nat := (fxExp (y % fxLn2), y / fxLn2)

/-- A magnitude m × 2^e as fixed point, exact for e at least −512. -/
def toFx (m : Nat) (e : Int) : Nat := m * 2 ^ (e + 512).toNat

/-- An inexact quotient as a magnitude. -/
def quotSticky (num den : Nat) : Nat × Int := sticky (num * 2 ^ 600 / den) (-600) true

/-! ## The special functions (R343) -/

/-- Round an inexact magnitude. -/
def roundMag (f : FFmt) (m : Mode) (neg : Bool) (x : Nat × Int) : FRes := roundTo f m false neg x.1 1 x.2

/-- The functions of R343. -/
inductive SFun where
  | rcp | rsq | sqrt | ex2 | lg2 | sin | cos | tanh | sig
  deriving DecidableEq, Repr

/-- FP32's NaN with NV, and an infinity with DZ. -/
def nvNan : FRes := { bits := nanOf .f32, x := { nv := true } }
def dzInf (neg : Bool) : FRes := { bits := fsign .f32 neg (infOf .f32), x := { dz := true } }
/-- An FP32 value without conditions. -/
def fexact (neg : Bool) (m : Nat) (e : Int) : FRes := roundVal .f32 rne false (.fin neg m e)

/-- 2^a for a finite a. -/
def fex2 (neg : Bool) (m : Nat) (e : Int) : FRes :=
  let far := decide (0 < m ∧ 10 ≤ logOf m 1 e)
  if far then roundTo .f32 rne false false 3 1 (if neg then -1000 else 1000)
  else
    let x := toFx m e
    if x % fxOne = 0 then
      roundTo .f32 rne false false 1 1 (if neg then -((x / fxOne : Nat) : Int) else ((x / fxOne : Nat) : Int))
    else
      let n : Int := if neg then -((x / fxOne : Nat) : Int) - 1 else ((x / fxOne : Nat) : Int)
      let fr := if neg then fxOne - x % fxOne else x % fxOne
      roundMag .f32 rne false (sticky (fxExp (fr * fxLn2 / fxOne)) (n - 512) true)

/-- log₂ of m × 2^e. -/
def flg2 (m : Nat) (e : Int) : FRes :=
  let k := m.log2
  let n : Int := e + k
  if m = 2 ^ k then fexact (decide (n < 0)) n.natAbs 0
  else
    let lg : Int := n * fxOne + ((fxLn m (2 ^ k) * fxOne / fxLn2 : Nat) : Int)
    roundMag .f32 rne (decide (lg < 0)) (sticky lg.natAbs (-512) true)

/-- The position of a half-turn angle: whether it lies in the second half-turn, and its place in the first. -/
def halfTurn (m : Nat) (e : Int) : Bool × Nat :=
  if 0 ≤ e then (decide (e = 0 ∧ m % 2 = 1), 0)
  else
    let x := toFx m e % (2 * fxOne)
    (decide (fxOne ≤ x), x % fxOne)

/-- sin(π a). -/
def fsin (neg : Bool) (m : Nat) (e : Int) : FRes :=
  let p := halfTurn m e
  let h := if fxOne < 2 * p.2 then fxOne - p.2 else p.2
  if p.2 = 0 then { bits := fsign .f32 neg 0 }
  else if 2 * h = fxOne then fexact (neg != p.1) 1 0
  else roundMag .f32 rne (neg != p.1) (sticky (fxSinPi h) (-512) true)

/-- cos(π a). -/
def fcos (m : Nat) (e : Int) : FRes :=
  let p := halfTurn m e
  let late := decide (fxOne < 2 * p.2)
  let h := if late then p.2 - fxOne / 2 else fxOne / 2 - p.2
  if 2 * p.2 = fxOne then { bits := 0 }
  else if p.2 = 0 then fexact p.1 1 0
  else roundMag .f32 rne (p.1 != late) (sticky (fxSinPi h) (-512) true)

/-- tanh a, and the logistic function of a. -/
def ftanh (neg : Bool) (m : Nat) (e : Int) : FRes :=
  if m = 0 then { bits := fsign .f32 neg 0 }
  else if 7 ≤ logOf m 1 e then roundMag .f32 rne neg (2 ^ 200 - 1, -200)
  else
    let x := fxExpBig (2 * toFx m e)
    roundMag .f32 rne neg (quotSticky (x.1 * 2 ^ x.2 - fxOne) (x.1 * 2 ^ x.2 + fxOne))
def fsig (neg : Bool) (m : Nat) (e : Int) : FRes :=
  if m = 0 then fexact false 1 (-1)
  else if 8 ≤ logOf m 1 e then roundMag .f32 rne false (if neg then (1, -300) else (2 ^ 300 - 1, -300))
  else
    let x := fxExpBig (toFx m e)
    let big := x.1 * 2 ^ x.2
    roundMag .f32 rne false (quotSticky (if neg then fxOne else big) (big + fxOne))

/-- A special function of an FP32 code (R343). -/
def sfun (g : SFun) (m : Mode) (x : Nat) : FRes :=
  match fdec .f32 x with
  | .nan s => { bits := nanOf .f32, x := { nv := s } }
  | .inf n =>
    match g with
    | .rcp => { bits := fsign .f32 n 0 }
    | .rsq => if n then nvNan else { bits := 0 }
    | .sqrt | .lg2 => if n then nvNan else { bits := infOf .f32 }
    | .ex2 => { bits := if n then 0 else infOf .f32 }
    | .sin | .cos => nvNan
    | .tanh => fexact n 1 0
    | .sig => if n then { bits := 0 } else fexact false 1 0
  | .fin n v e =>
    match g with
    | .rcp => if v = 0 then dzInf n else roundTo .f32 m false n 1 v (-e)
    | .rsq => if v = 0 then dzInf n else if n then nvNan else roundMag .f32 m false (rsqrtOf v e)
    | .sqrt => if v = 0 then { bits := x % 2 ^ 32 } else if n then nvNan else roundMag .f32 m false (sqrtOf v e)
    | .ex2 => fex2 n v e
    | .lg2 => if v = 0 then dzInf true else if n then nvNan else flg2 v e
    | .sin => fsin n v e
    | .cos => fcos v e
    | .tanh => ftanh n v e
    | .sig => fsig n v e

/-! ## Integers and floats (R148, R302) -/

/-- A float as an integer of n bits: its code and conditions (R148, R348). -/
def floatToInt (n : Nat) (signed : Bool) (m : Mode) (v : FVal) : Nat × Fpx :=
  match v with
  | .nan _ => (0, { nv := true })
  | .inf neg => (bitsOf n (if neg then minOf n signed else maxOf n signed), { nv := true })
  | .fin neg k e =>
    let r := roundAt m neg k 1 e 0
    let z : Int := if neg then -(r.1 : Int) else r.1
    if z < minOf n signed then (bitsOf n (minOf n signed), { nv := true })
    else if maxOf n signed < z then (bitsOf n (maxOf n signed), { nv := true })
    else (bitsOf n z, { nx := r.2 })

/-- An integer as a float, rounded. -/
def intToFloat (f : FFmt) (m : Mode) (nosat : Bool) (z : Int) : FRes :=
  roundVal f m nosat (.fin (decide (z < 0)) z.natAbs 0)

/-- An immediate in a float source (R302): the integer, exact in the format; a free value where a narrow format does not
hold it (log entry 9). -/
def immFloat (f : FFmt) (i : BitVec 9) : Nat :=
  let r := intToFloat f rne false i.toInt
  if (r.x.or r.quiet).nx then (Config.freeBits 8 i.toNat).toNat % (2 * signBit f) else r.bits

end Sys2Proof.Machine
end

