-- ==== Sys2Proof/Machine/Float.lean ====
section
/-!
DEFINITION. Single precision, paired halves and doubles (R338 to R345), with their immediate forms (R327) and their
conditions and traps (R167).
-/

namespace Sys2Proof.Machine

/-! ## The shared form -/

/-- A float source: immediates are converted exactly into the format (R302). -/
def rdF (f : FFmt) (a : Src) : Rd :=
  { src := a, words := match f with | .f64 => 2 | _ => 1, imm := fun i => immFloat f i }

/-- A paired-half source: an immediate stands in both elements (R302). -/
def rdH (f : FFmt) (a : Src) : Rd :=
  { src := a, words := 1, imm := fun i => immFloat f i * 65537 }

/-- The floating-point control of a lane's thread (R165). -/
def fpctlOf (s : State) (l : Nat) : Word := ((threadAt s s.iss.core s.iss.slot l).map Thread.fpctl).getD 0

/-- A lane's result with its conditions: it traps where an enabled one is raised, and sticks the others (R167). -/
def fpLane (l : Nat) (r : FRes) (push : Bool) : Act Out := do
  let s ← get
  match fpTrap (fpctlOf s l) r.x with
  | some c => raise c 0
  | none => pure { val := r.bits, push := push, flags := (r.x.or r.quiet).bits }

/-- A lane's result of an instruction that acts once for its path: a condition is raised in every participating lane, so
one that some participating lane enables traps them all (R356). -/
def fpPath (h : Head) (r : FRes) : Act Out := do
  let s ← get
  match fpTrap ((activeLanes s h.guard).foldl (fun w k => w ||| fpctlOf s k) 0) r.x with
  | some c => raise c 0
  | none => pure { val := r.bits, flags := (r.x.or r.quiet).bits }

/-- An instruction whose result is a rounded function of its sources. -/
def fpu (s : State) (h : Head) (op : Nat) (d : Dst) (words latch : Nat) (rs : List Rd) (f : List Nat → FRes) :
    Host.Outcome State Fault Refusal :=
  perform s { head := h, op := op, dst := d, words := words, latch := some latch } rs
    (fun l v => fpLane l (f v) false)

/-- A comparison, which writes and pushes its outcome (R340). -/
def fpTest (s : State) (h : Head) (op : Nat) (d : Dst) (rs : List Rd) (f : List Nat → Bool × Bool) :
    Host.Outcome State Fault Refusal :=
  perform s { head := h, op := op, dst := d, words := 1, latch := some 1, push := true } rs
    (fun l v => fpLane l { bits := (f v).1.toNat, x := { nv := (f v).2 } } (f v).1)

/-- The source that holds rnd, where the mode has one, and the mode that a lane then rounds by (R145, R338). -/
def rndRs (r : Rnd) : List Rd :=
  match r with
  | .dir _ => []
  | .rs c => [rdI c 1]
def rndMode (r : Rnd) (rnd : Nat) : Mode :=
  match r with
  | .dir m => .dir m
  | .rs _ => .rs (rnd % 256)

/-- A sum, a difference, a product and a fused sum of codes, rounded. -/
def faddOf (f : FFmt) (m : Mode) (x y : Nat) : FRes := roundEx f m (exactAdd (downMode m) (fdec f x) (fdec f y))
def fsubOf (f : FFmt) (m : Mode) (x y : Nat) : FRes := roundEx f m (exactAdd (downMode m) (fdec f x) (fdec f y).neg)
def fmulOf (f : FFmt) (m : Mode) (x y : Nat) : FRes := roundEx f m (exactMul (fdec f x) (fdec f y))
def ffmaOf (f : FFmt) (m : Mode) (x y z : Nat) : FRes :=
  roundEx f m (exactFma (downMode m) (fdec f x) (fdec f y) (fdec f z))

/-! ## Single precision (R338 to R342) -/

/-- FADD (R338). -/
def execFadd (h : Head) (d : Dst) (a b : Src) (r : Rnd) (s : State) : Host.Outcome State Fault Refusal :=
  fpu s h 0x100 d 1 1 ([rdF .f32 a, rdF .f32 b] ++ rndRs r)
    (fun v => faddOf .f32 (rndMode r (v.getD 2 0)) (v.getD 0 0) (v.getD 1 0))

/-- FSUB (R338). -/
def execFsub (h : Head) (d : Dst) (a b : Src) (r : Rnd) (s : State) : Host.Outcome State Fault Refusal :=
  fpu s h 0x101 d 1 1 ([rdF .f32 a, rdF .f32 b] ++ rndRs r)
    (fun v => fsubOf .f32 (rndMode r (v.getD 2 0)) (v.getD 0 0) (v.getD 1 0))

/-- FMUL (R338). -/
def execFmul (h : Head) (d : Dst) (a b : Src) (r : Rnd) (s : State) : Host.Outcome State Fault Refusal :=
  fpu s h 0x102 d 1 1 ([rdF .f32 a, rdF .f32 b] ++ rndRs r)
    (fun v => fmulOf .f32 (rndMode r (v.getD 2 0)) (v.getD 0 0) (v.getD 1 0))

/-- FFMA (R338). -/
def execFfma (h : Head) (d : Dst) (a b c : Src) (m : DirMode) (s : State) : Host.Outcome State Fault Refusal :=
  fpu s h 0x103 d 1 1 [rdF .f32 a, rdF .f32 b, rdF .f32 c]
    (fun v => ffmaOf .f32 (.dir m) (v.getD 0 0) (v.getD 1 0) (v.getD 2 0))

/-- FMIN (R339). -/
def execFmin (h : Head) (d : Dst) (a b : Src) (nan : Bool) (s : State) : Host.Outcome State Fault Refusal :=
  fpu s h 0x104 d 1 1 [rdF .f32 a, rdF .f32 b] (fun v => fminmax .f32 false nan (v.getD 0 0) (v.getD 1 0))

/-- FMAX (R339). -/
def execFmax (h : Head) (d : Dst) (a b : Src) (nan : Bool) (s : State) : Host.Outcome State Fault Refusal :=
  fpu s h 0x105 d 1 1 [rdF .f32 a, rdF .f32 b] (fun v => fminmax .f32 true nan (v.getD 0 0) (v.getD 1 0))

/-- FCMP (R340). -/
def execFcmp (h : Head) (d : Dst) (a b : Src) (cond : FCond) (s : State) : Host.Outcome State Fault Refusal :=
  fpTest s h 0x106 d [rdF .f32 a, rdF .f32 b] (fun v => fcond cond (fdec .f32 (v.getD 0 0)) (fdec .f32 (v.getD 1 0)))

/-- The format of a typed float source (R341). -/
def fmtOf : FTy → FFmt
  | .f32 => .f32
  | .f64 => .f64
  | .f16 => .f16
  | .bf16 => .bf16

/-- FCLASS (R341). -/
def execFclass (h : Head) (d : Dst) (a : Src) (t : FTy) (s : State) : Host.Outcome State Fault Refusal :=
  fpu s h 0x107 d 1 1 [rdF (fmtOf t) a] (fun v => { bits := fclass (fmtOf t) (v.getD 0 0) })

/-- FRND (R342). -/
def execFrnd (h : Head) (d : Dst) (a : Src) (m : DirMode) (s : State) : Host.Outcome State Fault Refusal :=
  fpu s h 0x108 d 1 1 [rdF .f32 a] (fun v => fround .f32 (.dir m) (v.getD 0 0))

/-! ## Special functions (R343) -/

/-- An instruction of the special-function unit. -/
def sfu (s : State) (h : Head) (op : Nat) (d : Dst) (a : Src) (g : SFun) (m : DirMode) :
    Host.Outcome State Fault Refusal :=
  fpu s h op d 1 2 [rdF .f32 a] (fun v => sfun g (.dir m) (v.getD 0 0))

/-- FRCP (R343). -/
def execFrcp (h : Head) (d : Dst) (a : Src) (m : DirMode) (s : State) : Host.Outcome State Fault Refusal :=
  sfu s h 0x110 d a .rcp m

/-- FRSQ (R343). -/
def execFrsq (h : Head) (d : Dst) (a : Src) (m : DirMode) (s : State) : Host.Outcome State Fault Refusal :=
  sfu s h 0x111 d a .rsq m

/-- FSQRT (R343). -/
def execFsqrt (h : Head) (d : Dst) (a : Src) (m : DirMode) (s : State) : Host.Outcome State Fault Refusal :=
  sfu s h 0x112 d a .sqrt m

/-- FEX2 (R343). -/
def execFex2 (h : Head) (d : Dst) (a : Src) (s : State) : Host.Outcome State Fault Refusal :=
  sfu s h 0x113 d a .ex2 .rn

/-- FLG2 (R343). -/
def execFlg2 (h : Head) (d : Dst) (a : Src) (s : State) : Host.Outcome State Fault Refusal :=
  sfu s h 0x114 d a .lg2 .rn

/-- FSIN (R343). -/
def execFsin (h : Head) (d : Dst) (a : Src) (s : State) : Host.Outcome State Fault Refusal :=
  sfu s h 0x115 d a .sin .rn

/-- FCOS (R343). -/
def execFcos (h : Head) (d : Dst) (a : Src) (s : State) : Host.Outcome State Fault Refusal :=
  sfu s h 0x116 d a .cos .rn

/-- FTANH (R343). -/
def execFtanh (h : Head) (d : Dst) (a : Src) (s : State) : Host.Outcome State Fault Refusal :=
  sfu s h 0x117 d a .tanh .rn

/-- FSIG (R343). -/
def execFsig (h : Head) (d : Dst) (a : Src) (s : State) : Host.Outcome State Fault Refusal :=
  sfu s h 0x118 d a .sig .rn

/-! ## Paired halves (R344) -/

/-- The format of the paired halves. -/
def halfOf : HTy → FFmt
  | .f16 => .f16
  | .bf16 => .bf16

/-- Two elements computed apart: their codes side by side, and the union of their conditions. -/
def paired (f : Nat → FRes) : FRes :=
  let x := f 0
  let y := f 1
  { bits := x.bits + 65536 * y.bits, x := x.x.or y.x, quiet := x.quiet.or y.quiet }

/-- An element of a pair of halves. -/
def elemOf (x i : Nat) : Nat := x / 65536 ^ i % 65536

/-- The mode of element `i` of a paired half (R344). -/
def pairMode (r : Rnd) (x i : Nat) : Mode := rndMode r (x / 256 ^ i)

/-- HADD2 (R344). -/
def execHadd2 (h : Head) (d : Dst) (a b : Src) (t : HTy) (r : Rnd) (s : State) : Host.Outcome State Fault Refusal :=
  let f := halfOf t
  fpu s h 0x120 d 1 1 ([rdH f a, rdH f b] ++ rndRs r) (fun v => paired (fun i =>
    faddOf f (pairMode r (v.getD 2 0) i) (elemOf (v.getD 0 0) i) (elemOf (v.getD 1 0) i)))

/-- HMUL2 (R344). -/
def execHmul2 (h : Head) (d : Dst) (a b : Src) (t : HTy) (r : Rnd) (s : State) : Host.Outcome State Fault Refusal :=
  let f := halfOf t
  fpu s h 0x121 d 1 1 ([rdH f a, rdH f b] ++ rndRs r) (fun v => paired (fun i =>
    fmulOf f (pairMode r (v.getD 2 0) i) (elemOf (v.getD 0 0) i) (elemOf (v.getD 1 0) i)))

/-- HFMA2 (R344). -/
def execHfma2 (h : Head) (d : Dst) (a b c : Src) (t : HTy) (m : DirMode) (s : State) :
    Host.Outcome State Fault Refusal :=
  let f := halfOf t
  fpu s h 0x122 d 1 1 [rdH f a, rdH f b, rdH f c] (fun v => paired (fun i =>
    ffmaOf f (.dir m) (elemOf (v.getD 0 0) i) (elemOf (v.getD 1 0) i) (elemOf (v.getD 2 0) i)))

/-- HMAX2 (R344). -/
def execHmax2 (h : Head) (d : Dst) (a b : Src) (t : HTy) (nan : Bool) (s : State) :
    Host.Outcome State Fault Refusal :=
  let f := halfOf t
  fpu s h 0x123 d 1 1 [rdH f a, rdH f b] (fun v => paired (fun i =>
    fminmax f true nan (elemOf (v.getD 0 0) i) (elemOf (v.getD 1 0) i)))

/-- HMIN2 (R344). -/
def execHmin2 (h : Head) (d : Dst) (a b : Src) (t : HTy) (nan : Bool) (s : State) :
    Host.Outcome State Fault Refusal :=
  let f := halfOf t
  fpu s h 0x124 d 1 1 [rdH f a, rdH f b] (fun v => paired (fun i =>
    fminmax f false nan (elemOf (v.getD 0 0) i) (elemOf (v.getD 1 0) i)))

/-! ## Doubles (R345) -/

/-- DADD (R345). -/
def execDadd (h : Head) (d : Dst) (a b : Src) (m : DirMode) (s : State) : Host.Outcome State Fault Refusal :=
  fpu s h 0x130 d 2 1 [rdF .f64 a, rdF .f64 b] (fun v => faddOf .f64 (.dir m) (v.getD 0 0) (v.getD 1 0))

/-- DMUL (R345). -/
def execDmul (h : Head) (d : Dst) (a b : Src) (m : DirMode) (s : State) : Host.Outcome State Fault Refusal :=
  fpu s h 0x131 d 2 1 [rdF .f64 a, rdF .f64 b] (fun v => fmulOf .f64 (.dir m) (v.getD 0 0) (v.getD 1 0))

/-- DFMA (R345). -/
def execDfma (h : Head) (d : Dst) (a b c : Src) (m : DirMode) (s : State) : Host.Outcome State Fault Refusal :=
  fpu s h 0x132 d 2 1 [rdF .f64 a, rdF .f64 b, rdF .f64 c]
    (fun v => ffmaOf .f64 (.dir m) (v.getD 0 0) (v.getD 1 0) (v.getD 2 0))

/-- DCMP (R345). -/
def execDcmp (h : Head) (d : Dst) (a b : Src) (cond : FCond) (s : State) : Host.Outcome State Fault Refusal :=
  fpTest s h 0x133 d [rdF .f64 a, rdF .f64 b] (fun v => fcond cond (fdec .f64 (v.getD 0 0)) (fdec .f64 (v.getD 1 0)))

/-- DMIN (R345). -/
def execDmin (h : Head) (d : Dst) (a b : Src) (nan : Bool) (s : State) : Host.Outcome State Fault Refusal :=
  fpu s h 0x134 d 2 1 [rdF .f64 a, rdF .f64 b] (fun v => fminmax .f64 false nan (v.getD 0 0) (v.getD 1 0))

/-- DMAX (R345). -/
def execDmax (h : Head) (d : Dst) (a b : Src) (nan : Bool) (s : State) : Host.Outcome State Fault Refusal :=
  fpu s h 0x135 d 2 1 [rdF .f64 a, rdF .f64 b] (fun v => fminmax .f64 true nan (v.getD 0 0) (v.getD 1 0))

/-! ## Immediate forms: IMM is an FP32 value (R327) -/

/-- FADD, immediate form. -/
def execFaddI (h : Head) (d : Dst) (a : Src) (imm : Word) (m : DirMode) (s : State) :
    Host.Outcome State Fault Refusal :=
  fpu s h 0x180 d 1 1 [rdF .f32 a] (fun v => faddOf .f32 (.dir m) (v.getD 0 0) imm.toNat)

/-- FSUB, immediate form. -/
def execFsubI (h : Head) (d : Dst) (a : Src) (imm : Word) (m : DirMode) (s : State) :
    Host.Outcome State Fault Refusal :=
  fpu s h 0x181 d 1 1 [rdF .f32 a] (fun v => fsubOf .f32 (.dir m) (v.getD 0 0) imm.toNat)

/-- FMUL, immediate form. -/
def execFmulI (h : Head) (d : Dst) (a : Src) (imm : Word) (m : DirMode) (s : State) :
    Host.Outcome State Fault Refusal :=
  fpu s h 0x182 d 1 1 [rdF .f32 a] (fun v => fmulOf .f32 (.dir m) (v.getD 0 0) imm.toNat)

/-- FMIN, immediate form. -/
def execFminI (h : Head) (d : Dst) (a : Src) (imm : Word) (nan : Bool) (s : State) :
    Host.Outcome State Fault Refusal :=
  fpu s h 0x184 d 1 1 [rdF .f32 a] (fun v => fminmax .f32 false nan (v.getD 0 0) imm.toNat)

/-- FMAX, immediate form. -/
def execFmaxI (h : Head) (d : Dst) (a : Src) (imm : Word) (nan : Bool) (s : State) :
    Host.Outcome State Fault Refusal :=
  fpu s h 0x185 d 1 1 [rdF .f32 a] (fun v => fminmax .f32 true nan (v.getD 0 0) imm.toNat)

/-- FCMP, immediate form. -/
def execFcmpI (h : Head) (d : Dst) (a : Src) (imm : Word) (cond : FCond) (s : State) :
    Host.Outcome State Fault Refusal :=
  fpTest s h 0x186 d [rdF .f32 a] (fun v => fcond cond (fdec .f32 (v.getD 0 0)) (fdec .f32 imm.toNat))

end Sys2Proof.Machine
end

