-- ==== Sys2Proof/Machine/Narrow.lean ====
section
/-!
DEFINITION. Narrow formats: block scales, Q4X, quantising and decoding blocks (R139 to R143, R147 to R150), the amax
merge of R161, and Philox-4×32 (R355); and reading the sources of lanes other than the lane's own (R351, R356).
-/

namespace Sys2Proof.Machine

/-! ## BS16 scales (R141, R149) -/

/-- The value m × 2^e of a scale; none where it is invalid. -/
def bsOf (x : Nat) : Option (Nat × Int) :=
  let e := x / 256 % 256
  let m := x % 256
  if e = 255 then none
  else if e = 0 then some (m, -134)
  else some (256 + m, (e : Int) - 135)

/-- The largest finite value of a destination (R149). -/
def fmtMax : Fmt → Nat
  | .e4m3 => 448
  | .e5m2 => 57344
  | .e2m1 => 6
  | .q4x | .i4 => 7
  | .int8 => 127
  | .bf16 | .fp16 => 1

/-- The scale of a block from its amax, and whether NV is set (R149). -/
def scaleFor (f : Fmt) (amax : FVal) : Nat × Bool :=
  match amax with
  | .nan _ => (0xFF00, true)
  | .inf _ => (0xFF00, true)
  | .fin _ m e =>
    if m = 0 then (0x7F00, false)
    else
      let q := max (-134) (logOf m (fmtMax f) e - 8)
      let n := (roundAt (.dir .rp) false m (fmtMax f) e q).1
      let x := (q + 134).toNat * 256 + n
      if 0xFEFF < x then (0xFF00, true) else (x, false)

/-! ## Quantising (R143, R146, R147, R150) -/

/-- A value divided by a scale, rounded into a float format. -/
def quotRound (f : FFmt) (m : Mode) (nosat : Bool) (v : FVal) (sc : Nat × Int) : FRes :=
  match v with
  | .fin neg k e =>
    if k = 0 then { bits := fsign f neg 0 } else roundTo f m nosat neg k sc.1 (e - sc.2)
  | v => roundVal f m nosat v

/-- A value divided by a scale, rounded to an integer within limits (R146, R147). -/
def quotInt (lo hi : Int) (m : Mode) (v : FVal) (sc : Nat × Int) : Int × Fpx :=
  match v with
  | .nan _ => (0, { nv := true })
  | .inf neg => (if neg then lo else hi, { nv := true })
  | .fin neg k e =>
    let r := roundAt m neg k sc.1 (e - sc.2) 0
    let z : Int := if neg then -(r.1 : Int) else r.1
    if z < lo then (lo, { of := true, nx := true })
    else if hi < z then (hi, { of := true, nx := true })
    else (z, { nx := r.2 })

/-- Whether a value is a zero. -/
def FVal.isZero : FVal → Bool
  | .fin _ m _ => m == 0
  | _ => false

/-- Encoding into Q4X, slot by slot (R143). -/
def q4xEncode (sc : Nat × Int) : List (FVal × Mode) → List Nat × Fpx
  | [] => ([], {})
  | (y, m) :: r =>
    let z := quotInt (-8) 8 m y sc
    let fits := decide (z.1.natAbs ≤ 7) || !(match y with | .fin _ _ _ => true | _ => false)
    let next := q4xEncode sc r
    if fits then
      let t := next
      (bitsOf 4 (max (-7) (min 7 z.1)) :: t.1, Fpx.or z.2 t.2)
    else
      match r with
      | a :: b :: r' =>
        let x := quotRound .e4m3 m false y sc
        let t := q4xEncode sc r'
        (8 :: x.bits % 16 :: x.bits / 16 :: t.1,
         Fpx.or (Fpx.or x.x x.quiet) (Fpx.or { nx := !(a.1.isZero && b.1.isZero) } t.2))
      | _ =>
        let t := next
        ((if 0 < z.1 then 7 else 9) :: t.1, Fpx.or { of := true, nx := true } t.2)

/-- Quantise the elements of a block under a scale (R150), with `.nosat` where E4M3 has it: the codes and the
conditions. -/
def quantBlock (f : Fmt) (nosat : Bool) (scale : Nat) (xs : List (FVal × Mode)) : List Nat × Fpx :=
  let each (g : FVal × Mode → Nat × Fpx) : List Nat × Fpx :=
    let rs := xs.map g
    (rs.map Prod.fst, (rs.map Prod.snd).foldl Fpx.or {})
  let flt (k : FFmt) (sc : Nat × Int) : List Nat × Fpx :=
    each (fun x => let r := quotRound k x.2 nosat x.1 sc; (r.bits, r.x.or r.quiet))
  match bsOf scale with
  | none => (xs.map (fun _ => 0), { sf := true })
  | some sc =>
    if sc.1 = 0 then (xs.map (fun _ => 0), { sf := true })
    else
      match f with
      | .e4m3 => flt .e4m3 sc
      | .e5m2 => flt .e5m2 sc
      | .e2m1 => flt .e2m1 sc
      | .bf16 => flt .bf16 sc
      | .fp16 => flt .f16 sc
      | .int8 => each (fun x => let r := quotInt (-128) 127 x.2 x.1 sc; (bitsOf 8 r.1, r.2))
      | .i4 => each (fun x => let r := quotInt (-8) 7 x.2 x.1 sc; (bitsOf 4 r.1, r.2))
      | .q4x => q4xEncode sc xs

/-! ## Decoding (R136 to R142, R152) -/

/-- An integer as a value. -/
def intVal (z : Int) : FVal := .fin (decide (z < 0)) z.natAbs 0

/-- Decoding Q4X: the elements, and whether an escape crossed the block's end (R142). -/
def q4xDecode : List Nat → List FVal × Bool
  | [] => ([], false)
  | c :: r =>
    if c ≠ 8 then
      let t := q4xDecode r
      (intVal (intOf 4 true c) :: t.1, t.2)
    else
      match r with
      | lo :: hi :: r' =>
        let t := q4xDecode r'
        (fdec .e4m3 (hi * 16 + lo) :: .fin false 0 0 :: .fin false 0 0 :: t.1, t.2)
      | _ => ((c :: r).map (fun _ => FVal.fin false 0 0), true)

/-- The elements of a block of codes, before its scale; and QF. -/
def decodeBlock (f : Fmt) (xs : List Nat) : List FVal × Bool :=
  match f with
  | .bf16 => (xs.map (fdec .bf16), false)
  | .fp16 => (xs.map (fdec .f16), false)
  | .e4m3 => (xs.map (fdec .e4m3), false)
  | .e5m2 => (xs.map (fdec .e5m2), false)
  | .e2m1 => (xs.map (fdec .e2m1), false)
  | .int8 => (xs.map (fun x => intVal (intOf 8 true x)), false)
  | .i4 => (xs.map (fun x => intVal (intOf 4 true x)), false)
  | .q4x => q4xDecode xs

/-- An element under a scale, exact; an invalid scale makes it a NaN (R141). -/
def scaled (scale : Nat) (v : FVal) : FEx :=
  match bsOf scale with
  | none => { v := .nan false }
  | some sc => exactMul v (.fin false sc.1 sc.2)

/-- An element under a block's scale as QUPK takes it (R353): a scale of zero gives a zero of the element's sign. -/
def qupkScaled (scale : Nat) (v : FVal) : FEx :=
  if (bsOf scale).any (fun sc => sc.1 == 0) && !v.isNan then { v := .fin v.sign 0 0 } else scaled scale v

/-- Whether a scale is invalid or zero: SF (R141, R353). -/
def scaleSf (scale : Nat) : Bool :=
  match bsOf scale with
  | none => true
  | some sc => sc.1 == 0

/-- The bits of one element. -/
def fmtBits : Fmt → Nat
  | .bf16 | .fp16 => 16
  | .e4m3 | .e5m2 | .int8 => 8
  | .q4x | .e2m1 | .i4 => 4

/-! ## The amax merge (R161) -/

/-- The magnitude of a value. -/
def FVal.abs : FVal → FVal
  | .fin _ m e => .fin false m e
  | .inf _ => .inf false
  | v => v

/-- The largest magnitude of a block; a NaN makes it a NaN (R149). -/
def amaxOf (vs : List FVal) : FVal :=
  vs.foldl (fun b v => if b.isNan then b else if v.isNan then v else if fless b v.abs then v.abs else b) (.fin false 0 0)

/-- A magnitude joined to an AMX register: FP32 codes. -/
def amaxJoin (held : Word) (v : FVal) : Word :=
  if (fdec .f32 held.toNat).isNan || v.isNan then 0x7FC00000
  else
    let x := (roundVal .f32 rne false (match v with | .fin _ m e => .fin false m e | .inf _ => .inf false | v => v)).bits
    if fless (fdec .f32 held.toNat) (fdec .f32 x) then BitVec.ofNat 32 x else held

/-- Update a workgroup's AMX register. -/
def amaxUpdate (s : State) (h n : Nat) (v : FVal) : State :=
  modWg s h (fun w => { w with amx := Tab.set w.amx n (amaxJoin (Tab.getD w.amx n 0) v) })

/-! ## Philox-4×32 with ten rounds (R355) -/

/-- The rounds from one on. -/
def philoxFrom : Nat → Nat → Word × Word → Word × Word × Word × Word → Word × Word × Word × Word
  | 0, _, _, c => c
  | n + 1, i, k, c =>
    let k : Word × Word := if i = 0 then k else (k.1 + 0x9E3779B9, k.2 + 0xBB67AE85)
    let m0 : DWord := c.1.setWidth 64 * 0xD2511F53
    let m1 : DWord := c.2.2.1.setWidth 64 * 0xCD9E8D57
    philoxFrom n (i + 1) k
      (hiWord m1 ^^^ c.2.1 ^^^ k.1, loWord m1, hiWord m0 ^^^ c.2.2.2 ^^^ k.2, loWord m0)

/-- The four words. -/
def philox (k : Word × Word) (c : Word × Word × Word × Word) : List Word :=
  let r := philoxFrom 10 0 k c
  [r.1, r.2.1, r.2.2.1, r.2.2.2]

/-! ## Sources of other lanes (R132, R351, R356) -/

/-- What lane `j`'s source supplies to another lane: a released lane of a full register is undefined. -/
def otherVal (s : State) (j pos : Nat) (r : Rd) : Nat :=
  match r.src with
  | .v n p _ => joinWords (fun k => vRead s (n.toNat + k) 32 (permLane p j) (freeCode s pos j k)) r.words
  | _ => srcVal s j pos r

/-- What lane `j` of a block supplies (R351): undefined where the lane is released, in a register of either form. -/
def blockVal (s : State) (j pos : Nat) (r : Rd) : Nat :=
  match r.src with
  | .v n p _ =>
    joinWords (fun k =>
      match Tab.get? (slotAt s s.iss.core s.iss.slot).vmap (n.toNat + k) with
      | some m =>
        if bitAt m.rel (permLane p j) then Config.freeBits 32 (freeCode s pos j k)
        else vRead s (n.toNat + k) 32 (permLane p j) (freeCode s pos j k)
      | none => 0) r.words
  | _ => srcVal s j pos r

end Sys2Proof.Machine
end

