-- ==== Sys2Proof/Machine/Convert.lean ====
section
/-!
DEFINITION. Conversions, block scales, quantised packs, AMAX and random numbers (R346 to R355).
-/

namespace Sys2Proof.Machine

/-! ## Conversions (R346 to R349) -/

/-- The destination and source formats of CVTF, and `.nosat` (R347). E2M1 saturates either way. -/
def cvtfFmts : CvtF → FFmt × FFmt × Bool
  | .f32f64 => (.f32, .f64, false)
  | .f64f32 => (.f64, .f32, false)
  | .f16f32 => (.f16, .f32, false)
  | .f32f16 => (.f32, .f16, false)
  | .bf16f32 => (.bf16, .f32, false)
  | .f32bf16 => (.f32, .bf16, false)
  | .e4m3f32 => (.e4m3, .f32, false)
  | .e4m3f32nosat => (.e4m3, .f32, true)
  | .f32e4m3 => (.f32, .e4m3, false)
  | .e5m2f32 => (.e5m2, .f32, false)
  | .f32e5m2 => (.f32, .e5m2, false)
  | .e2m1f32 => (.e2m1, .f32, false)
  | .f32e2m1 => (.f32, .e2m1, false)

/-- The registers of a value of a format. -/
def fmtWords : FFmt → Nat
  | .f64 => 2
  | _ => 1

/-- CVTF (R346, R347). -/
def execCvtf (h : Head) (d : Dst) (a : Src) (code : CvtF) (r : Rnd) (s : State) : Host.Outcome State Fault Refusal :=
  let f := cvtfFmts code
  fpu s h 0x1C0 d (fmtWords f.1) 0 (rdF f.2.1 a :: rndRs r)
    (fun v => roundVal f.1 (rndMode r (v.getD 1 0)) f.2.2 (fdec f.2.1 (v.getD 0 0)))

/-- The destination's bits and signedness and the source format of CVTI (R348). -/
def cvtiFmts : CvtI → Nat × Bool × FFmt
  | .i32f32 => (32, true, .f32)
  | .n32f32 => (32, false, .f32)
  | .i64f32 => (64, true, .f32)
  | .n64f32 => (64, false, .f32)
  | .i32f64 => (32, true, .f64)
  | .n32f64 => (32, false, .f64)
  | .i64f64 => (64, true, .f64)
  | .n64f64 => (64, false, .f64)
  | .i8f32 => (8, true, .f32)
  | .n8f32 => (8, false, .f32)
  | .i16f32 => (16, true, .f32)
  | .n16f32 => (16, false, .f32)
  | .i32f16 => (32, true, .f16)
  | .i32bf16 => (32, true, .bf16)

/-- The result of CVTI, extended to the destination's registers. -/
def cvtiOf (code : CvtI) (m : Mode) (x : Nat) : FRes :=
  let f := cvtiFmts code
  let r := floatToInt f.1 f.2.1 m (fdec f.2.2 x)
  { bits := bitsOf (max f.1 32) (intOf f.1 f.2.1 r.1), x := r.2 }

/-- CVTI (R346, R348). -/
def execCvti (h : Head) (d : Dst) (a : Src) (code : CvtI) (r : Rnd) (s : State) : Host.Outcome State Fault Refusal :=
  let f := cvtiFmts code
  fpu s h 0x1C1 d (if f.1 = 64 then 2 else 1) 0 (rdF f.2.2 a :: rndRs r)
    (fun v => cvtiOf code (rndMode r (v.getD 1 0)) (v.getD 0 0))

/-- The destination format, the source type and `.nosat` of CVTN (R349). -/
def cvtnFmts : CvtN → FFmt × ITy × Bool
  | .f32i32 => (.f32, .i32, false)
  | .f32n32 => (.f32, .n32, false)
  | .f32i64 => (.f32, .i64, false)
  | .f32n64 => (.f32, .n64, false)
  | .f64i32 => (.f64, .i32, false)
  | .f64n32 => (.f64, .n32, false)
  | .f64i64 => (.f64, .i64, false)
  | .f64n64 => (.f64, .n64, false)
  | .f16i32 => (.f16, .i32, false)
  | .bf16i32 => (.bf16, .i32, false)
  | .e4m3i32 => (.e4m3, .i32, false)
  | .e4m3i32nosat => (.e4m3, .i32, true)

/-- CVTN (R346, R349). -/
def execCvtn (h : Head) (d : Dst) (a : Src) (code : CvtN) (r : Rnd) (s : State) : Host.Outcome State Fault Refusal :=
  let f := cvtnFmts code
  fpu s h 0x1C2 d (fmtWords f.1) 0 (rdI a (ITy.words f.2.1) :: rndRs r)
    (fun v => intToFloat f.1 (rndMode r (v.getD 1 0)) f.2.2 (intOf (ityBits f.2.1) (ITy.signed f.2.1) (v.getD 0 0)))

/-! ## Block scales and packs (R350 to R353) -/

/-- BSCL (R350). -/
def execBscl (h : Head) (d : Dst) (a : Src) (f : Fmt) (s : State) : Host.Outcome State Fault Refusal :=
  fpu s h 0x1CA d 1 0 [rdF .f32 a] (fun v =>
    let r := scaleFor f (fdec .f32 (v.getD 0 0)).abs
    { bits := r.1, quiet := { nv := r.2 } })

/-- The lanes of a block of `n` elements that holds lane `l` (R351). -/
def blkSize : Blk → Nat
  | .b16 => 16
  | .b32 => 32
  | .b64 => 64
def blockLanes (n : Blk) (l : Nat) : List Nat :=
  let k := blkSize n / 8
  (List.range k).map (l / k * k + ·)

/-- The FP32 elements that a lane of a block carries in two groups (R352). -/
def lane8 (a b : Nat) : List FVal :=
  (List.range 8).map (fun e => fdec .f32 ((if e < 4 then a / 2 ^ (32 * e) else b / 2 ^ (32 * (e - 4))) % 2 ^ 32))

/-- Elements side by side in one number, the first lowest. -/
def packBits (w : Nat) : List Nat → Nat
  | [] => 0
  | x :: r => x + 2 ^ w * packBits w r

/-- The elements of a number. -/
def unpackBits (w x n : Nat) : List Nat := (List.range n).map (fun i => x / 2 ^ (w * i) % 2 ^ w)

/-- The registers that eight packed elements take. -/
def packWords (f : Fmt) : Nat := if fmtBits f = 8 then 2 else 1

/-- A group read as raw bits. -/
def rdGroup (a : Src) : Rd := rdI a 4

/-- QPK (R352). A Q4X escape may reach into the next lane, so that its lanes' results differ under uniform sources. -/
def execQpk (h : Head) (d : Dst) (a b c : Src) (f : Fmt) (n : Blk) (s : State) : Host.Outcome State Fault Refusal :=
  let w := fmtBits f
  perform s { head := h, op := 0x1C8, dst := d, words := packWords f, latch := some 0, perLane := decide (f = .q4x) }
    [rdGroup a, rdGroup b, rdI c 1]
    (fun l _ => do
      let s ← get
      let ls := blockLanes n l
      let xs := ls.flatMap (fun j => lane8 (blockVal s j 0 (rdGroup a)) (blockVal s j 1 (rdGroup b)))
      let scale := blockVal s (ls.headD 0) 2 (rdI c 1) % 65536
      let r := quantBlock f false scale (xs.map (fun x => (x, rne)))
      let i := l - ls.headD 0
      pure { val := packBits w ((r.1.drop (8 * i)).take 8), flags := r.2.bits })

/-- QUPK (R353). -/
def execQupk (h : Head) (d : Dst) (a c : Src) (f : Fmt) (n : Blk) (hi : Bool) (s : State) :
    Host.Outcome State Fault Refusal :=
  let w := fmtBits f
  let ra := rdI a (packWords f)
  perform s { head := h, op := 0x1C9, dst := d, words := 4, latch := some 0, perLane := decide (f = .q4x) }
    [ra, rdI c 1]
    (fun l _ => do
      let s ← get
      let ls := blockLanes n l
      let codes := ls.flatMap (fun j => unpackBits w (blockVal s j 0 ra) 8)
      let scale := blockVal s (ls.headD 0) 1 (rdI c 1) % 65536
      let dec := decodeBlock f codes
      let mine := (dec.1.drop (8 * (l - ls.headD 0) + (if hi then 4 else 0))).take 4
      let rs := mine.map (fun v => roundEx .f32 rne (qupkScaled scale v))
      let x := (rs.map FRes.x).foldl Fpx.or { qf := dec.2, sf := scaleSf scale }
      fpLane l { bits := packBits 32 (rs.map FRes.bits), x := x } false)

/-! ## AMAX and CBRG (R354, R355) -/

/-- The values that AMAX takes from a lane's source. -/
def amaxVals (src : AmaxSrc) (x : Nat) : List FVal :=
  match src with
  | .f32 => [fdec .f32 x]
  | .bf16x2 => [fdec .bf16 (x % 65536), fdec .bf16 (x / 65536)]
  | .f16x2 => [fdec .f16 (x % 65536), fdec .f16 (x / 65536)]

/-- An immediate in AMAX's source, by its format (R302). -/
def rdAmax (src : AmaxSrc) (a : Src) : Rd :=
  match src with
  | .f32 => rdF .f32 a
  | .bf16x2 => rdH .bf16 a
  | .f16x2 => rdH .f16 a

/-- AMAX (R354): the update of each lane's home workgroup, lane by lane, which is one update in any order (R161). -/
def execAmax (h : Head) (a : Src) (n : BitVec 4) (src : AmaxSrc) (s : State) : Host.Outcome State Fault Refusal :=
  perform s { head := h, op := 0x1CB } [rdAmax src a] (fun l v => do
    let s ← get
    let g := homeOf s s.iss.core s.iss.slot l
    setState ((amaxVals src (v.getD 0 0)).foldl (fun s x => amaxUpdate s g n.toNat x) s)
    result 0)

/-- The words of a number. -/
def wordAt (x i : Nat) : Word := BitVec.ofNat 32 (x / 2 ^ (32 * i))

/-- CBRG (R355). -/
def execCbrg (h : Head) (d : Dst) (a b : Src) (out : CbrgOut) (s : State) : Host.Outcome State Fault Refusal :=
  let words := match out with | .all => 4 | .word _ => 1
  perform s { head := h, op := 0x1D0, dst := d, words := words, latch := some 0 } [rdI a 2, rdI b 4] (fun _ v => do
    let k := v.getD 0 0
    let c := v.getD 1 0
    let r := philox (wordAt k 0, wordAt k 1) (wordAt c 0, wordAt c 1, wordAt c 2, wordAt c 3)
    match out with
    | .all => result (packBits 32 (r.map BitVec.toNat))
    | .word i => result ((r.getD i.toNat 0).toNat))

end Sys2Proof.Machine
end

