-- ==== Sys2Proof/Machine/Lanes.lean ====
section
/-!
DEFINITION. Lane instructions (R356 to R362) and predicate instructions (R363 to R365).
-/

namespace Sys2Proof.Machine

/-! ## The shared form (R356) -/

/-- The shape of a lane instruction: never a uniform result. -/
def laneShape (h : Head) (op : Nat) (d : Dst) (words : Nat) (push : Bool) : Shape :=
  { head := h, op := op, dst := d, words := words, latch := some 0, perLane := true, push := push }

/-- The participating lanes with the values of one of their sources. -/
def partVals (s : State) (h : Head) (pos : Nat) (r : Rd) : List (Nat × Nat) :=
  (activeLanes s h.guard).map (fun l => (l, otherVal s l pos r))

/-- A lane's PRED (R133). -/
def predOf (s : State) (l : Nat) : BitVec 8 := ((threadAt s s.iss.core s.iss.slot l).map Thread.pred).getD 0

/-! ## SHFL (R357) -/

/-- The source lane of a mode, as an integer. -/
def shflLane (mode : ShflMode) (g i b : Nat) : Int :=
  let base := i / g * g
  let o := i - base
  match mode with
  | .from => (base + b % g : Nat)
  | .turn => base + ((o : Int) + intOf 32 true b) % g
  | .slide => (i : Int) + intOf 32 true b
  | .lead => (base + (o &&& b &&& (g - 1)) : Nat)

/-- SHFL (R357). -/
def execShfl (h : Head) (d : Dst) (a b c : Src) (mode : ShflMode) (g : Fin 6) (s : State) :
    Host.Outcome State Fault Refusal :=
  let n := 2 ^ g.val
  perform s (laneShape h 0x200 d 1 true) [rdI a 1, rdI b 1, rdI c 1] (fun l v => do
    let s ← get
    let j := shflLane mode n l (v.getD 1 0)
    let base := l / n * n
    let here := (activeLanes s h.guard).contains j.toNat && decide ((base : Int) ≤ j ∧ j < base + n)
    resultPush (if here then otherVal s j.toNat 0 (rdI a 1) else v.getD 2 0) here)

/-! ## VOTE and BALLOT (R358) -/

/-- The participating lanes whose bit is 1. -/
def votes (s : State) (h : Head) (p : Fin 7) (neg : Bool) : List Nat :=
  (activeLanes s h.guard).filter (fun l => bitAt (predOf s l) p.val != neg)

/-- The outcome of a test over `n` of `total` lanes. -/
def voteTest (t : VoteTest) (b n total : Nat) : Bool :=
  match t with
  | .ge _ => decide (min b total ≤ n)
  | .lt _ => decide (n < min b total)
  | .agree => n == 0 || n == total
  | .most => decide (total < 2 * n)

/-- VOTE (R358). -/
def execVote (h : Head) (d : Dst) (test : VoteTest) (p : Fin 7) (neg : Bool) (s : State) :
    Host.Outcome State Fault Refusal :=
  perform s (laneShape h 0x201 d 1 true) [rdI test.src 1] (fun _ _ => do
    let s ← get
    let act := activeLanes s h.guard
    let n := (votes s h p neg).length
    let b := otherVal s (act.headD 0) 0 (rdI test.src 1)
    resultPush n (voteTest test b n act.length))

/-- BALLOT (R358). -/
def execBallot (h : Head) (d : Dst) (p : Fin 7) (neg : Bool) (s : State) : Host.Outcome State Fault Refusal :=
  perform s (laneShape h 0x202 d 1 false) [] (fun _ _ => do
    let s ← get
    result (maskOf (votes s h p neg)).toNat)

/-! ## REDX and SCAN (R359, R360) -/

/-- An operation of two values of a type: the value and its conditions. -/
def redOp (op : ROp) (t : RTy) (x y : Nat) : Nat × Fpx :=
  match t with
  | .int t =>
    let n := ityBits t
    let less := decide (intOf n (ITy.signed t) x < intOf n (ITy.signed t) y)
    (match op with
     | .add => (x + y) % 2 ^ n
     | .min => if less then x else y
     | .max => if less then y else x
     | .and => x &&& y
     | .or => x ||| y
     | .xor => x ^^^ y, {})
  | .f32 =>
    let r := match op with
      | .min => fminmax .f32 false false x y
      | .max => fminmax .f32 true false x y
      | _ => faddOf .f32 rne x y
    (r.bits, r.x)

/-- The width of a reduction's type. -/
def rtyWords : RTy → Nat
  | .int t => ITy.words t
  | .f32 => 1

/-- A source of a reduction's type. -/
def rdR (t : RTy) (a : Src) : Rd :=
  match t with
  | .int t => rdI a (ITy.words t)
  | .f32 => rdF .f32 a

/-- One level of the tree over neighbouring nodes (R359). -/
def treeLevel (f : Nat → Nat → Nat × Fpx) : List (Option Nat) → List (Option Nat) × Fpx
  | x :: y :: r =>
    let t := treeLevel f r
    match x, y with
    | some a, some b => let z := f a b; (some z.1 :: t.1, z.2.or t.2)
    | some a, none => (some a :: t.1, t.2)
    | none, y => (y :: t.1, t.2)
  | [x] => ([x], {})
  | [] => ([], {})

/-- The tree over the 32 lanes (R359). -/
def tree (f : Nat → Nat → Nat × Fpx) : Nat → List (Option Nat) → Nat × Fpx
  | 0, l => ((l.headD none).getD 0, {})
  | n + 1, l => let r := treeLevel f l; let t := tree f n r.1; (t.1, r.2.or t.2)

/-- The lanes' values as the leaves of the tree. -/
def leaves (vs : List (Nat × Nat)) : List (Option Nat) := (List.range 32).map (fun l => Tab.get? vs l)

/-- The result of a reduction: a NaN of an FP type is the canonical one, a single lane's value too (R135). -/
def redResult (t : RTy) (x : Nat) : Nat :=
  match t with
  | .int _ => x
  | .f32 => if fdec .f32 x matches .nan _ then nanOf .f32 else x

/-- REDX (R356, R359). -/
def execRedx (h : Head) (d : Dst) (a : Src) (op : ROp) (t : RTy) (s : State) : Host.Outcome State Fault Refusal :=
  perform s (laneShape h 0x203 d (rtyWords t) false) [rdR t a] (fun _ _ => do
    let s ← get
    let r := tree (redOp op t) 5 (leaves (partVals s h 0 (rdR t a)))
    fpPath h { bits := redResult t r.1, x := r.2 })

/-- The prefixes in ascending lane order: each lane's result, and the conditions (R360). -/
def prefixes (op : SOp) (t : RTy) : List (Nat × Nat) → Nat → List (Nat × Nat) × Fpx
  | [], _ => ([], {})
  | (l, x) :: r, acc =>
    match op with
    | .xadd =>
      let z := redOp .add t acc x
      let y := prefixes op t r z.1
      ((l, acc) :: y.1, z.2.or y.2)
    | .red o =>
      let z := redOp o t acc x
      let y := prefixes op t r z.1
      ((l, z.1) :: y.1, z.2.or y.2)

/-- SCAN (R356, R360). -/
def execScan (h : Head) (d : Dst) (a b : Src) (op : SOp) (t : RTy) (s : State) : Host.Outcome State Fault Refusal :=
  perform s (laneShape h 0x204 d (rtyWords t) false) [rdR t a, rdR t b] (fun l _ => do
    let s ← get
    let vs := partVals s h 0 (rdR t a)
    let g := otherVal s ((vs.headD (0, 0)).1) 1 (rdR t b)
    let r := prefixes op t vs g
    fpPath h { bits := Tab.getD r.1 l 0, x := r.2 })

/-! ## MATCH and ELECT (R361, R362) -/

/-- The leaders of the groups of equal values, ascending (R361). -/
def leaders : List (Nat × Nat) → List Nat → List Nat
  | [], _ => []
  | (l, x) :: r, seen => if seen.contains x then leaders r seen else l :: leaders r (x :: seen)

/-- The fields of MATCH in a lane, and whether it leads (R361). -/
def matchWord (vs : List (Nat × Nat)) (l : Nat) : Nat × Bool :=
  let x := Tab.getD vs l 0
  let grp := (vs.filter (fun e => e.2 = x)).map Prod.fst
  let lead := grp.headD 0
  let num := ((leaders vs []).findIdx? (· == lead)).getD 0
  (num * 2 ^ 24 + (grp.filter (· < l)).length * 2 ^ 16 + grp.length * 2 ^ 8 + lead, lead == l)

/-- MATCH (R361). -/
def execMatchLanes (h : Head) (d : Dst) (a : Src) (w : Wd) (s : State) : Host.Outcome State Fault Refusal :=
  perform s (laneShape h 0x205 d 1 true) [rdI a (Wd.words w)] (fun l _ => do
    let s ← get
    let r := matchWord (partVals s h 0 (rdI a (Wd.words w))) l
    resultPush r.1 r.2)

/-- The lane that ELECT chooses, or 32 (R362). -/
def elected (s : State) (h : Head) (cand : Option (Fin 7)) (hi : Bool) : Nat :=
  let act := activeLanes s h.guard
  let cs := match cand with
    | none => act
    | some p => act.filter (fun l => bitAt (predOf s l) p.val)
  if hi then cs.getLastD 32 else cs.headD 32

/-- ELECT (R362). -/
def execElect (h : Head) (d : Dst) (cand : Option (Fin 7)) (hi : Bool) (s : State) :
    Host.Outcome State Fault Refusal :=
  perform s (laneShape h 0x206 d 1 true) [] (fun l _ => do
    let s ← get
    let e := elected s h cand hi
    resultPush e (e == l))

/-! ## Predicates (R363 to R365) -/

/-- The shape of a predicate instruction, which has no register result. -/
def predShape (h : Head) (op : Nat) (push : Bool) : Shape := { head := h, op := op, push := push }

/-- Change the PRED of a lane's thread. -/
def modPred (s : State) (l : Nat) (f : BitVec 8 → BitVec 8) : State :=
  modThread s s.iss.core s.iss.slot l (fun t => { t with pred := f t.pred })

/-- PSH (R363). -/
def execPsh (h : Head) (a : Src) (inv : Bool) (s : State) : Host.Outcome State Fault Refusal :=
  perform s (predShape h 0x240 true) [rdI a 1] (fun _ v => resultPush 0 ((v.getD 0 0 != 0) != inv))

/-- PDUP (R363). -/
def execPdup (h : Head) (p : Fin 7) (s : State) : Host.Outcome State Fault Refusal :=
  perform s (predShape h 0x242 true) [] (fun l _ => do
    let s ← get
    resultPush 0 (bitAt (predOf s l) p.val))

/-- The operation of PLOG on p0 and another bit. -/
def plogOp (op : PlogOp) (x y : Bool) : Bool :=
  match op with
  | .and => x && y
  | .or => x || y
  | .xor => x != y
  | .andn => x && !y

/-- Replace a bit of PRED. -/
def setPred (p : BitVec 8) (i : Nat) (b : Bool) : BitVec 8 :=
  (p &&& ~~~((1 : BitVec 8) <<< i)) ||| ((if b then 1 else 0 : BitVec 8) <<< i)

/-- PLOG (R363): it pushes, or with `.rep` replaces p0 in the active lanes. -/
def execPlog (h : Head) (op : PlogOp) (p : Fin 7) (rep inv : Bool) (s : State) : Host.Outcome State Fault Refusal :=
  perform s (predShape h 0x243 (!rep)) [] (fun l _ => do
    let s ← get
    let x := predOf s l
    let b := plogOp op (bitAt x 0) (bitAt x p.val) != inv
    if rep then do
      setState (modPred s l (fun q => setPred q 0 b))
      result 0
    else resultPush 0 b)

/-- PDROP (R364). -/
def execPdrop (h : Head) (n : Fin 7) (s : State) : Host.Outcome State Fault Refusal :=
  perform s (predShape h 0x241 false) [] (fun l _ => do
    let s ← get
    setState (modPred s l (fun q => q >>> (n.val + 1)))
    result 0)

/-- PSWP (R364). -/
def execPswp (h : Head) (p : Fin 6) (s : State) : Host.Outcome State Fault Refusal :=
  perform s (predShape h 0x245 false) [] (fun l _ => do
    let s ← get
    setState (modPred s l (fun q => setPred (setPred q 0 (bitAt q (p.val + 1))) (p.val + 1) (bitAt q 0)))
    result 0)

/-- PMOV (R365). -/
def execPmov (h : Head) (op : PmovOp) (s : State) : Host.Outcome State Fault Refusal :=
  match op with
  | .read d =>
    perform s (laneShape h 0x244 d 1 false) [] (fun l _ => do
      let s ← get
      result (predOf s l).toNat)
  | .write a =>
    perform s (predShape h 0x244 false) [rdI a 1] (fun l v => do
      let s ← get
      setState (modPred s l (fun _ => BitVec.ofNat 8 (v.getD 0 0)))
      result 0)

end Sys2Proof.Machine
end

