-- ==== Sys2Proof/Machine/Memory.lean ====
section
/-!
DEFINITION. Loads, stores, prefetch, cache control, fences, atomics and the compressing store (R366 to R376).
-/

namespace Sys2Proof.Machine

/-! ## Widths and addresses (R306) -/

/-- The bytes of a width, and the registers of its data. -/
def widthBytes : MWidth → Nat
  | .n8 | .i8 => 1
  | .n16 | .i16 => 2
  | .w32 => 4
  | .w64 => 8
  | .w128 => 16
def widthWords : MWidth → Nat
  | .w64 => 2
  | .w128 => 4
  | _ => 1

/-- A loaded value in its destination (R306). -/
def extendLoad (w : MWidth) (x : Nat) : Nat :=
  match w with
  | .i8 => bitsOf 32 (intOf 8 true x)
  | .i16 => bitsOf 32 (intOf 16 true x)
  | _ => x

/-- A global and a scratchpad address from a base and an offset (R306). -/
def eaGlobal (base : Nat) (off : BitVec 30) : DWord := BitVec.ofNat 64 base + off.signExtend 64
def eaSpad (base : Nat) (off : BitVec 30) : Word := BitVec.ofNat 32 base + off.signExtend 32

/-- Whether an access of this order is an escape where it writes (R266). -/
def ordReleases : AccOrd → Bool
  | .plain => false
  | .marked o _ => releases o

/-! ## Loads and stores (R366, R367) -/

/-- LD (R366, R367). -/
def execLd (h : Head) (d : Dst) (b : Base) (off : BitVec 30) (w : MWidth) (o : AccOrd) (hint : Hint) (s : State) :
    Host.Outcome State Fault Refusal :=
  perform s { head := h, op := 0x280, dst := d, words := widthWords w, latch := some 3, perLane := true, load := true }
    [rdI (baseSrc b) 2] (fun l v => do
      let x ← loadGlobal l (eaGlobal (v.getD 0 0) off) (widthBytes w) o hint
      result (extendLoad w x))

/-- ST (R366, R367): a release store is an escape (R266). -/
def execSt (h : Head) (b : Base) (off : BitVec 30) (x : Data) (w : MWidth) (o : AccOrd) (hint : Hint) (s : State) :
    Host.Outcome State Fault Refusal :=
  perform s { head := h, op := 0x281 } [rdI (baseSrc b) 2, rdI (dataSrc x) (widthWords w)] (fun l v =>
    let store : Act Out := do
      storeGlobal l (eaGlobal (v.getD 0 0) off) (widthBytes w) (v.getD 1 0) o hint
      result 0
    if ordReleases o then escape l store else store)

/-- LDS (R366, R367). -/
def execLds (h : Head) (d : Dst) (b : Base) (off : BitVec 30) (w : MWidth) (o : AccOrd) (s : State) :
    Host.Outcome State Fault Refusal :=
  perform s { head := h, op := 0x282, dst := d, words := widthWords w, latch := some 3, perLane := true }
    [rdI (baseSrc b) 1] (fun l v => do
      let x ← loadSpad l (eaSpad (v.getD 0 0) off) (widthBytes w) o
      result (extendLoad w x))

/-- STS (R366, R367). -/
def execSts (h : Head) (b : Base) (off : BitVec 30) (x : Data) (w : MWidth) (o : AccOrd) (s : State) :
    Host.Outcome State Fault Refusal :=
  perform s { head := h, op := 0x283 } [rdI (baseSrc b) 1, rdI (dataSrc x) (widthWords w)] (fun l v =>
    let store : Act Out := do
      storeSpad l (eaSpad (v.getD 0 0) off) (widthBytes w) (v.getD 1 0) o
      result 0
    if ordReleases o then escape l store else store)

/-! ## Prefetch, cache control and fences (R368 to R371) -/

/-- Fill a line at a virtual address for a lane, where its translation does not fault and it may be cached (R368). -/
def prefetchLine (s : State) (l c : Nat) (hm : Hm) (hint : Hint) (va : DWord) : State :=
  match pathPlace (countMisses s l c hm va .read) c hm va .read with
  | (s, .ok p) =>
    if isRemote p.home || p.mt then s else cacheRead s (.core c hint) hm (placeKey s hm p).1 (p.home / 64 * 64) 64
  | (s, .error _) => s

/-- The lines from an address on. -/
def linesFrom (va : DWord) (n : Nat) : List DWord :=
  (List.range n).map (fun k => BitVec.ofNat 64 (va.toNat / 64 * 64 + 64 * k))

/-- A prefetch stalls in place while one of its lines is walked (R33). -/
def stallLines (vas : List DWord) (kind : AccKind) : Act Unit := do
  let s ← get
  match vas.find? (fun a => xlateStalls s s.iss.core (accessHm s s.iss.core s.iss.slot) a kind) with
  | some a => stallOn a kind
  | none => pure ()

/-- PREF (R368): placement only. -/
def execPref (h : Head) (b : Base) (off : BitVec 30) (n : Fin 7) (hint : Hint) (s : State) :
    Host.Outcome State Fault Refusal :=
  perform s { head := h, op := 0x290, calm := true } [rdI (baseSrc b) 2] (fun l v => do
    let s ← get
    let hm := accessHm s s.iss.core s.iss.slot
    stallLines (linesFrom (eaGlobal (v.getD 0 0) off) (n.val + 1)) .read
    setState ((linesFrom (eaGlobal (v.getD 0 0) off) (n.val + 1)).foldl
      (fun s a => prefetchLine s l s.iss.core hm hint a) s)
    result 0)

/-- Fetch a line of code into the instruction cache, where the fetch would not fault and the line may be cached (R369). -/
def prefetchCode (s : State) (l c : Nat) (hm : Hm) (va : DWord) : State :=
  match pathPlace (countMisses s l c hm va .fetch) c hm va .fetch with
  | (s, .ok p) =>
    if isPoisoned s p.home 64 || p.mt || remoteEnd s hm false p.home 64 != .answered then s
    else fillCode s c [{ line := p.home / 64, hm := hm, key := (placeKey s hm p).1 }]
  | (s, .error _) => s

/-- IPREF (R369): once for the path, in its lowest active lane. -/
def execIpref (h : Head) (off : BitVec 30) (n : Fin 7) (s : State) : Host.Outcome State Fault Refusal :=
  perform s { head := h, op := 0x294, calm := true } [] (fun l _ => do
    let s ← get
    let i := s.iss
    if (activeLanes s h.guard).headD l = l then
      let cb := ((threadAt s i.core i.slot l).map Thread.cbase).getD 0
      let a := codeAddr cb (i.pc + off.signExtend 32)
      stallLines (linesFrom a (n.val + 1)) .fetch
      setState ((linesFrom a (n.val + 1)).foldl (fun s a => prefetchCode s l i.core (slotHm s i.core i.slot) a) s)
    result 0)

/-- A lane's cache operation on the line that holds an address; one whose translation would fault does nothing (R370). -/
def cctlOn (s : State) (l : Nat) (va : DWord) (f : State → Place → State) : State :=
  let i := s.iss
  let hm := accessHm s i.core i.slot
  match pathPlace (countMisses s l i.core hm va .read) i.core hm va .read with
  | (s, .ok p) => f s p
  | (s, .error _) => s

/-- CCTL.CLN and CCTL.INV of a line (R370): a remote line of the executing hallmark in the L2; another line in the
core's L1, which holds it clean after a write-back, or no longer holds it. -/
def cctlLine (s : State) (a : Nat) (drop : Bool) : State :=
  let c := s.iss.core
  let ln := a / 64
  if isRemote a then
    if ((Tab.get? s.lines ln).map Line.hm) = some (accessHm s c s.iss.slot) then
      (if drop then dropLine s ln else writeBackLine s ln)
    else s
  else if (coreAt s c).l1.any (fun x => x.line == ln) then
    let s := writeBackLine s ln
    if drop then l1Evict s c ln else s
  else s

/-- CCTL.CLN (R370). -/
def execCctlCln (h : Head) (b : Base) (off : BitVec 30) (s : State) : Host.Outcome State Fault Refusal :=
  perform s { head := h, op := 0x291 } [rdI (baseSrc b) 2] (fun l v => do
    let s ← get
    stallOn (eaGlobal (v.getD 0 0) off) .read
    setState (cctlOn s l (eaGlobal (v.getD 0 0) off) (fun s p => cctlLine s p.home false))
    result 0)

/-- CCTL.INV (R370). -/
def execCctlInv (h : Head) (b : Base) (off : BitVec 30) (s : State) : Host.Outcome State Fault Refusal :=
  perform s { head := h, op := 0x291 } [rdI (baseSrc b) 2] (fun l v => do
    let s ← get
    stallOn (eaGlobal (v.getD 0 0) off) .read
    setState (cctlOn s l (eaGlobal (v.getD 0 0) off) (fun s p => cctlLine s p.home true))
    result 0)

/-- Pin a line for a workgroup (R370): the core's pin table, and whether the line has an entry. -/
def pinLine (k : Core) (g ln : Nat) : Core × Bool :=
  if k.pins.contains (g, ln) then (k, true)
  else if 64 ≤ k.pins.length ∨ 16 ≤ (k.pins.filter (fun e => e.1 = g)).length then (k, false)
  else ({ k with pins := k.pins ++ [(g, ln)] }, true)

/-- CCTL.PIN (R370). -/
def execCctlPin (h : Head) (d : Dst) (b : Base) (off : BitVec 30) (s : State) : Host.Outcome State Fault Refusal :=
  perform s { head := h, op := 0x291, dst := d, words := 1, push := true, perLane := true } [rdI (baseSrc b) 2]
    (fun l v => do
      let s ← get
      let i := s.iss
      let g := homeOf s i.core i.slot l
      stallOn (eaGlobal (v.getD 0 0) off) .read
      let hm := accessHm s i.core i.slot
      let va := eaGlobal (v.getD 0 0) off
      match pathPlace (countMisses s l i.core hm va .read) i.core hm va .read with
      | (s, .ok p) =>
        if isRemote p.home || p.mt then do
          setState s
          resultPush 0 false
        else do
          let r := pinLine (coreAt s i.core) g (p.home / 64)
          setState (setCore s i.core r.1)
          resultPush r.2.toNat r.2
      | (s, .error _) => do
        setState s
        resultPush 0 false)

/-- CCTL.UNPIN (R370). -/
def execCctlUnpin (h : Head) (b : Base) (off : BitVec 30) (s : State) : Host.Outcome State Fault Refusal :=
  perform s { head := h, op := 0x291 } [rdI (baseSrc b) 2] (fun l v => do
    let s ← get
    let i := s.iss
    let g := homeOf s i.core i.slot l
    stallOn (eaGlobal (v.getD 0 0) off) .read
    setState (cctlOn s l (eaGlobal (v.getD 0 0) off) (fun s p =>
      modCore s i.core (fun k => { k with pins := k.pins.filter (fun e => e != (g, p.home / 64)) })))
    result 0)

/-- FENCE (R371): the remote lines of R54 and the release count of R78; a releasing fence is an escape (R266). -/
def execFence (h : Head) (o : MOrder) (sc : Scope) (s : State) : Host.Outcome State Fault Refusal :=
  perform s { head := h, op := 0x292 } [] (fun l _ =>
    let fence : Act Out := do
      let s ← get
      order (homeOf s s.iss.core s.iss.slot l) o sc
      result 0
    if releases o then escape l fence else fence)

/-! ## Atomics (R372 to R374) -/

/-- The operations of R307. -/
inductive AtomOp where
  | add | min | max | and | or | xor | exch | cas | addcl | subcl | fadd | fmin | fmax | minU | maxU
  deriving DecidableEq, Repr

/-- The format of a floating-point atomic. -/
def atomFmt (n : Nat) : FFmt := if n = 8 then .f64 else .f32

/-- What an atomic writes over an old value of `n` bytes (R373); for `.cas`, x holds the compare value, then the new
one, and a failed comparison writes nothing. -/
def atomWrite (op : AtomOp) (n : Nat) (x old : Nat) : Option Nat :=
  let m := 2 ^ (8 * n)
  let sless (a b : Nat) : Bool := decide (intOf (8 * n) true a < intOf (8 * n) true b)
  match op with
  | .add => some ((old + x) % m)
  | .min => some (if sless x old then x else old)
  | .max => some (if sless old x then x else old)
  | .and => some (old &&& x)
  | .or => some (old ||| x)
  | .xor => some (old ^^^ x)
  | .exch => some x
  | .cas => if old = x % m then some (x / m) else none
  | .addcl => some (min (old + x) (m - 1))
  | .subcl => some (if x < old then old - x else 0)
  | .fadd => some (faddOf (atomFmt n) rne old x).bits
  | .fmin => some (fminmax (atomFmt n) false false old x).bits
  | .fmax => some (fminmax (atomFmt n) true false old x).bits
  | .minU => some (min old x)
  | .maxU => some (max old x)

/-- The data source of an atomic: a pair of values for `.cas`, a float for the floating-point operations. -/
def atomRd (op : AtomOp) (x : Data) (w : MWidth) : Rd :=
  match op with
  | .cas => rdI (dataSrc x) (2 * widthWords w)
  | .fadd | .fmin | .fmax => rdF (atomFmt (widthBytes w)) (dataSrc x)
  | _ => rdI (dataSrc x) (widthWords w)

/-- The request of an atomic: bits [3:0] of its opcode, and its operand (R307). -/
def atomReq (op : Nat) (f : AtomOp) (n x : Nat) : BitVec 4 × List Byte :=
  (BitVec.ofNat 4 op, bytesOf (if f = .cas then 2 * n else n) x)

/-- An ATOM (R372, R373): it returns the old value. -/
def atom (s : State) (h : Head) (op : Nat) (d : Dst) (b : Base) (off : BitVec 30) (x : Data) (w : MWidth) (o : MOrder)
    (sc : Scope) (f : AtomOp) : Host.Outcome State Fault Refusal :=
  perform s { head := h, op := op, dst := d, words := widthWords w, latch := some 3, perLane := true, load := true }
    [rdI (baseSrc b) 2, atomRd f x w] (fun l v => escape l (do
      let r ← atomicGlobal l (eaGlobal (v.getD 0 0) off) (widthBytes w) o sc (atomReq op f (widthBytes w) (v.getD 1 0))
        (atomWrite f (widthBytes w) (v.getD 1 0))
      result r))

/-- An ATOMS (R372, R373). -/
def atoms (s : State) (h : Head) (op : Nat) (d : Dst) (b : Base) (off : BitVec 30) (x : Data) (w : MWidth) (o : MOrder)
    (sc : Scope) (f : AtomOp) : Host.Outcome State Fault Refusal :=
  perform s { head := h, op := op, dst := d, words := widthWords w, latch := some 3, perLane := true }
    [rdI (baseSrc b) 1, atomRd f x w] (fun l v => escape l (do
      let r ← atomicSpad l (eaSpad (v.getD 0 0) off) (widthBytes w) o sc
        (atomWrite f (widthBytes w) (v.getD 1 0))
      result r))

/-- A RED (R372, R373): no result. -/
def red (s : State) (h : Head) (op : Nat) (b : Base) (off : BitVec 30) (x : Data) (w : MWidth) (o : MOrder) (sc : Scope)
    (f : AtomOp) : Host.Outcome State Fault Refusal :=
  perform s { head := h, op := op } [rdI (baseSrc b) 2, atomRd f x w] (fun l v => escape l (do
    let _ ← atomicGlobal l (eaGlobal (v.getD 0 0) off) (widthBytes w) o sc (atomReq op f (widthBytes w) (v.getD 1 0))
      (atomWrite f (widthBytes w) (v.getD 1 0))
    result 0))

/-- ATOM.ADD (R372, R373). -/
def execAtomAdd (h : Head) (d : Dst) (b : Base) (off : BitVec 30) (x : Data) (w : MWidth) (o : MOrder) (sc : Scope) (_ : Hint)
    (s : State) : Host.Outcome State Fault Refusal := atom s h 0x2a0 d b off x w o sc .add

/-- ATOM.MIN (R372, R373). -/
def execAtomMin (h : Head) (d : Dst) (b : Base) (off : BitVec 30) (x : Data) (w : MWidth) (o : MOrder) (sc : Scope) (_ : Hint)
    (s : State) : Host.Outcome State Fault Refusal := atom s h 0x2a1 d b off x w o sc .min

/-- ATOM.MAX (R372, R373). -/
def execAtomMax (h : Head) (d : Dst) (b : Base) (off : BitVec 30) (x : Data) (w : MWidth) (o : MOrder) (sc : Scope) (_ : Hint)
    (s : State) : Host.Outcome State Fault Refusal := atom s h 0x2a2 d b off x w o sc .max

/-- ATOM.AND (R372, R373). -/
def execAtomAnd (h : Head) (d : Dst) (b : Base) (off : BitVec 30) (x : Data) (w : MWidth) (o : MOrder) (sc : Scope) (_ : Hint)
    (s : State) : Host.Outcome State Fault Refusal := atom s h 0x2a3 d b off x w o sc .and

/-- ATOM.OR (R372, R373). -/
def execAtomOr (h : Head) (d : Dst) (b : Base) (off : BitVec 30) (x : Data) (w : MWidth) (o : MOrder) (sc : Scope) (_ : Hint)
    (s : State) : Host.Outcome State Fault Refusal := atom s h 0x2a4 d b off x w o sc .or

/-- ATOM.XOR (R372, R373). -/
def execAtomXor (h : Head) (d : Dst) (b : Base) (off : BitVec 30) (x : Data) (w : MWidth) (o : MOrder) (sc : Scope) (_ : Hint)
    (s : State) : Host.Outcome State Fault Refusal := atom s h 0x2a5 d b off x w o sc .xor

/-- ATOM.EXCH (R372, R373). -/
def execAtomExch (h : Head) (d : Dst) (b : Base) (off : BitVec 30) (x : Data) (w : MWidth) (o : MOrder) (sc : Scope) (_ : Hint)
    (s : State) : Host.Outcome State Fault Refusal := atom s h 0x2a6 d b off x w o sc .exch

/-- ATOM.CAS (R372, R373). -/
def execAtomCas (h : Head) (d : Dst) (b : Base) (off : BitVec 30) (x : Data) (w : MWidth) (o : MOrder) (sc : Scope) (_ : Hint)
    (s : State) : Host.Outcome State Fault Refusal := atom s h 0x2a7 d b off x w o sc .cas

/-- ATOM.ADDCL (R372, R373). -/
def execAtomAddcl (h : Head) (d : Dst) (b : Base) (off : BitVec 30) (x : Data) (w : MWidth) (o : MOrder) (sc : Scope) (_ : Hint)
    (s : State) : Host.Outcome State Fault Refusal := atom s h 0x2a8 d b off x w o sc .addcl

/-- ATOM.SUBCL (R372, R373). -/
def execAtomSubcl (h : Head) (d : Dst) (b : Base) (off : BitVec 30) (x : Data) (w : MWidth) (o : MOrder) (sc : Scope) (_ : Hint)
    (s : State) : Host.Outcome State Fault Refusal := atom s h 0x2a9 d b off x w o sc .subcl

/-- ATOM.FADD (R372, R373). -/
def execAtomFadd (h : Head) (d : Dst) (b : Base) (off : BitVec 30) (x : Data) (w : MWidth) (o : MOrder) (sc : Scope) (_ : Hint)
    (s : State) : Host.Outcome State Fault Refusal := atom s h 0x2aa d b off x w o sc .fadd

/-- ATOM.FMIN (R372, R373). -/
def execAtomFmin (h : Head) (d : Dst) (b : Base) (off : BitVec 30) (x : Data) (w : MWidth) (o : MOrder) (sc : Scope) (_ : Hint)
    (s : State) : Host.Outcome State Fault Refusal := atom s h 0x2ab d b off x w o sc .fmin

/-- ATOM.FMAX (R372, R373). -/
def execAtomFmax (h : Head) (d : Dst) (b : Base) (off : BitVec 30) (x : Data) (w : MWidth) (o : MOrder) (sc : Scope) (_ : Hint)
    (s : State) : Host.Outcome State Fault Refusal := atom s h 0x2ac d b off x w o sc .fmax

/-- ATOM.MINU (R372, R373). -/
def execAtomMinU (h : Head) (d : Dst) (b : Base) (off : BitVec 30) (x : Data) (w : MWidth) (o : MOrder) (sc : Scope) (_ : Hint)
    (s : State) : Host.Outcome State Fault Refusal := atom s h 0x2ad d b off x w o sc .minU

/-- ATOM.MAXU (R372, R373). -/
def execAtomMaxU (h : Head) (d : Dst) (b : Base) (off : BitVec 30) (x : Data) (w : MWidth) (o : MOrder) (sc : Scope) (_ : Hint)
    (s : State) : Host.Outcome State Fault Refusal := atom s h 0x2ae d b off x w o sc .maxU

/-- ATOMS.ADD (R372, R373). -/
def execAtomsAdd (h : Head) (d : Dst) (b : Base) (off : BitVec 30) (x : Data) (w : MWidth) (o : MOrder) (sc : Scope)
    (s : State) : Host.Outcome State Fault Refusal := atoms s h 0x2b0 d b off x w o sc .add

/-- ATOMS.MIN (R372, R373). -/
def execAtomsMin (h : Head) (d : Dst) (b : Base) (off : BitVec 30) (x : Data) (w : MWidth) (o : MOrder) (sc : Scope)
    (s : State) : Host.Outcome State Fault Refusal := atoms s h 0x2b1 d b off x w o sc .min

/-- ATOMS.MAX (R372, R373). -/
def execAtomsMax (h : Head) (d : Dst) (b : Base) (off : BitVec 30) (x : Data) (w : MWidth) (o : MOrder) (sc : Scope)
    (s : State) : Host.Outcome State Fault Refusal := atoms s h 0x2b2 d b off x w o sc .max

/-- ATOMS.AND (R372, R373). -/
def execAtomsAnd (h : Head) (d : Dst) (b : Base) (off : BitVec 30) (x : Data) (w : MWidth) (o : MOrder) (sc : Scope)
    (s : State) : Host.Outcome State Fault Refusal := atoms s h 0x2b3 d b off x w o sc .and

/-- ATOMS.OR (R372, R373). -/
def execAtomsOr (h : Head) (d : Dst) (b : Base) (off : BitVec 30) (x : Data) (w : MWidth) (o : MOrder) (sc : Scope)
    (s : State) : Host.Outcome State Fault Refusal := atoms s h 0x2b4 d b off x w o sc .or

/-- ATOMS.XOR (R372, R373). -/
def execAtomsXor (h : Head) (d : Dst) (b : Base) (off : BitVec 30) (x : Data) (w : MWidth) (o : MOrder) (sc : Scope)
    (s : State) : Host.Outcome State Fault Refusal := atoms s h 0x2b5 d b off x w o sc .xor

/-- ATOMS.EXCH (R372, R373). -/
def execAtomsExch (h : Head) (d : Dst) (b : Base) (off : BitVec 30) (x : Data) (w : MWidth) (o : MOrder) (sc : Scope)
    (s : State) : Host.Outcome State Fault Refusal := atoms s h 0x2b6 d b off x w o sc .exch

/-- ATOMS.CAS (R372, R373). -/
def execAtomsCas (h : Head) (d : Dst) (b : Base) (off : BitVec 30) (x : Data) (w : MWidth) (o : MOrder) (sc : Scope)
    (s : State) : Host.Outcome State Fault Refusal := atoms s h 0x2b7 d b off x w o sc .cas

/-- ATOMS.ADDCL (R372, R373). -/
def execAtomsAddcl (h : Head) (d : Dst) (b : Base) (off : BitVec 30) (x : Data) (w : MWidth) (o : MOrder) (sc : Scope)
    (s : State) : Host.Outcome State Fault Refusal := atoms s h 0x2b8 d b off x w o sc .addcl

/-- ATOMS.SUBCL (R372, R373). -/
def execAtomsSubcl (h : Head) (d : Dst) (b : Base) (off : BitVec 30) (x : Data) (w : MWidth) (o : MOrder) (sc : Scope)
    (s : State) : Host.Outcome State Fault Refusal := atoms s h 0x2b9 d b off x w o sc .subcl

/-- ATOMS.FADD (R372, R373). -/
def execAtomsFadd (h : Head) (d : Dst) (b : Base) (off : BitVec 30) (x : Data) (w : MWidth) (o : MOrder) (sc : Scope)
    (s : State) : Host.Outcome State Fault Refusal := atoms s h 0x2ba d b off x w o sc .fadd

/-- ATOMS.FMIN (R372, R373). -/
def execAtomsFmin (h : Head) (d : Dst) (b : Base) (off : BitVec 30) (x : Data) (w : MWidth) (o : MOrder) (sc : Scope)
    (s : State) : Host.Outcome State Fault Refusal := atoms s h 0x2bb d b off x w o sc .fmin

/-- ATOMS.FMAX (R372, R373). -/
def execAtomsFmax (h : Head) (d : Dst) (b : Base) (off : BitVec 30) (x : Data) (w : MWidth) (o : MOrder) (sc : Scope)
    (s : State) : Host.Outcome State Fault Refusal := atoms s h 0x2bc d b off x w o sc .fmax

/-- ATOMS.MINU (R372, R373). -/
def execAtomsMinU (h : Head) (d : Dst) (b : Base) (off : BitVec 30) (x : Data) (w : MWidth) (o : MOrder) (sc : Scope)
    (s : State) : Host.Outcome State Fault Refusal := atoms s h 0x2bd d b off x w o sc .minU

/-- ATOMS.MAXU (R372, R373). -/
def execAtomsMaxU (h : Head) (d : Dst) (b : Base) (off : BitVec 30) (x : Data) (w : MWidth) (o : MOrder) (sc : Scope)
    (s : State) : Host.Outcome State Fault Refusal := atoms s h 0x2be d b off x w o sc .maxU

/-- RED.ADD (R372, R373). -/
def execRedAdd (h : Head) (b : Base) (off : BitVec 30) (x : Data) (w : MWidth) (o : MOrder) (sc : Scope) (_ : Hint)
    (s : State) : Host.Outcome State Fault Refusal := red s h 0x2c0 b off x w o sc .add

/-- RED.MIN (R372, R373). -/
def execRedMin (h : Head) (b : Base) (off : BitVec 30) (x : Data) (w : MWidth) (o : MOrder) (sc : Scope) (_ : Hint)
    (s : State) : Host.Outcome State Fault Refusal := red s h 0x2c1 b off x w o sc .min

/-- RED.MAX (R372, R373). -/
def execRedMax (h : Head) (b : Base) (off : BitVec 30) (x : Data) (w : MWidth) (o : MOrder) (sc : Scope) (_ : Hint)
    (s : State) : Host.Outcome State Fault Refusal := red s h 0x2c2 b off x w o sc .max

/-- RED.AND (R372, R373). -/
def execRedAnd (h : Head) (b : Base) (off : BitVec 30) (x : Data) (w : MWidth) (o : MOrder) (sc : Scope) (_ : Hint)
    (s : State) : Host.Outcome State Fault Refusal := red s h 0x2c3 b off x w o sc .and

/-- RED.OR (R372, R373). -/
def execRedOr (h : Head) (b : Base) (off : BitVec 30) (x : Data) (w : MWidth) (o : MOrder) (sc : Scope) (_ : Hint)
    (s : State) : Host.Outcome State Fault Refusal := red s h 0x2c4 b off x w o sc .or

/-- RED.XOR (R372, R373). -/
def execRedXor (h : Head) (b : Base) (off : BitVec 30) (x : Data) (w : MWidth) (o : MOrder) (sc : Scope) (_ : Hint)
    (s : State) : Host.Outcome State Fault Refusal := red s h 0x2c5 b off x w o sc .xor

/-- RED.ADDCL (R372, R373). -/
def execRedAddcl (h : Head) (b : Base) (off : BitVec 30) (x : Data) (w : MWidth) (o : MOrder) (sc : Scope) (_ : Hint)
    (s : State) : Host.Outcome State Fault Refusal := red s h 0x2c8 b off x w o sc .addcl

/-- RED.SUBCL (R372, R373). -/
def execRedSubcl (h : Head) (b : Base) (off : BitVec 30) (x : Data) (w : MWidth) (o : MOrder) (sc : Scope) (_ : Hint)
    (s : State) : Host.Outcome State Fault Refusal := red s h 0x2c9 b off x w o sc .subcl

/-- RED.FADD (R372, R373). -/
def execRedFadd (h : Head) (b : Base) (off : BitVec 30) (x : Data) (w : MWidth) (o : MOrder) (sc : Scope) (_ : Hint)
    (s : State) : Host.Outcome State Fault Refusal := red s h 0x2ca b off x w o sc .fadd

/-- RED.FMIN (R372, R373). -/
def execRedFmin (h : Head) (b : Base) (off : BitVec 30) (x : Data) (w : MWidth) (o : MOrder) (sc : Scope) (_ : Hint)
    (s : State) : Host.Outcome State Fault Refusal := red s h 0x2cb b off x w o sc .fmin

/-- RED.FMAX (R372, R373). -/
def execRedFmax (h : Head) (b : Base) (off : BitVec 30) (x : Data) (w : MWidth) (o : MOrder) (sc : Scope) (_ : Hint)
    (s : State) : Host.Outcome State Fault Refusal := red s h 0x2cc b off x w o sc .fmax

/-- RED.MINU (R372, R373). -/
def execRedMinU (h : Head) (b : Base) (off : BitVec 30) (x : Data) (w : MWidth) (o : MOrder) (sc : Scope) (_ : Hint)
    (s : State) : Host.Outcome State Fault Refusal := red s h 0x2cd b off x w o sc .minU

/-- RED.MAXU (R372, R373). -/
def execRedMaxU (h : Head) (b : Base) (off : BitVec 30) (x : Data) (w : MWidth) (o : MOrder) (sc : Scope) (_ : Hint)
    (s : State) : Host.Outcome State Fault Refusal := red s h 0x2ce b off x w o sc .maxU

/-! ## The compressing store (R375, R376) -/

/-- Whether a lane can read some sources. -/
def readsWell (s : State) (d : Dst) (rs : List Rd) (l : Nat) : Bool :=
  match readLane s d 2 rs l with
  | .ok _ => true
  | .error _ => false

/-- The active lanes of a path that take part in the pointer's update: those that neither hold an appended place from
before a park nor replay a log record. -/
def cmpstNew (s : State) (h : Head) : List Nat :=
  (activeLanes s h.guard).filter (fun l =>
    ((threadAt s s.iss.core s.iss.slot l).bind Thread.cmpst).isNone &&
      (!(rollbackWg s (homeOf s s.iss.core s.iss.slot l)) || (logFor s l).isNone))

/-- The lanes that read the base (R375): the lowest of L, and before it those whose sources trap, which are then not of
L. -/
def cmpstBases (s : State) (h : Head) (d : Dst) (rs : List Rd) : List Nat :=
  let ls := cmpstNew s h
  let bad := ls.takeWhile (fun l => !readsWell s d rs l)
  bad ++ (ls.drop bad.length).take 1

/-- L (R375): the lanes of a path that append, with the sources that they read readable. -/
def cmpstLanes (s : State) (h : Head) (d : Dst) (rs : List Rd) : List Nat :=
  (cmpstNew s h).filter (fun l => readsWell s d (readsOf (some (cmpstBases s h d rs)) rs l) l)

/-- The orders of the pointer update and of the data writes (R376). -/
def cmpstPtrOrd (o : AccOrd) (spad : Bool) : MOrder × Scope :=
  match o with
  | .plain => (.rlx, if spad then .team else .dev)
  | .marked o sc => (o, sc)
def cmpstDataOrd : AccOrd → AccOrd
  | .plain => .plain
  | .marked _ sc => .marked .rlx sc

/-- The pointer's update by the lowest lane, for all lanes that append: each then holds its place. -/
def cmpstPointer (ls : List Nat) (l0 : Nat) (base : Nat) (off : BitVec 30) (n : Nat) (o : AccOrd) (spad : Bool) :
    Act Unit := do
  let k := ls.length
  let po := cmpstPtrOrd o spad
  let old ←
    if spad then atomicSpad l0 (eaSpad base off) 4 po.1 po.2 (fun x => some ((x + k * n) % 2 ^ 32))
    else atomicGlobal l0 (eaGlobal base off) 8 po.1 po.2 (0, bytesOf 8 (k * n)) (fun x => some ((x + k * n) % 2 ^ 64))
  let s ← get
  let b := old / n * n
  setState ((withPos ls).foldl (fun s e =>
    modThread s s.iss.core s.iss.slot e.2 (fun t =>
      { t with cmpst := some { base := BitVec.ofNat 64 b, count := k, rank := e.1 } })) s)

/-- A lane's data write at its place, and its result. -/
def cmpstWrite (l : Nat) (p : CmpstPark) (n x : Nat) (o : AccOrd) (spad : Bool) : Act Out := do
  let a := p.base + BitVec.ofNat 64 (p.rank * n)
  if spad then do
    storeSpad l (loWord a) n x (cmpstDataOrd o)
    result (p.base.toNat % 2 ^ 32 + 2 ^ 32 * p.count)
  else do
    storeGlobal l a n x (cmpstDataOrd o) .none
    result p.base.toNat

/-- CMPST (R375, R376): the lowest lane moves the pointer for all, then each lane writes its data in lane order; a trap of
the pointer's check is every lane's. -/
def execCmpst (h : Head) (d : Dst) (b : Base) (off : BitVec 30) (x : Data) (w : MWidth) (o : AccOrd) (spad : Bool)
    (s0 : State) : Host.Outcome State Fault Refusal :=
  let rb := rdI (baseSrc b) (if spad then 1 else 2)
  let rs := [rb, rdI (dataSrc x) (widthWords w)]
  let ls := cmpstLanes s0 h d rs
  let n := widthBytes w
  let heldAt (s : State) (l : Nat) : Option CmpstPark := (threadAt s s.iss.core s.iss.slot l).bind Thread.cmpst
  perform s0 { head := h, op := 0x293, dst := d, words := 2, perLane := true, first := some (cmpstBases s0 h d rs) } rs
    (fun l v => escape l (do
    let s ← get
    match heldAt s l with
    | some p => cmpstWrite l p n (v.getD 1 0) o spad
    | none => do
      let l0 := ls.headD l
      cmpstPointer ls l0 (srcVal (begun s0) l0 0 rb) off n o spad
      let s ← get
      match heldAt s l with
      | some p => cmpstWrite l p n (v.getD 1 0) o spad
      | none => result 0))

end Sys2Proof.Machine
end

