-- ==== Sys2Proof/Machine/Engine.lean ====
section
/-!
DEFINITION. What the engines of a core share: their blocks (R377), tags (R91, R92), reservations (R112 to R115), their
accesses with misses, faults and poison (R33, R98, R99, R256), and the records of their faults (R232).
-/

namespace Sys2Proof.Machine

/-! ## Checks in order (R85) -/

/-- The first check that fails, with its cause and detail. -/
def firstFail : List (Bool × Outcome) → Option Outcome
  | [] => none
  | (b, o) :: r => if b then some o else firstFail r

/-- Raise a failing check. -/
def failing (o : Option Outcome) : Act Unit :=
  match o with
  | some x => raise x.1 x.2
  | none => pure ()

/-! ## Scratchpad addresses of commands (R46, R83) -/

/-- The workgroup and offset that a team scratchpad address names, where `n` bytes from it lie in that scratchpad
(R46). -/
def spadFind (s : State) (own : Nat) (a : Nat) (n : Nat) : Option (Nat × Nat) :=
  let rank := a / 2 ^ 28 % 16
  let o := a % 2 ^ 28
  let ws := teamWgs s own
  let h := if rank = 15 then own else ws.getD rank own
  if rank ≠ 15 ∧ (8 ≤ rank ∨ ws.length ≤ rank) then none
  else if (wgAt s h).spg * 16384 < o + n then none
  else some (h, o)

/-- Bytes of a workgroup's scratchpad from an offset on, across pages. -/
def spadBytes (s : State) (h o : Nat) : Nat → List Byte
  | 0 => []
  | n + 1 => spadRead s h o 1 ++ spadBytes s h (o + 1) n

/-- The block of an E-format instruction in a lane (R377): it lies in the issuing workgroup's own scratchpad, whole, and
aligned. -/
def blockAt (l : Nat) (e : EBlock) (v n align : Nat) : Act (Nat × Nat × List DWord) := do
  let s ← get
  let h := homeOf s s.iss.core s.iss.slot l
  let a : Word := BitVec.ofNat 32 v + e.eoff.signExtend 32
  let info := accInfo n false false false
  let rank := field a 28 4
  let o := field a 0 28
  if rank ≠ 15 ∧ rank ≠ (wgAt s h).rank then raiseAt (0x11, 0x06) (a.setWidth 64) info
  else if (wgAt s h).spg * 16384 < o + n then raiseAt (0x11, 0x06) (a.setWidth 64) info
  else if a.toNat % align ≠ 0 then raiseAt (0x12, 0) (a.setWidth 64) info
  else pure (h, o, (List.range (n / 8)).map (fun i => spadWord s h (o + 8 * i)))

/-- The source that gives an E-format instruction its block address. -/
def blockRd (e : EBlock) : Rd := rdI e.sa 1

/-- Where a command is issued in a lane. -/
def originOf (s : State) (l : Nat) : Origin :=
  let t := threadAt s s.iss.core s.iss.slot l
  { slot := s.iss.slot, pc := s.iss.pc, cbase := (t.map Thread.cbase).getD 0, top := (t.map Thread.top).getD 0 }

/-! ## Tags (R91, R92) -/

/-- Change a tag. -/
def modTag (s : State) (h t : Nat) (f : Tag → Tag) : State := modWg s h (fun w => { w with tags := Tab.set w.tags t (f (tagOf w t)) })

/-- Issue a command on a tag (R92). -/
def tagIssue (s : State) (h t : Nat) (pc : Word) : State :=
  modTag s h t (fun g =>
    if g.st = .busy then { g with count := g.count + 1, pc := pc }
    else { st := .busy, count := 1, some := false, fail := none, pc := pc })

/-- How a command ends (R92). -/
inductive CmdEnd where
  | completed | discarded
  | failed (cause detail : Byte)
  deriving DecidableEq, Repr

/-- A command of a tag ends (R92): the last one gives the tag its state. -/
def tagEnd (s : State) (h t : Nat) (e : CmdEnd) : State :=
  modTag s h t (fun g =>
    let some_ := g.some || (e == .completed)
    let fail := match g.fail, e with
      | some f, _ => some f
      | none, .failed c d => some (c, d)
      | none, _ => none
    let st : TagSt := if 1 < g.count then .busy else if fail.isSome then .failed else if some_ then .done else .dropped
    { g with st := st, count := g.count - 1, some := some_, fail := fail })

/-! ## Reservations (R112 to R115) -/

/-- The number of a reservation (R112). -/
def Resv.number (r : Resv) : Nat := r.gen.toNat * 16 + r.lix.toNat

/-- The live record of a workgroup that a number names (R115). -/
def resvOf (s : State) (h n : Nat) : Option Resv :=
  (coreAt s (wgAt s h).core).resvs.find? (fun r => decide (r.wg = h ∧ r.number = n) && r.live)

/-- The record that a command of a workgroup uses by a number, released or not: a command accepted before the release
goes on (R115). -/
def resvUsed (s : State) (h n : Nat) : Option Resv :=
  (coreAt s (wgAt s h).core).resvs.find? (fun r => decide (r.wg = h ∧ r.number = n))

/-- Whether some command names a reservation (R115). -/
def resvNamed (k : Core) (r : Resv) : Bool :=
  k.copyQ.any (fun e => decide (e.2.wg = r.wg) && e.2.uses.contains r.number) ||
    k.mtxQ.any (fun e => decide (e.2.wg = r.wg) && e.2.uses.contains r.number)

/-- Free the released records of a core that no command names and no snapshot keeps (R115, R270). -/
def resvSweep (s : State) (c : Nat) : State :=
  modCore s c (fun k =>
    { dropGranules k (k.resvs.filter (fun r => !r.live && !r.keep && !resvNamed k r)) with
      resvs := k.resvs.filter (fun r => r.live || r.keep || resvNamed k r) })

/-- The place in the operand buffer of a reservation's offset. -/
def Resv.at (r : Resv) (o : Nat) : Nat := r.base * 1024 + o

/-- A byte of the operand buffer; one that no copy has written is a free value (R114). -/
def bufByte (s : State) (c a : Nat) : Byte := (Tab.get? (coreAt s c).buf a).getD (Config.freeBits 8 (s.fresh * 2 ^ 20 + a))

/-- Bytes of the operand buffer. -/
def bufBytes (s : State) (c a n : Nat) : List Byte := (List.range n).map (fun i => bufByte s c (a + i))

/-- Whether a read of a reservation races with a write of it (R72): a copy that writes it has not ended, or has ended and no
wait on its tag has acquired it. -/
def resvRaces (s : State) (c : Nat) (r : Resv) : Bool :=
  (coreAt s c).copyQ.any (fun e => decide (e.2.wg = r.wg) && e.2.uses.contains r.number) || !r.unseen.isEmpty

/-- A command that wrote some reservations ends: its writes are ordered by a wait on its tag alone, and those of a command that
did not complete by nothing, which the number 64 says (R71, R72; log entry 53). -/
def resvWritten (s : State) (c h : Nat) (uses : List Nat) (t : Nat) : State :=
  modCore s c (fun k => { k with resvs := k.resvs.map (fun r =>
    if r.wg = h ∧ uses.contains r.number then { r with unseen := insertNum t r.unseen } else r) })

/-- The acquire of a wait on some tags of a workgroup (R71, R93): the writes that they cover are ordered before what follows. -/
def acquireTags (s : State) (h : Nat) (ts : List Nat) : State :=
  modCore s (wgAt s h).core (fun k => { k with resvs := k.resvs.map (fun r =>
    if r.wg = h then { r with unseen := r.unseen.filter (fun t => !ts.contains t) } else r) })

/-- Bytes of a reservation as an operand of the matrix unit reads them: free values where the read races with a write of
the reservation, or its command's did (R72). -/
def operandBytesAt (s : State) (c : Nat) (raced : Bool) (r : Resv) (o n : Nat) : List Byte :=
  if raced || resvRaces s c r then (List.range n).map (fun i => Config.freeBits 8 (s.fresh * 2 ^ 20 + r.at (o + i)))
  else bufBytes s c (r.at o) n

/-- Write bytes of the operand buffer; the granules are dirty for both banks (R268). -/
def setBuf (s : State) (c a : Nat) (bs : List Byte) : State :=
  modCore s c (fun k =>
    { k with
      buf := (withPos bs).foldl (fun t p => Tab.set t (a + p.1) p.2) k.buf
      cleanBuf := k.cleanBuf.filter (fun e => !decide (a / 1024 ≤ e.1 ∧ e.1 ≤ (a + bs.length - 1) / 1024)) })

/-! ## Fault records of engines (R232, R430) -/

/-- The 128 bytes of an engine's fault record. -/
def engineRecord (hm : Hm) (o : Outcome) (tag : Nat) (n p : Nat) (va : DWord) (wr : Bool) (op : Nat) (f : Origin) :
    List DWord :=
  let e : DugEntry :=
    { slot := f.slot, lanes := 0, pc := f.pc, cause := o.1, detail := o.2, hm := hm, eng := true,
      tag := BitVec.ofNat 6 tag, qix := n, addrs := [va], info := infoWord op false (accInfo 16 wr false false), seq := 0 }
  (recordWords e f.cbase p).take 9 ++ List.replicate 7 0

/-! ## Saves and rollbacks stop the engines (R100, R241, R272) -/

/-- The record of the log by which the release of an engine command of a workgroup is not performed again (R270, R272). -/
def engLogged (s : State) (h : Nat) (x : Bool × Nat × Nat) : Option Nat :=
  match Tab.get? s.teams (wgAt s h).team with
  | none => none
  | some m => m.snap.log.findIdx? (fun r => decide (r.wg = h ∧ r.eng = some x) && r.replayed == 0)

/-- The release of an engine command (R71, R78): in a `.rollback` launch a logged one is not performed again, and one that
is performed is logged (R270, R272, R273). -/
def engRelease (s : State) (h : Nat) (sc : Scope) (x : Bool × Nat × Nat) (f : Origin) : State :=
  if !rollbackWg s h then releaseFlag s h sc
  else
    let t := (wgAt s h).team
    match engLogged s h x with
    | some i =>
      { s with teams := Tab.adjust s.teams t (fun m =>
          { m with snap := { m.snap with log := m.snap.log.mapIdx (fun j r =>
              if j = i then { r with replayed := 0xFFFFFFFF } else r) } }) }
    | none =>
      let r : LogRec :=
        { wg := h, slot := f.slot, lanes := 0, pc := f.pc, results := [], pushed := 0, replayed := 0xFFFFFFFF, eng := some x }
      let s := releaseFlag s h sc
      { s with teams := Tab.adjust s.teams t (fun m =>
          if m.snap.valid then { m with snap := { m.snap with log := m.snap.log ++ [r] } } else m) }

/-- Whether the engine commands of a workgroup stand still: every thread of its team has stopped for a save, or its
rollback group is being rolled back or its snapshot written (R267), or the clock is stopped (R452, R458). -/
def enginePaused (s : State) (h : Nat) : Bool :=
  clockStopped s ||
  match Tab.get? s.teams (wgAt s h).team with
  | none => false
  | some m =>
    m.rolling || snapping s h ||
      (match m.stop with
       | some p => p.kind != .debug && m.wgs.all (fun g => (threadsOf s g).all (fun t => t.2.2.held || !t.2.2.live))
       | none => false)

/-! ## Engine accesses (R33, R98, R99, R256) -/

/-- What keeps an engine access from being performed: a walk to wait for, a fault, or poison. -/
inductive EngStop where
  | miss (va : DWord) (kind : AccKind)
  | fault (o : Outcome) (va : DWord) (kind : AccKind)
  | poison (p : Place)
  | bad (o : Outcome)
  | later
  deriving DecidableEq, Repr

/-- The place of an engine access (R32, R33): by the L1 TLB or the court TLB, which counts (R290), or a miss. -/
def engPlace (s : State) (c : Nat) (hm : Hm) (top : Half) (va : DWord) (kind : AccKind) : State × Except EngStop Place :=
  if !isContext hm then
    match homeAddr s va.toNat with
    | some a => (s, .ok { home := a, sk := false, mt := false })
    | none => (s, .error (.fault (0x11, 0x05) va kind))
  else
    let s := holdDesc s hm
    let d := descOf s hm
    let given (r : Except Outcome Place) : Except EngStop Place :=
      match r with
      | .ok p => .ok p
      | .error o => .error (.fault o va kind)
    if !d.v then (s, .error (.fault (0x11, 0x0C) va kind))
    else if !canonical va d.l5 then (s, .error (.fault (0x11, 0x04) va kind))
    else
      match (lookupTlb (coreAt s c).tlb hm va).filter (fun e => serves e kind) with
      | some e => (s, given (placeBy s e va))
      | none =>
        match (lookupTlb (Tab.getD s.courtTlb (c / 8) []) hm va).filter (fun e => serves e kind) with
        | some e =>
          let s := creditEvent (bumpEvent (fillTlbs s c e) c 0x0A 1) c hm top 0x0A 1
          (s, given (placeBy s e va))
        | none => (s, .error (.miss va kind))

/-- Count what an engine access finds in the core's L1, for the thread that issued its command (R290, R291). -/
def engCount (s : State) (c : Nat) (hm : Hm) (top : Half) (p : Place) (n : Nat) : State :=
  if isRemote p.home || p.mt then s
  else
    let e := if l1Hit s c (placeKey s hm p).1 p.home n then 0x08 else 0x09
    creditEvent (bumpEvent s c e 1) c hm top e 1

/-- An engine's read of 16 bytes of global memory, with the hint of its command (R56, R82); a poisoned sector is consumed
(R256), and a remote one may be refused, get no answer, or wait for the routing tables (R260, R445). -/
def engRead (s : State) (c h : Nat) (hm : Hm) (top : Half) (hint : Hint) (va : DWord) (n : Nat) : State × Except EngStop (List Byte) :=
  match engPlace s c hm top va .read with
  | (s, .error e) => (s, .error e)
  | (s, .ok p) =>
    match remoteEnd s hm p.mt p.home n with
    | .waits => (s, .error .later)
    | .refused => (askRead s hm p.mt p.home n, .error (.fault (0x11, 0x05) va .read))
    | .timedOut => (askRead s hm p.mt p.home n, .error (.poison p))
    | .answered =>
      if isPoisoned s p.home n then (s, .error (.poison p))
      else
      let r := readPlace (engCount s c hm top p n) (.core c hint) hm p false n
      let r := readPast r.2 h none hm p.home r.1 p.mt
      (r.2, .ok r.1)

/-- An engine's write of bytes within a sector of global memory: a store of its command (R83). It leaves its record and
is not itself checked (R78, R79; log entry 17). -/
def engWrite (s : State) (c : Nat) (h : Nat) (hm : Hm) (top : Half) (hint : Hint) (va : DWord) (bs : List Byte) : State × Except EngStop Unit :=
  match engPlace s c hm top va .write with
  | (s, .error e) => (s, .error e)
  | (s, .ok p) =>
    if preImageDue s h p.home then (requestWait s 0 (.preImage (p.home / 4096)), .error .later)
    else
      let old := readBytes s.mem p.home bs.length
      let before := bytesBefore s (placeKey s hm p).2 p.home bs.length
      let s := writePlace (engCount s c hm top p bs.length) (.core c hint) hm p false bs
      let s := replayWrite (recordWrite s h p.home bs.length) h p.home
      (notePending s h none hm p.home old before bs false, .ok ())

/-! ## Progress in sectors (R98) -/

/-- The k-th sector that is not yet written, from P on; `ahead` rises. -/
def nthLeft (ahead : List Nat) (p k : Nat) : Nat := ahead.foldl (fun j a => if a ≤ j then j + 1 else j) (p + k)

/-- The sector that an engine moves next: any that is left (R89). -/
def pickSector (s : State) (ahead : List Nat) (p z : Nat) : Nat :=
  let left := z - p - ahead.length
  nthLeft ahead p (if left ≤ 1 then 0 else Config.pick s.fresh % left)

/-- Move P past the sectors that are written. -/
def advanceP (p : Nat) : List Nat → Nat × List Nat
  | [] => (p, [])
  | a :: r => if a = p then advanceP (p + 1) r else (p, a :: r)

/-- The progress after a sector is written. -/
def wrote (p : Nat) (ahead : List Nat) (j : Nat) : Nat × List Nat := advanceP p (insertNum j ahead)

end Sys2Proof.Machine
end

