-- ==== Sys2Proof/Machine/Copy.lean ====
section
/-!
DEFINITION. The copy engine (spec/04, R82 to R105, R428): CPY, CPYS, CPYX, STRM and SCNT, and what the engine does with
a command, one sector at a time.
-/

namespace Sys2Proof.Machine

/-! ## The block (R82) -/

/-- Word `i` of a block. -/
def blkW (b : List DWord) (i : Nat) : DWord := b.getD i 0

/-- The fields of word 0x30 (R82). -/
def blkSrcK (b : List DWord) : Nat := field (blkW b 6) 0 2
def blkDstK (b : List DWord) : Nat := field (blkW b 6) 2 2
def blkAcq (b : List DWord) : Bool := bitAt (blkW b 6) 4
def blkAcqSc (b : List DWord) : BitVec 3 := (blkW b 6).extractLsb' 5 3
def blkRel (b : List DWord) : Bool := bitAt (blkW b 6) 8
def blkRelSc (b : List DWord) : BitVec 3 := (blkW b 6).extractLsb' 9 3

/-- A scope by its code (R58); a reserved code has been refused. -/
def scopeBy (c : BitVec 3) : Scope := (Scope.ofCode c).getD .wg

/-- The bytes of a unit, and the units, of a copy form (R84). -/
def unitLen (b : List DWord) : Nat := field (blkW b 2) 0 32
def unitCount (f : CopyForm) (b : List DWord) : Nat := if f = .cpy then 1 else field (blkW b 2) 32 32

/-- The offset of a unit by a signed pitch (R84). -/
def pitchOf (x : DWord) (i : Nat) : DWord := BitVec.ofNat 64 i * x

/-- The reserved fields and codes of word 0x30 (R82). -/
def ctlReserved (b : List DWord) : Bool :=
  decide (field (blkW b 6) 14 50 ≠ 0) || (Scope.ofCode (blkAcqSc b)).isNone || (Scope.ofCode (blkRelSc b)).isNone ||
    (!blkAcq b && blkAcqSc b != 0) || (!blkRel b && blkRelSc b != 0) || decide (blkDstK b = 3) || blkW b 7 != 0

/-- The reserved fields of a copy's block (R82, R83). -/
def copyReserved (f : CopyForm) (b : List DWord) : Bool :=
  ctlReserved b || decide (field (blkW b 5) 32 32 ≠ 0) || (f != .cpyx && blkW b 5 != 0) ||
    (f == .cpy && (decide (field (blkW b 2) 32 32 ≠ 0) || blkW b 3 != 0 || blkW b 4 != 0)) ||
    decide (blkSrcK b = 1 ∧ field (blkW b 0) 32 32 ≠ 0) || decide (blkDstK b = 1 ∧ field (blkW b 1) 32 32 ≠ 0) ||
    decide (blkDstK b = 2 ∧ field (blkW b 1) 48 16 ≠ 0)

/-- The addresses, lengths and pitches that must be multiples of 16, and IDX of 4 (R84). -/
def copyMisaligned (b : List DWord) : Bool :=
  decide ((blkW b 0).toNat % 16 ≠ 0 ∨ (blkW b 1).toNat % 16 ≠ 0 ∨ unitLen b % 16 ≠ 0 ∨ (blkW b 3).toNat % 16 ≠ 0 ∨
    (blkW b 4).toNat % 16 ≠ 0 ∨ field (blkW b 5) 0 32 % 4 ≠ 0)

/-- Whether a tag of a workgroup carries a running stream (R85). -/
def streamOn (s : State) (h t : Nat) : Bool :=
  (coreAt s (wgAt s h).core).copyQ.any (fun e => decide (e.2.wg = h ∧ e.2.form = .strm ∧ e.2.tag.toNat = t))

/-- The streams that a workgroup runs. -/
def streamCount (s : State) (h : Nat) : Nat :=
  ((coreAt s (wgAt s h).core).copyQ.filter (fun e => decide (e.2.wg = h ∧ e.2.form = .strm))).length

/-- The table's rows that apply to CPY, CPYS and CPYX (R85). -/
def copyRows (s : State) (h t : Nat) (f : CopyForm) (b : List DWord) : Option Outcome :=
  firstFail
    [(copyReserved f b, (0x44, 0x01)), (decide (2 ≤ blkSrcK b), (0x44, 0x02)),
     (decide (0x3FFFFFF0 < unitCount f b * unitLen b), (0x44, 0x03)), (copyMisaligned b, (0x44, 0x04)),
     (streamOn s h t, (0x44, 0x0A))]

/-- The 32-bit scratchpad address of a unit: one beyond 32 bits wraps (log entry 41). -/
def unitSpad (x pitch : DWord) (i : Nat) : Nat := field (x + pitchOf pitch i) 0 32

/-- The first unit whose bytes are not all in scratchpad (R46, R85). -/
def spadRange (s : State) (h : Nat) (x pitch : DWord) (n len : Nat) : Option DWord :=
  if len = 0 then none
  else
    ((List.range n).map (unitSpad x pitch)).findSome? (fun a =>
      if (spadFind s h a len).isNone then some (BitVec.ofNat 64 a) else none)

/-- The scratchpad ranges of a copy: source, destination, index list (R85). -/
def copySpads (s : State) (h : Nat) (f : CopyForm) (b : List DWord) : Option DWord :=
  let n := unitCount f b
  let a := if blkSrcK b = 1 ∧ f ≠ .cpyx then spadRange s h (blkW b 0) (blkW b 3) n (unitLen b) else none
  let d := if blkDstK b = 1 then spadRange s h (blkW b 1) (blkW b 4) n (unitLen b) else none
  let i := if f = .cpyx then spadRange s h (blkW b 5) 0 1 (4 * n) else none
  a.or (d.or i)

/-- The reservation that a copy writes, by number. -/
def copyResv (b : List DWord) : List Nat := if blkDstK b = 2 then [field (blkW b 1) 32 16] else []

/-- The offset of a unit in its reservation (R84), modulo 2^32 (log entry 41). -/
def unitOff (b : List DWord) (i : Nat) : Nat := field (((blkW b 1).extractLsb' 0 32).setWidth 64 + pitchOf (blkW b 4) i) 0 32

/-- The reservation ranges of a copy (R47, R85, R115). -/
def copyResvs (s : State) (h : Nat) (f : CopyForm) (b : List DWord) : Option Outcome :=
  match copyResv b with
  | [] => none
  | n :: _ =>
    match resvOf s h n with
    | none => some (0x41, 0x01)
    | some r =>
      if unitLen b ≠ 0 ∧ (List.range (unitCount f b)).any (fun i => decide (r.size * 1024 < unitOff b i + unitLen b)) then
        some (0x41, 0x02)
      else none

/-! ## Issue (R86, R87, R92, R96) -/

/-- The state with a command in the queue's lowest free entry (log entry 10). -/
def enqueueCopy (s : State) (l h : Nat) (f : CopyForm) (b : List DWord) (o : Nat) (t : BitVec 6)
    (g : Option (BitVec 4)) (uses : List Nat) : State :=
  let k := coreAt s (wgAt s h).core
  let n := (Tab.freeKey k.copyQ 64 0).getD 0
  let e : CopyCmd :=
    { wg := h, hm := (wgAt s h).hm, form := f, block := b, blkAddr := o, p := 0,
      st := if g.isSome then .held else .queued, g := g, tag := t, seq := s.stamp, staged := 0, consumed := 0,
      ahead := [], exts := [], miss := none, snap := false, uses := uses, why := (0, 0), orig := originOf s l }
  let s := modCore { s with stamp := s.stamp + 1 } (wgAt s h).core (fun k => { k with copyQ := Tab.set k.copyQ n e })
  let s := match g with
    | some i => modWg s h (fun w => { w with guards := Tab.set w.guards i.toNat true })
    | none => if blkAcq b then orderWork s h .acq (scopeBy (blkAcqSc b)) else s
  tagIssue s h t.toNat s.iss.pc

/-- Take an entry for a lane, or stay at the instruction (R87). -/
def takeCopy (l h : Nat) (f : CopyForm) (b : List DWord) (o : Nat) (t : BitVec 6) (g : Option (BitVec 4))
    (uses : List Nat) : Act Out :=
  takeEntryFor (fun s => copyRoom s h) .copyEntry (fun s => enqueueCopy s l h f b o t g uses)

/-- One lane of CPY, CPYS or CPYX: its checks in the order of R85, in the state `s0` before any lane has enqueued (R87;
log entry 19), then its entry. -/
def copyLane (s0 : State) (f : CopyForm) (e : EBlock) (t : BitVec 6) (g : Option (BitVec 4)) (l v : Nat) : Act Out := do
  let (h, o, b) ← blockAt l e v 64 64
  failing (copyRows s0 h t.toNat f b)
  match copySpads s0 h f b with
  | some a => raiseAt (0x11, 0x06) a 0
  | none => do
    failing (copyResvs s0 h f b)
    takeCopy l h f b o t g (copyResv b)

/-- A copy instruction. -/
def copyInstr (s : State) (h : Head) (op : Nat) (f : CopyForm) (e : EBlock) (t : BitVec 6) (g : Option (BitVec 4)) :
    Host.Outcome State Fault Refusal :=
  perform s { head := h, op := op } [blockRd e] (fun l v => copyLane s f e t g l (v.getD 0 0))

/-- CPY (R82 to R101, R377). -/
def execCpy (h : Head) (e : EBlock) (t : BitVec 6) (g : Option (BitVec 4)) (s : State) :
    Host.Outcome State Fault Refusal := copyInstr s h 0x300 .cpy e t g

/-- CPYS (R82 to R101, R377). -/
def execCpys (h : Head) (e : EBlock) (t : BitVec 6) (g : Option (BitVec 4)) (s : State) :
    Host.Outcome State Fault Refusal := copyInstr s h 0x301 .cpys e t g

/-- CPYX (R82 to R101, R377). -/
def execCpyx (h : Head) (e : EBlock) (t : BitVec 6) (g : Option (BitVec 4)) (s : State) :
    Host.Outcome State Fault Refusal := copyInstr s h 0x302 .cpyx e t g

/-! ## Streams (R102 to R105) -/

/-- The fields of a stream's block (R102). -/
def strmCount (b : List DWord) : Nat := field (blkW b 1) 0 32
def strmLog (b : List DWord) : Nat := field (blkW b 3) 32 5
def strmAhead (b : List DWord) : Nat := field (blkW b 3) 16 16
def strmBlocks (b : List DWord) : Nat := field (blkW b 3) 0 16

/-- The table's rows that apply to STRM (R85, R102, R105), of which the last two count the streams of the lanes before. A ring that is not aligned to its block, and an extent count out
of its range, have detail 0x05 (log entry 42). -/
def strmRows (s : State) (h t : Nat) (g : Bool) (b : List DWord) : Option Outcome :=
  firstFail
    [(g || ctlReserved b || decide (field (blkW b 1) 32 32 ≠ 0) || decide (field (blkW b 3) 37 27 ≠ 0) || blkW b 5 != 0,
        (0x44, 0x01)),
     (decide (blkSrcK b ≠ 0 ∨ blkDstK b ≠ 0), (0x44, 0x02)),
     (decide ((blkW b 0).toNat % 16 ≠ 0 ∨ (blkW b 2).toNat % 16 ≠ 0 ∨ (blkW b 4).toNat % 8 ≠ 0), (0x44, 0x04)),
     (decide (strmCount b = 0 ∨ 65536 < strmCount b ∨ strmLog b < 12 ∨ 20 < strmLog b ∨ strmBlocks b = 0 ∨
        strmAhead b = 0 ∨ strmBlocks b < strmAhead b ∨ (blkW b 2).toNat % 2 ^ strmLog b ≠ 0), (0x44, 0x05)),
     (decide (4 ≤ streamCount s h), (0x44, 0x06)), ((tagOf (wgAt s h) t).st == .busy, (0x44, 0x0A))]

/-- STRM (R102 to R105, R377). -/
def execStrm (h : Head) (e : EBlock) (t : BitVec 6) (g : Option (BitVec 4)) (s : State) :
    Host.Outcome State Fault Refusal :=
  perform s { head := h, op := 0x303 } [blockRd e] (fun l v => do
    let (w, o, b) ← blockAt l e (v.getD 0 0) 64 64
    let s ← get
    failing (strmRows s w t.toNat g.isSome b)
    takeCopy l w .strm b o t none [])

/-- SCNT (R104, R377): the consumed count of the tag's stream rises by x, where it stays at most the staged count. -/
def execScnt (h : Head) (x : Src) (t : BitVec 6) (s : State) : Host.Outcome State Fault Refusal :=
  perform s { head := h, op := 0x304 } [rdI x 1] (fun l v => do
    let s ← get
    let w := homeOf s s.iss.core s.iss.slot l
    let c := (wgAt s w).core
    match (coreAt s c).copyQ.find? (fun e => decide (e.2.wg = w ∧ e.2.form = .strm ∧ e.2.tag = t)) with
    | none => raise 0x44 0x08
    | some (n, k) =>
      if k.staged < k.consumed + v.getD 0 0 then raise 0x44 0x07
      else do
        setState (modCore s c (fun q => { q with copyQ := Tab.adjust q.copyQ n (fun k =>
          { k with consumed := k.consumed + v.getD 0 0 }) }))
        result 0)

/-! ## Where a sector lies -/

/-- A place that a sector is read from or written to. -/
inductive Loc where
  | glob (va : DWord)
  | spad (h o : Nat)
  | buf (a : Nat)
  | pool (a : Nat)
  | zero
  | nowhere
  deriving DecidableEq, Repr

/-- A scratchpad place by its address, if it lies in a scratchpad. -/
def spadLoc (s : State) (h a n : Nat) : Loc :=
  match spadFind s h a n with
  | some p => .spad p.1 p.2
  | none => .nowhere

/-- The destination of a sector (R84). -/
def dstLoc (s : State) (e : CopyCmd) (j : Nat) : Loc :=
  let per := unitLen e.block / 16
  let o := 16 * (j % per)
  if blkDstK e.block = 0 then .glob (blkW e.block 1 + pitchOf (blkW e.block 4) (j / per) + BitVec.ofNat 64 o)
  else if blkDstK e.block = 1 then
    spadLoc s e.wg ((unitSpad (blkW e.block 1) (blkW e.block 4) (j / per) + o) % 2 ^ 32) 16
  else
    match resvUsed s e.wg (field (blkW e.block 1) 32 16) with
    | some r => .buf (r.at ((unitOff e.block (j / per) + o) % 2 ^ 32))
    | none => .nowhere

/-- The place of a sector of a stream's block (R103): an extent that has been read, or zero past the last one. -/
def extLoc : List (DWord × Nat) → Nat → Option Loc
  | [], _ => none
  | (va, n) :: r, o => if o < n then some (.glob (va + BitVec.ofNat 64 o)) else extLoc r (o - n)

/-- The bytes of the extents that a stream has read. -/
def extSum (l : List (DWord × Nat)) : Nat := (l.map Prod.snd).foldl (· + ·) 0

/-! ## CPYP (R428) -/

/-- The fields of a CPYP block (R428). -/
def cpypLen (b : List DWord) : Nat := field (blkW b 1) 32 32
def cpypHm (b : List DWord) : Hm := (blkW b 1).extractLsb' 18 14
def cpypToDie (b : List DWord) : Bool := bitAt (blkW b 1) 17
def cpypBuf (b : List DWord) : Bool := bitAt (blkW b 1) 16
def cpypUnit (b : List DWord) : Nat := field (blkW b 1) 8 8
def cpypOff (b : List DWord) : Nat := field (blkW b 2) 0 14

/-- The place on the die of a sector of a CPYP. -/
def cpypLoc (b : List DWord) (j : Nat) : Loc :=
  if cpypBuf b then .buf (1024 * cpypUnit b + cpypOff b + 16 * j) else .pool (16384 * cpypUnit b + cpypOff b + 16 * j)

/-- Sectors of a command (R84, R428), and of the block that a stream stages (R105). -/
def CopyCmd.sectors (e : CopyCmd) : Nat :=
  match e.form with
  | .strm => 2 ^ (strmLog e.block - 4)
  | .cpyp => cpypLen e.block / 16
  | f => unitCount f e.block * unitLen e.block / 16

/-! ## Races of commands (R90) -/

/-- A range of bytes that a command reads or writes, as it names it: main memory (0) or a workgroup's scratchpad (its handle and
1), the first byte, the length. -/
abbrev Span := Nat × Nat × Nat

/-- A range of bytes where it lies: main memory by home address (0), a core's pool (its number and 1), or a core's operand
buffer (its number and 193). -/
abbrev HomeSpan := Nat × Nat × Nat

/-- The range of `n` bytes from a place on, where main memory or a scratchpad holds it. -/
def Loc.span (n : Nat) : Loc → Option Span
  | .glob va => some (0, va.toNat, n)
  | .spad h o => some (h + 1, o, n)
  | _ => none

/-- The range of a scratchpad address, where a scratchpad holds it. -/
def spadSpan (s : State) (h a n : Nat) : List Span :=
  match spadFind s h a n with
  | some (g, o) => [(g + 1, o, n)]
  | none => []

/-- A range cut at the multiples of a size. -/
def cutAt (size a n : Nat) : List (Nat × Nat) :=
  (List.range ((a % size + n + size - 1) / size)).map (fun i =>
    let lo := max a ((a / size + i) * size)
    (lo, min (a + n) ((a / size + i + 1) * size) - lo))

/-- Where a range lies, page by page: under a hallmark on a core; a page that is not mapped holds none of it. -/
def homeSpans (s : State) (c : Nat) (hm : Hm) (a : Span) : List HomeSpan :=
  if a.1 = 0 then
    (cutAt 4096 a.2.1 a.2.2).filterMap (fun p =>
      match (place s c hm (BitVec.ofNat 64 p.1) .read).2 with
      | .ok q => some (0, q.home, p.2)
      | .error _ => none)
  else
    (cutAt 16384 a.2.1 a.2.2).filterMap (fun p =>
      (spadAt s (a.1 - 1) p.1).map (fun q => ((wgAt s (a.1 - 1)).core + 1, q, p.2)))

/-- Where the `n` bytes from a place on lie. -/
def Loc.homes (s : State) (c : Nat) (hm : Hm) (n : Nat) : Loc → List HomeSpan
  | .glob va => homeSpans s c hm (0, va.toNat, n)
  | .spad h o => homeSpans s c hm (h + 1, o, n)
  | .buf a => [(c + 193, a, n)]
  | .pool a => [(c + 1, a, n)]
  | .zero | .nowhere => []

/-- Whether two ranges share a byte. -/
def spansMeet (a b : Nat × Nat × Nat) : Bool :=
  a.1 == b.1 && decide (a.2.1 < b.2.1 + b.2.2 ∧ b.2.1 < a.2.1 + a.2.2)

/-- The places of a command's units, each by that of its first sector. -/
def unitLocs (e : CopyCmd) (at_ : Nat → Loc) : List Loc :=
  (List.range (unitCount e.form e.block)).map (fun i => at_ (i * (unitLen e.block / 16)))

/-- What a command writes, where main memory or a scratchpad holds it. -/
def writeSpans (s : State) (e : CopyCmd) : List Span :=
  match e.form with
  | .strm => [(0, (blkW e.block 2).toNat, strmBlocks e.block * 2 ^ strmLog e.block), (0, (blkW e.block 4).toNat, 8)]
  | .cpyp => []
  | _ => (unitLocs e (dstLoc s e)).filterMap (Loc.span (unitLen e.block))

/-- Where the bytes lie that a command writes. -/
def writeHomes (s : State) (c : Nat) (e : CopyCmd) : List HomeSpan :=
  match e.form with
  | .strm => (writeSpans s e).flatMap (homeSpans s c e.hm)
  | .cpyp => (if cpypToDie e.block then cpypLoc e.block 0 else .glob (blkW e.block 0)).homes s c e.hm (cpypLen e.block)
  | _ => (unitLocs e (dstLoc s e)).flatMap (Loc.homes s c e.hm (unitLen e.block))

/-- Whether another command that has not ended writes a byte of some ranges: a command of a copy queue or of a matrix queue, by
whatever address it names the byte (R90). -/
def writtenElsewhere (s : State) (seq : Nat) (hs : List HomeSpan) : Bool :=
  let hit (l : List HomeSpan) : Bool := l.any (fun a => hs.any (spansMeet a))
  s.cores.any (fun k =>
    k.2.copyQ.any (fun x => x.2.seq != seq && hit (writeHomes s k.1 x.2)) ||
      k.2.mtxQ.any (fun x => x.2.seq != seq && hit (x.2.writes.flatMap (homeSpans s k.1 x.2.hm))))

/-! ## Sources (R84, R85) -/

/-- The index of an element of a CPYX (R84), read when the command runs (R85); undefined where another command writes it
(R90). -/
def copyIndex (s : State) (e : CopyCmd) (i : Nat) : Nat :=
  match spadFind s e.wg ((field (blkW e.block 5) 0 32 + 4 * i) % 2 ^ 32) 4 with
  | some p =>
    if writtenElsewhere s e.seq (homeSpans s 0 e.hm (p.1 + 1, p.2, 4)) then (Config.freeBits 32 (s.fresh * 2 ^ 30 + i)).toNat
    else natOf (spadRead s p.1 p.2 4)
  | none => 0

/-- What a unit's source offset is a multiple of its pitch by (R84). -/
def srcIndex (s : State) (e : CopyCmd) (i : Nat) : Nat := if e.form = .cpyx then copyIndex s e i else i

/-- The source of a sector (R84). -/
def srcLoc (s : State) (e : CopyCmd) (j : Nat) : Loc :=
  let per := unitLen e.block / 16
  let x := blkW e.block 0 + pitchOf (blkW e.block 3) (srcIndex s e (j / per)) + BitVec.ofNat 64 (16 * (j % per))
  if blkSrcK e.block = 0 then .glob x else spadLoc s e.wg (field x 0 32) 16

/-- Whether an element up to that of a sector has an index that leaves scratchpad (R85). -/
def indexFails (s : State) (e : CopyCmd) (j : Nat) : Bool :=
  let per := unitLen e.block / 16
  e.form == .cpyx && blkSrcK e.block == 1 &&
    (List.range (j / per + 1)).any (fun i =>
      (spadFind s e.wg (field (blkW e.block 0 + pitchOf (blkW e.block 3) (copyIndex s e i)) 0 32) (16 * per)).isNone)

/-- Source and destination of a sector of a command. -/
def sectorLocs (s : State) (e : CopyCmd) (j : Nat) : Loc × Loc :=
  match e.form with
  | .strm =>
    let log := strmLog e.block
    let ring := blkW e.block 2 + BitVec.ofNat 64 (e.staged % strmBlocks e.block * 2 ^ log + 16 * j)
    ((extLoc e.exts (e.staged * 2 ^ log + 16 * j)).getD .zero, .glob ring)
  | .cpyp =>
    let g := Loc.glob (blkW e.block 0 + BitVec.ofNat 64 (16 * j))
    if cpypToDie e.block then (g, cpypLoc e.block j) else (cpypLoc e.block j, g)
  | _ => (srcLoc s e j, dstLoc s e j)

/-- Where the bytes lie that a command reads. -/
def readHomes (s : State) (c : Nat) (e : CopyCmd) : List HomeSpan :=
  match e.form with
  | .strm => e.exts.flatMap (fun x => homeSpans s c e.hm (0, x.1.toNat, x.2))
  | .cpyp => (if cpypToDie e.block then .glob (blkW e.block 0) else cpypLoc e.block 0).homes s c e.hm (cpypLen e.block)
  | _ => (unitLocs e (srcLoc s e)).flatMap (Loc.homes s c e.hm (unitLen e.block))

/-- Whether a command's source and destination overlap. -/
def overlapsItself (s : State) (c : Nat) (e : CopyCmd) : Bool :=
  let ws := writeHomes s c e
  (readHomes s c e).any (fun a => ws.any (spansMeet a))

/-! ## One sector (R89, R98) -/

/-- The cache hint of a command's global accesses: CTL's HINT (R82, R102); a CPYP's block has none (R428). -/
def CopyCmd.hint (e : CopyCmd) : Hint :=
  if e.form = .cpyp then .none
  else
    match field (blkW e.block 6) 12 2 with
    | 1 => .ef
    | 2 => .l2
    | 3 => .kp
    | _ => .none

/-- Read 16 bytes. -/
def readLoc (s : State) (c h : Nat) (hm : Hm) (top : Half) (hint : Hint) (x : Loc) : State × Except EngStop (List Byte) :=
  match x with
  | .glob va => engRead s c h hm top hint va 16
  | .spad h o => (s, .ok (spadRead s h o 16))
  | .buf a => (s, .ok (bufBytes s c a 16))
  | .pool a => (s, .ok (poolBytes (coreAt s c) a 16))
  | .zero => (s, .ok (List.replicate 16 0))
  | .nowhere => (s, .error (.bad (0x11, 0x06)))

/-- Write 16 bytes; those of the umpire's fault records keep their value, which Ninal may only read (R224). -/
def writeLoc (s : State) (c h : Nat) (hm : Hm) (top : Half) (hint : Hint) (x : Loc) (bs : List Byte) : State × Except EngStop Unit :=
  match x with
  | .glob va => engWrite s c h hm top hint va bs
  | .spad h o => (spadWrite s h o bs, .ok ())
  | .buf a => (setBuf s c a bs, .ok ())
  | .pool a => (modCore s c (fun k => if recordWord k (a / 4) then k else setPoolBytes k a bs), .ok ())
  | .zero => (s, .ok ())
  | .nowhere => (s, .error (.bad (0x11, 0x06)))

/-- Move one sector. What a command writes where its source and destination overlap, and what it reads of another
unfinished command's destination, is undefined (R90). -/
def moveSector (s : State) (c : Nat) (e : CopyCmd) (j : Nat) : State × Except EngStop Unit :=
  if indexFails s e j then (s, .error (.bad (0x11, 0x06)))
  else
    let (a, d) := sectorLocs s e j
    let open_ := overlapsItself s c e || writtenElsewhere s e.seq (a.homes s c e.hm 16)
    match readLoc s c e.wg e.hm e.orig.top e.hint a with
    | (s, .error x) => (s, .error x)
    | (s, .ok bs) =>
      writeLoc s c e.wg e.hm e.orig.top e.hint d (if open_ then bytesOf 16 (Config.freeBits 128 s.fresh).toNat else bs)

/-! ## How a command goes on, stops and ends (R92, R98, R99, R428) -/

/-- A command of the copy queue. -/
def copyAt (s : State) (c n : Nat) : Option CopyCmd := Tab.get? (coreAt s c).copyQ n

/-- Change a command of the copy queue. -/
def modCopy (s : State) (c n : Nat) (f : CopyCmd → CopyCmd) : State :=
  modCore s c (fun k => { k with copyQ := Tab.adjust k.copyQ n f })

/-- A CPYP writes its progress and outcome at 0x38 of its block (R428). -/
def cpypOutcome (s : State) (e : CopyCmd) (o : Outcome) : State :=
  if e.form = .cpyp then
    spadWrite s e.wg (e.blkAddr + 0x38) (bytesOf 8 (e.p * 2 ^ 32 + o.2.toNat * 256 + o.1.toNat))
  else s

/-- A command ends: its entry and fault record go, its tag follows R92, and the reservations that only it named are
freed (R115). -/
def endCopy (s : State) (c n : Nat) (x : CmdEnd) : State :=
  match copyAt s c n with
  | none => s
  | some e =>
    let done := x == .completed
    let s := if e.st = .held ∨ e.uses.isEmpty ∨ (!done ∧ e.p = 0 ∧ e.ahead.isEmpty) then s
      else resvWritten s c e.wg e.uses (if done then e.tag.toNat else 64)
    let s := cpypOutcome s e (match x with | .failed a b => (a, b) | .completed => (0, 0) | .discarded => (0, 0))
    let s := modCore s c (fun k =>
      { k with copyQ := Tab.del k.copyQ n, engFaults := k.engFaults.filter (fun m => m != n) })
    let s := dropWaiters s (fun w => w == .copy c n)
    resvSweep (tagEnd s e.wg e.tag.toNat x) c

/-- The opcode of a form. -/
def CopyForm.op : CopyForm → Nat
  | .cpy => 0x300
  | .cpys => 0x301
  | .cpyx => 0x302
  | .strm => 0x303
  | .cpyp => 0x3E9

/-- A command stops at a fault (R98, R99, R232); a CPYP fails (R428). -/
def stopCopy (s : State) (c n : Nat) (o : Outcome) (va : DWord) (kind : AccKind) : State :=
  match copyAt s c n with
  | none => s
  | some e =>
    if e.form = .cpyp then endCopy s c n (.failed o.1 o.2)
    else
      let s := modCopy s c n (fun e => { e with st := .stopped, miss := none, why := o })
      let s := umpSpadWrite s c (0x2800 + 128 * n)
        (wordsBytes (engineRecord e.hm o e.tag.toNat n e.p va (kind == .write) e.form.op e.orig))
      noteFault (modCore s c (fun k => { k with engFaults := k.engFaults ++ [n] })) c 1 n

/-- What a command does where an access of it was not performed. -/
def copyStop (s : State) (c n : Nat) (e : CopyCmd) (x : EngStop) : State :=
  match x with
  | .miss va kind =>
    let r := queueMiss s (c / 8) e.hm va kind (.copy c n)
    if r.2 then
      [0x0A, 0x0B].foldl (fun s x => creditEvent (bumpEvent s c x 1) c e.hm e.orig.top x 1)
        (modCopy r.1 c n (fun e => { e with miss := some va }))
    else s
  | .fault o va kind => stopCopy s c n o va kind
  | .poison p =>
    let code := carrierOf s (some c) p.home
    let team := if e.form = .cpyp then [] else [(wgAt s e.wg).team]
    let s := endCopy s c n (.failed 0x51 code)
    contain s (some c) (p.home / 16 * 16) p.sk e.hm team code e.orig.pc
  | .bad o => endCopy s c n (.failed o.1 o.2)
  | .later => s

/-- The release of a command (R71, R103): REL raises it to RELSC. -/
def copyRelease (s : State) (e : CopyCmd) : State :=
  if blkRel e.block && e.form != .cpyp then
    engRelease s e.wg (scopeBy (blkRelSc e.block)) (false, e.blkAddr, e.staged) e.orig
  else s

/-- Whether a release must wait for a snapshot (R266). -/
def relWaits (s : State) (h : Nat) (rel snap : Bool) : Bool := rel && !snap && rollbackWg s h

/-- Whether a command's release must wait for the fabric (R54, R260). -/
def relStalls (s : State) (h : Nat) (rel : Bool) (sc : Scope) : Bool := rel && orderStalls s h .rel sc

/-- Ask for a snapshot of a workgroup's team for a command of its. -/
def askSnapshot (s : State) (h : Nat) (o : Origin) : State :=
  askTeam s (wgAt s h).team { hm := (wgAt s h).hm, top := o.top }

/-- The extent that a stream reads next (R102): appended, or it fails the command; a length out of range has detail 0x01,
one that is no multiple of 16 has 0x04 (log entry 43). One that another command writes is undefined (R90). -/
def readExtent (s : State) (c n : Nat) (e : CopyCmd) : State :=
  match engRead s c e.wg e.hm e.orig.top e.hint (blkW e.block 0 + BitVec.ofNat 64 (16 * e.exts.length)) 16 with
  | (s, .error x) => copyStop s c n e x
  | (s, .ok bs) =>
    let bs := if writtenElsewhere s e.seq (homeSpans s c e.hm (0, (blkW e.block 0).toNat + 16 * e.exts.length, 16)) then
      bytesOf 16 (Config.freeBits 128 s.fresh).toNat else bs
    let va : DWord := BitVec.ofNat 64 (natOf (bs.take 8))
    let len := natOf ((bs.drop 8).take 4)
    if natOf (bs.drop 12) ≠ 0 ∨ len = 0 ∨ 0x3FFFFFF0 < len then endCopy s c n (.failed 0x44 0x01)
    else if va.toNat % 16 ≠ 0 ∨ len % 16 ≠ 0 then endCopy s c n (.failed 0x44 0x04)
    else modCopy s c n (fun e => { e with exts := e.exts ++ [(va, len)] })

/-- The end of a stream's block (R103, R105): its release, the staged count, and its store to STATUS, which a
program may acquire; after the last block the stream ends. The block is released once, when STATUS can be written. -/
def blockDone (s : State) (c n : Nat) (e : CopyCmd) : State :=
  let status (s : State) := engWrite s c e.wg e.hm e.orig.top e.hint (blkW e.block 4) (bytesOf 8 (e.staged + 1))
  match status s with
  | (s, .error x) => copyStop s c n e x
  | (_, .ok _) =>
    let s1 := copyRelease s e
    let s1 := if blkRel e.block && teamScope (scopeBy (blkRelSc e.block)) then showStores s1 e.wg else s1
    let s := (status s1).1
    let s := modCopy s c n (fun e => { e with staged := e.staged + 1, p := 0, ahead := [], snap := false })
    if e.exts.length = strmCount e.block ∧ extSum e.exts ≤ (e.staged + 1) * 2 ^ strmLog e.block then
      endCopy s c n .completed
    else s

/-- The end of a command that is no stream: its release, then its tag (R92). -/
def copyDone (s : State) (c n : Nat) (e : CopyCmd) : State := endCopy (copyRelease s e) c n .completed

/-- A command whose sectors are written: it waits for the fabric or for a snapshot where its release needs one, then ends or counts its
block. -/
def copyFull (s : State) (c n : Nat) (e : CopyCmd) : State :=
  if relStalls s e.wg (blkRel e.block && e.form != .cpyp) (scopeBy (blkRelSc e.block)) then s
  else if relWaits s e.wg (blkRel e.block && e.form != .cpyp) e.snap then askSnapshot s e.wg e.orig
  else if e.form = .strm then blockDone s c n e
  else copyDone s c n e

/-- One sector of a command lands (R98). -/
def copySector (s : State) (c n : Nat) (e : CopyCmd) : State :=
  let z := e.sectors
  let j := pickSector s e.ahead e.p z
  match moveSector s c e j with
  | (s, .error x) => copyStop s c n e x
  | (s, .ok _) =>
    let r := wrote e.p e.ahead j
    let s := modCopy s c n (fun e => { e with p := r.1, ahead := r.2 })
    let s := creditEvent (bumpEvent s c 0x0C 1) c e.hm e.orig.top 0x0C 1
    if r.1 = z then
      match copyAt s c n with
      | some e => copyFull s c n e
      | none => s
    else s

/-- Whether a stream must read an extent before it can stage its block. -/
def needsExtent (e : CopyCmd) : Bool :=
  e.form == .strm && decide (e.exts.length < strmCount e.block ∧
    extSum e.exts < (e.staged + 1) * 2 ^ strmLog e.block)

/-- COPY_SECTOR_DONE (R84, R89, R98, R103): what a running command of the copy queue does next. A command that waits for
a walk does nothing, and a stream stages a block only while S < C + B. -/
def execCopySectorDone (c : Fin 192) (n : Fin 64) (s : State) : Host.Outcome State Fault Refusal :=
  .next (match copyAt s c.val n.val with
    | none => s
    | some e =>
      if e.st ≠ .running ∨ e.miss.isSome ∨ enginePaused s e.wg then s
      else if e.form = .strm ∧ e.consumed + strmAhead e.block ≤ e.staged then s
      else if e.p = e.sectors then copyFull s c.val n.val e
      else if needsExtent e then readExtent s c.val n.val e
      else copySector s c.val n.val e)

/-- COPY_START (R89): a queued command starts when no command of its workgroup that was issued before it is queued. -/
def execCopyStart (c : Fin 192) (n : Fin 64) (s : State) : Host.Outcome State Fault Refusal :=
  .next (match copyAt s c.val n.val with
    | none => s
    | some e =>
      if e.st = .queued ∧ !enginePaused s e.wg ∧ !(coreAt s c.val).copyQ.any (fun x => decide (x.2.wg = e.wg ∧ x.2.st = .queued ∧ x.2.seq < e.seq)) then
        modCopy s c.val n.val (fun e => { e with st := .running })
      else s)

end Sys2Proof.Machine
end

