-- ==== Sys2Proof/Machine/Tags.lean ====
section
/-!
DEFINITION. Tags (R91 to R94, R377 to R379) and operand-buffer reservations (R112 to R115, R380, R381).
-/

namespace Sys2Proof.Machine

/-! ## Waiting on tags (R93, R232) -/

/-- The trap of a lane that would wait on a stopped command (R232): it names the command's tag, entry and progress, and
the detail is that of the walk that stopped it (log entry 46). -/
def stoppedTrap {α : Type} (t : Nat) (x : Nat × Nat × (Byte × Byte)) : Act α :=
  throw (.trap { cause := 0x10, detail := x.2.2.2, eng := some (BitVec.ofNat 6 t, x.1, x.2.1) })

/-- A wait that ends on a tag (R93): a Failed tag traps with its failure record, outside the umpire (R428). It acquires what
it sees set (R71). -/
def endWait (s : State) (h t : Nat) (seen : List Nat) (o : Out) : Act Out :=
  match (tagOf (wgAt s h) t).st, (tagOf (wgAt s h) t).fail with
  | .failed, some f => if s.iss.slot = 16 then pure o else raise f.1 f.2
  | _, _ => do
    setState (acquireTags s h seen)
    pure o

/-- Whether a WTAG waits in a lane, and whether it stands on a stopped command. -/
def wtagBusy (s : State) (t l : Nat) : Bool := (tagOf (wgAt s (homeOf s s.iss.core s.iss.slot l)) t).st == .busy
def wtagStopped (s : State) (t l : Nat) : Bool := wtagBusy s t l && (stoppedOn s (homeOf s s.iss.core s.iss.slot l) t).isSome

/-- WTAG (R93, R378): it completes in every active lane at once; lanes on a stopped command park (R232). -/
def execWtag (h : Head) (t : BitVec 6) (s : State) : Host.Outcome State Fault Refusal :=
  let act := activeLanes s h.guard
  let parked := act.any (wtagStopped s t.toNat)
  let waits := act.any (fun l => wtagBusy s t.toNat l && !wtagStopped s t.toNat l)
  perform s { head := h, op := 0x308 } [] (fun l _ => do
    let s ← get
    let w := homeOf s s.iss.core s.iss.slot l
    match (tagOf (wgAt s w) t.toNat).st with
    | .idle => raise 0x44 0x09
    | .busy =>
      match stoppedOn s w t.toNat with
      | some x => stoppedTrap t.toNat x
      | none => if parked then pure { stay := some (.tag t) } else waitFor (.tag t)
    | _ => if parked && waits then pure { stay := some (.tag t) } else endWait s w t.toNat [t.toNat] {})

/-- The tags of a mask. -/
def tagsIn (m : DWord) : List Nat := (List.range 64).filter (fun t => bitAt m t)

/-- What a WANY does in a lane (R93, R232). -/
inductive AnyState where
  | ready (t : Nat)
  | idle
  | stopped (t : Nat) (x : Nat × Nat × (Byte × Byte))
  | waits
  deriving DecidableEq, Repr

/-- The state of a WANY over a mask of a workgroup's tags. -/
def anyState (s : State) (h : Nat) (m : DWord) : AnyState :=
  let w := wgAt s h
  match (tagsIn m).find? (tagReady w) with
  | some t => .ready t
  | none =>
    if (tagsIn m).all (fun t => (tagOf w t).st == .idle) then .idle
    else
      match (tagsIn m).findSome? (fun t => (stoppedOn s h t).map (fun x => (t, x))) with
      | some x => .stopped x.1 x.2
      | none => .waits

/-- WANY (R93, R379): the lowest named tag that is ready. -/
def execWany (h : Head) (d : Dst) (a : Src) (s : State) : Host.Outcome State Fault Refusal :=
  let r := rdI a 2
  let of (s : State) (l : Nat) : AnyState := anyState s (homeOf s s.iss.core s.iss.slot l) (BitVec.ofNat 64 (srcVal (begun s) l 0 r))
  let states := (activeLanes s h.guard).map (of s)
  let parked := states.any (fun x => match x with | .stopped _ _ => true | _ => false)
  let waits := states.contains .waits
  perform s { head := h, op := 0x309, dst := d, words := 1, perLane := slotBound s s.iss.core s.iss.slot } [r]
    (fun l v => do
      let s ← get
      let w := homeOf s s.iss.core s.iss.slot l
      let m := BitVec.ofNat 64 (v.getD 0 0)
      match anyState s w m with
      | .idle => raise 0x44 0x09
      | .stopped t x => stoppedTrap t x
      | .waits => if parked then pure { stay := some (.anyTag m) } else waitFor (.anyTag m)
      | .ready t => if parked && waits then pure { stay := some (.anyTag m) } else endWait s w t ((tagsIn m).filter (tagReady (wgAt s w))) { val := t })

/-- TFFR (R379). -/
def execTffr (h : Head) (d : Dst) (a : Src) (s : State) : Host.Outcome State Fault Refusal :=
  perform s { head := h, op := 0x30A, dst := d, words := 1, push := true,
              perLane := slotBound s s.iss.core s.iss.slot } [rdI a 2] (fun l v => do
    let s ← get
    let m := BitVec.ofNat 64 (v.getD 0 0) &&& tagRdy (wgAt s (homeOf s s.iss.core s.iss.slot l))
    let n := (tagsIn m).headD 64
    resultPush n (decide (n < 64)))

/-- TRDY (R379). -/
def execTrdy (h : Head) (d : Dst) (a : Src) (s : State) : Host.Outcome State Fault Refusal :=
  perform s { head := h, op := 0x30C, dst := d, words := 2, push := true,
              perLane := slotBound s s.iss.core s.iss.slot } [rdI a 2] (fun l v => do
    let s ← get
    let m := BitVec.ofNat 64 (v.getD 0 0)
    let w := homeOf s s.iss.core s.iss.slot l
    let r := tagRdy (wgAt s w)
    if m &&& ~~~r == 0 then setState (acquireTags s w (tagsIn m))
    resultPush (m &&& r).toNat (m &&& ~~~r == 0))

/-- TCLR (R378). -/
def execTclr (h : Head) (t : BitVec 6) (s : State) : Host.Outcome State Fault Refusal :=
  perform s { head := h, op := 0x30B } [] (fun l _ => do
    let s ← get
    let w := homeOf s s.iss.core s.iss.slot l
    if (tagOf (wgAt s w) t.toNat).st = .busy then raise 0x44 0x0B
    else do
      setState (modTag s w t.toNat (fun g => { g with st := .idle, count := 0, some := false, fail := none }))
      result 0)

/-! ## Reservations (R112 to R115, R380, R381) -/

/-- The granules of a core that a record holds. -/
def granuleTaken (k : Core) (g : Nat) : Bool := k.resvs.any (fun r => decide (r.base ≤ g ∧ g < r.base + r.size))

/-- The lowest run of free granules (R114). -/
def firstFit (k : Core) (n : Nat) : Option Nat :=
  (List.range (257 - n)).find? (fun b => (List.range n).all (fun i => !granuleTaken k (b + i)))

/-- RSV's operands (R381, detail 0x03). -/
def rsvBad (n b : Nat) : Bool :=
  let fmt := b % 16
  let blk := b / 16 % 4
  let bax := b / 64 % 4
  decide (n < 1 ∨ 256 < n ∨ 256 ≤ b ∨ 8 ≤ fmt ∨ blk = 3 ∨ bax = 3 ∨ (bax = 0 ∧ blk ≠ 0))

/-- Make a reservation (R112 to R114), or answer a failure code (R380). -/
def reserve (s : State) (h n b : Nat) : State × Nat × Bool :=
  let w := wgAt s h
  let k := coreAt s w.core
  let mine := k.resvs.filter (fun r => r.wg = h)
  if 16 ≤ mine.length then (s, 0x80000003, false)
  else if 64 ≤ k.resvs.length then (s, 0x80000002, false)
  else
    match firstFit k n with
    | none => (s, 0x80000001, false)
    | some base =>
      let lix := ((List.range 16).find? (fun i => !mine.any (fun r => r.lix.toNat == i))).getD 0
      let gen := Tab.getD w.gens lix 0
      let r : Resv :=
        { hm := w.hm, own := BitVec.ofNat 5 (firstSlot w), wg := h, gen := gen, lix := BitVec.ofNat 4 lix,
          bax := BitVec.ofNat 2 (b / 64), fmt := BitVec.ofNat 4 b, blk := BitVec.ofNat 2 (b / 16), size := n,
          base := base, live := true, keep := false, unseen := [] }
      let s := modCore s w.core (fun k => { k with resvs := k.resvs ++ [r] })
      let s := modWg s h (fun w => { w with gens := Tab.set w.gens lix (gen + 1) })
      (s, r.number, true)

/-- RSV (R114, R380). -/
def execRsv (h : Head) (d : Dst) (a b : Src) (s : State) : Host.Outcome State Fault Refusal :=
  perform s { head := h, op := 0x310, dst := d, words := 1, push := true, perLane := true } [rdI a 1, rdI b 1]
    (fun l v => do
      if rsvBad (v.getD 0 0) (v.getD 1 0) then raise 0x41 0x03
      else do
        let s ← get
        let r := reserve s (homeOf s s.iss.core s.iss.slot l) (v.getD 0 0) (v.getD 1 0)
        setState r.1
        resultPush r.2.1 r.2.2)

/-- The live reservation that a register's value names (R115, R381). -/
def namedResv (l x : Nat) : Act (Nat × Resv) := do
  let s ← get
  let h := homeOf s s.iss.core s.iss.slot l
  match if x < 2 ^ 16 then resvOf s h x else none with
  | some r => pure (h, r)
  | none => raise 0x41 0x01

/-- Release a reservation (R115, R270): its number is dead at once; the record goes when no command names it. -/
def releaseResv (s : State) (h : Nat) (r : Resv) : State :=
  let c := (wgAt s h).core
  let keep := rollbackWg s h && (((Tab.get? s.teams (wgAt s h).team).map (fun m => m.snap.valid)).getD false)
  let s := modCore s c (fun k =>
    { k with resvs := k.resvs.map (fun x =>
        if x.wg = h ∧ x.lix = r.lix ∧ x.gen = r.gen then { x with live := false, keep := keep } else x) })
  resvSweep s c

/-- RLS (R115, R380). -/
def execRls (h : Head) (a : Src) (s : State) : Host.Outcome State Fault Refusal :=
  perform s { head := h, op := 0x311 } [rdI a 1] (fun l v => do
    let r ← namedResv l (v.getD 0 0)
    let s ← get
    setState (releaseResv s r.1 r.2)
    result 0)

/-- A record as RREC returns it (R113). -/
def Resv.word (r : Resv) : Nat :=
  r.hm.toNat * 2 ^ 50 + r.own.toNat * 2 ^ 45 + r.gen.toNat * 2 ^ 33 + r.lix.toNat * 2 ^ 29 + r.bax.toNat * 2 ^ 27 +
    r.fmt.toNat * 2 ^ 23 + r.blk.toNat * 2 ^ 21 + r.size * 2 ^ 12 + r.base * 2 ^ 4 + (if r.live then 8 else 0)

/-- RREC (R113, R380). -/
def execRrec (h : Head) (d : Dst) (a : Src) (s : State) : Host.Outcome State Fault Refusal :=
  perform s { head := h, op := 0x312, dst := d, words := 2, perLane := slotBound s s.iss.core s.iss.slot } [rdI a 1]
    (fun l v => do
      let r ← namedResv l (v.getD 0 0)
      result r.2.word)

end Sys2Proof.Machine
end

