-- ==== Sys2Proof/Machine/Matrix.lean ====
section
/-!
DEFINITION. The matrix unit's commands at issue (R382 to R391): parameter blocks and their checks, accumulator slots,
shadow tiles and guard slots. A slot's binding is that of the issue order: a command keeps the tile that its slot had
when it was issued, and waits for every earlier command on its slot or tile (log entry 26).
-/

namespace Sys2Proof.Machine

/-! ## Slots and tiles (R117 to R119, R389) -/

/-- The workgroup's tile that a slot is bound to (R117). -/
def boundTile (w : Wg) (n : Nat) : Nat := Tab.getD w.bind n n

/-- The core tile slot of a workgroup's tile. -/
def tileSlot (s : State) (h t : Nat) : Nat := (tileSlots s h).getD t 0

/-- The open shadow of a slot: its tile and guard slot. -/
def shadowOf (w : Wg) (n : Nat) : Option (Nat × BitVec 4) := Tab.get? w.shadow n

/-- The lowest shadow tile that is free (R118, log entry 10). -/
def freeShadow (w : Wg) : Option Nat :=
  (List.range (w.acc + w.shd)).find? (fun t => !(w.bind.any (fun e => e.2 = t)) && !(w.shadow.any (fun e => e.2.1 = t)))

/-- Whether another hallmark owns a tile (R119). -/
def foreignTile (s : State) (h t : Nat) : Bool :=
  let x := Tab.getD (coreAt s (wgAt s h).core).accown (tileSlot s h t) 0
  accV x && accHm x != (wgAt s h).hm

/-- Claim a tile that has no owner (R119). -/
def claimTile (s : State) (h t : Nat) : State :=
  let w := wgAt s h
  modCore s w.core (fun k =>
    let x := Tab.getD k.accown (tileSlot s h t) 0
    if accV x then k else { k with accown := Tab.set k.accown (tileSlot s h t) (0x8000 ||| w.hm.setWidth 16) })

/-- The checks on a slot's number and owner (R117, R119, R385 order 11). -/
def slotCheck (s : State) (h n : Nat) : Option Outcome :=
  let w := wgAt s h
  if w.acc ≤ n then some (0x42, 0x02) else if foreignTile s h (boundTile w n) then some (0x42, 0x01) else none

/-- The guard and shadow rules (R389, R391). -/
def shadowCheck (s : State) (h n : Nat) (g : Option (BitVec 4)) : Option Outcome :=
  let w := wgAt s h
  match shadowOf w n, g with
  | some _, none => some (0x43, 0x03)
  | none, none => none
  | some (t, g'), some g => if g' ≠ g then some (0x43, 0x02) else if foreignTile s h t then some (0x42, 0x01) else none
  | none, some _ =>
    match freeShadow w with
    | none => some (0x43, 0x01)
    | some t => if foreignTile s h t then some (0x42, 0x01) else none

/-- The tile that a command works on, and the one its shadow is copied from where it opens one (R389). -/
def commandTile (w : Wg) (n : Nat) (g : Option (BitVec 4)) : Nat × Option Nat :=
  match g, shadowOf w n with
  | none, _ => (boundTile w n, none)
  | some _, some (t, _) => (t, none)
  | some _, none => ((freeShadow w).getD 0, some (boundTile w n))

/-! ## Entries (R382, R92) -/

/-- What an instruction gives a matrix command. -/
structure MtxArgs where
  op : MtxOp
  block : List DWord
  blkAddr : Nat
  addr : Nat
  slot : BitVec 4
  tag : Option (BitVec 6)
  g : Option (BitVec 4)
  uses : List Nat
  writes : List Span := []

/-- The state with a command in the lowest free entry of the matrix queue (log entry 10). -/
def enqueueMtx (s : State) (l h : Nat) (a : MtxArgs) : State :=
  let w := wgAt s h
  let n := (Tab.freeKey (coreAt s w.core).mtxQ 32 0).getD 0
  let t := commandTile w a.slot.toNat a.g
  let e : MtxCmd :=
    { wg := h, hm := w.hm, op := a.op, block := a.block, blkAddr := a.blkAddr, addr := a.addr, slot := a.slot, tile := t.1,
      src := t.2, tag := a.tag, g := a.g, st := .queued, p := 0, seq := s.stamp, solder := [], conds := 0, image := none, writes := a.writes, raced := [], ahead := [],
      miss := none, snap := false, uses := a.uses, why := (0, 0), orig := originOf s l }
  let s := modCore { s with stamp := s.stamp + 1 } w.core (fun k => { k with mtxQ := Tab.set k.mtxQ n e })
  let s := claimTile (claimTile s h t.1) h (boundTile w a.slot.toNat)
  let s := match a.g with
    | some g => modWg s h (fun w =>
        { w with guards := Tab.set w.guards g.toNat true, shadow := Tab.set w.shadow a.slot.toNat (t.1, g) })
    | none => s
  match a.tag with
  | some t => tagIssue s h t.toNat s.iss.pc
  | none => s

/-- Take an entry for a lane, or stay at the instruction (R382). -/
def takeMtx (l h : Nat) (a : MtxArgs) : Act Out :=
  takeEntryFor (fun s => mtxRoom s h) .mtxEntry (fun s => enqueueMtx s l h a)

/-! ## MMA and MMAS (R383 to R385) -/

/-- The fields of the parameter block (R383). -/
def mmaOff (b : List DWord) (i : Nat) : Nat := field (blkW b i) 32 32
def mmaRes (b : List DWord) (i : Nat) : Nat := field (blkW b i) 0 16
def mmaK (b : List DWord) : Nat := field (blkW b 4) 32 16
def mmaSlot (b : List DWord) : BitVec 4 := (blkW b 4).extractLsb' 11 4
def mmaAccum (b : List DWord) : Bool := bitAt (blkW b 4) 10
def mmaFmt (b : List DWord) (i : Nat) : Nat := field (blkW b 4) (4 * i) 4
def mmaTrans (b : List DWord) (i : Nat) : Bool := bitAt (blkW b 4) (8 + i)
def mmaCount (b : List DWord) : Nat := field (blkW b 6) 32 16
def mmaList (b : List DWord) : Nat := field (blkW b 6) 0 32

/-- A format by its code (R113). -/
def fmtBy : Nat → Fmt
  | 0 => .bf16 | 1 => .fp16 | 2 => .e4m3 | 3 => .e5m2 | 4 => .int8 | 5 => .q4x | 6 => .e2m1 | _ => .i4

/-- The k per step of a format (R151). -/
def kPerStep (f : Nat) : Nat := if f ≤ 1 then 16 else if f ≤ 5 then 32 else 64

/-- The formats that go together (R151). -/
def pairClass (f : Nat) : Nat := if f = 3 ∨ f = 5 then 2 else f

/-- The bits of an element in an operand (R384). -/
def elemBits (f : Nat) : Nat := fmtBits (fmtBy f)

/-- The block axis that an operand's read needs (R157). -/
def needAxis (i : Nat) (trans : Bool) : Nat := if (i = 0) = (trans = false) then 1 else 2

/-- The elements of a block (R113). -/
def blkElems (x : Nat) : Nat := 16 * 2 ^ x

/-- The reduction length (R384). -/
def mmaKt (b : List DWord) : Nat := mmaK b * kPerStep (mmaFmt b 0)

/-- The reserved fields of the block (R383). -/
def mmaReserved (solder : Bool) (b : List DWord) : Bool :=
  (List.range 4).any (fun i => decide (field (blkW b i) 16 16 ≠ 0)) ||
    decide (field (blkW b 4) 48 16 ≠ 0 ∨ field (blkW b 4) 15 17 ≠ 0 ∨ field (blkW b 6) 48 16 ≠ 0) || blkW b 7 != 0 ||
    (!solder && blkW b 6 != 0)

/-- The record of an operand (0 and 1) or of its scales (2 and 3). -/
def mmaRecord (s : State) (h : Nat) (b : List DWord) (i : Nat) : Option Resv := resvOf s h (mmaRes b i)

/-- The formats and axes (R158, in its order). -/
def formatCheck (b : List DWord) (ra rb : Resv) : Option Outcome :=
  let each (p : Nat → Resv → Bool) : Bool := p 0 ra || p 1 rb
  firstFail
    [(each (fun i r => decide (8 ≤ mmaFmt b i ∨ 8 ≤ r.fmt.toNat ∨ r.bax = 3 ∨ r.blk = 3)), (0x40, 0x03)),
     (each (fun i r => decide (r.fmt.toNat ≠ mmaFmt b i)), (0x40, 0x04)),
     (decide (pairClass (mmaFmt b 0) ≠ pairClass (mmaFmt b 1)), (0x40, 0x01)),
     (each (fun i r => decide (r.bax ≠ 0 ∧ mmaFmt b i < 2 ∨ r.bax = 0 ∧ r.blk ≠ 0)), (0x40, 0x03)),
     (each (fun i r => decide (r.bax ≠ 0 ∧ r.bax.toNat ≠ needAxis i (mmaTrans b i))), (0x40, 0x02))]

/-- The scale operands (R385 order 7). -/
def scaleCheck (s : State) (h : Nat) (b : List DWord) (ra rb : Resv) : Option Outcome :=
  let one (i : Nat) (r : Resv) : Option Outcome :=
    if r.bax = 0 then (if blkW b (2 + i) = 0 then none else some (0x44, 0x01))
    else if (mmaRecord s h b (2 + i)).isNone then some (0x41, 0x01) else none
  (one 0 ra).or (one 1 rb)

/-- The bytes of an operand, and of its scale array (R384). -/
def operandBytes (b : List DWord) (i : Nat) : Nat := 32 * mmaKt b * elemBits (mmaFmt b i) / 8
def scaleBytes (b : List DWord) (r : Resv) : Nat := 64 * (mmaKt b / blkElems r.blk.toNat)

/-- The byte ranges (R385 order 9). -/
def rangeCheck (s : State) (h : Nat) (b : List DWord) (ra rb : Resv) : Option Outcome :=
  let past (r : Resv) (o n : Nat) : Bool := decide (r.size * 1024 < o + n)
  let one (i : Nat) (r : Resv) : Bool :=
    past r (mmaOff b i) (operandBytes b i) ||
      (r.bax != 0 &&
        (match mmaRecord s h b (2 + i) with
         | some q => past q (mmaOff b (2 + i)) (scaleBytes b r)
         | none => false))
  if one 0 ra || one 1 rb then some (0x41, 0x02) else none

/-- The checks of R385, orders 2 to 10. A tag whose stream runs (R92) is found after those of the block's fields (log
entry 44). -/
def mmaChecks (s : State) (h t : Nat) (solder : Bool) (b : List DWord) : Option Outcome :=
  let early := firstFail
    [(mmaReserved solder b, (0x44, 0x01)),
     (decide (mmaK b < 1 ∨ 1024 < mmaK b ∨ 4096 < mmaCount b), (0x44, 0x0E)),
     (decide ((List.range 4).any (fun i => decide (mmaOff b i % 16 ≠ 0)) ∨ mmaList b % 8 ≠ 0), (0x44, 0x04)),
     (streamOn s h t, (0x44, 0x0A))]
  match early with
  | some o => some o
  | none =>
    match mmaRecord s h b 0, mmaRecord s h b 1 with
    | some ra, some rb =>
      let split (r : Resv) : Bool := r.bax != 0 && decide (mmaKt b % blkElems r.blk.toNat ≠ 0)
      (formatCheck b ra rb).or ((scaleCheck s h b ra rb).or
        ((firstFail [(split ra || split rb, (0x40, 0x05))]).or (rangeCheck s h b ra rb)))
    | _, _ => some (0x41, 0x01)

/-- The reservations that a command names. -/
def mmaUses (s : State) (h : Nat) (b : List DWord) : List Nat :=
  let sc (i : Nat) : List Nat :=
    match mmaRecord s h b i with
    | some r => if r.bax = 0 then [] else [mmaRes b (2 + i)]
    | none => []
  [mmaRes b 0, mmaRes b 1] ++ sc 0 ++ sc 1

/-- One lane of MMA or MMAS: the checks of R385 in their order, then its entry. -/
def mmaLane (solder : Bool) (e : EBlock) (t : BitVec 6) (g : Option (BitVec 4)) (l v : Nat) : Act Out := do
  let (h, o, b) ← blockAt l e v 64 64
  let s ← get
  failing (mmaChecks s h t.toNat solder b)
  if solder && mmaCount b != 0 && (spadFind s h (mmaList b) (8 * mmaCount b)).isNone then
    raiseAt (0x11, 0x06) (BitVec.ofNat 64 (mmaList b)) 0
  else do
    failing ((slotCheck s h (mmaSlot b).toNat).or (shadowCheck s h (mmaSlot b).toNat g))
    takeMtx l h { op := if solder then .mmas else .mma, block := b, blkAddr := o, addr := 0, slot := mmaSlot b, tag := some t,
                  g := g, uses := mmaUses s h b }

/-- MMA (R383 to R387). -/
def execMma (h : Head) (e : EBlock) (t : BitVec 6) (g : Option (BitVec 4)) (s : State) :
    Host.Outcome State Fault Refusal :=
  perform s { head := h, op := 0x340 } [blockRd e] (fun l v => mmaLane false e t g l (v.getD 0 0))

/-- MMAS (R383 to R387). -/
def execMmas (h : Head) (e : EBlock) (t : BitVec 6) (g : Option (BitVec 4)) (s : State) :
    Host.Outcome State Fault Refusal :=
  perform s { head := h, op := 0x341 } [blockRd e] (fun l v => mmaLane true e t g l (v.getD 0 0))

/-! ## ALD and AST (R388) -/

/-- One lane of ALD or AST. -/
def tileLane (op : MtxOp) (e : EBlock) (t : BitVec 6) (n : BitVec 4) (l v : Nat) : Act Out := do
  let s ← get
  let h := homeOf s s.iss.core s.iss.slot l
  let a : Word := BitVec.ofNat 32 v + e.eoff.signExtend 32
  if (spadFind s h a.toNat 4096).isNone then raiseAt (0x11, 0x06) (a.setWidth 64) 0
  else if a.toNat % 16 ≠ 0 then raiseAt (0x12, 0) (a.setWidth 64) 0
  else do
    failing ((firstFail [(streamOn s h t.toNat, (0x44, 0x0A))]).or
      ((slotCheck s h n.toNat).or (shadowCheck s h n.toNat none)))
    takeMtx l h { op := op, block := [], blkAddr := 0, addr := a.toNat, slot := n, tag := some t, g := none, uses := [],
                  writes := if op = .ast then spadSpan s h a.toNat 4096 else [] }

/-- ALD (R388). -/
def execAld (h : Head) (e : EBlock) (t : BitVec 6) (n : BitVec 4) (s : State) : Host.Outcome State Fault Refusal :=
  perform s { head := h, op := 0x343 } [blockRd e] (fun l v => tileLane .ald e t n l (v.getD 0 0))

/-- AST (R388). -/
def execAst (h : Head) (e : EBlock) (t : BitVec 6) (n : BitVec 4) (s : State) : Host.Outcome State Fault Refusal :=
  perform s { head := h, op := 0x344 } [blockRd e] (fun l v => tileLane .ast e t n l (v.getD 0 0))

/-! ## ACLR, ACMT and ADSC: once for the path (R388, R390) -/

/-- The home workgroups of the active lanes, in lane order. -/
def pathHomes (s : State) (g : Guard) : List Nat :=
  ((activeLanes s g).map (homeOf s s.iss.core s.iss.slot)).dedup

/-- Whether the matrix queue has an entry for a workgroup's command of the path. -/
def onceRoom (s : State) (homes : List Nat) (h : Nat) : Bool :=
  let k := coreAt s (wgAt s h).core
  decide (k.mtxQ.length + (homes.findIdx (fun x => x == h)) < 32 ∧ (k.mtxQ.filter (fun e => e.2.wg = h)).length < 16)

/-- Commit a slot's shadow: the bindings change places, and the old tile is free (R390). -/
def commitShadow (w : Wg) (n : Nat) : Wg :=
  match shadowOf w n with
  | some (t, _) => { w with bind := Tab.set w.bind n t, shadow := Tab.del w.shadow n }
  | none => w

/-- Free a slot's shadow (R390). -/
def discardShadow (w : Wg) (n : Nat) : Wg := { w with shadow := Tab.del w.shadow n }

/-- The blocks of a workgroup's tiles are dirty for both banks: its accumulator slots name other tiles (R268). -/
def dirtyTiles (s : State) (h : Nat) : State :=
  let ts := tileSlots s h
  modCore s (wgAt s h).core (fun k => { k with cleanPool := k.cleanPool.filter (fun e => !ts.contains (e.1 / 4)) })

/-- An instruction that acts once for the path: its check, and what it does to the bindings once it has its entry. -/
def onceInstr (s : State) (h : Head) (op : Nat) (m : MtxOp) (n : BitVec 4) (check : Nat → Option Outcome)
    (after : Wg → Wg) : Host.Outcome State Fault Refusal :=
  let homes := pathHomes s h.guard
  let first (w : Nat) : Nat := ((activeLanes s h.guard).find? (fun l => homeOf s s.iss.core s.iss.slot l == w)).getD 0
  perform s { head := h, op := op } [] (fun l _ => do
    let w := homeOf s s.iss.core s.iss.slot l
    failing (check w)
    if onceRoom s homes w then
      if first w = l then do
        let now ← get
        let s := enqueueMtx now l w { op := m, block := [], blkAddr := 0, addr := 0, slot := n, tag := none, g := none, uses := [] }
        setState (dirtyTiles (modWg s w after) w)
        result 0
      else result 0
    else pure { stay := some .mtxEntry })

/-- ACLR (R388). -/
def execAclr (h : Head) (n : BitVec 4) (s : State) : Host.Outcome State Fault Refusal :=
  onceInstr s h 0x342 .aclr n (fun w => (slotCheck s w n.toNat).or (shadowCheck s w n.toNat none)) id

/-- The checks of ACMT and ADSC (R117, R119, R391). -/
def openCheck (s : State) (n : Nat) (h : Nat) : Option Outcome :=
  (slotCheck s h n).or (if (shadowOf (wgAt s h) n).isNone then some (0x43, 0x04) else none)

/-- ACMT (R390). -/
def execAcmt (h : Head) (n : BitVec 4) (s : State) : Host.Outcome State Fault Refusal :=
  onceInstr s h 0x346 .acmt n (openCheck s n.toNat) (fun w => commitShadow w n.toNat)

/-- ADSC (R390). -/
def execAdsc (h : Head) (n : BitVec 4) (s : State) : Host.Outcome State Fault Refusal :=
  onceInstr s h 0x347 .adsc n (openCheck s n.toNat) (fun w => discardShadow w n.toNat)

/-! ## GRES (R96, R390) -/

/-- The held commands of a guard slot, in issue order. -/
def heldOf (s : State) (h : Nat) (g : BitVec 4) : List (Nat × CopyCmd) :=
  let l := (coreAt s (wgAt s h).core).copyQ.filter (fun e => decide (e.2.wg = h ∧ e.2.g = some g ∧ e.2.st = .held))
  l.mergeSort (fun a b => decide (a.2.seq ≤ b.2.seq))

/-- The slots whose shadow is open under a guard slot, ascending. -/
def shadowsOf (w : Wg) (g : BitVec 4) : List Nat := (w.shadow.filter (fun e => e.2.2 = g)).map Prod.fst

/-- A held command becomes queued (R96), with its acquire. -/
def unhold (s : State) (h : Nat) (e : Nat × CopyCmd) : State :=
  let s := modCopy s (wgAt s h).core e.1 (fun x => { x with st := .queued })
  if blkAcq e.2.block then orderWork s h .acq (scopeBy (blkAcqSc e.2.block)) else s

/-- Resolve a guard slot (R96, R390); one that is free has nothing to resolve. -/
def resolveGuard (s : State) (h : Nat) (g : BitVec 4) (commit : Bool) : State :=
  if !Tab.getD (wgAt s h).guards g.toNat false then s
  else
    let held := heldOf s h g
    let s := if commit then held.foldl (fun s e => unhold s h e) s
      else held.foldl (fun s e => endCopy s (wgAt s h).core e.1 .discarded) s
    dirtyTiles (modWg s h (fun w =>
      let w := (shadowsOf w g).foldl (fun w n => if commit then commitShadow w n else discardShadow w n) w
      { w with guards := Tab.set w.guards g.toNat false })) h

/-- GRES in every active lane. -/
def gres (s : State) (h : Head) (g : BitVec 4) (commit : Bool) : Host.Outcome State Fault Refusal :=
  perform s { head := h, op := 0x30D } [] (fun l _ => do
    let s ← get
    setState (resolveGuard s (homeOf s s.iss.core s.iss.slot l) g commit)
    result 0)

/-- GRES.CMT (R96, R390). -/
def execGresCmt (h : Head) (g : BitVec 4) (s : State) : Host.Outcome State Fault Refusal := gres s h g true

/-- GRES.DSC (R96, R390). -/
def execGresDsc (h : Head) (g : BitVec 4) (s : State) : Host.Outcome State Fault Refusal := gres s h g false

end Sys2Proof.Machine
end

