-- ==== Sys2Proof/Machine/Drain.lean ====
section
/-!
DEFINITION. The matrix unit and the drain at work (R151 to R163, R384 to R387, R392 to R395): tiles, operands, k-steps,
solder lists, the epilogue of MDRN and its sectors.
-/

namespace Sys2Proof.Machine

/-! ## Tiles (R117, R156) -/

/-- Whether a tile's contents are defined: something has written the whole of it since its workgroup started (R117). -/
def tileDefined (s : State) (h t : Nat) : Bool := (Tab.get? (wgAt s h).flags t).isSome

/-- Word `i` of a tile; undefined contents are free values. -/
def tileWord (s : State) (h t i : Nat) : Word :=
  if tileDefined s h t then poolWord (coreAt s (wgAt s h).core) (1024 * tileSlot s h t + i)
  else Config.freeBits 32 ((s.fresh * 512 + t) * 1024 + i)

/-- The flag byte of a tile, 0 until something sets it (R156). -/
def tileFlags (s : State) (h t : Nat) : Nat := ((Tab.get? (wgAt s h).flags t).getD 0).toNat

/-- Write words of a tile from its word `i` on. -/
def setTile (s : State) (h t i : Nat) (xs : List Word) : State :=
  let a := 1024 * tileSlot s h t + i
  modCore s (wgAt s h).core (fun k => (withPos xs).foldl (fun k p => setPoolWord k (a + p.1) p.2) k)

/-- Set the flag byte of a tile. -/
def setFlags (s : State) (h t x : Nat) : State :=
  modWg s h (fun w => { w with flags := Tab.set w.flags t (BitVec.ofNat 8 (x % 128)) })

/-- A tile becomes +0 in every element, with flags 0. -/
def zeroTile (s : State) (h t : Nat) : State := setFlags (setTile s h t 0 (List.replicate 1024 0)) h t 0

/-- A shadow receives the tile and flag byte that its slot holds (R389); undefined contents stay undefined. -/
def copyTile (s : State) (h fr dst : Nat) : State :=
  if tileDefined s h fr then
    setFlags (setTile s h dst 0 ((List.range 1024).map (tileWord s h fr))) h dst (tileFlags s h fr)
  else modWg s h (fun w => { w with flags := Tab.del w.flags dst })

/-! ## Operands (R140, R152, R384) -/

/-- The code of an element that starts at a bit of a reservation (R140). -/
def elemAt (s : State) (c : Nat) (raced : Bool) (r : Resv) (off bitPos w : Nat) : Nat :=
  let x := natOf (operandBytesAt s c raced r (off + bitPos / 8) (if w = 16 then 2 else 1))
  if w = 4 then x / 2 ^ (bitPos % 8) % 16 else x

/-- An operand as its elements are read: its format, record, whether the command's reads of it race (R72), offset, whether its
rows run along the reduction, and its scales. -/
structure MatOperand where
  fmt : Nat
  resv : Resv
  raced : Bool
  off : Nat
  along : Bool
  kt : Nat
  scale : Option (Resv × Nat × Bool)

/-- Operand `i` of a command. -/
def operandOf (s : State) (h : Nat) (raced : List Nat) (b : List DWord) (i : Nat) : Option MatOperand :=
  (resvUsed s h (mmaRes b i)).map (fun r =>
    { fmt := mmaFmt b i, resv := r, raced := raced.contains r.number, off := mmaOff b i, along := decide ((i = 0) = (mmaTrans b i = false)), kt := mmaKt b,
      scale := if r.bax = 0 then none else (resvUsed s h (mmaRes b (2 + i))).map (fun q =>
        (q, mmaOff b (2 + i), raced.contains q.number)) })

/-- The slots of a block: a scaled operand's block size, else a k-step (R384). -/
def MatOperand.block (o : MatOperand) : Nat := if o.scale.isSome then blkElems o.resv.blk.toNat else kPerStep o.fmt

/-- The code of the element with non-reduction index `m` and reduction index `j`. -/
def MatOperand.code (s : State) (c : Nat) (o : MatOperand) (m j : Nat) : Nat :=
  let w := elemBits o.fmt
  elemAt s c o.raced o.resv o.off (if o.along then (m * o.kt + j) * w else (j * 32 + m) * w) w

/-- A block's elements under its scale, and the conditions of its decoding: QF and SF (R141, R142, R152, R156). -/
def MatOperand.blockVals (s : State) (c : Nat) (o : MatOperand) (m b : Nat) : List FEx × Nat :=
  let n := o.block
  let d := decodeBlock (fmtBy o.fmt) ((List.range n).map (fun k => MatOperand.code s c o m (b * n + k)))
  let sc := match o.scale with
    | some (q, off, raced) => natOf (operandBytesAt s c raced q (off + 2 * (32 * b + m)) 2)
    | none => 0x7F00
  (d.1.map (scaled sc), (if d.2 then 32 else 0) + (if scaleSf sc then 64 else 0))

/-- The elements of one k-step for an index. -/
def MatOperand.step (s : State) (c : Nat) (o : MatOperand) (q m : Nat) : List FEx × Nat :=
  let kq := kPerStep o.fmt
  let n := o.block
  let lo := kq * q
  let bs := (List.range ((lo + kq - 1) / n - lo / n + 1)).map (fun i => MatOperand.blockVals s c o m (lo / n + i))
  (((bs.flatMap Prod.fst).drop (lo % n)).take kq, (bs.map Prod.snd).foldl (· ||| ·) 0)

/-! ## One k-step (R153 to R155) -/

/-- The product of two elements, exact. -/
def elemMul (a b : FEx) : FEx :=
  let p := exactMul a.v b.v
  { p with nv := p.nv || a.nv || b.nv }

/-- An infinity of a sign. -/
def FVal.isInf (neg : Bool) : FVal → Bool
  | .inf n => n == neg
  | _ => false

/-- The exact sum of the products of a step (R155). -/
def stepSum (ps : List FEx) : FEx :=
  let vs := ps.map FEx.v
  let both := vs.any (FVal.isInf false) && vs.any (FVal.isInf true)
  let nv := both || ps.any FEx.nv
  let v : FVal :=
    if both || vs.any FVal.isNan then .nan false
    else if vs.any (FVal.isInf false) then .inf false
    else if vs.any (FVal.isInf true) then .inf true
    else match vs with
      | [] => .fin false 0 0
      | x :: r => r.foldl (fun a b => (exactAdd false a b).v) x
  { v := v, nv := nv }

/-- One output: Round(FP32, Exact(C + x), RNE), with its conditions. -/
def accumulate (c : Word) (x : FEx) : Word × Nat :=
  let r := exactAdd false (fdec .f32 c.toNat) x.v
  let y := roundEx .f32 rne { r with nv := r.nv || x.nv }
  (BitVec.ofNat 32 y.bits, (y.x.or y.quiet).bits)

/-- A solder entry's fields (R387). -/
def solderVal (e : DWord) : FVal := fdec .f32 (hiWord e).toNat
def solderStep (e : DWord) : Nat := field e 20 12
def solderB (e : DWord) : Bool := bitAt e 19
def solderM (e : DWord) : Nat := field e 13 5
def solderJ (e : DWord) : Nat := field e 6 6

/-- Apply a solder entry to a tile (R154): 1,024 words, and the conditions so far. -/
def applySolder (as bs : List (List FEx)) (t : List Word × Nat) (e : DWord) : List Word × Nat :=
  let o : FEx := { v := solderVal e }
  let us := (withPos t.1).map (fun p =>
    let r := p.1 / 32
    let c := p.1 % 32
    if solderB e then
      if c = solderM e then accumulate p.2 (elemMul (((as.getD r []).getD (solderJ e) { v := .fin false 0 0 })) o)
      else (p.2, 0)
    else
      if r = solderM e then accumulate p.2 (elemMul o (((bs.getD c []).getD (solderJ e) { v := .fin false 0 0 })))
      else (p.2, 0))
  (us.map Prod.fst, (us.map Prod.snd).foldl (· ||| ·) t.2)

/-- The tile and the conditions after a step (R153): the products, then the step's solder entries. -/
def stepTile (s : State) (e : MtxCmd) (q : Nat) : List Word × Nat :=
  let c := (wgAt s e.wg).core
  let tile := (List.range 1024).map (tileWord s e.wg e.tile)
  match operandOf s e.wg e.raced e.block 0, operandOf s e.wg e.raced e.block 1 with
  | some a, some b =>
    let as := (List.range 32).map (MatOperand.step s c a q)
    let bs := (List.range 32).map (MatOperand.step s c b q)
    let av := as.map Prod.fst
    let bv := bs.map Prod.fst
    let us := (withPos tile).map (fun p =>
      accumulate p.2 (stepSum ((av.getD (p.1 / 32) []).zipWith elemMul (bv.getD (p.1 % 32) []))))
    let conds := ((as.map Prod.snd) ++ (bs.map Prod.snd) ++ (us.map Prod.snd)).foldl (· ||| ·) 0
    (e.solder.filter (fun x => solderStep x = q)).foldl (applySolder av bv) (us.map Prod.fst, conds)
  | _, _ => (tile, 0)

/-! ## The drain epilogue (R159 to R163, R392 to R394) -/

/-- The fields of the epilogue block (R392). -/
def epDst (b : List DWord) (i : Nat) : DWord := blkW b (2 * i)
def epPitch (b : List DWord) (i : Nat) : Nat := field (blkW b (2 * i + 1)) 0 32
def epG (b : List DWord) : Nat := field (blkW b 4) 0 32
def epH (b : List DWord) : Nat := field (blkW b 4) 32 32
def epRow0 (b : List DWord) : Word := loWord (blkW b 7)
def epCol0 (b : List DWord) : Word := hiWord (blkW b 7)
def epRPitch (b : List DWord) : Nat := field (blkW b 8) 32 16
def epRes (b : List DWord) : Nat := field (blkW b 8) 0 32
def epScl (b : List DWord) (i : Nat) : DWord := blkW b (9 + i)
def epCtl (b : List DWord) (lo n : Nat) : Nat := field (blkW b 11) lo n
def epBit (b : List DWord) (i : Nat) : Bool := bitAt (blkW b 11) i
def epSlot (b : List DWord) : BitVec 4 := (blkW b 11).extractLsb' 0 4
def epFmt1 (b : List DWord) : Nat := epCtl b 4 4
def epSC1 (b : List DWord) : Bool := epBit b 10
def epOut2 (b : List DWord) : Bool := epBit b 12
def epResEn (b : List DWord) : Bool := epBit b 20
def epDK (b : List DWord) : Bool := epBit b 37
def epRel (b : List DWord) : Bool := epBit b 32

/-- The bits of an element of an output: FMT code 8 is FP32. -/
def outBits (f : Nat) : Nat := if f = 8 then 32 else elemBits f

/-- The bytes of a row of an output (R394). -/
def rowBytes (f : Nat) : Nat := 4 * outBits f

/-- The width of a residual element. -/
def resWidth (b : List DWord) : Nat := if epBit b 21 then 4 else 2

/-- The addresses that the enabled outputs use: rows first, then scales. -/
def outAddrs (b : List DWord) : List DWord :=
  [epDst b 0] ++ (if epOut2 b then [epDst b 1, epScl b 1] else []) ++ (if epSC1 b then [epScl b 0] else [])

/-- Reserved fields and codes (R393 order 2). -/
def epReserved (b : List DWord) : Bool :=
  decide (field (blkW b 1) 32 32 ≠ 0 ∨ field (blkW b 3) 32 32 ≠ 0 ∨ field (blkW b 8) 48 16 ≠ 0 ∨ epCtl b 38 10 ≠ 0 ∨
      epCtl b 36 1 ≠ 0) ||
    blkW b 12 != 0 || blkW b 13 != 0 || blkW b 14 != 0 || decide (epCtl b 28 3 ≠ 0 ∧ epCtl b 28 3 ≠ 4) ||
    (Scope.ofCode (BitVec.ofNat 3 (epCtl b 33 3))).isNone || (!epRel b && decide (epCtl b 33 3 ≠ 0)) ||
    decide (8 < epFmt1 b ∨ 1 < epCtl b 8 2) || (!epSC1 b && decide (epCtl b 8 2 ≠ 0)) ||
    (epOut2 b && decide (1 < epCtl b 17 2 ∨ epCtl b 13 4 < 2 ∨ 7 < epCtl b 13 4)) ||
    (epDK b && (outAddrs b).any (fun a => decide (field a 32 32 ≠ 0)))

/-- Alignment (R393 order 3). -/
def epMisaligned (b : List DWord) : Bool :=
  (outAddrs b).any (fun a => decide (a.toNat % 16 ≠ 0)) ||
    decide (epPitch b 0 % 16 ≠ 0 ∨ epPitch b 0 < rowBytes (epFmt1 b)) ||
    (epOut2 b && decide (epPitch b 1 % 16 ≠ 0 ∨ epPitch b 1 < rowBytes (epCtl b 13 4))) ||
    (epResEn b && decide (epRes b % resWidth b ≠ 0 ∨ epRPitch b % resWidth b ≠ 0))

/-- The bytes of a scale array: 64 for each block column (R394). -/
def sclBytes (blk : Nat) : Nat := 128 / 2 ^ blk

/-- The scratchpad ranges (R393 order 4): the first that leaves scratchpad. -/
def epSpads (s : State) (h : Nat) (b : List DWord) : Option DWord :=
  let rows (a : DWord) (pitch n : Nat) : Option DWord := spadRange s h a (BitVec.ofNat 64 pitch) 32 n
  let res := if epResEn b then rows (BitVec.ofNat 64 (epRes b)) (epRPitch b) (32 * resWidth b) else none
  if epDK b then
    res.or ((rows (epDst b 0) (epPitch b 0) (rowBytes (epFmt1 b))).or
      ((if epSC1 b then rows (epScl b 0) 0 (sclBytes (epCtl b 8 2)) else none).or
        (if epOut2 b then (rows (epDst b 1) (epPitch b 1) (rowBytes (epCtl b 13 4))).or
          (rows (epScl b 1) 0 (sclBytes (epCtl b 17 2))) else none)))
  else res

/-- Formats that the epilogue does not take (R393 order 5). -/
def epFormats (b : List DWord) : Bool :=
  let f := epFmt1 b
  (epSC1 b && decide (f = 0 ∨ f = 1 ∨ f = 8)) || (!epSC1 b && decide (f = 5)) || (epBit b 31 && decide (f ≠ 2 ∧ f ≠ 6))

/-- The ranges that a drain writes (R90): the rows and scales of its outputs, and DSTAT. -/
def epWrites (s : State) (h o : Nat) (b : List DWord) : List Span :=
  let range (a : DWord) (n : Nat) : List Span := if epDK b then spadSpan s h (field a 0 32) n else [(0, a.toNat, n)]
  let out (i f : Nat) (sc : Bool) (blk : Nat) : List Span :=
    (List.range 32).flatMap (fun r => range (epDst b i + BitVec.ofNat 64 (r * epPitch b i)) (rowBytes f)) ++
      (if sc then range (epScl b i) (sclBytes blk) else [])
  out 0 (epFmt1 b) (epSC1 b) (epCtl b 8 2) ++ (if epOut2 b then out 1 (epCtl b 13 4) true (epCtl b 17 2) else []) ++
    [(h + 1, o + 0x78, 8)]

/-- MDRN (R392, R393): the checks in their order, then an entry for each lane. -/
def execMdrn (h : Head) (e : EBlock) (t : BitVec 6) (s : State) : Host.Outcome State Fault Refusal :=
  perform s { head := h, op := 0x345 } [blockRd e] (fun l v => do
    let (w, o, b) ← blockAt l e (v.getD 0 0) 128 64
    let s ← get
    failing (firstFail [(epReserved b, (0x44, 0x01)), (epMisaligned b, (0x44, 0x04)),
      (streamOn s w t.toNat, (0x44, 0x0A))])
    match epSpads s w b with
    | some a => raiseAt (0x11, 0x06) a 0
    | none => do
      failing ((firstFail [(epFormats b, (0x40, 0x03))]).or
        ((slotCheck s w (epSlot b).toNat).or (shadowCheck s w (epSlot b).toNat none)))
      takeMtx l w { op := .mdrn, block := b, blkAddr := o, addr := 0, slot := epSlot b, tag := some t, g := none, uses := [],
                    writes := epWrites s w o b })

/-- A result carried on, with the conditions so far. -/
def carry (r : FRes) (x : Nat) : Nat × Nat := (r.bits, x ||| (r.x.or r.quiet).bits)

/-- The generator's words for an element (R160). -/
def epRandom (b : List DWord) (r c : Nat) : List Word :=
  philox (loWord (blkW b 5), hiWord (blkW b 5))
    (epCol0 b + BitVec.ofNat 32 c, epRow0 b + BitVec.ofNat 32 r, loWord (blkW b 6), hiWord (blkW b 6))

/-- Whether another command writes the residual that a drain reads (R90). -/
def residualRaces (s : State) (e : MtxCmd) : Bool :=
  let b := e.block
  epResEn b && writtenElsewhere s e.seq ((List.range 32).flatMap (fun r =>
    (spadSpan s e.wg ((epRes b + r * epRPitch b) % 2 ^ 32) (32 * resWidth b)).flatMap (homeSpans s 0 e.hm)))

/-- The residual of an element (R394). -/
def epResidual (s : State) (h : Nat) (b : List DWord) (r c : Nat) : FVal :=
  let w := resWidth b
  match spadFind s h ((epRes b + r * epRPitch b + c * w) % 2 ^ 32) w with
  | some p => fdec (if w = 4 then .f32 else .bf16) (natOf (spadRead s p.1 p.2 w))
  | none => .fin false 0 0

/-- Steps 1 to 3 for an element (R159): its FP32 code and its conditions; a residual that races is undefined. -/
def epElem (s : State) (e : MtxCmd) (raced : Bool) (r c : Nat) : Nat × Nat :=
  let b := e.block
  let y0 := (tileWord s e.wg e.tile (32 * r + c)).toNat
  let y1 := if epBit b 19 then carry (fmulOf .f32 rne y0 (epG b)) 0 else (y0, 0)
  let y2 := if epResEn b then
      carry (roundEx .f32 rne (exactAdd false (fdec .f32 y1.1)
        (if raced then fdec .f32 (Config.freeBits 32 (s.fresh * 2 ^ 20 + 32 * r + c)).toNat else epResidual s e.wg b r c))) y1.2
    else y1
  if epBit b 22 then
    if ((epRandom b r c).getD 0 0).toNat % 65536 < epCtl b 48 16 then carry (fmulOf .f32 rne y2.1 (epH b)) y2.2
    else (0, y2.2)
  else y2

/-- An element for an output: its value y3 and the rounding mode of its conversion (R159, R160). -/
def epInput (b : List DWord) (ys : List (Nat × Nat)) (second tr : Bool) (i j : Nat) : FVal × Mode :=
  let r := if tr then j else i
  let c := if tr then i else j
  let mode : Mode := if epCtl b 28 3 = 4 then
      .rs (((epRandom b r c).getD 1 0).toNat / (if second then 256 else 1) % 256)
    else rne
  (fdec .f32 ((ys.getD (32 * r + c) (0, 0)).1), mode)

/-- A row of an unscaled output: its codes and conditions (R146, R147). -/
def plainRow (f : Nat) (nosat : Bool) (xs : List (FVal × Mode)) : List Nat × Nat :=
  let one (x : FVal × Mode) : Nat × Nat :=
    let flt (k : FFmt) : Nat × Nat := carry (roundVal k x.2 nosat x.1) 0
    let int (lo hi : Int) (w : Nat) : Nat × Nat :=
      let z := quotInt lo hi x.2 x.1 (1, 0)
      (bitsOf w z.1, z.2.bits)
    if f = 8 then flt .f32
    else
      match fmtBy f with
      | .bf16 => flt .bf16
      | .fp16 => flt .f16
      | .e4m3 => flt .e4m3
      | .e5m2 => flt .e5m2
      | .e2m1 => flt .e2m1
      | .int8 => int (-128) 127 8
      | .i4 => int (-8) 7 4
      | .q4x => (0, 0)
  let rs := xs.map one
  (rs.map Prod.fst, (rs.map Prod.snd).foldl (· ||| ·) 0)

/-- The blocks of a row. -/
def chunks {α : Type} (n : Nat) (xs : List α) : List (List α) :=
  (List.range (xs.length / n)).map (fun i => (xs.drop (n * i)).take n)

/-- A row of a block-scaled output: its codes, its scales and its conditions (R149, R150). -/
def scaledRow (f : Fmt) (n : Nat) (nosat : Bool) (xs : List (FVal × Mode)) : List Nat × List Nat × Nat :=
  let bs := (chunks n xs).map (fun x =>
    let sc := scaleFor f (amaxOf (x.map Prod.fst))
    let q := quantBlock f nosat sc.1 x
    (q.1, sc.1, q.2.bits ||| (if sc.2 then 1 else 0)))
  (bs.flatMap Prod.fst, bs.map (fun x => x.2.1), (bs.map (fun x => x.2.2)).foldl (· ||| ·) 0)

/-- One output of the drain: format, scaled or not, block size, transposed or not. -/
def outImage (b : List DWord) (ys : List (Nat × Nat)) (second : Bool) (f : Nat) (sc : Bool) (blk : Nat) (tr nosat : Bool) :
    OutImage :=
  let rs := (List.range 32).map (fun i =>
    let xs := (List.range 32).map (epInput b ys second tr i)
    if sc then scaledRow (fmtBy f) (blkElems blk) nosat xs
    else let r := plainRow f nosat xs; (r.1, [], r.2))
  let nb := 32 / blkElems blk
  { rows := rs.map (fun r => bytesOf (rowBytes f) (packBits (outBits f) r.1))
    scales := if sc then
        (List.range nb).flatMap (fun k => rs.flatMap (fun r => bytesOf 2 (r.2.1.getD k 0)))
      else []
    conds := (rs.map (fun r => r.2.2)).foldl (· ||| ·) 0 }

/-- The drain of a command's tile (R159 to R163). -/
def drainImage (s : State) (e : MtxCmd) : DrainImage :=
  let b := e.block
  let raced := residualRaces s e
  let ys := (List.range 1024).map (fun i => epElem s e raced (i / 32) (i % 32))
  let tr := epBit b 11
  let p := outImage b ys false (epFmt1 b) (epSC1 b) (epCtl b 8 2) tr (epBit b 31)
  let p2 := if epOut2 b then some (outImage b ys true (epCtl b 13 4) true (epCtl b 17 2) (!tr) false) else none
  { ys := ys, first := p, second := p2,
    conds := (ys.map Prod.snd).foldl (· ||| ·) p.conds ||| ((p2.map OutImage.conds).getD 0) }

/-- Bytes cut into sectors from an address on. -/
def sectorsAt (a : DWord) (bs : List Byte) : List (DWord × List Byte) :=
  (List.range (bs.length / 16)).map (fun i => (a + BitVec.ofNat 64 (16 * i), (bs.drop (16 * i)).take 16))

/-- The sectors of an output, in order (R395). -/
def outSectors (dst scl : DWord) (pitch : Nat) (o : OutImage) : List (DWord × List Byte) :=
  (withPos o.rows).flatMap (fun p => sectorsAt (dst + BitVec.ofNat 64 (p.1 * pitch)) p.2) ++ sectorsAt scl o.scales

/-- The sectors that a drain writes, in order (R395 step 3). -/
def drainSectors (b : List DWord) (d : DrainImage) : List (DWord × List Byte) :=
  outSectors (epDst b 0) (epScl b 0) (epPitch b 0) d.first ++
    (match d.second with
     | some o => outSectors (epDst b 1) (epScl b 1) (epPitch b 1) o
     | none => [])

/-! ## How a command goes on, stops and ends (R382, R386, R395, R430) -/

/-- A command of the matrix queue. -/
def mtxAt (s : State) (c n : Nat) : Option MtxCmd := Tab.get? (coreAt s c).mtxQ n

/-- Change a command of the matrix queue. -/
def modMtx (s : State) (c n : Nat) (f : MtxCmd → MtxCmd) : State :=
  modCore s c (fun k => { k with mtxQ := Tab.adjust k.mtxQ n f })

/-- A command ends: its entry frees, and its tag follows R92. -/
def endMtx (s : State) (c n : Nat) (x : CmdEnd) : State :=
  match mtxAt s c n with
  | none => s
  | some e =>
    let s := modCore s c (fun k =>
      { k with mtxQ := Tab.del k.mtxQ n, drainFaults := k.drainFaults.filter (fun m => m != n) })
    let s := dropWaiters s (fun w => w == .mtx c n)
    let s := match e.tag with
      | some t => tagEnd s e.wg t.toNat x
      | none => s
    resvSweep s c

/-- A drain stops at a fault; its record lies with those of R430. -/
def stopMtx (s : State) (c n : Nat) (o : Outcome) (va : DWord) (kind : AccKind) : State :=
  match mtxAt s c n with
  | none => s
  | some e =>
    let s := modMtx s c n (fun e => { e with st := .stopped, miss := none, why := o })
    let s := umpSpadWrite s c (0x4800 + 128 * n)
      (wordsBytes (engineRecord e.hm o ((e.tag.map BitVec.toNat).getD 0) n e.p va (kind == .write) 0x345 e.orig))
    noteFault (modCore s c (fun k => { k with drainFaults := k.drainFaults ++ [n] })) c 2 n

/-- What a command does where an access of it was not performed. -/
def mtxStop (s : State) (c n : Nat) (e : MtxCmd) (x : EngStop) : State :=
  match x with
  | .miss va kind =>
    let r := queueMiss s (c / 8) e.hm va kind (.mtx c n)
    if r.2 then
      [0x0A, 0x0B].foldl (fun s x => creditEvent (bumpEvent s c x 1) c e.hm e.orig.top x 1)
        (modMtx r.1 c n (fun e => { e with miss := some va }))
    else s
  | .fault o va kind => stopMtx s c n o va kind
  | .poison p =>
    let code := carrierOf s (some c) p.home
    let s := endMtx s c n (.failed 0x51 code)
    contain s (some c) (p.home / 16 * 16) p.sk e.hm [(wgAt s e.wg).team] code e.orig.pc
  | .bad o => endMtx s c n (.failed o.1 o.2)
  | .later => s

/-- The sectors of a command of the drain. -/
def mtxSectors (e : MtxCmd) : Nat :=
  match e.op with
  | .mdrn =>
    let b := e.block
    2 * rowBytes (epFmt1 b) + (if epSC1 b then sclBytes (epCtl b 8 2) / 16 else 0) +
      (if epOut2 b then 2 * rowBytes (epCtl b 13 4) + sclBytes (epCtl b 17 2) / 16 else 0)
  | _ => 256

/-- Move one sector of ALD, AST or MDRN; what an ALD reads of another command's destination is undefined (R90). -/
def mtxSector (s : State) (c : Nat) (e : MtxCmd) (j : Nat) : State × Except EngStop Unit :=
  match e.op with
  | .ald =>
    let a := spadLoc s e.wg ((e.addr + 16 * j) % 2 ^ 32) 16
    match readLoc s c e.wg e.hm e.orig.top .none a with
    | (s, .error x) => (s, .error x)
    | (s, .ok bs) =>
      let bs := if writtenElsewhere s e.seq (a.homes s c e.hm 16) then bytesOf 16 (Config.freeBits 128 s.fresh).toNat else bs
      (setTile s e.wg e.tile (4 * j) ((List.range 4).map (fun i => BitVec.ofNat 32 (natOf ((bs.drop (4 * i)).take 4)))), .ok ())
  | .ast =>
    let ws := (List.range 4).map (fun i => tileWord s e.wg e.tile (4 * j + i))
    writeLoc s c e.wg e.hm e.orig.top .none (spadLoc s e.wg ((e.addr + 16 * j) % 2 ^ 32) 16) (ws.flatMap (fun w => bytesOf 4 w.toNat))
  | _ =>
    match (drainSectors e.block (e.image.getD (drainImage s e)))[j]? with
    | none => (s, .ok ())
    | some (a, bs) =>
      writeLoc s c e.wg e.hm e.orig.top .none (if epDK e.block then spadLoc s e.wg (field a 0 32) 16 else .glob a) bs

/-- The end of a drain (R395 steps 4 to 6): the amax update, DSTAT, the release. -/
def drainEnd (s : State) (e : MtxCmd) : State :=
  let b := e.block
  let d := e.image.getD (drainImage s e)
  let s1 := if epBit b 23 then d.ys.foldl (fun s y => amaxUpdate s e.wg (epCtl b 24 4) (fdec .f32 y.1)) s else s
  let s1 := spadWrite s1 e.wg (e.blkAddr + 0x78) (bytesOf 8 ((tileFlags s e.wg e.tile ||| d.conds) % 128))
  if epRel b then engRelease s1 e.wg (scopeBy (BitVec.ofNat 3 (epCtl b 33 3))) (true, e.blkAddr, 0) e.orig else s1

/-- A command of the drain whose sectors are moved. -/
def mtxFull (s : State) (c n : Nat) (e : MtxCmd) : State :=
  match e.op with
  | .mdrn =>
    if relStalls s e.wg (epRel e.block) (scopeBy (BitVec.ofNat 3 (epCtl e.block 33 3))) then s
    else if relWaits s e.wg (epRel e.block) e.snap then askSnapshot s e.wg e.orig
    else
      let s := creditEvent (bumpEvent s c 0x0E 1) c e.hm e.orig.top 0x0E 1
      endMtx (drainEnd s e) c n .completed
  | .ald => endMtx (setFlags s e.wg e.tile 0) c n .completed
  | _ => endMtx s c n .completed

/-- DRAIN_SECTOR_DONE (R382, R388, R395): a running ALD, AST or MDRN moves a sector, and ends after the last. -/
def execDrainSectorDone (c : Fin 192) (n : Fin 32) (s : State) : Host.Outcome State Fault Refusal :=
  .next (match mtxAt s c.val n.val with
    | none => s
    | some e =>
      if e.st ≠ .running ∨ e.miss.isSome ∨ enginePaused s e.wg ∨ (e.op ≠ .ald ∧ e.op ≠ .ast ∧ e.op ≠ .mdrn) then s
      else if e.p = mtxSectors e then mtxFull s c.val n.val e
      else
        let j := pickSector s e.ahead e.p (mtxSectors e)
        match mtxSector s c.val e j with
        | (s, .error x) => mtxStop s c.val n.val e x
        | (s, .ok _) =>
          let r := wrote e.p e.ahead j
          let s := modMtx s c.val n.val (fun e => { e with p := r.1, ahead := r.2 })
          if r.1 = mtxSectors e then
            match mtxAt s c.val n.val with
            | some e => mtxFull s c.val n.val e
            | none => s
          else s)

/-- Whether an earlier command of the workgroup stands on a command's slot or tiles (R72, R382). -/
def mtxBehind (k : Core) (e : MtxCmd) : Bool :=
  k.mtxQ.any (fun x =>
    let o := x.2
    decide (o.wg = e.wg ∧ o.seq < e.seq) &&
      (o.slot == e.slot || o.tile == e.tile || o.src == some e.tile || e.src == some o.tile))

/-- The check of a solder list (R387). -/
def solderBad (k kq : Nat) : Nat → List DWord → Bool
  | _, [] => false
  | low, e :: r =>
    decide (k ≤ solderStep e ∨ solderStep e < low ∨ kq ≤ solderJ e ∨ field e 0 6 ≠ 0) || bitAt e 12 ||
      (bitAt e 18 && decide (field e 32 16 ≠ 0)) || solderBad k kq (solderStep e) r

/-- Read the solder list of an MMAS (R387); an entry that another command writes is undefined (R90). -/
def solderList (s : State) (e : MtxCmd) : List DWord :=
  (List.range (mmaCount e.block)).map (fun i =>
    match spadFind s e.wg ((mmaList e.block + 8 * i) % 2 ^ 32) 8 with
    | some p =>
      if writtenElsewhere s e.seq (homeSpans s 0 e.hm (p.1 + 1, p.2, 8)) then Config.freeBits 64 (s.fresh * 2 ^ 30 + i)
      else spadWord s p.1 p.2
    | none => 0)

/-- The reservations that a command reads in a race when it starts (R72). -/
def racedUses (s : State) (c : Nat) (e : MtxCmd) : List Nat :=
  e.uses.filter (fun n => ((resvUsed s e.wg n).map (resvRaces s c)).getD false)

/-- The start of an MMA or MMAS (R72, R386, R389): the wait on WMASK, which acquires, the shadow's copy, the checks, the
clear. -/
def mmaBegin (s : State) (c n : Nat) (e : MtxCmd) : State :=
  let ts := (tagsIn (blkW e.block 5)).map (fun t => (tagOf (wgAt s e.wg) t).st)
  if ts.contains .busy then s
  else
    let s := acquireTags s e.wg (tagsIn (blkW e.block 5))
    let s := match e.src with
      | some t => modMtx (copyTile s e.wg t e.tile) c n (fun e => { e with src := none })
      | none => s
    let list := if e.op = .mmas then solderList s e else []
    if ts.contains .failed then endMtx s c n (.failed 0x44 0x0C)
    else if e.op = .mmas ∧ solderBad (mmaK e.block) (kPerStep (mmaFmt e.block 0)) 0 list then
      endMtx s c n (.failed 0x44 0x0D)
    else
      let s := if mmaAccum e.block then s else zeroTile s e.wg e.tile
      modMtx s c n (fun e => { e with st := .running, solder := list, raced := racedUses s c e })

/-- MMA_START (R72, R386, R388, R390): a queued command of the matrix queue whose turn has come starts; ACLR, ACMT and
ADSC end at once, and a drain computes its elements and outputs, from which every sector is then written (R395). -/
def execMmaStart (c : Fin 192) (n : Fin 32) (s : State) : Host.Outcome State Fault Refusal :=
  .next (match mtxAt s c.val n.val with
    | none => s
    | some e =>
      if e.st ≠ .queued ∨ enginePaused s e.wg ∨ mtxBehind (coreAt s c.val) e then s
      else
        match e.op with
        | .mma | .mmas => mmaBegin s c.val n.val e
        | .aclr => endMtx (zeroTile s e.wg e.tile) c.val n.val .completed
        | .acmt | .adsc => endMtx s c.val n.val .completed
        | .ald | .ast => modMtx s c.val n.val (fun e => { e with st := .running })
        | .mdrn => modMtx s c.val n.val (fun e => { e with st := .running, image := some (drainImage s e) }))

/-- MMA_STEP (R153, R386): a running command completes its next k-step and that step's solder entries; after the last
its tag is set. -/
def execMmaStep (c : Fin 192) (n : Fin 32) (s : State) : Host.Outcome State Fault Refusal :=
  .next (match mtxAt s c.val n.val with
    | none => s
    | some e =>
      if e.st ≠ .running ∨ enginePaused s e.wg ∨ (e.op ≠ .mma ∧ e.op ≠ .mmas) then s
      else
        let r := stepTile s e e.p
        let fl := tileFlags s e.wg e.tile
        let s := setFlags (setTile s e.wg e.tile 0 r.1) e.wg e.tile (fl ||| r.2)
        let s := creditEvent (bumpEvent s c.val 0x0D 1) c.val e.hm e.orig.top 0x0D 1
        let s := modMtx s c.val n.val (fun e => { e with p := e.p + 1 })
        if e.p + 1 = mmaK e.block then endMtx s c.val n.val .completed else s)

end Sys2Proof.Machine
end

