-- ==== Sys2Proof/Machine/Network.lean ====
section
/-!
DEFINITION. The network (R396 to R400, R447, R448, R465 to R469): NPOST, NWAIT and NCANC, and the network engine's work
for a queue pair, one access at a time.
-/

namespace Sys2Proof.Machine

/-! ## Queue pairs -/

/-- A queue pair by its number. -/
def qpAt (s : State) (q : Nat) : Option QP := Tab.get? s.qps q

/-- Change a queue pair. -/
def modQp (s : State) (q : Nat) (f : QP → QP) : State := { s with qps := Tab.adjust s.qps q f }

/-- The queue pair that a number names for a hallmark (R400). -/
def openQp (s : State) (q : Nat) (hm : Hm) : Option QP := if q < 4096 then (qpAt s q).filter (fun p => p.hm = hm) else none

/-- The unit of the network engine's event counters (R289). -/
def netUnit : Nat := 302

/-! ## Accesses of the engine, in the context that owns the pair (R32, R469) -/

/-- What keeps an access of the engine from being performed: a fault at an address, poison, or a wait for a walker or for the
fabric (R33, R260). -/
inductive NetStop where
  | fault (o : Outcome) (va : DWord)
  | poison (p : Place)
  | stall
  deriving DecidableEq, Repr

/-- The translation of an access by the engine's own TLB, which the model gives 128 entries (log entries 6 and 7), with a walk
within the step. -/
def netXlate (s : State) (hm : Hm) (va : DWord) (kind : AccKind) : State × Except Outcome Place :=
  let s := holdDesc s hm
  let d := descOf s hm
  if !d.v then (s, .error (0x11, 0x0C))
  else if !canonical va d.l5 then (s, .error (0x11, 0x04))
  else
    match (lookupTlb s.netTlb hm va).filter (fun e => serves e kind) with
    | some e => (s, placeBy s e va)
    | none =>
      match walk s hm va kind with
      | (s, .error o) => (s, .error o)
      | (s, .ok e) => let s := { s with netTlb := addTlb s.netTlb e 128 }; (s, placeBy s e va)

/-- The place of an access of the engine, with a walk within the step. -/
def netLook (s : State) (hm : Hm) (va : DWord) (kind : AccKind) : State × Except NetStop Place :=
  match netXlate s hm va kind with
  | (s, .ok p) => (s, .ok p)
  | (s, .error o) => (s, .error (.fault o va))

/-- The place of an access of the engine: a miss in its TLB waits for a walker as a court's does, in a queue of its own (R32
to R34; log entry 6). -/
def netPlace (s : State) (hm : Hm) (va : DWord) (kind : AccKind) : State × Except NetStop Place :=
  let s := holdDesc s hm
  let d := descOf s hm
  if d.v && canonical va d.l5 && ((lookupTlb s.netTlb hm va).filter (fun e => serves e kind)).isNone &&
      !walkFaulted s .net hm va then
    ((queueMiss s 24 hm va kind .net).1, .error .stall)
  else
    let s' := { s with walked := (match failedWalk s .net hm va with
      | some m => s.walked.erase m
      | none => s.walked) }
    match sharedOutcome s .net hm va kind with
    | some o => (s', .error (.fault o va))
    | none => netLook s' hm va kind

/-- Read bytes that lie in one line, where `find` gives their place. -/
def netReadLine (find : State → Hm → DWord → AccKind → State × Except NetStop Place) (s : State) (hm : Hm) (va : DWord)
    (n : Nat) : State × Except NetStop (List Byte) :=
  match find s hm va .read with
  | (s, .error e) => (s, .error e)
  | (s, .ok p) =>
    match remoteEnd s hm p.mt p.home n with
    | .waits => (s, .error .stall)
    | .refused => (askRead s hm p.mt p.home n, .error (.fault (0x11, 0x05) va))
    | .timedOut => (askRead s hm p.mt p.home n, .error (.poison { p with home := poisonAt s p.home n }))
    | .answered =>
      if isPoisoned s p.home n then (s, .error (.poison { p with home := poisonAt s p.home n }))
      else
        let r := readPlace s .net hm p false n
        (r.2, .ok r.1)

/-- Read bytes, line by line. -/
def netReadBy (find : State → Hm → DWord → AccKind → State × Except NetStop Place) (s : State) (hm : Hm) (va : DWord)
    (n : Nat) : State × Except NetStop (List Byte) :=
  (linePieces va.toNat (List.replicate n 0) n).foldl
    (fun r p =>
      match r.2 with
      | .error e => (r.1, .error e)
      | .ok bs =>
        match netReadLine find r.1 hm (BitVec.ofNat 64 p.1) p.2.length with
        | (s, .ok b) => (s, .ok (bs ++ b))
        | (s, .error e) => (s, .error e)) (s, .ok [])

/-- A read of the engine; and a look along a chain that no step of the engine makes, which walks at once (log entry 6). -/
def netRead (s : State) (hm : Hm) (va : DWord) (n : Nat) : State × Except NetStop (List Byte) := netReadBy netPlace s hm va n
def netPeek (s : State) (hm : Hm) (va : DWord) (n : Nat) : State × Except NetStop (List Byte) := netReadBy netLook s hm va n

/-- Write bytes, line by line, where `find` gives their places. -/
def netWriteBy (find : State → Hm → DWord → AccKind → State × Except NetStop Place) (s : State) (hm : Hm) (va : DWord)
    (bs : List Byte) : State × Except NetStop Unit :=
  (linePieces va.toNat bs bs.length).foldl
    (fun r p =>
      match r.2 with
      | .error e => (r.1, .error e)
      | .ok _ =>
        match find r.1 hm (BitVec.ofNat 64 p.1) .write with
        | (s, .ok q) => (writePlace s .net hm q false p.2, .ok ())
        | (s, .error e) => (s, .error e)) (s, .ok ())

/-- A write of the engine. -/
def netWrite (s : State) (hm : Hm) (va : DWord) (bs : List Byte) : State × Except NetStop Unit := netWriteBy netPlace s hm va bs

/-- Add 1 to an 8-byte counter, where `find` gives its place: the atomic release of R74, performed at the counter's home
(R374). -/
def netAddBy (find : State → Hm → DWord → AccKind → State × Except NetStop Place) (s : State) (hm : Hm) (va : DWord) :
    State × Except NetStop Unit :=
  if releaseStalls s hm then (s, .error .stall)
  else
    match find (releaseRemote s hm) hm va .write with
    | (s, .error e) => (s, .error e)
    | (s, .ok p) =>
      match remoteEnd s hm true p.home 8 with
      | .waits => (s, .error .stall)
      | .refused => (sendUatin s hm (.atomic 0) p.home 8 0 (bytesOf 8 1), .error (.fault (0x11, 0x05) va))
      | .timedOut => (sendUatin s hm (.atomic 0) p.home 8 0 (bytesOf 8 1), .error (.poison p))
      | .answered =>
        if isPoisoned s p.home 8 then (s, .error (.poison p))
        else
          let d : Door := .atomic 0 (bytesOf 8 1)
          let r := readPlace s d hm p (isRemote p.home) 8
          (writePlace r.2 d hm p (isRemote p.home) (bytesOf 8 ((natOf r.1 + 1) % 2 ^ 64)), .ok ())

def netAdd (s : State) (hm : Hm) (va : DWord) : State × Except NetStop Unit := netAddBy netPlace s hm va

/-! ## A work request (R397, R399) -/

/-- The packets of a message (R447); one without payload still travels. -/
def NetReq.total (r : NetReq) : Nat := max 1 ((r.len + 4095) / 4096)

/-- The request that 64 bytes hold. -/
def parseReq (bs : List Byte) (id core : Nat) (va : DWord) (seq : Word) : NetReq :=
  let w (i : Nat) : DWord := BitVec.ofNat 64 (natOf ((bs.drop (8 * i)).take 8))
  { id := id, va := va, seq := seq, len := field (w 1) 32 32, opc := (w 1).extractLsb' 0 8, laddr := w 2, raddr := w 3,
    rkey := loWord (w 4), rcid := loWord (w 6), cnt := w 5, sent := 0, core := core, broken := false }

/-- Whether a request is bad: STATUS 0x10 (R399). -/
def badReq (bs : List Byte) : Bool :=
  let w (i : Nat) : DWord := BitVec.ofNat 64 (natOf ((bs.drop (8 * i)).take 8))
  let opc := field (w 1) 0 8
  decide (opc ≠ 1 ∧ opc ≠ 2) || decide (field (w 1) 8 24 ≠ 0 ∨ 0x40000000 < field (w 1) 32 32 ∨ field (w 4) 32 32 ≠ 0 ∨
      field (w 6) 32 32 ≠ 0) ||
    (decide (opc = 1) && (w 3 != 0 || decide (field (w 4) 0 32 ≠ 0))) || decide ((w 5).toNat % 8 ≠ 0) ||
    decide (256 ≤ field (w 6) 0 32)

/-- The SEQ after one: 0 is skipped (R398). -/
def nextSeq (x : Word) : Word := if x + 1 = 0 then 1 else x + 1

/-! ## Network fault records (R469) -/

/-- The 128 bytes of a record. -/
def netRecord (hm : Hm) (o : Outcome) (n : Nat) (va reqVa : DWord) (access q : Nat) : List DWord :=
  (engineRecord hm o 0 n 0 va false 0x360 { slot := 0, pc := 0, cbase := 0, top := 0 }).mapIdx (fun i w =>
    if i = 3 then infoWord 0x360 false 0 else if i = 9 then reqVa else if i = 10 then BitVec.ofNat 64 access
    else if i = 11 then BitVec.ofNat 64 q else w)

/-- Give a fault a record of its core, or let it wait for one. -/
def postNetFault (s : State) (x : NetWait) : State :=
  match Tab.freeKey (coreAt s x.core).netFaults 8 0 with
  | none => { s with netWait := s.netWait ++ [x] }
  | some n =>
    let ws := x.words.mapIdx (fun i w => if i = 0 then w ||| BitVec.ofNat 64 (n * 2 ^ 10) else w)
    let s := umpSpadWrite s x.core (0x5800 + 128 * n) (wordsBytes ws)
    noteFault (modCore s x.core (fun k => { k with netFaults := Tab.set k.netFaults n x.qp })) x.core 3 n

/-- Free a record of a core; a fault that waits for one takes it. -/
def freeNetRecord (s : State) (c n : Nat) : State :=
  let s := modCore s c (fun k => { k with netFaults := Tab.del k.netFaults n })
  match s.netWait.find? (fun x => x.core = c) with
  | none => s
  | some x => postNetFault { s with netWait := s.netWait.filter (fun y => y != x) } x

/-- Change what a pair has still to do; where that takes away the step that it is stopped at, it goes on and its record
is free. -/
def setTodo (s : State) (q : Nat) (f : QP → QP) : State :=
  match qpAt s q with
  | none => s
  | some p =>
    let p' := f p
    if p.stopped && p.todo.head? != p'.todo.head? then
      let s := modQp s q (fun _ => { p' with stopped := false })
      let s := { s with netWait := s.netWait.filter (fun x => x.qp.toNat != q) }
      (s.cores.flatMap (fun e => (e.2.netFaults.filter (fun f => f.2.toNat = q)).map (fun f => (e.1, f.1)))).foldl
        (fun s x => freeNetRecord s x.1 x.2) s
    else modQp s q (fun _ => p')

/-! ## Ends of requests and of pairs (R398, R399, R469) -/

/-- Report a pair's error, a broken chain or a refused entry (R441): the queue pair and a request's VA (log entry 22). -/
def reportPair (s : State) (q : Nat) (hm : Hm) (va : DWord) : State := post s 0x07 0xFF hm [BitVec.ofNat 64 q, va]

/-- Put a pair into the error state. -/
def errPair (s : State) (q : Nat) (va : DWord) : State :=
  match qpAt s q with
  | none => s
  | some p => if p.err then s else reportPair (modQp s q (fun p => { p with err := true })) q p.hm va

/-- The steps that end a request with a STATUS: it is written, then CNT advances where it is aligned (R398, R399). -/
def endSteps (r : NetReq) (x : Byte) : List NetStep :=
  [.status r.core r.va x] ++ (if r.cnt = 0 ∨ r.cnt.toNat % 8 ≠ 0 then [] else [.count r.core r.va r.cnt]) ++
    (if r.broken then [.status r.core r.va 0x14] else [])

/-- A request leaves the pair with a STATUS; its packets that no acknowledgement has named keep their room in the window
(R466). -/
def endReq (s : State) (q id : Nat) (x : Byte) : State :=
  setTodo s q (fun p =>
    match p.reqs.find? (fun r => r.id = id) with
    | none => p
    | some r =>
      { p with
        reqs := p.reqs.filter (fun r => r.id != id)
        packets := p.packets.filter (fun k => k.req != id)
        ended := p.ended ++ (p.packets.filter (fun k => k.req == id)).map NetPkt.psn
        todo := (p.todo.filter (fun t => t != .send id &&
          !(p.packets.any (fun k => k.req == id && t == .resend k.psn)))) ++ endSteps r x })

/-- The chain breaks after LAST: STATUS 0x14 there after its own completion, and the error state (R398). -/
def breakChain (s : State) (q core : Nat) (va : DWord) : State :=
  let s := modQp s q (fun p =>
    if p.reqs.any (fun r => r.va = va) then
      { p with reqs := p.reqs.map (fun r => if r.va = va then { r with broken := true } else r) }
    else { p with todo := p.todo ++ [.status core va 0x14] })
  errPair s q va

/-- What a step's access is, numbered as R469 has it, with the request's VA. -/
def stepAccess (p : QP) (x : NetStep) : Nat × DWord :=
  match x with
  | .cancel _ va => (3, va)
  | .next _ va => (2, va)
  | .take => (2, p.last.getD p.head)
  | .read va => (1, va)
  | .mark r => (3, r.va)
  | .send id => (0, ((p.reqs.find? (fun r => r.id = id)).map NetReq.va).getD 0)
  | .resend n =>
    let id := ((p.packets.find? (fun k => k.psn = n)).map NetPkt.req).getD 0
    (0, ((p.reqs.find? (fun r => r.id = id)).map NetReq.va).getD 0)
  | .status _ va _ => (3, va)
  | .count _ va _ => (4, va)

/-- The core whose umpire a step's fault goes to (R469). -/
def stepCore (p : QP) (x : NetStep) : Nat :=
  match x with
  | .take | .read _ => ((p.tails.head?).map Prod.snd).getD 0
  | .mark r => r.core
  | .send id => ((p.reqs.find? (fun r => r.id = id)).map NetReq.core).getD 0
  | .resend n =>
    let id := ((p.packets.find? (fun k => k.psn = n)).map NetPkt.req).getD 0
    ((p.reqs.find? (fun r => r.id = id)).map NetReq.core).getD 0
  | .status c _ _ => c
  | .count c _ _ => c
  | .cancel c _ => c
  | .next c _ => c

/-- The request that a payload read belongs to. -/
def stepReq (p : QP) (x : NetStep) : Nat :=
  match x with
  | .send id => id
  | .resend n => ((p.packets.find? (fun k => k.psn = n)).map NetPkt.req).getD 0
  | _ => 0

/-- A step whose access is not resolved: the outcome of R469's table. -/
def stepFails (s : State) (q : Nat) : State :=
  match qpAt s q with
  | none => s
  | some p =>
    match p.todo with
    | [] => modQp s q (fun p => { p with stopped := false })
    | x :: r =>
      let s := modQp s q (fun p => { p with todo := r, stopped := false })
      let a := stepAccess p x
      if a.1 = 0 then endReq s q (stepReq p x) 0x11
      else if a.1 = 2 then breakChain s q (stepCore p x) a.2
      else errPair s q a.2

/-! ## Stopping (R469) -/

/-- A pair stops at a fault of its next step. -/
def stopPair (s : State) (q : Nat) (p : QP) (x : NetStep) (o : Outcome) (va : DWord) : State :=
  let a := stepAccess p x
  let s := modQp s q (fun p => { p with stopped := true })
  postNetFault s { core := stepCore p x, qp := BitVec.ofNat 12 q, words := netRecord p.hm o 0 va a.2 a.1 q }

/-- The network engine consumes a poisoned sector in a pair's context (R256, R257). -/
def netConsume (s : State) (hm : Hm) (a : Place) : State :=
  contain s none (a.home / 16 * 16) a.sk hm [] (carrierOf s none a.home) 0xFFFFFFFF

/-- What a step does where its access was not performed; poison is consumed (R256), and the access then fails. -/
def netStop (s : State) (q : Nat) (p : QP) (x : NetStep) (e : NetStop) : State :=
  match e with
  | .fault o va =>
    (match consumedPte s p.hm va o with
     | some a => stepFails (contain s none a false p.hm [] o.2 0xFFFFFFFF) q
     | none => stopPair s q p x o va)
  | .poison a => stepFails (netConsume s p.hm a) q
  | .stall => s

/-! ## The steps (R398, R466) -/

/-- Drop the step that is done. -/
def stepDone (s : State) (q : Nat) (next : List NetStep) : State := modQp s q (fun p => { p with todo := next ++ p.todo.tail })

/-- Drop the TAILs that LAST has reached (R398): one that is posted again is no request to take (log entry 33). -/
def QP.afresh (p : QP) : QP := { p with tails := p.tails.dropWhile (fun t => some t.1 == p.last) }

/-- The next request of the chain, up to TAIL (R398). -/
def doTake (s : State) (q : Nat) (p : QP) : State :=
  if p.tails.isEmpty then stepDone s q []
  else
  match p.last with
  | none => stepDone s q [.read p.head]
  | some va =>
    match netRead s p.hm va 8 with
    | (s, .error e) => netStop s q p .take e
    | (s, .ok bs) =>
      if natOf bs = 0 then breakChain (stepDone s q []) q (stepCore p .take) va
      else stepDone s q [.read (BitVec.ofNat 64 (natOf bs))]

/-- Read a request's words: it becomes LAST (R398). -/
def doRead (s : State) (q : Nat) (p : QP) (va : DWord) : State :=
  match netRead s p.hm va 64 with
  | (s, .error e) => netStop s q p (.read va) e
  | (s, .ok bs) =>
    let r := parseReq bs p.nextReq (stepCore p (.read va)) va p.seq
    let s := modQp s q (fun p =>
      { p with last := some va, seq := nextSeq p.seq, nextReq := p.nextReq + 1 }.afresh)
    let s := stepDone s q [.mark r]
    if badReq bs then modQp s q (fun p => { p with todo := p.todo ++ endSteps r 0x10 })
    else modQp s q (fun p => { p with reqs := p.reqs ++ [r] })

/-- The payload of a packet, and the packet as it travels (R447): to the peer's address, through the pair's port (R465). -/
def packetOf (q : Nat) (p : QP) (r : NetReq) (psn : Word) (i : Nat) (bs : List Byte) : NetPacket :=
  { peer := p.peer, port := p.port, qp := p.pqpn, back := BitVec.ofNat 12 q, psn := psn, send := r.opc == 1, msg := r.id, index := i, total := r.total, len := r.len, raddr := r.raddr,
    rkey := r.rkey, rcid := r.rcid.setWidth 8, data := bs }

/-- Whether a port is up for the network engine: it is trained as Ethernet (R443). -/
def netUp (s : State) (port : BitVec 6) : Bool := Tab.get? s.host.portst port.toNat == some .ethernet

/-- Read a piece's payload. -/
def readPiece (s : State) (p : QP) (r : NetReq) (i : Nat) : State × Except NetStop (List Byte) :=
  netRead s p.hm (r.laddr + BitVec.ofNat 64 (4096 * i)) (min 4096 (r.len - 4096 * i))

/-- Send the next piece of a request (R466). -/
def doSend (s : State) (q : Nat) (p : QP) (id : Nat) : State :=
  match p.reqs.find? (fun r => r.id = id) with
  | none => stepDone s q []
  | some r =>
    match readPiece s p r r.sent with
    | (s, .error e) => netStop s q p (.send id) e
    | (s, .ok bs) =>
      let k : NetPkt := { psn := p.psn, req := id, index := r.sent, sent := s.now, sends := 1, reported := false }
      let s := modQp s q (fun p =>
        { p with psn := p.psn + 1, packets := p.packets ++ [k],
                 reqs := p.reqs.map (fun x => if x.id = id then { x with sent := x.sent + 1 } else x) })
      stepDone (countUnit { s with netOut := s.netOut ++ [.data (packetOf q p r p.psn r.sent bs)] } netUnit 0 1) q []

/-- Send a packet again: the payload is read again (R448, R467). Nothing goes while the port is not up as Ethernet: the packet
is due again at its next timeout (R443; log entry 33). -/
def doResend (s : State) (q : Nat) (p : QP) (n : Word) : State :=
  match p.packets.find? (fun k => k.psn = n) with
  | none => stepDone s q []
  | some k =>
    match p.reqs.find? (fun r => r.id = k.req) with
    | none => stepDone s q []
    | some r =>
      if !netUp s p.port then stepDone s q []
      else
      match readPiece s p r k.index with
      | (s, .error e) => netStop s q p (.resend n) e
      | (s, .ok bs) =>
        let s := modQp s q (fun p => { p with packets := p.packets.map (fun x =>
          if x.psn = n then { x with sent := s.now, sends := x.sends + 1 } else x) })
        let s := { s with netOut := s.netOut ++ [.data (packetOf q p r n k.index bs)] }
        stepDone (countUnit (countUnit s netUnit 0 1) netUnit 1 1) q []

/-- What a step does to a request's own words and its counter (R398, R399), where `find` gives places, and the reading of a
NEXT for NCANC. -/
def stepWriteBy (find : State → Hm → DWord → AccKind → State × Except NetStop Place) (s : State) (hm : Hm) (x : NetStep) :
    State × Except NetStop Unit :=
  match x with
  | .mark r => netWriteBy find s hm (r.va + 0x38) (bytesOf 8 (r.seq.toNat * 2 ^ 32))
  | .status _ va y => netWriteBy find s hm (va + 0x38) (bytesOf 4 y.toNat)
  | .cancel _ va => netWriteBy find s hm (va + 0x38) (bytesOf 8 3)
  | .count _ _ cnt => netAddBy find s hm cnt
  | .next _ va =>
    (match netReadBy find s hm va 8 with
     | (s, .ok _) => (s, .ok ())
     | (s, .error e) => (s, .error e))
  | .take | .read _ | .send _ | .resend _ => (s, .ok ())
def stepWrite (s : State) (hm : Hm) (x : NetStep) : State × Except NetStop Unit := stepWriteBy netPlace s hm x

/-- One step of a pair. -/
def netStep (s : State) (q : Nat) (p : QP) (x : NetStep) : State :=
  match x with
  | .take => doTake s q p
  | .read va => doRead s q p va
  | .send id => doSend s q p id
  | .resend n => doResend s q p n
  | .mark _ | .status _ _ _ | .count _ _ _ | .cancel _ _ | .next _ _ =>
    match stepWrite s p.hm x with
    | (s, .error e) => netStop s q p x e
    | (s, .ok _) => stepDone s q []

/-- A request that may send a piece: the pair's port is up as Ethernet (R443), and the window holds 64 packets that are sent and
not acknowledged, those of ended requests with them (R466). -/
def toSend (s : State) (p : QP) : Option NetReq :=
  if netUp s p.port ∧ p.packets.length + p.ended.length < 64 then p.reqs.find? (fun r => decide (r.sent < r.total)) else none

/-- Run a pair's steps until it stops or has nothing to do. -/
def netRun (s : State) (q : Nat) : Nat → State
  | 0 => s
  | n + 1 =>
    match qpAt s q with
    | none => s
    | some p =>
      if p.stopped then s
      else
        match p.todo with
        | x :: _ => netRun (netStep s q p x) q n
        | [] =>
          match toSend s p with
          | some r => netRun (modQp s q (fun p => { p with todo := [.send r.id] })) q n
          | none => s

/-- Enough turns for a pair's steps and one window of packets. -/
def netTurns (s : State) (q : Nat) : Nat := 4 * (((qpAt s q).map (fun p => p.todo.length)).getD 0) + 256

/-- Whether a step takes a request. -/
def takesReq (x : NetStep) : Bool :=
  match x with
  | .take | .read _ => true
  | _ => false

/-- NET_TAKE_REQUEST (R398): the pair takes the next request of a posted chain, and sends what its window allows. -/
def execNetTakeRequest (q : BitVec 12) (s : State) : Host.Outcome State Fault Refusal :=
  .next (match qpAt s q.toNat with
    | none => s
    | some p =>
      let s := modQp s q.toNat QP.afresh
      let s := if p.stopped || p.err || p.afresh.tails.isEmpty || p.todo.any takesReq then s
        else modQp s q.toNat (fun p => { p with todo := p.todo ++ [.take] })
      netRun s q.toNat (netTurns s q.toNat))

/-! ## Acknowledgements, refusals and time (R448, R466) -/

/-- Whether a PSN lies at or below another: 32-bit numbers that wrap, compared by their distance (log entry 33). -/
def psnUpTo (n cack : Word) : Bool := decide ((cack - n).toNat < 2 ^ 31)

/-- The bit of BMAP that a PSN above CACK has. -/
def psnBit (cack n : Word) : Nat := (n - cack - 1).toNat

/-- Whether an acknowledgement marks a PSN as received. -/
def ackBit (cack : Word) (bmap : DWord) (n : Word) : Bool := psnUpTo n cack || bitAt bmap (psnBit cack n)

/-- Whether an acknowledgement reports a packet missing (R466). -/
def reportsMissing (cack : Word) (bmap : DWord) (n : Word) : Bool :=
  !ackBit cack bmap n && decide (psnBit cack n < 64) &&
    decide (2 ≤ ((List.range 64).filter (fun i => decide (psnBit cack n < i) && bitAt bmap i)).length)

/-- 200 µs in cycles. -/
def netTimeout : Nat := 170000

/-- A packet is sent again, or ends its request after eight sendings (R448). -/
def again (s : State) (q : Nat) (k : NetPkt) : State :=
  if 8 ≤ k.sends then endReq s q k.req 0x13
  else modQp s q (fun p => if p.todo.contains (.resend k.psn) then p else { p with todo := p.todo ++ [.resend k.psn] })

/-- The requests of a pair whose every packet is acknowledged (R466). -/
def completeReqs (s : State) (q : Nat) : State :=
  match qpAt s q with
  | none => s
  | some p =>
    (p.reqs.filter (fun r => decide (r.total ≤ r.sent) && !p.packets.any (fun k => k.req = r.id))).foldl
      (fun s r => endReq s q r.id 0x01) s

/-- The pair that something from its peer reaches: over its port, which is up as Ethernet (R443). -/
def pairReached (s : State) (q : Nat) : Option QP := (qpAt s q).filter (fun p => netUp s p.port)

/-- NET_ACK_RECEIVE (R448, R466). -/
def execNetAckReceive (q : BitVec 12) (cack : Word) (bmap : DWord) (s : State) : Host.Outcome State Fault Refusal :=
  .next (match pairReached s q.toNat with
    | none => s
    | some _ =>
      let s := modQp s q.toNat (fun p =>
        { p with
          packets := p.packets.filter (fun k => !ackBit cack bmap k.psn)
          ended := p.ended.filter (fun n => !ackBit cack bmap n) })
      let due := (((qpAt s q.toNat).map QP.packets).getD []).filter (fun k =>
        reportsMissing cack bmap k.psn && (!k.reported || decide (k.sent + netTimeout ≤ s.now)))
      let s := modQp s q.toNat (fun p => { p with packets := p.packets.map (fun k =>
        if due.contains k then { k with reported := true } else k) })
      let s := due.foldl (fun s k => again s q.toNat k) s
      let s := completeReqs s q.toNat
      netRun s q.toNat (netTurns s q.toNat))

/-- NET_RETRANSMIT_TIMEOUT (R448, R466): 200 µs after the latest sending of a packet. -/
def execNetRetransmitTimeout (q : BitVec 12) (n : Word) (s : State) : Host.Outcome State Fault Refusal :=
  .next (match (qpAt s q.toNat).bind (fun p => p.packets.find? (fun k => k.psn = n)) with
    | none => s
    | some k =>
      if k.sent + netTimeout ≤ s.now then
        let s := again s q.toNat k
        netRun s q.toNat (netTurns s q.toNat)
      else s)

/-- NET_REFUSAL_RECEIVE (R448): the request of the refused packet ends. -/
def execNetRefusalReceive (q : BitVec 12) (n : Word) (s : State) : Host.Outcome State Fault Refusal :=
  .next (match (pairReached s q.toNat).bind (fun p => p.packets.find? (fun k => k.psn = n)) with
    | none => s
    | some k =>
      let s := endReq s q.toNat k.req 0x12
      netRun s q.toNat (netTurns s q.toNat))

/-! ## The receiver (R448, R465, R466) -/

/-- The acknowledgement that a pair gives. -/
def ackOf (p : QP) : NetOut :=
  .ack p.peer p.port p.pqpn p.rcack ((List.range 64).foldl (fun m i =>
    if p.rgot.contains (p.rcack + 1 + BitVec.ofNat 32 i) then m ||| ((1 : DWord) <<< i) else m) 0)

/-- CACK moves on past what has arrived. -/
def advanceCack : Nat → Word → List Word → Word × List Word
  | 0, c, l => (c, l)
  | k + 1, c, l => if l.contains (c + 1) then advanceCack k (c + 1) (l.erase (c + 1)) else (c, l)

/-- A PSN is received. -/
def gotPsn (p : QP) (n : Word) : QP :=
  let r := advanceCack (p.rgot.length + 1) p.rcack (p.rgot ++ [n])
  { p with rcack := r.1, rgot := r.2 }

/-- Whether a PSN has been received before. -/
def hasPsn (p : QP) (n : Word) : Bool := psnUpTo n p.rcack || p.rgot.contains n

/-- Answer a pair's packet with an acknowledgement (R466). -/
def sendAck (s : State) (q : Nat) : State :=
  match qpAt s q with
  | some p => { s with netOut := s.netOut ++ [ackOf p] }
  | none => s

/-- The memory key that admits a WRITE (R465). -/
def keyAdmits (s : State) (p : QP) (k : NetPacket) : Bool :=
  match Tab.get? s.memKeys (field k.rkey 0 12) with
  | none => false
  | some m =>
    m.gen == k.rkey.extractLsb' 12 20 && m.hm == p.hm &&
      decide (m.base.toNat ≤ k.raddr.toNat ∧ k.raddr.toNat + k.len ≤ m.base.toNat + m.len.toNat)

/-- Where the bytes of a packet go: from an address on, nowhere, or the engine waits for a walk or for the fabric. -/
inductive PlaceAt where
  | base (va : DWord)
  | refused
  | waits
  deriving DecidableEq, Repr

/-- A walk of the receiving side that met poison consumed it (R256, R257). -/
def walkConsumed (s : State) (hm : Hm) (o : Outcome) (va : DWord) : State :=
  match consumedPte s hm va o with
  | some a => contain s none a false hm [] o.2 0xFFFFFFFF
  | none => s

/-- Where a message's bytes go: a WRITE's range, or a SEND's buffer, which its first packet takes from the ring; refused
where there is none, and where translation refuses the ring's entry, which is then used up (R448). -/
def messageBase (s : State) (q : Nat) (p : QP) (k : NetPacket) : State × PlaceAt :=
  if !k.send then (s, if keyAdmits s p k then .base k.raddr else .refused)
  else
    match Tab.get? p.rmsgs k.msg with
    | some m => (s, if m.refused then .refused else .base m.buf)
    | none =>
      if p.ringCount ≤ p.ringHead then (s, .refused)
      else
        match netRead s p.hm (p.ring + BitVec.ofNat 64 (16 * p.ringHead)) 16 with
        | (s, .error (.poison a)) => (netConsume s p.hm a, .refused)
        | (s, .error (.fault o va)) =>
          (walkConsumed (modQp s q (fun p => { p with ringHead := p.ringHead + 1 })) p.hm o va, .refused)
        | (s, .error .stall) => (s, .waits)
        | (s, .ok bs) =>
          if natOf ((bs.drop 8).take 4) < k.len then (s, .refused)
          else (modQp s q (fun p => { p with ringHead := p.ringHead + 1 }), .base (BitVec.ofNat 64 (natOf (bs.take 8))))

/-- A message of which nothing has been received. -/
def RMsg.empty : RMsg := { got := 0, buf := 0, refused := false, placed := [] }

/-- Bytes that a refused message has placed become undefined: free values (R448, R9). -/
def scramble (s : State) (hm : Hm) (l : List (DWord × Nat)) : State :=
  l.foldl (fun s x =>
    { (netWrite s hm x.1 (bytesOf x.2 (Config.freeBits (8 * x.2) s.fresh).toNat)).1 with fresh := s.fresh + 1 }) s

/-- Refuse a packet: answered at once, and acknowledged as every data packet is (R466; log entry 33); its message's counter
does not advance, and the bytes that the message has placed are undefined (R448). -/
def refusePacket (s : State) (q : Nat) (p : QP) (k : NetPacket) (more : List (DWord × Nat)) : State :=
  let old := (Tab.get? p.rmsgs k.msg).getD RMsg.empty
  let s := scramble s p.hm (old.placed ++ more)
  let s := modQp s q (fun p => { gotPsn p k.psn with rmsgs := Tab.set p.rmsgs k.msg { RMsg.empty with refused := true } })
  sendAck { s with netOut := s.netOut ++ [.refuse p.peer p.port p.pqpn k.psn] } q

/-- A packet waits on the die for a walk or for the fabric, and takes no buffer yet (R33; log entry 6). -/
def holdPacket (s : State) (q : Nat) (p : QP) (k : NetPacket) : State :=
  modQp { s with netHeld := s.netHeld ++ [k] } q (fun x => { x with ringHead := p.ringHead })

/-- Place a packet that is new to an open pair. -/
def placePacket (s : State) (q : Nat) (p : QP) (k : NetPacket) : State :=
  let old := (Tab.get? p.rmsgs k.msg).getD RMsg.empty
  match messageBase s q p k with
  | (s, .refused) => refusePacket s q p k []
  | (s, .waits) => holdPacket s q p k
  | (s, .base base) =>
    let va := base + BitVec.ofNat 64 (4096 * k.index)
    let last := decide (old.got + 1 = k.total) && !old.refused
    let count (s : State) : State × Except NetStop Unit :=
      if last then netAdd s p.hm (p.rcbase + BitVec.ofNat 64 (8 * k.rcid.toNat)) else (s, .ok ())
    match netWrite s p.hm va k.data with
    | (s, .error .stall) => holdPacket s q p k
    | (s, .error (.fault o x)) => walkConsumed (refusePacket s q p k [(va, (x - va).toNat)]) p.hm o x
    | (s, .error (.poison _)) => refusePacket s q p k []
    | (s, .ok _) =>
      match count s with
      | (s, .error .stall) => holdPacket s q p k
      | (s, r) =>
      let s := match r with
        | .error (.poison a) => netConsume s p.hm a
        | .error (.fault o x) => walkConsumed s p.hm o x
        | _ => s
      let s := if old.refused then scramble s p.hm [(va, k.data.length)] else s
      let s := modQp s q (fun p =>
        { gotPsn p k.psn with
          rmsgs := Tab.set p.rmsgs k.msg
            { old with got := old.got + 1, buf := base, placed := old.placed ++ [(va, k.data.length)] } })
      sendAck s q

/-- Take a received packet: a duplicate is acknowledged and not placed; a packet for a pair that is not open is refused to
the sender that it names (R448, R466). -/
def takePacket (s : State) (k : NetPacket) : State :=
  match qpAt s k.qp.toNat with
  | none => { s with netOut := s.netOut ++ [.refuse k.peer k.port k.back k.psn] }
  | some p => if hasPsn p k.psn then sendAck s k.qp.toNat else placePacket s k.qp.toNat p k

/-- What waited for a walk or for the fabric goes on: the pairs' steps, and the packets held (R33, R260). -/
def netWake (s : State) : State :=
  let s := (s.qps.filter (fun e => !e.2.todo.isEmpty && !e.2.stopped)).foldl (fun s e => netRun s e.1 (netTurns s e.1)) s
  s.netHeld.foldl takePacket { s with netHeld := [] }

/-- NET_PACKET_RECEIVE (R448, R466): by a port that is up as Ethernet (R443). -/
def execNetPacketReceive (k : NetPacket) (s : State) : Host.Outcome State Fault Refusal :=
  .next (if netUp s k.port then takePacket (countUnit s netUnit 2 1) k else s)

/-! ## NPOST, NWAIT and NCANC (R396, R400) -/

/-- How the walk along a chain ends: at the last TAIL; at a NEXT that cannot be read, or is 0, in the request at a VA of a
core's chain. -/
inductive ChainEnd where
  | all
  | unread (core : Nat) (va : DWord)
  | broken (core : Nat) (va : DWord)
  deriving DecidableEq, Repr

/-- The requests posted after one, up to the last TAIL, each with the core whose NPOST posted it (R398). -/
def chainFrom (s : State) (hm : Hm) : Nat → List (DWord × Nat) → DWord → List (DWord × Nat) × ChainEnd
  | 0, _, _ => ([], .all)
  | n + 1, ts, va =>
    match ts.dropWhile (fun t => t.1 == va) with
    | [] => ([], .all)
    | (t, c) :: r =>
      match (netPeek s hm va 8).2 with
      | .error _ => ([], .unread c va)
      | .ok bs =>
        if natOf bs = 0 then ([], .broken c va)
        else
          let x := BitVec.ofNat 64 (natOf bs)
          let m := chainFrom s hm n ((t, c) :: r) x
          ((x, c) :: m.1, m.2)

/-- The requests posted and not taken (R398), at most as many as SEQ counts. -/
def untaken (s : State) (p : QP) : List (DWord × Nat) × ChainEnd :=
  match p.tails, p.last with
  | [], _ => ([], .all)
  | (t, c) :: r, none =>
    let m := chainFrom s p.hm (2 ^ 32) ((t, c) :: r) p.head
    ((p.head, c) :: m.1, m.2)
  | ts, some va => chainFrom s p.hm (2 ^ 32) ts va

/-- The sequence number of the last request posted (R288), where the chain can be read; else a free value. -/
def postedSeq (s : State) (p : QP) : DWord :=
  let r := untaken s p
  if r.2 = .all then ((List.range r.1.length).foldl (fun x _ => nextSeq x) (p.seq - 1)).setWidth 64
  else Config.freeBits 64 s.fresh

/-- NPOST (R396, R400): the release of R74, then TAIL goes to the queue pair. -/
def execNpost (h : Head) (e : EBlock) (s : State) : Host.Outcome State Fault Refusal :=
  perform s { head := h, op := 0x360 } [blockRd e] (fun l v => escape l (do
    let (w, _, b) ← blockAt l e (v.getD 0 0) 16 16
    let s ← get
    let q := field (blkW b 1) 0 12
    match openQp s q (slotHm s s.iss.core s.iss.slot) with
    | none => raise 0x45 0x01
    | some p =>
      if field (blkW b 1) 12 52 ≠ 0 ∨ (blkW b 0).toNat % 64 ≠ 0 then raise 0x45 0x02
      else if p.err then raise 0x45 0x03
      else do
        let s ← get
        order w .rel .dom
        let s ← get
        let s := endReplay s w 0x03
        let s := modQp s q (fun p => { p with tails := p.tails ++ [(blkW b 0, s.iss.core)] })
        let s := match qpAt s q with
          | some p => causal s 1 (BitVec.ofNat 64 q) (postedSeq s p)
          | none => s
        setState s
        result 0))

/-- NWAIT (R400): each active lane waits until its counter has reached its target, then acquires (R74). -/
def execNwait (h : Head) (d : Dst) (a b : Src) (s : State) : Host.Outcome State Fault Refusal :=
  perform s { head := h, op := 0x361, dst := d, words := 2, perLane := true } [rdI a 2, rdI b 2] (fun l v => do
    let va := BitVec.ofNat 64 (v.getD 0 0)
    let p ← checkGlobal l va 8 true false false false
    if isRemote p.home then raise 0x45 0x04
    else do
      consume p va 8 (accInfo 8 false false false) none
      let s ← get
      let h := homeOf s s.iss.core s.iss.slot l
      let r := readPlace s (.core s.iss.core .none) (accessHm s s.iss.core s.iss.slot) p false 8
      if natOf r.1 < v.getD 1 0 then waitFor (.counter (clock s + 4096))
      else do
        let s := orderWork (readNewest r.2 [h] p.home 8) h .acq .sys
        setState (causal s 2 va (BitVec.ofNat 64 (natOf r.1)))
        result (natOf r.1))

/-- Cancel every request posted and not yet taken: STATUS 0x03 with SEQ 0, each a write of the engine (R399, R400, R469);
LAST becomes the latest TAIL. A request that the engine was about to take is one of them. -/
def cancelPosted (s : State) (q : Nat) (vs : List (DWord × Nat)) : State :=
  setTodo s q (fun p =>
    { p with
      tails := [], last := ((p.tails.getLast?).map Prod.fst).or p.last
      todo := p.todo.filter (fun t => !takesReq t) ++ vs.map (fun v => .cancel v.2 v.1) })

/-- What the engine does for an NCANC that waits: it reads the chain's next NEXT again, and stops the pair where it cannot
(R469); a NEXT of 0 before TAIL breaks the chain (R398). -/
def readChain (s : State) (q : Nat) : State :=
  match qpAt s q with
  | none => s
  | some p =>
    if p.stopped || p.err || p.todo.any NetStep.reads then s
    else
      match (untaken s p).2 with
      | .all => s
      | .broken c va => let s := breakChain s q c va; netRun s q (netTurns s q)
      | .unread c va => netRun (modQp s q (fun p => { p with todo := .next c va :: p.todo })) q (netTurns s q + 1)

/-- NCANC (R400): where the engine cannot read the chain, the lane waits until the pair goes on (log entry 33). -/
def execNcanc (h : Head) (d : Dst) (a : Src) (s : State) : Host.Outcome State Fault Refusal :=
  perform s { head := h, op := 0x362, dst := d, words := 1, perLane := true } [rdI a 1] (fun _ v => do
    let s ← get
    match openQp s (v.getD 0 0) (slotHm s s.iss.core s.iss.slot) with
    | none => raise 0x45 0x01
    | some p =>
      if p.err then raise 0x45 0x03
      else
        let r := untaken s p
        if r.2 = .all then do
          let s := cancelPosted s (v.getD 0 0) r.1
          setState (netRun s (v.getD 0 0) (netTurns s (v.getD 0 0)))
          result r.1.length
        else waitFor (.chain (v.getD 0 0)))

/-- NWAIT_POLL (R400): a waiting NWAIT reads its counter again, with the threads that wait beside it. -/
def execNwaitPoll (c : Fin 192) (n : Fin 17) (l : Fin 32) (s : State) : Host.Outcome State Fault Refusal :=
  .next (match threadAt s c.val n.val l.val with
    | none => s
    | some t =>
      match t.st with
      | .wait (.counter _) =>
        modSlot s c.val n.val (fun w => mapThreads w (fun u =>
          match u.st with
          | .wait (.counter _) => if u.pc = t.pc ∧ u.cbase = t.cbase then { u with st := .ready } else u
          | _ => u))
      | _ => s)

end Sys2Proof.Machine
end

