-- ==== Sys2Proof/Machine/Huddle.lean ====
section
/-!
DEFINITION. The huddle: HUDL, HUDL.home, their misuse traps and the move (R127, R190 to R197, R409, R410).
-/

namespace Sys2Proof.Machine

/-! ## Arriving (R190, R196, R409, R410) -/

/-- Whether a thread waits at HUDL or HUDL.home. -/
def atHudl : TState → Bool
  | .hudl _ _ _ _ => true
  | .hudlHome _ => true
  | _ => false

/-- The user slots of a core that hold a workgroup of a launch in no huddle set and a live thread: the candidate warps
(R190). -/
def candidates (s : State) (c launch : Nat) : List Nat :=
  ((coreAt s c).slots.filter (fun e =>
    match e.2.wg with
    | some h =>
      decide (e.1 < 16 ∧ (wgAt s h).launch = launch) && (wgAt s h).bound.isNone && e.2.threads.any (fun t => t.2.live)
    | none => false)).map Prod.fst

/-- The slots that take part with a slot: those of its huddle set, or the candidate warps (R190, R196). -/
def huddleSlots (s : State) (c n : Nat) : List Nat :=
  let w := wgAt s (slotWg s c n)
  match w.bound with
  | some b => b.slots.mergeSort
  | none => candidates s c w.launch

/-- The live threads of some slots: (slot, lane, thread). -/
def threadsIn (s : State) (c : Nat) (ns : List Nat) : List (Nat × Nat × Thread) :=
  ns.flatMap (fun n => (slotAt s c n).threads.filterMap (fun t => if t.2.live then some (n, t.1, t.2) else none))

/-- What a huddling thread waits for: an id, or the way home. -/
def huddleGoal (t : Thread) : Option (Option (BitVec 7)) :=
  match t.st with
  | .hudl id _ _ _ => some (some id)
  | .hudlHome _ => some none
  | _ => none

/-- Threads that all wait, for different goals, trap (R191, R410). -/
def sweepHuddle (s : State) (c n : Nat) : State :=
  let ts := threadsIn s c (huddleSlots s c n)
  let goals := ts.map (fun t => huddleGoal t.2.2)
  if goals.all Option.isSome && decide (1 < goals.dedup.length) then
    let part (home : Bool) := (ts.filter (fun t => (huddleGoal t.2.2 == some none) == home)).map (fun t => (t.1, t.2.1))
    trapWaiters (trapWaiters s c (part false) 0x81 0x01 0x390) c (part true) 0x81 0x01 0x391
  else s

/-- HUDL (R190, R196, R409): each lane waits with its key, id and destination. -/
def execHudl (h : Head) (d : Dst) (k : Src) (id : BitVec 7) (s : State) : Host.Outcome State Fault Refusal :=
  let i := s.iss
  let rs := [rdI k 1]
  let s := performOn s { head := h, op := 0x390 } (rs.map unlast) (fun l v => do
    match (wgAt s (homeOf s i.core i.slot l)).bound with
    | some b =>
      if b.id ≠ id then raise 0x81 0x03
      else pure ()
    | none => pure ()
    let sd := match d with | .s r => some r | _ => none
    pure { st := some (.hudl id (BitVec.ofNat 16 (v.getD 0 0)) sd (nextWord s h)), next := some i.pc })
  .next (sweepHuddle (keepDue s rs atHudl) i.core i.slot)

/-- HUDL.home (R196, R410). -/
def execHudlHome (h : Head) (s : State) : Host.Outcome State Fault Refusal :=
  let i := s.iss
  let s := performOn s { head := h, op := 0x391 } [] (fun l _ =>
    if (wgAt s (homeOf s i.core i.slot l)).bound.isNone then raise 0x81 0x02
    else pure { st := some (.hudlHome (nextWord s h)), next := some i.pc })
  .next (sweepHuddle s i.core i.slot)

/-! ## Packing (R192) -/

/-- A thread of a move: its key, and the slot and lane that it comes from. -/
structure Mover where
  key : Nat
  slot : Nat
  lane : Nat
  deriving DecidableEq, Repr

/-- The order of R192: key, then slot, then lane. -/
def Mover.before (a b : Mover) : Bool :=
  decide (a.key < b.key ∨ a.key = b.key ∧ (a.slot < b.slot ∨ a.slot = b.slot ∧ a.lane ≤ b.lane))

/-- How many warps of 32 hold some threads. -/
def warpsFor (n : Nat) : Nat := (n + 31) / 32

/-- Place threads in order from the first lane of an output warp on: (thread, warp, lane). -/
def packFrom (w : Nat) (l : List Mover) : List (Mover × Nat × Nat) := (withPos l).map (fun p => (p.2, w + p.1 / 32, p.1 % 32))

/-- The packing of R192 over `total` participating slots: the threads are sorted, `w` is the next output warp; the
answer says whether the dense part was reached. -/
def packGroups (total : Nat) : Nat → Nat → List Mover → List (Mover × Nat × Nat) × Bool
  | 0, w, l => (packFrom w l, false)
  | _, _, [] => ([], false)
  | fuel + 1, w, m :: r =>
    let g := (m :: r).filter (fun x => x.key = m.key)
    let rest := (m :: r).filter (fun x => x.key ≠ m.key)
    if w + warpsFor g.length + warpsFor rest.length ≤ total then
      let next := packGroups total fuel (w + warpsFor g.length) rest
      (packFrom w g ++ next.1, next.2)
    else (packFrom w (m :: r), true)

/-- The placement of a HUDL (R192). -/
def packHuddle (total : Nat) (l : List Mover) : List (Mover × Nat × Nat) × Bool :=
  let l := l.mergeSort Mover.before
  packGroups total l.length 0 l

/-! ## The move (R127, R193 to R196) -/

/-- One thread's move: from a slot and lane to a slot and lane. -/
structure Hop where
  slot : Nat
  lane : Nat
  toSlot : Nat
  toLane : Nat
  deriving DecidableEq, Repr

/-- The registers of one output warp after a move, from the state before it (R127). -/
def moveRegs (s0 s : State) (c n : Nat) (hops : List Hop) : State :=
  (List.range (ceiling s0 c n)).foldl (fun s v =>
    let has (h : Hop) : Bool := holdsV s0 c h.slot v h.lane
    if hops.any has then
      let rel := maskOf ((hops.filter (fun h => !has h)).map Hop.toLane)
      newRow s c n v rel (fun l =>
        match hops.find? (fun h => h.toLane = l) with
        | some h => if has h then vWord s0 c h.slot v h.lane else 0
        | none => 0)
    else s) s

/-- Move threads among slots (R193): threads with their registers; latches are lost. The s registers of an output warp
are those of the warp that its lane-0 thread came from, or `sregs`. -/
def moveThreads (s0 : State) (c : Nat) (ns : List Nat) (hops : List Hop) (change : Hop → Thread → Thread)
    (sregs : Nat → Option (Tab Word)) : State :=
  let s := ns.foldl (fun s n => modSlot s c n (fun w =>
    { w with threads := [], vmap := [], cells := [], latches := [], syncDue := 0xFFFFFFFF })) s0
  ns.foldl (fun s n =>
    let mine := hops.filter (fun h => h.toSlot = n)
    let ts := mine.filterMap (fun h => (threadAt s0 c h.slot h.lane).map (fun t => (h.toLane, change h t)))
    let lead := (mine.find? (fun h => h.toLane = 0)).map (fun h => (slotAt s0 c h.slot).sregs)
    let s := modSlot s c n (fun w =>
      { w with threads := ts.foldl (fun t e => Tab.set t e.1 e.2) []
               sregs := ((sregs n).or lead).getD w.sregs })
    moveRegs s0 s c n mine) s

/-- A thread that a move leaves at its next word, with a bit pushed (R194). -/
def huddled (bit : Bool) (t : Thread) : Thread :=
  let next := match t.st with
    | .hudl _ _ _ w => w
    | .hudlHome w => w
    | _ => t.pc
  { t with st := .ready, pc := next, pred := pushPred t.pred bit, due := [], kept := [], escOk := false }

/-- The key and the destination of a thread at HUDL. -/
def hudlKey (t : Thread) : Nat := match t.st with | .hudl _ k _ _ => k.toNat | _ => 0
def hudlDst (t : Thread) : Option (BitVec 6) := match t.st with | .hudl _ _ d _ => d | _ => none

/-- Apply the last reads of waiting threads before a move (R123). -/
def releaseDue (s : State) (c : Nat) (ts : List (Nat × Nat × Thread)) : State :=
  ts.foldl (fun s t => releaseLane s c t.1 t.2.1 t.2.2.due) s

/-- The move of HUDL (R192 to R194): the set packs by key, its workgroups are bound, and each output warp receives its s
destination, that of its lane-0 thread (log entry 50), and its pushed bit. -/
def moveHuddle (s : State) (c : Nat) (ns : List Nat) (id : BitVec 7) : State :=
  let s := releaseDue s c (threadsIn s c ns)
  let ts := threadsIn s c ns
  let p := packHuddle ns.length (ts.map (fun t => { key := hudlKey t.2.2, slot := t.1, lane := t.2.1 }))
  let hops := p.1.map (fun m => { slot := m.1.slot, lane := m.1.lane, toSlot := ns.getD m.2.1 0, toLane := m.2.2 : Hop })
  let keysOf (n : Nat) : List Nat :=
    (p.1.filterMap (fun m => if ns.getD m.2.1 0 = n then some m.1.key else none)).dedup
  let same (n : Nat) : Bool := decide ((keysOf n).length ≤ 1)
  let first := ns.all (fun n => (wgAt s (slotWg s c n)).bound.isNone)
  let k := s.stamp
  let s := if first then
      ns.foldl (fun s n =>
        let s := modSlot s c n (fun w => { w with homeS := some w.sregs })
        modWg s (slotWg s c n) (fun w => { w with bound := some { set := k, launch := w.launch, id := id, slots := ns } }))
        { s with stamp := s.stamp + 1 }
    else s
  let s1 := moveThreads s c ns hops (fun h t => huddled (same h.toSlot) t) (fun _ => none)
  let s1 := ns.foldl (fun s1 n =>
    match (hops.find? (fun h => decide (h.toSlot = n ∧ h.toLane = 0))).bind (fun h => threadAt s c h.slot h.lane) with
    | some t =>
      (match hudlDst t with
       | some r =>
         let k := (keysOf n).headD 0
         writeS s1 c n r.toNat
           (if same n then BitVec.ofNat 32 (k + (if p.2 then 2 ^ 31 else 0)) else 0xFFFFFFFF)
       | none => s1)
    | none => s1) s1
  ns.foldl (fun s n => meetings s c n) s1

/-- The home slot and lane of a thread (R172, R177). -/
def homePlace (s : State) (t : Thread) : Nat × Nat := ((wgAt s t.home).slots.getD (t.tidx / 32) 0, t.tidx % 32)

/-- The move of HUDL.home (R196, R410): every thread returns to its home lane, each home warp has the s registers that
it held when it was bound, and the workgroups are unbound. -/
def moveHome (s : State) (c : Nat) (ns : List Nat) : State :=
  let ts := threadsIn s c ns
  let hops := ts.map (fun t =>
    let p := homePlace s t.2.2
    { slot := t.1, lane := t.2.1, toSlot := p.1, toLane := p.2 : Hop })
  let s1 := moveThreads s c ns hops (fun _ t => huddled true t) (fun n => (slotAt s c n).homeS)
  let s1 := ns.foldl (fun s n =>
    modWg (modSlot s c n (fun w => { w with homeS := none })) (slotWg s c n) (fun w => { w with bound := none })) s1
  ns.foldl (fun s n => meetings s c n) s1

/-- Count a move (R290). -/
def countMove (s : State) (c : Nat) (ts : List (Nat × Nat × Thread)) : State :=
  match ts with
  | [] => s
  | t :: _ => creditEvent (bumpEvent s c 0x0F 1) c (wgAt s t.2.2.home).hm t.2.2.top 0x0F 1

/-- Ask for the snapshot that precedes a move of `.rollback` teams (R266). -/
def askMoves (s : State) (ts : List (Nat × Nat × Thread)) : State :=
  ts.foldl (fun s t =>
    let w := wgAt s t.2.2.home
    askTeam s w.team { hm := w.hm, top := ((ts.head?).map (fun x => x.2.2.top)).getD 0 }) s

/-- Whether the move of a slot's huddle set is under way (R190, R195): every live thread of it waits for the same goal, and
no global result is still due to the set's registers. A thread that waits there waits though it has been stopped. -/
def moveUnderWay (s : State) (c n : Nat) : Bool :=
  let ns := huddleSlots s c n
  let ts := threadsIn s c ns
  let goals := (ts.map (fun t => huddleGoal t.2.2)).dedup
  !ns.any (fun m => !(slotAt s c m).loads.isEmpty) && goals.length == 1 && goals.all Option.isSome

/-- Whether a move must wait: the clock stands, or a team of its threads rolls back (R272, R458). -/
def moveBarred (s : State) (ts : List (Nat × Nat × Thread)) : Bool :=
  clockStopped s || ts.any (fun t => ((Tab.get? s.teams (wgAt s t.2.2.home).team).map Team.rolling).getD false)

/-- HUDDLE_MOVE (R190, R195, R410): when every live thread of the set waits at one HUDL id, or all at HUDL.home, and no
global result is still due to the set's registers, the move takes place as one. -/
def execHuddleMove (c : Fin 192) (n : Fin 16) (s : State) : Host.Outcome State Fault Refusal :=
  .next (
    let ns := huddleSlots s c.val n.val
    let ts := threadsIn s c.val ns
    let goals := (ts.map (fun t => huddleGoal t.2.2)).dedup
    let due := ts.any (fun t => rollbackWg s t.2.2.home && !t.2.2.escOk)
    if ns.any (fun m => !(slotAt s c.val m).loads.isEmpty) || moveBarred s ts then s
    else
      match goals with
      | [some (some id)] => if due then askMoves s ts else moveHuddle (countMove s c.val ts) c.val ns id
      | [some none] => if due then askMoves s ts else moveHome (countMove s c.val ts) c.val ns
      | _ => s)

end Sys2Proof.Machine
end

