-- ==== Sys2Proof/Machine/Launch.lean ====
section
/-!
DEFINITION. Partition words (R107, R108) and the launch instructions: LNCH, LWAIT, GCTR and CNCL (R182 to R189, R416 to
R419).
-/

namespace Sys2Proof.Machine

/-! ## Partition words (R107, R108) -/

/-- The fields of a partition word, as numbers. -/
def partRegc (p : Nat) : Nat := p / 2 ^ 24 % 64
def partSpg (p : Nat) : Nat := p / 2 ^ 18 % 64
def partAcc (p : Nat) : Nat := p / 2 ^ 13 % 32
def partShd (p : Nat) : Nat := p / 2 ^ 8 % 32

/-- The warps of a workgroup of some threads (R177), and its register, scratchpad and accumulator pages (R108). -/
def warpsOf (threads : Nat) : Nat := (threads + 31) / 32
def regPages (p threads : Nat) : Nat := (warpsOf threads * partRegc p + 15) / 16
def accPages (p : Nat) : Nat := (partAcc p + partShd p + 3) / 4
def pagesOf (p threads : Nat) : Nat := regPages p threads + partSpg p + accPages p

/-- Whether a partition word is valid for a number of threads (R108). -/
def partValid (p threads : Nat) : Bool :=
  decide (p / 2 ^ 30 % 4 = 0 ∧ p % 256 = 0 ∧ 1 ≤ partRegc p ∧ partRegc p ≤ 32 ∧ partSpg p ≤ 59 ∧ partAcc p ≤ 16 ∧
    partShd p ≤ 16 ∧ (partShd p = 0 ∨ partAcc p ≠ 0) ∧ pagesOf p threads ≤ 60)

/-- Whether TCOUNT, TSIZE, THREADS and STK of a record's words at 0x10 and 0x18 are in range (R207 code 0x05, R417
check 4). -/
def sizesValid (w2 w3 : DWord) : Bool :=
  decide (1 ≤ field w3 40 24 ∧ 1 ≤ field w3 36 4 ∧ field w3 36 4 ≤ 8 ∧ 1 ≤ field w3 26 10 ∧ field w3 26 10 ≤ 512 ∧
    field w3 0 16 % 8 = 0 ∧ field w3 0 16 * field w3 26 10 ≤ partSpg (field w2 0 32) * 16384)

/-! ## Completion counters (R182) -/

/-- The word of a counter-table entry. -/
def counterWord (k : Counter) : Nat :=
  (if k.v then 2 ^ 63 else 0) + (if k.canc then 2 ^ 62 else 0) + k.hm.toNat * 2 ^ 48 + k.value.toNat

/-- An allocated entry that a hallmark owns. -/
def counterOf (s : State) (n : Nat) (hm : Hm) : Option Counter :=
  (Tab.get? s.counters n).filter (fun k => k.v && k.hm == hm)

/-- The entry that a lane names, or its trap (R419). -/
def ownCounter (n : Nat) : Act Counter := do
  let s ← get
  match counterOf s n (slotHm s s.iss.core s.iss.slot) with
  | some k => pure k
  | none => raise 0x46 0x04

/-- GCTR (R419): a read that acquires at system scope. -/
def execGctr (h : Head) (d : Dst) (a : Src) (s : State) : Host.Outcome State Fault Refusal :=
  perform s { head := h, op := 0x3B2, dst := d, words := 2, perLane := true } [rdI a 1] (fun l v => do
    let _ ← ownCounter (v.getD 0 0 % 4096)
    let s ← get
    setState (orderWork s (homeOf s s.iss.core s.iss.slot l) .acq .sys)
    let k ← ownCounter (v.getD 0 0 % 4096)
    result (counterWord k))

/-- CNCL (R185, R419): CANC is set in each active lane, and what that cancels ends once the CNCL has completed. -/
def execCncl (h : Head) (a : Src) (s : State) : Host.Outcome State Fault Refusal :=
  let s := performOn s { head := h, op := 0x3B3 } [rdI a 1] (fun _ v => do
    let _ ← ownCounter (v.getD 0 0 % 4096)
    let s ← get
    setState (setCanc s (v.getD 0 0 % 4096))
    pure {})
  .next (cancelSweep s s.launches.length)

/-! ## Child launches (R186 to R189, R416, R417) -/

/-- The reserved bits of a child block that are not zero (R416). -/
def childReserved (b : List DWord) : Bool :=
  decide (field (b.getD 0 0) 0 13 ≠ 0 ∨ field (b.getD 1 0) 5 8 ≠ 0 ∨ field (b.getD 1 0) 0 1 ≠ 0 ∨
    field (b.getD 3 0) 16 10 ≠ 0 ∨ field (b.getD 4 0) 12 52 ≠ 0 ∨ b.getD 5 0 ≠ 0 ∨ b.getD 6 0 ≠ 0 ∨ b.getD 7 0 ≠ 0)

/-- The checks of R417 after the block's address, in their order. -/
def childChecks (s : State) (hm : Hm) (b : List DWord) : Option Outcome :=
  let lcnt := field (b.getD 4 0) 0 12
  firstFail
    [(childReserved b, (0x46, 0x01)),
     (!partValid (field (b.getD 2 0) 0 32) (field (b.getD 3 0) 26 10), (0x46, 0x02)),
     (!sizesValid (b.getD 2 0) (b.getD 3 0), (0x46, 0x03)),
     (lcnt != 0 && (counterOf s lcnt hm).isNone, (0x46, 0x04))]

/-- The record's words of a child, in the layout of R206: the context and the class are the parent's, DLIM the
creator's (R416). -/
def childWords (s : State) (w : Wg) (b : List DWord) : List DWord :=
  let prio := ((Tab.get? s.launches w.launch).map (fun l => field (l.words.getD 1 0) 5 3)).getD 0
  [BitVec.ofNat 64 (field (b.getD 0 0) 13 51 * 2 ^ 13 + w.hm.toNat % 2 ^ 13),
   BitVec.ofNat 64 ((b.getD 1 0).toNat + w.dlim.toNat * 2 ^ 8 + prio * 2 ^ 5),
   b.getD 2 0, b.getD 3 0, b.getD 4 0, 0, 0, 0]

/-- The pending-launch pool's entries in use (R187): a retired child's is free (R468). -/
def childCount (s : State) : Nat := (s.launches.filter (fun e => e.2.child && !e.2.failed)).length

/-- The id of a child (R208). -/
def childId (seq : Nat) : Word := BitVec.ofNat 32 (2 ^ 31 + seq % 2 ^ 31)

/-- Create a child of a workgroup (R187 to R189, R75, R288). -/
def createChild (s : State) (h : Nat) (b : List DWord) : State :=
  let w := wgAt s h
  let l : Launch :=
    { id := childId s.childSeq, hm := w.hm, queue := ((Tab.get? s.launches w.launch).map Launch.queue).getD 0,
      child := true, seq := s.childSeq, slot := 0, words := childWords s w b, depth := w.depth + 1, parent := some h,
      nextTeam := 0, again := [], failed := false, cancelled := false, retired := false, digests := [] }
  let s := { s with launches := Tab.set s.launches (s.stamp + 1) l, stamp := s.stamp + 1, childSeq := s.childSeq + 1 }
  let s := tallyChild s h (· + 1)
  causal s 3 0 (l.id.setWidth 64)

/-- LNCH (R186, R187, R189, R417): an escape (R266), which ends a kernel replay (R293) and releases at device scope whether or not a
child is created (R75). -/
def execLnch (h : Head) (d : Dst) (e : EBlock) (s : State) : Host.Outcome State Fault Refusal :=
  perform s { head := h, op := 0x3B0, dst := d, words := 1, push := true, perLane := true } [blockRd e] (fun l v =>
    escape l (do
      let (g, _, b) ← blockAt l e (v.getD 0 0) 64 64
      let s ← get
      failing (childChecks s (slotHm s s.iss.core s.iss.slot) b)
      let s := endReplay s g 0x03
      let s := orderWork s g .rel .dev
      setState s
      let w := wgAt s g
      if 16384 ≤ childCount s ∨ w.dlim ≤ w.depth then resultPush 0 false
      else do
        setState (createChild s g b)
        resultPush (childId s.childSeq).toNat true))

/-- LWAIT (R189, R418): the path waits while a home workgroup's child counter is not zero, and then acquires at device
scope. -/
def execLwait (h : Head) (s : State) : Host.Outcome State Fault Refusal :=
  perform s { head := h, op := 0x3B1 } [] (fun l _ => do
    let s ← get
    let g := homeOf s s.iss.core s.iss.slot l
    if (wgAt s g).children ≠ 0 then waitFor .children
    else do
      setState (orderWork s g .acq .dev)
      pure {})

end Sys2Proof.Machine
end

