-- ==== Sys2Proof/Machine/Record.lean ====
section
/-!
DEFINITION. The internal regions of a save record and of a snapshot bank (R18, R244, R267, R268) as bytes: what an image of a
workgroup puts there, and the image that those bytes give back. Where each value lies is the model's choice (log entry 30).
-/

namespace Sys2Proof.Machine

/-- A part of an internal region: where it lies, its bytes, and the image as bytes read there change it. -/
structure Part where
  off : Nat
  bytes : List Byte
  put : List Byte → WgImage → WgImage

/-! ## Numbers in bytes -/

/-- A number in bytes: itself where it is small, else its length and its bytes. -/
def numBytes (n : Nat) : List Byte :=
  let k := Nat.log2 n / 8 + 1
  if n < 240 then [BitVec.ofNat 8 n]
  else if k < 15 then BitVec.ofNat 8 (240 + k) :: bytesOf k n
  else 255 :: (bytesOf 4 k ++ bytesOf k n)

/-- The numbers that some bytes hold. -/
def numsFrom : Nat → List Byte → List Nat
  | 0, _ => []
  | _, [] => []
  | f + 1, b :: r =>
    if b.toNat < 240 then b.toNat :: numsFrom f r
    else
      let k := if b = 255 then natOf (r.take 4) else b.toNat - 240
      let r := if b = 255 then r.drop 4 else r
      natOf (r.take k) :: numsFrom f (r.drop k)

/-- Taking values from a list of numbers; where it ends, a number is 0. -/
abbrev Take (α : Type) := StateM (List Nat) α

/-- Take a number, a bit vector, a truth value. -/
def takeNat : Take Nat := fun l => (l.headD 0, l.tail)
def takeBv (n : Nat) : Take (BitVec n) := do return BitVec.ofNat n (← takeNat)
def takeBool : Take Bool := do return (← takeNat) % 2 == 1

/-- Take some number of values. -/
def takeMany {α : Type} (t : Take α) : Nat → Take (List α)
  | 0 => pure []
  | n + 1 => do
    let x ← t
    let l ← takeMany t n
    return x :: l

/-- Take a list, which its length stands before. -/
def takeList {α : Type} (t : Take α) : Take (List α) := do
  let n ← takeNat
  let l ← get
  takeMany t (min n l.length)

/-- Take an option, which a truth value stands before. -/
def takeOpt {α : Type} (t : Take α) : Take (Option α) := do
  if ← takeBool then return some (← t) else return none

/-- Take a pair, a table. -/
def takePair {α β : Type} (t : Take α) (u : Take β) : Take (α × β) := do
  let a ← t
  return (a, ← u)
def takeTab {α : Type} (t : Take α) : Take (Tab α) := takeList (takePair takeNat t)

/-- The numbers of a truth value, a list, an option, a table. -/
def boolNum (b : Bool) : Nat := if b then 1 else 0
def listNums {α : Type} (f : α → List Nat) (l : List α) : List Nat := l.length :: l.flatMap f
def optNums {α : Type} (f : α → List Nat) : Option α → List Nat
  | none => [0]
  | some x => 1 :: f x
def tabNums {α : Type} (f : α → List Nat) (t : Tab α) : List Nat := listNums (fun e => e.1 :: f e.2) t

/-- The numbers of a list of bit vectors, of some bytes. -/
def bvNums {n : Nat} (l : List (BitVec n)) : List Nat := listNums (fun x => [x.toNat]) l
def byteNums (bs : List Byte) : List Nat := [bs.length, natOf bs]
def takeBytes : Take (List Byte) := do
  let n ← takeNat
  return bytesOf (min n 65536) (← takeNat)

/-- A part that holds some numbers. -/
def numPart {α : Type} (off : Nat) (ns : List Nat) (t : Take α) (put : α → WgImage → WgImage) : Part :=
  { off := off, bytes := ns.flatMap numBytes, put := fun bs g => put (t (numsFrom bs.length bs)).1 g }

/-! ## Threads (R169, R170) -/

/-- The words of a wait: its number, and what it waits for. -/
def Wait.words : Wait → Nat × Nat
  | .load i => (16, i)
  | .tag t => (17, t.toNat)
  | .anyTag m => (18, m.toNat)
  | .copyEntry => (19, 0)
  | .mtxEntry => (20, 0)
  | .dugout n => (21, n)
  | .children => (22, 0)
  | .counter due => (23, due)
  | .chain q => (24, q)
  | .event => (25, 0)
  | .snapshot => (26, 0)
  | .preImage p => (27, p)

/-- The wait that some words give. -/
def waitOf (c a : Nat) : Wait :=
  match c with
  | 16 => .load a
  | 17 => .tag (BitVec.ofNat 6 a)
  | 18 => .anyTag (BitVec.ofNat 64 a)
  | 19 => .copyEntry
  | 20 => .mtxEntry
  | 21 => .dugout a
  | 22 => .children
  | 23 => .counter a
  | 24 => .chain a
  | 26 => .snapshot
  | 27 => .preImage a
  | _ => .event

/-- The words of a thread's state: its number, two values, and the word that it leaves to. -/
def TState.words : TState → Nat × Nat × Nat × Nat
  | .ready => (0, 0, 0, 0)
  | .meeting => (1, 0, 0, 0)
  | .bar b next => (2, b, 0, next.toNat)
  | .barn a next => (3, a, 0, next.toNat)
  | .tbar b next => (4, b, 0, next.toNat)
  | .hudl id key d next =>
    (5, id.toNat + 128 * key.toNat, (match d with | some x => 1 + x.toNat | none => 0), next.toNat)
  | .hudlHome next => (6, 0, 0, next.toNat)
  | .sleeping t => (7, t, 0, 0)
  | .wait w => (w.words.1, w.words.2, 0, 0)
  | .parked e => (8, e, 0, 0)
  | .detached c d => (9, c.toNat, d.toNat, 0)
  | .trapping c d op => (10, c.toNat + 256 * op, d.toNat, 0)
  | .exited => (11, 0, 0, 0)

/-- The state that some words give. -/
def stateFrom (c a b n : Nat) : TState :=
  let next := BitVec.ofNat 32 n
  match c with
  | 1 => .meeting
  | 2 => .bar a next
  | 3 => .barn a next
  | 4 => .tbar a next
  | 5 => .hudl (BitVec.ofNat 7 a) (BitVec.ofNat 16 (a / 128)) (if b = 0 then none else some (BitVec.ofNat 6 (b - 1))) next
  | 6 => .hudlHome next
  | 7 => .sleeping a
  | 8 => .parked a
  | 9 => .detached (BitVec.ofNat 8 a) (BitVec.ofNat 8 b)
  | 10 => .trapping (BitVec.ofNat 8 a) (BitVec.ofNat 8 b) (a / 256)
  | 11 => .exited
  | _ => if 16 ≤ c then .wait (waitOf c a) else .ready

/-- What a record holds of a thread (R169 to R171). -/
def threadNums (t : Thread) : List Nat :=
  let w := t.st.words
  [t.pc.toNat, t.mr.toNat, t.csp.toNat, t.pred.toNat, t.fpctl.toNat, t.fpstat.toNat, t.age.toNat] ++ bvNums t.region ++
    [t.depth.toNat, w.1, w.2.1, w.2.2.1, w.2.2.2, t.cbase.toNat, t.resume.toNat, boolNum t.pend52] ++
    optNums (fun x => [x.toNat]) t.pend71 ++ [t.pendSince, boolNum t.yielded, boolNum t.escOk, t.group] ++
    optNums (fun x => [x.toNat]) t.handler ++ tabNums (fun x => [x.toNat]) t.kept ++ listNums (fun x => [x]) t.due ++
    optNums (fun x => [match x with | .watch => 0 | .bkpt => 1]) t.pass ++
    optNums (fun x => [x.base.toNat, x.count, x.rank]) t.cmpst

/-- A thread with what its record gives; which thread it is stays, and so do its pending signals, which a rollback leaves
(R273). -/
def takeThread : Take (Thread → Thread) := do
  let pc ← takeBv 32
  let mr ← takeBv 32
  let csp ← takeBv 32
  let pred ← takeBv 8
  let fpctl ← takeBv 32
  let fpstat ← takeBv 32
  let age ← takeBv 5
  let region ← takeList (takeBv 16)
  let depth ← takeBv 16
  let c ← takeNat
  let a ← takeNat
  let b ← takeNat
  let n ← takeNat
  let cbase ← takeBv 64
  let resume ← takeBv 32
  let _ ← takeBool
  let _ ← takeOpt takeNat
  let _ ← takeNat
  let yielded ← takeBool
  let escOk ← takeBool
  let group ← takeNat
  let handler ← takeOpt (takeBv 64)
  let kept ← takeTab (takeBv 64)
  let due ← takeList takeNat
  let pass ← takeOpt takeNat
  let cmpst ← takeOpt (takePair (takeBv 64) (takePair takeNat takeNat))
  return fun t =>
    { t with
      pc := pc, mr := mr, csp := csp &&& 0xFFFFFFF8, pred := pred, fpctl := fpctl &&& 7, fpstat := fpstat &&& 0x7F, age := age
      region := region, depth := depth, st := stateFrom c a b n, cbase := cbase, resume := resume, yielded := yielded
      escOk := escOk, group := group, handler := handler, kept := kept, due := due
      pass := pass.map (fun x => if x = 0 then .watch else .bkpt)
      cmpst := cmpst.map (fun x => { base := x.1, count := x.2.1, rank := x.2.2 }) }

/-! ## Warp slots (R120, R121, R128) -/

/-- What a record holds of a latch. -/
def latchNums (l : Latch) : List Nat :=
  tabNums (fun x => [x.toNat]) l.vals ++ tabNums bvNums l.hist ++ [boolNum l.valid]

/-- A latch that a record gives. -/
def takeLatch : Take Latch := do
  let vals ← takeTab (takeBv 64)
  let hist ← takeTab (takeList (takeBv 64))
  return { vals := vals, hist := hist, valid := ← takeBool }

/-- What a record holds of a warp: its threads, v-register mappings, cells, s registers, latches and counts. -/
def slotNums (w : Slot) : List Nat :=
  tabNums threadNums w.threads ++
    tabNums (fun v => [match v.form with | .uniform => 0 | .full r => r + 1, v.rel.toNat]) w.vmap ++
    tabNums (fun x => [x.toNat]) w.cells ++ tabNums (fun x => [x.toNat]) w.sregs ++
    optNums (tabNums (fun x => [x.toNat])) w.homeS ++ listNums (fun x => x.1.toNat :: listNums latchNums x.2) w.latches ++
    [w.runRecs, boolNum w.syncMore]

/-- A warp with what its record gives. -/
def takeSlot : Take (Slot → Slot) := do
  let threads ← takeTab takeThread
  let vmap ← takeTab (takePair takeNat (takeBv 32))
  let cells ← takeTab (takeBv 32)
  let sregs ← takeTab (takeBv 32)
  let homeS ← takeOpt (takeTab (takeBv 32))
  let latches ← takeList (takePair (takeBv 32) (takeList takeLatch))
  let runRecs ← takeNat
  let syncMore ← takeBool
  return fun w =>
    { w with
      threads := w.threads.map (fun e => (e.1, (Tab.getD threads e.1 id) e.2))
      vmap := vmap.map (fun e => (e.1, { form := if e.2.1 = 0 then .uniform else .full (e.2.1 - 1), rel := e.2.2 }))
      cells := cells, sregs := sregs, homeS := homeS, latches := latches, runRecs := runRecs, syncMore := syncMore }

/-- The warps of a workgroup, in the region of thread, warp and slot state. -/
def slotPart (g : WgImage) : Part :=
  numPart 0x19000 (tabNums slotNums g.slots) (takeTab takeSlot) (fun l g =>
    { g with slots := g.slots.map (fun e => (e.1, (Tab.getD l e.1 id) e.2)) })

/-! ## The header, tags, guard slots and barriers (R91, R199, R244) -/

/-- The header (R244): state, hallmark, launch id, number, rank, partition, residence map, flag bytes, AMX0 to AMX15, BARMODE,
child counter, EDIT and the launch depth. What V9 and Ninal know from the launch, and the residence map and child counter,
which go on changing while the workgroup is away, are not read back. -/
def headPart (g : WgImage) : Part :=
  let w := g.wg
  numPart 0
    ([1, w.hm.toNat, g.lid.toNat, w.number, w.rank, w.nthreads, w.regc, w.spg, w.acc, w.shd, w.stk] ++
      tabNums (fun x => [x]) w.resident ++ tabNums (fun x => [x.toNat]) w.flags ++ tabNums (fun x => [x.toNat]) w.amx ++
      [boolNum w.barmode, w.children.toNat, boolNum w.edit, w.dlim.toNat, w.depth.toNat])
    (do
      let _ ← takeMany takeNat 11
      let _ ← takeTab takeNat
      let flags ← takeTab (takeBv 8)
      let amx ← takeTab (takeBv 32)
      let barmode ← takeBool
      let _ ← takeNat
      let edit ← takeBool
      let dlim ← takeBv 5
      let depth ← takeBv 5
      return fun (w : Wg) =>
        { w with flags := flags, amx := amx, barmode := barmode, edit := w.edit || edit, dlim := dlim, depth := depth })
    (fun f g => { g with wg := f g.wg })

/-- The numbers of the tag states. -/
def TagSt.num : TagSt → Nat
  | .idle => 0
  | .busy => 1
  | .done => 2
  | .dropped => 3
  | .failed => 4

/-- The tag state of a number. -/
def tagStOf : Nat → TagSt
  | 1 => .busy
  | 2 => .done
  | 3 => .dropped
  | 4 => .failed
  | _ => .idle

/-- What a record holds of a tag. -/
def tagNums (t : Tag) : List Nat :=
  [t.st.num, t.count, boolNum t.some] ++ optNums (fun x => [x.1.toNat, x.2.toNat]) t.fail ++ [t.pc.toNat]

/-- A tag that a record gives. -/
def takeTag : Take Tag := do
  let st ← takeNat
  let count ← takeNat
  let any ← takeBool
  let fail ← takeOpt (takePair (takeBv 8) (takeBv 8))
  let pc ← takeBv 32
  return { st := tagStOf st, count := count, some := any, fail := fail, pc := pc }

/-- The tags, guard slots, barriers, accumulator bindings and reservation generations. -/
def tagPart (g : WgImage) : Part :=
  let w := g.wg
  numPart 0x94000
    (tabNums tagNums w.tags ++ tabNums (fun x => [boolNum x]) w.guards ++ tabNums (listNums (fun x => [x])) w.barPw ++
      tabNums (fun x => [boolNum x]) w.barMode ++ tabNums (fun x => [x]) w.barLeft ++
      listNums (fun x => [x.addr, x.count, x.arrived]) w.named ++ tabNums (fun x => [x]) w.bind ++
      tabNums (fun x => [x.1, x.2.toNat]) w.shadow ++ tabNums (fun x => [x.toNat]) w.gens ++ listNums (fun x => [x]) w.pins)
    (do
      let tags ← takeTab takeTag
      let guards ← takeTab takeBool
      let barPw ← takeTab (takeList takeNat)
      let barMode ← takeTab takeBool
      let barLeft ← takeTab takeNat
      let named ← takeList (takePair takeNat (takePair takeNat takeNat))
      let bind ← takeTab takeNat
      let shadow ← takeTab (takePair takeNat (takeBv 4))
      let gens ← takeTab (takeBv 12)
      let pins ← takeList takeNat
      return fun (w : Wg) =>
        { w with
          tags := tags, guards := guards, barPw := barPw, barMode := barMode, barLeft := barLeft
          named := named.map (fun x => { addr := x.1, count := x.2.1, arrived := x.2.2 })
          bind := bind, shadow := shadow, gens := gens, pins := pins })
    (fun f g => { g with wg := f g.wg })

/-! ## Engine queues (R88, R100, R105, R382) -/

/-- The status word of a copy-queue entry (R88). -/
def CopyCmd.status (e : CopyCmd) : DWord :=
  let st := match e.st with
    | .queued => 0
    | .running => 1
    | .held => 2
    | .stopped => 3
  let form := match e.form with
    | .cpy | .cpyp => 0
    | .cpys => 1
    | .cpyx => 2
    | .strm => 3
  BitVec.ofNat 64 (e.hm.toNat * 2 ^ 42 + e.p % 2 ^ 26 * 2 ^ 16 + st * 2 ^ 14 + form * 2 ^ 11 +
    (match e.g with | some g => 1024 + g.toNat * 64 | none => 0) + e.tag.toNat)

/-- The state and form of a queue entry by their numbers. -/
def cmdStOf : Nat → CmdSt
  | 1 => .running
  | 2 => .held
  | 3 => .stopped
  | _ => .queued
def CmdSt.num : CmdSt → Nat
  | .queued => 0
  | .running => 1
  | .held => 2
  | .stopped => 3
def copyFormOf : Nat → CopyForm
  | 1 => .cpys
  | 2 => .cpyx
  | 3 => .strm
  | _ => .cpy

/-- Where a command was issued. -/
def originNums (o : Origin) : List Nat := [o.pc.toNat, o.cbase.toNat, o.top.toNat]
def takeOrigin : Take (Origin → Origin) := do
  let pc ← takeBv 32
  let cbase ← takeBv 64
  let top ← takeBv 16
  return fun o => { o with pc := pc, cbase := cbase, top := top }

/-- What a record holds of a copy command with its fault record: its block, the status word, S and C, the extents it has read, and
what else the engine keeps of it (R88, R105). -/
def copyNums (e : CopyCmd × List DWord) : List Nat :=
  let k := e.1
  bvNums k.block ++ [k.status.toNat, k.p, k.blkAddr, k.staged, k.consumed] ++
    listNums (fun x => [x.1.toNat, x.2]) k.exts ++ [boolNum k.snap, k.why.1.toNat, k.why.2.toNat] ++ originNums k.orig ++ bvNums e.2

/-- A copy command with what its record gives; whose it is, which reservations it names and its place in the issue order stay. -/
def takeCopyCmd : Take (CopyCmd × List DWord → CopyCmd × List DWord) := do
  let block ← takeList (takeBv 64)
  let st ← takeNat
  let p ← takeNat
  let blkAddr ← takeNat
  let staged ← takeNat
  let consumed ← takeNat
  let exts ← takeList (takePair (takeBv 64) takeNat)
  let snap ← takeBool
  let cause ← takeBv 8
  let detail ← takeBv 8
  let orig ← takeOrigin
  let rec_ ← takeList (takeBv 64)
  return fun e =>
    ({ e.1 with
        block := block, p := p, blkAddr := blkAddr, staged := staged, consumed := consumed, exts := exts, snap := snap
        st := cmdStOf (st / 2 ^ 14 % 4)
        form := if e.1.form = .cpyp then .cpyp else copyFormOf (st / 2 ^ 11 % 8)
        g := if st / 2 ^ 10 % 2 = 1 then some (BitVec.ofNat 4 (st / 64)) else none
        tag := BitVec.ofNat 6 st
        why := (cause, detail), orig := orig e.1.orig }, rec_)

/-- An output of a drain. -/
def outNums (o : OutImage) : List Nat := listNums byteNums o.rows ++ byteNums o.scales ++ [o.conds]
def takeOut : Take OutImage := do
  let rows ← takeList takeBytes
  let scales ← takeBytes
  return { rows := rows, scales := scales, conds := ← takeNat }

/-- What a record holds of a matrix command with its fault record: also what a drain has computed and the solder list that an MMAS
has read (R382, R395). -/
def mtxNums (e : MtxCmd × List DWord) : List Nat :=
  let k := e.1
  bvNums k.block ++ [k.blkAddr, k.addr, k.slot.toNat] ++ optNums (fun x => [x.toNat]) k.tag ++ optNums (fun x => [x.toNat]) k.g ++
    [k.st.num, k.p, k.conds] ++ bvNums k.solder ++
    optNums (fun d => listNums (fun y => [y.1, y.2]) d.ys ++ outNums d.first ++ optNums outNums d.second ++ [d.conds]) k.image ++
    listNums (fun x => [x.1, x.2.1, x.2.2]) k.writes ++ listNums (fun x => [x]) k.raced ++
    [boolNum k.snap, k.why.1.toNat, k.why.2.toNat] ++ originNums k.orig ++ bvNums e.2

/-- A matrix command with what its record gives; whose it is, its operation, its tiles, which reservations it names and its place
in the issue order stay. -/
def takeMtxCmd : Take (MtxCmd × List DWord → MtxCmd × List DWord) := do
  let block ← takeList (takeBv 64)
  let blkAddr ← takeNat
  let addr ← takeNat
  let slot ← takeBv 4
  let tag ← takeOpt (takeBv 6)
  let g ← takeOpt (takeBv 4)
  let st ← takeNat
  let p ← takeNat
  let conds ← takeNat
  let solder ← takeList (takeBv 64)
  let image ← takeOpt (do
    let ys ← takeList (takePair takeNat takeNat)
    let first ← takeOut
    let second ← takeOpt takeOut
    return ({ ys := ys, first := first, second := second, conds := ← takeNat } : DrainImage))
  let writes ← takeList (takePair takeNat (takePair takeNat takeNat))
  let raced ← takeList takeNat
  let snap ← takeBool
  let cause ← takeBv 8
  let detail ← takeBv 8
  let orig ← takeOrigin
  let rec_ ← takeList (takeBv 64)
  return fun e =>
    ({ e.1 with
        block := block, blkAddr := blkAddr, addr := addr, slot := slot, tag := tag, g := g, st := cmdStOf st, p := p, conds := conds
        solder := solder, image := image, writes := writes, raced := raced, snap := snap, why := (cause, detail)
        orig := orig e.1.orig }, rec_)

/-- A list with each item changed as the one in its place says. -/
def changed {α : Type} (fs : List (α → α)) (l : List α) : List α := l.mapIdx (fun i x => (fs.getD i id) x)

/-- A workgroup's copy queue and matrix queue, in issue order. -/
def copyPart (g : WgImage) : Part :=
  numPart 0x90000 (listNums copyNums g.copies) (takeList takeCopyCmd) (fun l g => { g with copies := changed l g.copies })
def mtxPart (g : WgImage) : Part :=
  numPart 0x96000 (listNums mtxNums g.mtx) (takeList takeMtxCmd) (fun l g => { g with mtx := changed l g.mtx })

/-! ## Detached parks (R226, R243) -/

/-- The parks of a workgroup's threads, each with its (slot, lane) places. -/
def imageParks (g : WgImage) : List (Park × List (Nat × Nat)) :=
  let all := g.slots.flatMap (fun e => e.2.threads.filterMap (fun t => t.2.park.map (fun p => (p, e.1, t.1))))
  ((all.map Prod.fst).dedup).map (fun p => (p, (all.filter (fun x => x.1 = p)).map Prod.snd))

/-- A park that a record gives. -/
def takePark : Take Park := do
  let seq ← takeNat
  let eng ← takeBool
  let tag ← takeBv 6
  let addrs ← takeList (takeBv 64)
  return { seq := seq, eng := eng, tag := tag, addrs := addrs, info := ← takeBv 64 }

/-- The detached parks, in the engine-state region. -/
def parkPart (g : WgImage) : Part :=
  numPart 0x9B000
    (listNums (fun x => [x.1.seq, boolNum x.1.eng, x.1.tag.toNat] ++ bvNums x.1.addrs ++ [x.1.info.toNat] ++
      listNums (fun y => [y.1, y.2]) x.2) (imageParks g))
    (takeList (takePair takePark (takeList (takePair takeNat takeNat))))
    (fun l g => { g with slots := g.slots.map (fun e => (e.1, { e.2 with
      threads := e.2.threads.map (fun t => (t.1, { t.2 with
        park := (l.find? (fun x => x.2.contains (e.1, t.1))).map Prod.fst })) })) })

/-! ## Reservation records (R113, R116) -/

/-- Where the reservation records lie: in the first granule's place that no reservation of the workgroup fills, and in the
engine-state region where they fill them all (log entry 30). -/
def resvOff (g : WgImage) : Nat :=
  match (List.range 256).find? (fun n => !g.resvs.any (fun r => decide (r.base ≤ n ∧ n < r.base + r.size))) with
  | some n => 0x50000 + 1024 * n
  | none => 0x95000

/-- The reservation records, each with whether it is kept for a saved command; their holder, place and size stay. -/
def resvPart (g : WgImage) : Part :=
  numPart (resvOff g)
    (listNums (fun r => [r.hm.toNat, r.own.toNat, r.lix.toNat, r.base, r.size, r.gen.toNat, r.bax.toNat, r.fmt.toNat, r.blk.toNat,
      boolNum r.live, boolNum r.keep] ++ listNums (fun x => [x]) r.unseen) g.resvs)
    (takeList (do
      let _ ← takeMany takeNat 5
      let gen ← takeBv 12
      let bax ← takeBv 2
      let fmt ← takeBv 4
      let blk ← takeBv 2
      let live ← takeBool
      let keep ← takeBool
      let unseen ← takeList takeNat
      return fun (r : Resv) =>
        { r with gen := gen, bax := bax, fmt := fmt, blk := blk, live := live, keep := keep, unseen := unseen }))
    (fun l g => { g with resvs := changed l g.resvs })

/-- The parts of the internal regions that an image fills. -/
def imageParts (g : WgImage) : List Part :=
  [headPart g, slotPart g, tagPart g, copyPart g, mtxPart g, parkPart g, resvPart g]

end Sys2Proof.Machine
end

