-- ==== Sys2Proof/Machine/Save.lean ====
section
/-!
DEFINITION. Stopping teams and saving them (R240 to R245, R277, R462 to R464): requests, forced stops, the images of a
workgroup, and the save that follows when every path has stopped and every store is acknowledged.
-/

namespace Sys2Proof.Machine

/-! ## Stopping (R240, R277) -/

/-- The workgroups of some teams that still stand. -/
def wgsOf (s : State) (ts : List Nat) : List Nat :=
  (ts.flatMap (fun t => ((Tab.get? s.teams t).map Team.wgs).getD [])).filter (fun h => (Tab.get? s.wgs h).isSome)

/-- Change every thread of a workgroup. -/
def modThreadsOf (s : State) (h : Nat) (f : Thread → Thread) : State :=
  (threadsOf s h).foldl (fun s x => modThread s (wgAt s h).core x.1 x.2.1 f) s

/-- Change a team. -/
def modTeam (s : State) (t : Nat) (f : Team → Team) : State := { s with teams := Tab.adjust s.teams t f }

/-- A path that waits stops where it stands (R240). -/
def holdWaiting (t : Thread) : Thread := if t.live && t.st != .ready then { t with held := true } else t

/-- The waiting paths of a workgroup stop where they stand, but those of a huddle move that is under way: it ends first
(R195, R240). -/
def holdWaits (s : State) (h : Nat) : State :=
  let c := (wgAt s h).core
  (threadsOf s h).foldl (fun s x =>
    if atHudl x.2.2.st && moveUnderWay s c x.1 then s else modThread s c x.1 x.2.1 holdWaiting) s

/-- What a stop under way becomes when another is asked for: a save takes the place of a debug stop, one with every tile
spilled that of a save that retains pages, the host's that of the arbiter's; and a host's save of a team that leaves its core
for another reason spills. -/
def StopKind.merge (old new : StopKind) : StopKind :=
  match old, new with
  | .debug, k | k, .debug => k
  | .spill, _ | _, .spill => .spill
  | .slice, .slice | .slice, .arbiter | .arbiter, .slice => .slice
  | .slice, _ | _, .slice => .spill
  | .arbiter, k => k
  | k, _ => k

/-- Ask a team to stop, with every team bound to it (R240, R277); a stop under way goes on as both requests need it. -/
def requestStop (s : State) (t : Nat) (k : StopKind) (host : Bool) : State :=
  let ts := rollbackGroup s t
  let asks (u : Nat) : List Nat := if host && u == t && k != .debug then [k.op] else []
  let dbg (u : Nat) : Bool := host && u == t && k == .debug
  let s := ts.foldl (fun s u => modTeam s u (fun m =>
    let p := m.stop.getD { kind := k, since := clock s, forced := false, anyForced := false, asks := [], dbg := false }
    { m with stop := some { p with kind := p.kind.merge k, asks := p.asks ++ asks u, dbg := p.dbg || dbg u } })) s
  (wgsOf s ts).foldl holdWaits s

/-- A stop reaches the teams that a huddle move has bound since it was asked for, and the stops of teams so bound go on as one, as
all their requests need it (R197, R240, R433, R464). -/
def spreadStop (s : State) (t : Nat) : State :=
  match (Tab.get? s.teams t).bind Team.stop with
  | none => s
  | some p =>
    let g := rollbackGroup s t
    let kind := g.foldl (fun k u => (((Tab.get? s.teams u).bind Team.stop).map (fun q => k.merge q.kind)).getD k) p.kind
    let fresh := g.filter (fun u =>
      match Tab.get? s.teams u with
      | some m => m.stop.isNone && !(m.halted && kind == .debug)
      | none => false)
    let s := g.foldl (fun s u => modTeam s u (fun m => { m with stop := m.stop.map (fun q => { q with kind := kind }) })) s
    let s := fresh.foldl (fun s u => modTeam s u (fun m =>
      { m with stop := some { p with kind := kind, asks := [], dbg := false } })) s
    (wgsOf s fresh).foldl holdWaits s

/-- The quarters that run a slot of a workgroup. -/
def runsOf (s : State) (h : Nat) : List Nat :=
  (List.range 4).filter (fun q =>
    match (quarterAt s (wgAt s h).core q).run with
    | some r => (wgAt s h).slots.contains r.slot
    | none => false)

/-- Stop the runs of a workgroup at an instruction boundary. -/
def stopRuns (s : State) (h : Nat) : State := (runsOf s h).foldl (fun s q => keepLatches s (wgAt s h).core q) s

/-- Every path still running stops at its next instruction boundary (R240, R277). -/
def forceStop (s : State) (t : Nat) : State :=
  let ts := rollbackGroup s t
  let hs := wgsOf s ts
  let running := hs.any (fun h => (threadsOf s h).any (fun x => x.2.2.live && !x.2.2.held))
  let s := hs.foldl stopRuns s
  let s := hs.foldl (fun s h =>
    if (threadsOf s h).any (fun x => atHudl x.2.2.st && moveUnderWay s (wgAt s h).core x.1) then s
    else modThreadsOf s h (fun t => if t.live then { t with held := true } else t)) s
  ts.foldl (fun s u => modTeam s u (fun m =>
    { m with stop := m.stop.map (fun p => { p with forced := true, anyForced := p.anyForced || running }) })) s

/-- Force a stop whose request is 2,048 cycles old. -/
def forceDue (s : State) (t : Nat) (kind : StopKind → Bool) : State :=
  match (Tab.get? s.teams t).bind Team.stop with
  | some p => if kind p.kind && decide (p.since + 2048 ≤ clock s) then forceStop s t else s
  | none => s

/-- SAVE_FORCE (R240). -/
def execSaveForce (t : Nat) (s : State) : Host.Outcome State Fault Refusal := .next (forceDue s t (fun k => k != .debug))

/-- DEBUG_STOP_FORCE (R277). -/
def execDebugStopForce (t : Nat) (s : State) : Host.Outcome State Fault Refusal := .next (forceDue s t (fun k => k == .debug))

/-- Whether every path of some workgroups has stopped, and whether their stores are acknowledged (R241). -/
def allStopped (s : State) (hs : List Nat) : Bool :=
  hs.all (fun h => (threadsOf s h).all (fun t => t.2.2.held || !t.2.2.live))
def drained (s : State) (hs : List Nat) : Bool := s.stores.all (fun p => !hs.contains p.wg)

/-- Let the stopped threads of some workgroups go on. -/
def letGo (s : State) (hs : List Nat) : State :=
  hs.foldl (fun s h => modThreadsOf s h (fun t => { t with held := false, stopMask := none })) s

/-! ## Images (R240, R244, R267) -/

/-- A thread as an image holds it (R243): a parked one is detached, and a sleep keeps the cycles that are left. -/
def savedThread (s : State) (c : Nat) (t : Thread) : Thread :=
  let st := match t.st with
    | .parked e =>
      (match Tab.get? (coreAt s c).dugout e with
       | some d => .detached d.cause d.detail
       | none => .ready)
    | .sleeping till => .sleeping (till - clock s)
    | x => x
  let park := match t.st with
    | .parked e => (Tab.get? (coreAt s c).dugout e).map DugEntry.park
    | _ => t.park
  { t with st := st, held := false, stopMask := none, park := park }

/-- The live threads of a slot that a property of their live-mask word covers: those that stopped at a safe point whose
mask does not mark something (R240, R314). -/
def unmarked (w : Slot) (marks : LiveMask → Bool) : Word :=
  lanesWith w (fun t => t.live && (match t.stopMask with | some m => !marks m | none => false))

/-- A slot as a save holds it (R240): registers that its paths' live-mask words do not mark are absent. Where paths or warps
stop at different masks, what any live thread's mask marks is kept, and what a thread that stopped at none may hold; of a v
register the lanes that omit it are released (log entry 50). -/
def maskedSlot (w : Slot) : Slot :=
  let live := liveLanes w
  let vmap := w.vmap.filterMap (fun e =>
    let rel := e.2.rel ||| unmarked w (fun m => m.vlive.getLsbD (e.1 / 4))
    if live &&& ~~~rel = 0 then none else some (e.1, { e.2 with rel := rel }))
  { w with
    vmap := vmap
    cells := w.cells.filter (fun e => (Tab.get? vmap e.1).isSome)
    sregs := w.sregs.filter (fun e => unmarked w (fun m => m.slive.getLsbD (e.1 / 8)) &&& live != live) }

/-- A slot in an image. -/
def savedSlot (s : State) (c : Nat) (mask : Bool) (w : Slot) : Slot :=
  let w := if mask then maskedSlot w else w
  { mapThreads w (savedThread s c) with lastRun := none, loads := [], syncDue := 0xFFFFFFFF }

/-- Whether every live thread of a workgroup stopped at a safe point whose mask marks something unused (log entry 50). -/
def unusedBy (s : State) (h : Nat) (marks : LiveMask → Bool) : Bool :=
  (threadsOf s h).all (fun t => !t.2.2.live || (match t.2.2.stopMask with | some m => !marks m | none => false)) &&
    wgLive s h

/-- The accumulator slot that a tile serves, as its binding or as its shadow. -/
def tileServes (w : Wg) (t : Nat) : Option Nat :=
  match w.bind.find? (fun e => e.2 = t) with
  | some e => some e.1
  | none => (w.shadow.find? (fun e => e.2.1 = t)).map Prod.fst

/-- The tiles of a workgroup that hold its data: its own by ACCOWN, and not marked unused (R119, R240, R245). -/
def ownTiles (s : State) (h : Nat) (mask : Bool) : List Nat :=
  let w := wgAt s h
  (List.range (w.acc + w.shd)).filter (fun t =>
    let x := Tab.getD (coreAt s w.core).accown (tileSlot s h t) 0
    accV x && accHm x == w.hm &&
      !(mask && (match tileServes w t with
        | some n => unusedBy s h (fun m => m.alive.getLsbD (n / 2))
        | none => false)))

/-- The 16 words of a fault record in the umpire's scratchpad. -/
def umpRecord (s : State) (c o : Nat) : List DWord :=
  match pageWith (coreAt s c) 16 2 (o / 16384) with
  | some p => (List.range 16).map (fun i =>
      BitVec.ofNat 64 (natOf (poolBytes (coreAt s c) (p * 16384 + o % 16384 + 8 * i) 8)))
  | none => List.replicate 16 0

/-- The copy commands of a workgroup in issue order, as an image holds them (R100). -/
def savedCopies (s : State) (h : Nat) : List (CopyCmd × List DWord) :=
  let c := (wgAt s h).core
  let mine := (coreAt s c).copyQ.filter (fun e => e.2.wg = h)
  (mine.mergeSort (fun a b => decide (a.2.seq ≤ b.2.seq))).map (fun e =>
    ({ e.2 with ahead := [], miss := none }, if e.2.st = .stopped then umpRecord s c (0x2800 + 128 * e.1) else []))

/-- The matrix commands of a workgroup in issue order (R382). -/
def savedMtx (s : State) (h : Nat) : List (MtxCmd × List DWord) :=
  let c := (wgAt s h).core
  let mine := (coreAt s c).mtxQ.filter (fun e => e.2.wg = h)
  (mine.mergeSort (fun a b => decide (a.2.seq ≤ b.2.seq))).map (fun e =>
    ({ e.2 with ahead := [], miss := none }, if e.2.st = .stopped then umpRecord s c (0x4800 + 128 * e.1) else []))

/-- The image of a workgroup (R244, R267, R316), whose record lies at an address. -/
def imageOf (s : State) (h : Nat) (mask : Bool) (base : DWord) : WgImage :=
  let w := wgAt s h
  let k := coreAt s w.core
  let tiles := ownTiles s h mask
  { wg := { w with
      tags := if mask && unusedBy s h LiveMask.tags then [] else w.tags
      guards := if mask && unusedBy s h LiveMask.guards then [] else w.guards
      flags := w.flags.filter (fun e => tiles.contains e.1) }
    lid := ((teamLaunch s w.team).map Launch.id).getD 0
    mem := base
    slots := (k.slots.filter (fun e => w.slots.contains e.1)).map (fun e => (e.1, savedSlot s w.core mask e.2))
    tiles := tiles
    loose := (ownTiles s h false).filter (fun t => !tiles.contains t)
    kept := []
    resvs := k.resvs.filter (fun r => r.wg = h)
    copies := savedCopies s h
    mtx := savedMtx s h }

/-! ## The memory of a record or bank (R244, R268) -/

/-- The register pages of a placed workgroup (R108). -/
def regPagesOf (w : Wg) : Nat := (w.slots.length * w.regc + 15) / 16

/-- A unit of 1 KiB that a record or bank holds: its offset there, and its place on the core, a block of the pool or a
granule of the operand buffer (R267, R268). -/
structure MemUnit where
  off : Nat
  pool : Bool
  blk : Nat
  deriving DecidableEq, Repr

/-- Consecutive units from an offset. -/
def unitsAt (off : Nat) (pool : Bool) (blk n : Nat) : List MemUnit :=
  (List.range n).map (fun j => { off := off + 1024 * j, pool := pool, blk := blk + j })

/-- Where a record or bank holds page images, register pages first, a tile image and a granule (R244, log entry 30). -/
def pageOff (i : Nat) : Nat := 0xA0000 + 16384 * i
def tileOff (w : Wg) (t : Nat) : Nat := 0x190000 + 4096 * tileImage w t
def granOff (g : Nat) : Nat := 0x50000 + 1024 * g

/-- The units of a placed workgroup's register and scratchpad pages. -/
def pageUnits (s : State) (h : Nat) : List MemUnit :=
  let w := wgAt s h
  let page (kind idx i : Nat) : List MemUnit :=
    match pageWith (coreAt s w.core) (firstSlot w) kind idx with
    | some p => unitsAt (pageOff i) true (16 * p) 16
    | none => []
  (List.range (regPagesOf w)).flatMap (fun i => page 1 i i) ++
    (List.range w.spg).flatMap (fun i => page 2 i (regPagesOf w + i))

/-- The units of some tiles, whose images lie as a workgroup's slots name them. -/
def tileUnits (s : State) (h : Nat) (w : Wg) (ts : List Nat) : List MemUnit :=
  ts.flatMap (fun t => unitsAt (tileOff w t) true (4 * tileSlot s h t) 4)

/-- The units of some reservations. -/
def granUnits (rs : List Resv) : List MemUnit := rs.flatMap (fun r => unitsAt (granOff r.base) false r.base r.size)

/-- The reservations of a workgroup whose records are not freed (R116). -/
def resvsOf (s : State) (h : Nat) : List Resv := (coreAt s (wgAt s h).core).resvs.filter (fun r => r.wg = h)

/-- The bytes of a unit. -/
def MemUnit.bytes (s : State) (c : Nat) (u : MemUnit) : List Byte :=
  if u.pool then poolBytes (coreAt s c) (1024 * u.blk) 1024 else bufBytes s c (1024 * u.blk) 1024

/-- Write parts of a record in a context; false where one cannot be written. -/
def writeParts (s : State) (c : Nat) (hm : Hm) (base : DWord) (ps : List (Nat × List Byte)) : State × Bool :=
  ps.foldl (fun r p => if r.2 then ctxWrite r.1 c hm (base + BitVec.ofNat 64 p.1) p.2 else r) (s, true)

/-- Write what a record or bank holds of an image beside its units (R18, R244, R267). -/
def writeState (s : State) (c : Nat) (g : WgImage) : State × Bool :=
  writeParts s c g.wg.hm g.mem ((imageParts g).map (fun p => (p.off, p.bytes)))

/-! ## The save (R241 to R245, R251) -/

/-- Whether a save leaves the accumulator pages on the core (R215, R245). -/
def StopKind.retains : StopKind → Bool
  | .slice | .arbiter => true
  | _ => false

/-- Whether a page-map entry is that of an accumulator page of a workgroup. -/
def accPage (w : Wg) (x : Word) : Bool := field x 13 5 == firstSlot w && field x 11 2 == 3

/-- The accumulator pages of a workgroup become retained pages (R245). -/
def retainPages (s : State) (h : Nat) : State :=
  let w := wgAt s h
  modCore s w.core (fun k =>
    { k with pageMap := k.pageMap.map (fun e => if accPage w e.2 then (e.1, e.2 ||| 0x0003E000) else e) })

/-- Write the save record of a workgroup. -/
def writeRecord (s : State) (h : Nat) (k : StopKind) : State × Bool :=
  let w := wgAt s h
  let base := saveAddr s w.hm w.sri 0
  let us := pageUnits s h ++ granUnits (resvsOf s h) ++ (if k.retains then [] else tileUnits s h w (ownTiles s h true))
  match writeState s w.core (imageOf s h true base) with
  | (s, false) => (s, false)
  | (s, true) => writeParts s w.core w.hm base (us.map (fun u => (u.off, u.bytes s w.core)))

/-- The image of a workgroup that a save keeps: with its residence map where tiles stay on the core (R245). -/
def savedImage (s : State) (h : Nat) (k : StopKind) : WgImage :=
  let w := wgAt s h
  let c := w.core
  let g := imageOf s h true (saveAddr s w.hm w.sri 0)
  { g with
    kept := if k.retains then ((coreAt s c).pageMap.filter (fun e => accPage w e.2)).map Prod.fst else []
    wg := { g.wg with resident := if k.retains then g.tiles.map (fun t => (t, 256 * c + tileSlot s h t)) else [] } }

/-- Take a saved workgroup off its core; its release count advances (R78). -/
def leaveCore (s : State) (k : StopKind) (h : Nat) : State :=
  let s := bumpRelease s h
  releaseWg (if k.retains then retainPages s h else s) h

/-- What is kept of a saved team. -/
def savedTeam (s : State) (t : Nat) (m : Team) (p : Stop) : Saved :=
  { team := t, wgs := m.wgs, launch := m.launch, number := m.number,
    images := (wgsOf s [t]).map (fun h => (h, savedImage s h p.kind)), why := p.kind,
    eligible := p.kind == .fence || (p.kind == .throttle && s.host.throttle != 4),
    asks := 0, halted := false, snap := { m.snap with writing := false }, digest := m.digest }

/-- The answers to the host's requests for a save that is done. -/
def savedAnswer (s : State) (m : Team) (p : Stop) : State :=
  let l := Tab.get? s.launches m.launch
  p.asks.foldl (fun s op => teamAnswer s ((l.map Launch.hm).getD devHm) ((l.map Launch.id).getD 0) m.number 0 op 0) s

/-- Save the teams of a group as one (R178, R197, R240): their records are written, their images kept, and their cores
freed. A team whose record cannot be written is killed (R251). -/
def saveGroup (s : State) (ts : List (Nat × Team × Stop)) : State :=
  let r := ts.foldl (fun (r : State × List Nat) x =>
    let q := (wgsOf r.1 [x.1]).foldl (fun q h => if q.2 then writeRecord q.1 h x.2.2.kind else q) (r.1, true)
    (q.1, if q.2 then r.2 else r.2 ++ [x.1])) (s, [])
  if !r.2.isEmpty then r.2.foldl (fun s t => killTeam s t 0x07 false Blame.none) r.1
  else
    let s := r.1
    let s := { s with saved := s.saved ++ ts.map (fun x => savedTeam s x.1 x.2.1 x.2.2) }
    let s := ts.foldl (fun s x => (wgsOf s [x.1]).foldl (fun s h => leaveCore s x.2.2.kind h) s) s
    ts.foldl (fun s x => savedAnswer { s with teams := Tab.del s.teams x.1 } x.2.1 x.2.2) s

/-- A debug stop report or refusal (R277, R278, log entry 22): launch id and team, whether it was refused, and whether a
path was forced. -/
def debugReport (s : State) (hm : Hm) (lid : Word) (team : Nat) (refused forced : Bool) : State :=
  post s 0x04 0xFF hm
    [BitVec.ofNat 64 (lid.toNat * 2 ^ 32 + team), BitVec.ofNat 64 ((if forced then 256 else 0) + (if refused then 1 else 0))]

/-- A team stands halted (R277). -/
def haltTeam (s : State) (t : Nat) (p : Stop) : State :=
  let l := teamLaunch s t
  let num := ((Tab.get? s.teams t).map Team.number).getD 0
  let s := modTeam s t (fun m => { m with halted := true, stop := none })
  if p.dbg then debugReport s ((l.map Launch.hm).getD devHm) ((l.map Launch.id).getD 0) num false p.anyForced else s

/-- Whether the Ninals of some cores have dealt with the faults, calls, signals and debug causes that stand
pending there: those come before a save or a restore (R230). -/
def ninalFree (s : State) (cs : List Nat) : Bool :=
  cs.all (fun c =>
    let k := coreAt s c
    k.dugout.all (fun e => k.dealt.contains (4 * e.2.seq)) &&
      k.slots.all (fun e => e.2.threads.all (fun t =>
        match t.2.st, t.2.park with
        | .detached _ _, some p => k.dealt.contains (4 * p.seq)
        | _, _ => true)) &&
      k.faultSeq.all (fun e =>
        k.dealt.contains (4 * e.2 + e.1 % 4) ||
          !(match e.1 % 4 with
            | 1 => k.engFaults.contains (e.1 / 4)
            | 2 => k.drainFaults.contains (e.1 / 4)
            | _ => (Tab.get? k.netFaults (e.1 / 4)).isSome)))

/-- The cores on which some workgroups stand. -/
def coresOf (s : State) (hs : List Nat) : List Nat := (hs.map (fun h => (wgAt s h).core)).dedup

/-- Whether a save that Ninal has begun stands before another item on some cores: its paths have stopped, and it waits for
its stores or for Ninal. `older` says which saves come first (R230). -/
def saveAhead (s : State) (cs : List Nat) (older : Nat → Stop → Bool) : Bool :=
  s.teams.any (fun e =>
    match e.2.stop with
    | some p =>
      let hs := wgsOf s (rollbackGroup s e.1)
      p.kind != .debug && older e.1 p && allStopped s hs && (coresOf s hs).any cs.contains
    | none => false)

/-- What a request to stop a team leads to once every path of its group has stopped, and no huddle move, snapshot or
rollback is under way (R195, R241, R274, R277); of the saves of a core the oldest comes first (R230). -/
def settleStop (s : State) (t : Nat) : State :=
  let s := spreadStop s t
  match Tab.get? s.teams t with
  | none => s
  | some m =>
    match m.stop with
    | none => s
    | some p =>
      let g := rollbackGroup s t
      let hs := wgsOf s g
      let busy := g.any (fun u => ((Tab.get? s.teams u).map (fun m => m.rolling || m.snap.writing)).getD false)
      let moving := hs.any (fun h => (wgAt s h).slots.any (fun n => moveUnderWay s (wgAt s h).core n))
      if busy || moving || !allStopped s hs then s
      else if p.kind = .debug then g.foldl (fun s u =>
        match (Tab.get? s.teams u).bind Team.stop with
        | some p => haltTeam s u p
        | none => s) s
      else if drained s hs && ninalFree s (coresOf s hs) &&
          !saveAhead s (coresOf s hs) (fun u q => !g.contains u && decide (q.since < p.since ∨ q.since = p.since ∧ u < t)) then
        saveGroup s (g.filterMap (fun u => (Tab.get? s.teams u).bind (fun m => m.stop.map (fun p => (u, m, p)))))
      else s

end Sys2Proof.Machine
end

