-- ==== Sys2Proof/Machine/Restore.lean ====
section
/-!
DEFINITION. Placing workgroups on a core and filling them from an image (R107 to R119, R213, R214, R243 to R248, R462,
R463): slots, pool pages, tiles, reservations and engine commands. A restore and a rollback share it.
-/

namespace Sys2Proof.Machine

/-! ## Room on a core (R108, R213, R243, R246) -/

/-- What a core must supply: warps, pool pages, queue entries, and the sizes of reservations. -/
structure Want where
  warps : Nat
  pages : Nat
  copies : Nat
  mtx : Nat
  sizes : List Nat
  deriving DecidableEq, Repr

/-- What two workgroups on one core need together. -/
def Want.add (a b : Want) : Want :=
  { warps := a.warps + b.warps, pages := a.pages + b.pages, copies := a.copies + b.copies, mtx := a.mtx + b.mtx,
    sizes := a.sizes ++ b.sizes }

/-- The order in which a workgroup takes free user slots (R214). -/
def slotOrder : List Nat := [0, 4, 8, 12, 1, 5, 9, 13, 2, 6, 10, 14, 3, 7, 11, 15]

/-- The free user slots of a core, in that order. -/
def freeSlots (k : Core) : List Nat := slotOrder.filter (fun n => ((Tab.getD k.slots n Slot.empty).wg).isNone)

/-- The KIND and OWN of a page (R110). -/
def pageKind (k : Core) (p : Nat) : Nat := field (Tab.getD k.pageMap p 0) 11 2
def pageOwn (k : Core) (p : Nat) : Nat := field (Tab.getD k.pageMap p 0) 13 5

/-- The free pages and the retained pages of a core, lowest first (R245, R246, log entry 10). -/
def freePageList (k : Core) : List Nat := (List.range 60).filter (fun p => pageKind k p = 0)
def retainedList (k : Core) : List Nat := (List.range 60).filter (fun p => pageKind k p = 3 ∧ pageOwn k p = 31)

/-- Whether reservations of some sizes can be placed in turn (R114, R116). -/
def sizesFit (k : Core) : List Nat → Bool
  | [] => true
  | n :: r =>
    match firstFit k n with
    | none => false
    | some b =>
      decide (k.resvs.length < 64) &&
        sizesFit { k with resvs := k.resvs ++
          [{ hm := 0, own := 0, wg := 0, gen := 0, lix := 0, bax := 0, fmt := 0, blk := 0, size := n, base := b,
             live := false, keep := true, unseen := [] }] } r

/-- Whether a core has room (R213, R243, R264). -/
def coreFits (s : State) (c : Nat) (w : Want) : Bool :=
  let k := coreAt s c
  !k.fenced && decide (w.warps ≤ (freeSlots k).length) &&
    decide (w.pages ≤ (freePageList k).length + (retainedList k).length) &&
    decide (k.copyQ.length + w.copies ≤ 64) && decide (k.mtxQ.length + w.mtx ≤ 32) && sizesFit k w.sizes

/-- The first position of a list that fits each want in turn, in ascending order (R213). -/
def chooseCores (s : State) : List Want → List Nat → Option (List Nat)
  | [], _ => some []
  | w :: ws, cs =>
    match cs.find? (fun c => coreFits s c w) with
    | none => none
    | some c => (chooseCores s ws (cs.filter (· != c))).map (fun r => c :: r)

/-- The positions of a court in the order of R213: for `.huddle` those first that hold the launch. -/
def courtOrder (s : State) (ct : Nat) (hd : Option Nat) : List Nat :=
  let cs := (List.range 8).map (8 * ct + ·)
  match hd with
  | none => cs
  | some i =>
    let has (c : Nat) : Bool := s.wgs.any (fun e => decide (e.2.core = c ∧ e.2.launch = i) && e.2.team != 0)
    cs.filter has ++ cs.filter (fun c => !has c)

/-- The cores on which some wants are placed: the lowest-numbered court that takes them all (R213). -/
def fitCourt (s : State) (ws : List Want) (hd : Option Nat) : Option (List Nat) :=
  (List.range 24).findSome? (fun ct => chooseCores s ws (courtOrder s ct hd))

/-! ## Pool pages (R109, R119, R246) -/

/-- A page-map entry with zeroing pending (R110). -/
def mapWord (hm : Hm) (own kind idx : Nat) : Word :=
  BitVec.ofNat 32 (hm.toNat * 2 ^ 18 + own * 2 ^ 13 + kind * 2 ^ 11 + idx * 2 ^ 5 + 16)

/-- A tile slot names an owner. -/
def ownTile (s : State) (c ts : Nat) (hm : Hm) : State :=
  modCore s c (fun k => { k with accown := Tab.set k.accown ts (0x8000 ||| hm.setWidth 16) })

/-- A tile slot of an accumulator page that a workgroup takes (R109, R119, R246): one that names another hallmark stays;
every other is zeroed and named, after a spill where a saved workgroup's map names it. -/
def accTile (s : State) (c : Nat) (hm : Hm) (ts : Nat) : State :=
  let x := Tab.getD (coreAt s c).accown ts 0
  if accV x && accHm x != hm then s
  else ownTile (if accV x then settleTile s c ts else clearTile s c ts) c ts hm

/-- The tile slots of a page. -/
def tilesOf (p : Nat) : List Nat := [4 * p, 4 * p + 1, 4 * p + 2, 4 * p + 3]

/-- Take a page for a workgroup (R109, R246). -/
def takePage (s : State) (c : Nat) (hm : Hm) (own : Nat) (x : Nat × Nat × Nat) : State :=
  let p := x.2.2
  let s := unkeepPage s c p
  let s := if x.1 = 3 then (tilesOf p).foldl (fun s t => accTile s c hm t) s
    else if pageKind (coreAt s c) p = 3 then (tilesOf p).foldl (fun s t => settleTile s c t) s
    else s
  modCore s c (fun k =>
    let k := if x.1 = 3 then { k with cleanPool := k.cleanPool.filter (fun e => e.1 / 16 != p) } else zeroPages k [p]
    { k with pageMap := Tab.set k.pageMap p (mapWord hm own x.1 x.2.1) })

/-- Pages for some needs, each a kind and an index; `mine` are a restored workgroup's own retained pages (R248). -/
def choosePages (mine : Tab Nat) : List (Nat × Nat) → List Nat → List (Nat × Nat × Nat)
  | [], _ => []
  | (kind, idx) :: r, avail =>
    match (if kind = 3 then Tab.get? mine idx else none) with
    | some p => (kind, idx, p) :: choosePages mine r avail
    | none =>
      match avail with
      | p :: ps => (kind, idx, p) :: choosePages mine r ps
      | [] => choosePages mine r []

/-- The pages that a workgroup needs (R108): register pages, scratchpad pages, accumulator pages. -/
def pageNeeds (w : Wg) : List (Nat × Nat) :=
  (List.range (regPagesOf w)).map (fun i => (1, i)) ++ (List.range w.spg).map (fun i => (2, i)) ++
    (List.range ((w.acc + w.shd + 3) / 4)).map (fun i => (3, i))

/-- Take the pages of a workgroup that stands in its slots: free pages first (R109, R246). -/
def takePages (s : State) (h : Nat) (mine : Tab Nat) : State :=
  let w := wgAt s h
  let k := coreAt s w.core
  let avail := (freePageList k ++ retainedList k).filter (fun p => !mine.vals.contains p)
  (choosePages mine (pageNeeds w) avail).foldl (fun s x => takePage s w.core w.hm (firstSlot w) x) s

/-! ## Filling a workgroup from its image -/

/-- A seat: a workgroup's handle and image, the core, and its slots there. -/
structure Seat where
  wg : Nat
  img : WgImage
  core : Nat
  slots : List Nat
  deriving DecidableEq, Repr

/-- Where the slots of some seats went. -/
def reslots (xs : List Seat) : Tab Nat := xs.flatMap (fun x => x.img.wg.slots.zip x.slots)
def reslot (m : Tab Nat) (n : Nat) : Nat := Tab.getD m n n

/-- A workgroup's tile as it is numbered after a restore: its slots are bound in order (R462). -/
def newTile (w : Wg) (t : Nat) : Nat :=
  let i := tileImage w t
  if i < 16 then i else w.acc + (i - 16)

/-- The workgroup of an image, in its new place. -/
def seatedWg (x : Seat) (m : Tab Nat) : Wg :=
  let w := x.img.wg
  { w with
    core := x.core
    slots := x.slots
    bind := (List.range w.acc).map (fun i => (i, i))
    shadow := w.shadow.map (fun e => (e.1, (newTile w e.2.1, e.2.2)))
    flags := w.flags.foldl (fun t e => Tab.set t (newTile w e.1) e.2) []
    barPw := w.barPw.map (fun e => (e.1, e.2.map (reslot m)))
    bound := w.bound.map (fun b => { b with slots := b.slots.map (reslot m) })
    resident := [] }

/-- A thread that comes back: what is left of a sleep starts now. -/
def backThread (s : State) (t : Thread) : Thread :=
  match t.st with
  | .sleeping n => { t with st := .sleeping (clock s + n) }
  | _ => t

/-- The place of a row in another slot: it keeps its register's bank (R126). -/
def moveRow (n0 n r : Nat) : Nat := r ^^^ ((n0 ^^^ n) % 8)

/-- A word of the register-page images of a record. -/
def imageWord (regs : List Byte) (row l : Nat) : Word := BitVec.ofNat 32 (natOf ((regs.drop (128 * row + 4 * l)).take 4))

/-- Fill one slot of a seat: its threads, s registers, cells, mappings and rows. -/
def fillSlot (s : State) (x : Seat) (m : Tab Nat) (regs : List Byte) (rb : Bool) (e : Nat × Slot) : State :=
  let n := reslot m e.1
  let w := e.2
  let form (f : VForm) : VForm := match f with
    | .full r => .full (moveRow e.1 n r)
    | .uniform => .uniform
  let s := modSlot s x.core n (fun _ =>
    { mapThreads w (backThread s) with
      wg := some x.wg
      vmap := w.vmap.map (fun v => (v.1, { v.2 with form := form v.2.form }))
      syncDue := 0xFFFFFFFF
      rbSync := if rb then 0xFFFFFFFF else w.rbSync })
  w.vmap.foldl (fun s v =>
    match v.2.form with
    | .full r => setRow s x.core n (moveRow e.1 n r) (List.range 32) (fun l => imageWord regs r l)
    | .uniform => s) s

/-- Fill the scratchpad pages of a seat. -/
def fillSpad (s : State) (x : Seat) (pages : List (List Byte)) : State :=
  (withPos pages).foldl (fun s p =>
    match pageWith (coreAt s x.core) (x.slots.headD 16) 2 p.1 with
    | some q => modCore s x.core (fun k => setPoolBytes k (16384 * q) p.2)
    | none => s) s

/-- Fill a tile: what another hallmark still has in its slot goes to that owner's record first (R247, R463). -/
def fillTile (s : State) (x : Seat) (t : Nat) (bs : List Byte) : State :=
  let ts := tileSlot s x.wg t
  let o := Tab.getD (coreAt s x.core).accown ts 0
  let s := if accV o && accHm o != x.img.wg.hm then settleTile s x.core ts else s
  ownTile (modCore s x.core (fun k => setPoolBytes k (4096 * ts) bs)) x.core ts x.img.wg.hm

/-- Place a reservation again, first-fit, with its bytes (R116). -/
def fillResv (s : State) (x : Seat) (r : Resv) (bs : List Byte) : State :=
  let base := (firstFit (coreAt s x.core) r.size).getD r.base
  modCore s x.core (fun k =>
    let k := dropGranules k [{ r with base := base }]
    { k with
      resvs := k.resvs ++ [{ r with base := base, own := BitVec.ofNat 5 (x.slots.headD 16) }]
      buf := k.buf.filter (fun e => decide (e.1 < base * 1024)) ++ (withPos bs).map (fun p => (base * 1024 + p.1, p.2)) ++
        k.buf.filter (fun e => decide ((base + r.size) * 1024 ≤ e.1)) })

/-- A fault record under a new slot and queue entry (R232, R243). -/
def movedRecord (ws : List DWord) (slot n : Nat) : List DWord :=
  let w0 := ws.headD 0
  (BitVec.ofNat 64 (w0.toNat - field w0 29 5 * 2 ^ 29 - field w0 10 6 * 2 ^ 10 + slot * 2 ^ 29 + n * 2 ^ 10)) :: ws.tail

/-- Queue a copy command again (R100, R243): a running one goes on from P, a stopped one stays stopped with its record
pending. -/
def fillCopy (s : State) (x : Seat) (m : Tab Nat) (e : CopyCmd × List DWord) : State :=
  let n := (Tab.freeKey (coreAt s x.core).copyQ 64 0).getD 0
  let o := { e.1.orig with slot := reslot m e.1.orig.slot }
  let s := modCore { s with stamp := s.stamp + 1 } x.core (fun k =>
    { k with copyQ := Tab.set k.copyQ n { e.1 with seq := s.stamp, orig := o } })
  if e.1.st = .stopped then
    noteFault (modCore (umpSpadWrite s x.core (0x2800 + 128 * n) (wordsBytes (movedRecord e.2 o.slot n))) x.core (fun k =>
      { k with engFaults := k.engFaults ++ [n] })) x.core 1 n
  else s

/-- Queue a matrix command again (R382). -/
def fillMtx (s : State) (x : Seat) (m : Tab Nat) (e : MtxCmd × List DWord) : State :=
  let n := (Tab.freeKey (coreAt s x.core).mtxQ 32 0).getD 0
  let o := { e.1.orig with slot := reslot m e.1.orig.slot }
  let w := x.img.wg
  let cmd := { e.1 with
    seq := s.stamp, orig := o, tile := newTile w e.1.tile, src := e.1.src.map (newTile w) }
  let s := modCore { s with stamp := s.stamp + 1 } x.core (fun k => { k with mtxQ := Tab.set k.mtxQ n cmd })
  if e.1.st = .stopped then
    noteFault (modCore (umpSpadWrite s x.core (0x4800 + 128 * n) (wordsBytes (movedRecord e.2 o.slot n))) x.core (fun k =>
      { k with drainFaults := k.drainFaults ++ [n] })) x.core 2 n
  else s

/-- What the units of a record or bank give a seat: its register pages, its scratchpad pages, its tiles, and the bytes of its
reservations in their order. -/
structure Parts where
  regs : List Byte
  spad : List (List Byte)
  tiles : Tab (List Byte)
  grans : List (List Byte)

/-- A tile that a save has left out, since a live-mask word does not mark it: its contents and flags are undefined (R9, R316). -/
def fillLoose (s : State) (x : Seat) (t : Nat) : State :=
  let s := modWg s x.wg (fun w => { w with flags := Tab.set w.flags t (Config.freeBits 8 s.fresh) })
  fillTile { s with fresh := s.fresh + 1 } x t (bytesOf 4096 (Config.freeBits 32768 s.fresh).toNat)

/-- Fill a seat whose slots and pages are taken. -/
def fillSeat (s : State) (x : Seat) (m : Tab Nat) (p : Parts) (rb : Bool) : State :=
  let s := x.img.slots.foldl (fun s e => fillSlot s x m p.regs rb e) s
  let s := fillSpad s x p.spad
  let s := p.tiles.foldl (fun s e => fillTile s x (newTile x.img.wg e.1) e.2) s
  let s := x.img.loose.foldl (fun s t => fillLoose s x (newTile x.img.wg t)) s
  let s := (x.img.resvs.zip p.grans).foldl (fun s r => fillResv s x r.1 r.2) s
  let s := x.img.copies.foldl (fun s e => fillCopy s x m e) s
  x.img.mtx.foldl (fun s e => fillMtx s x m e) s

/-- The offsets of the units that an image has in a record or bank. -/
def unitOffs (g : WgImage) : List Nat :=
  (List.range (16 * (regPagesOf g.wg + g.wg.spg))).map (fun i => pageOff 0 + 1024 * i) ++
    g.tiles.flatMap (fun t => (List.range 4).map (fun j => tileOff g.wg t + 1024 * j)) ++
    g.resvs.flatMap (fun r => (List.range r.size).map (fun j => granOff (r.base + j)))

/-- Read parts of a record or bank. -/
def readUnits (s : State) (c : Nat) (hm : Hm) (base : DWord) (n : Nat) : List Nat → State × Option (Tab (List Byte))
  | [] => (s, some [])
  | o :: r =>
    match ctxRead s c hm (base + BitVec.ofNat 64 o) n with
    | (s, none) => (s, none)
    | (s, some bs) =>
      match readUnits s c hm base n r with
      | (s, none) => (s, none)
      | (s, some l) => (s, some ((o, bs) :: l))

/-- What the units of an image give. -/
def partsOf (g : WgImage) (us : Tab (List Byte)) : Parts :=
  let rp := regPagesOf g.wg
  let from_ (off n : Nat) : List Byte := (List.range n).flatMap (fun i => Tab.getD us (off + 1024 * i) [])
  { regs := from_ (pageOff 0) (16 * rp)
    spad := (List.range g.wg.spg).map (fun i => from_ (pageOff (rp + i)) 16)
    tiles := g.tiles.map (fun t => (t, from_ (tileOff g.wg t) 4))
    grans := g.resvs.map (fun r => from_ (granOff r.base) r.size) }

/-- An image as the internal regions of its record or bank give it back (R18, R243, R272). -/
def readState (s : State) (c : Nat) (g : WgImage) : List Part → State × Option WgImage
  | [] => (s, some g)
  | p :: r =>
    match ctxRead s c g.wg.hm (g.mem + BitVec.ofNat 64 p.off) p.bytes.length with
    | (s, none) => (s, none)
    | (s, some bs) => readState s c (p.put bs g) r

/-- Read what a record or bank gives an image (R243, R272); `held` are units that the core still holds. -/
def readParts (s : State) (c : Nat) (g : WgImage) (held : Tab (List Byte)) : State × Option (WgImage × Parts) :=
  match readState s c g (imageParts g) with
  | (s, none) => (s, none)
  | (s, some g) =>
    match readUnits s c g.wg.hm g.mem 1024 ((unitOffs g).filter (fun o => (Tab.get? held o).isNone)) with
    | (s, none) => (s, none)
    | (s, some us) => (s, some (g, partsOf g (held ++ us)))

/-! ## A restore (R243 to R248) -/

/-- What a saved workgroup needs of its core (R116, R243). -/
def wantOf (g : WgImage) : Want :=
  { warps := g.wg.slots.length, pages := (pageNeeds g.wg).length, copies := g.copies.length, mtx := g.mtx.length,
    sizes := g.resvs.map Resv.size }

/-- Whether two saved workgroups stand in one huddle set (R197). -/
def boundWith (a b : WgImage) : Bool := a.wg.bound.any (fun x => b.wg.bound.any (fun y => x.set == y.set))

/-- The saved teams that are restored together with one (R197). -/
def savedGroup (s : State) (v : Saved) : List Saved :=
  let near (ts : List Nat) : List Nat :=
    let mine := (s.saved.filter (fun x => ts.contains x.team)).flatMap Saved.images
    (s.saved.filter (fun x => ts.contains x.team || x.images.any (fun a => mine.any (fun b => boundWith a.2 b.2)))).map Saved.team
  let ts := widen near [v.team] (s.saved.length + 1)
  s.saved.filter (fun x => x.team == v.team || ts.contains x.team)

/-- The workgroups of a group by the core that they stood on, in rank order: those of one core stay together. -/
def savedCores (vs : List Saved) : List (List (Nat × WgImage)) :=
  let all := vs.flatMap Saved.images
  let cores := (all.map (fun e => e.2.wg.core)).dedup
  cores.map (fun c => all.filter (fun e => e.2.wg.core = c))

/-- The wants of a group. -/
def savedWants (vs : List Saved) : List Want :=
  (savedCores vs).map (fun l =>
    l.foldl (fun w e => w.add (wantOf e.2)) { warps := 0, pages := 0, copies := 0, mtx := 0, sizes := [] })

/-- The seats of some workgroups on a core, each with the next free slots (R214). -/
def seatsOn (c : Nat) : List (Nat × WgImage) → List Nat → List Seat
  | [], _ => []
  | (h, g) :: r, free =>
    { wg := h, img := g, core := c, slots := free.take g.wg.slots.length } :: seatsOn c r (free.drop g.wg.slots.length)

/-- Free a retained page, scrubbed. -/
def freeRetained (s : State) (c p : Nat) : State :=
  if pageKind (coreAt s c) p = 3 ∧ pageOwn (coreAt s c) p = 31 then
    let s := (tilesOf p).foldl (fun s t => settleTile s c t) s
    modCore s c (fun k => { zeroPages k [p] with pageMap := Tab.del k.pageMap p })
  else s

/-- Spill the tiles of an image that another core holds, and free the pages that it retains there (R248); false where a
tile could not be written. -/
def spillAway (s : State) (x : Seat) : State × Bool :=
  let away := x.img.wg.resident.filter (fun e => e.2 / 256 ≠ x.core)
  let r := away.foldl (fun r e => if r.2 then spillTile r.1 (e.2 / 256) (e.2 % 256) x.img e.1 else r) (s, true)
  if r.2 then (((retainedBy r.1 x.img).filter (fun p => p.1 != x.core)).foldl (fun s p => freeRetained s p.1 p.2) r.1, true)
  else r

/-- The pages that an image still retains on a core, by their index (R248). -/
def ownRetained (k : Core) (x : Seat) : Tab Nat :=
  (if x.img.wg.core = x.core then x.img.kept else []).filterMap (fun p =>
    let e := Tab.getD k.pageMap p 0
    if pageKind k p = 3 ∧ pageOwn k p = 31 ∧ field e 18 14 = x.img.wg.hm.toNat then some (field e 5 6, p) else none)

/-- The units of the tiles of an image that its core still holds. -/
def heldTiles (s : State) (x : Seat) : Tab (List Byte) :=
  (x.img.wg.resident.filter (fun e => e.2 / 256 = x.core)).flatMap (fun e =>
    (unitsAt (tileOff x.img.wg e.1) true (4 * (e.2 % 256)) 4).map (fun u => (u.off, u.bytes s x.core)))

/-- Seat a workgroup: its tiles leave the slots that held them, and it takes its slots and pages. -/
def takeSeat (s : State) (x : Seat) (m : Tab Nat) : State :=
  let mine := (ownRetained (coreAt s x.core) x).foldl (fun t e => if (Tab.get? t e.1).isSome then t else Tab.set t e.1 e.2) []
  let s := (x.img.wg.resident.filter (fun e => e.2 / 256 = x.core)).foldl (fun s e => clearTile s x.core (e.2 % 256)) s
  let s := modCore s x.core (fun k => { k with pageMap := mine.foldl (fun t e => Tab.del t e.2) k.pageMap })
  let s := { s with wgs := Tab.set s.wgs x.wg { seatedWg x m with zeroing := true } }
  let s := x.slots.foldl (fun s n => modSlot s x.core n (fun w => { w with wg := some x.wg })) s
  takePages s x.wg mine

/-- The team of a saved team, placed. -/
def backTeam (v : Saved) (court : Nat) : Team :=
  { launch := v.launch, number := v.number, court := court, wgs := v.wgs, stop := none, halted := v.halted, rolling := false,
    snap := v.snap, digest := v.digest, killed := false }

/-- Read the records of some seats, or the seat of which one cannot be read or its tiles written (R251). -/
def readSeats (s : State) : List Seat → State × Except Seat (List (Seat × Parts))
  | [] => (s, .ok [])
  | x :: r =>
    match spillAway s x with
    | (s, false) => (s, .error x)
    | (s, true) =>
      match readParts s x.core x.img (heldTiles s x) with
      | (s, none) => (s, .error x)
      | (s, some (g, p)) =>
        match readSeats s r with
        | (s, .error y) => (s, .error y)
        | (s, .ok l) => (s, .ok (({ x with img := g }, p) :: l))

/-- Whether a read of a record or bank met poison, which ends the context when the step does (R256, R257, R274). -/
def metPoison (s s1 : State) : Bool := decide (s.consumed.length < s1.consumed.length)

/-- The answer to the host's request for a restore (R464). -/
def restoreAnswer (s : State) (v : Saved) (status : Nat) : State :=
  let l := Tab.get? s.launches v.launch
  (List.range v.asks).foldl (fun s _ =>
    teamAnswer s ((l.map Launch.hm).getD devHm) ((l.map Launch.id).getD 0) v.number 0 3 status) s

/-- Whether a saved team must not come back: a workgroup of it was edited and its context lost the debug right (R282). -/
def editedAway (s : State) (v : Saved) : Bool := v.images.any (fun g => g.2.wg.edit && !hasRight s g.2.wg.hm)

/-- The escape log of a restored team names its new slots (R270). -/
def relog (s : State) (xs : List Seat) (v : Saved) : State :=
  let move (r : LogRec) : LogRec :=
    match xs.find? (fun x => x.wg = r.wg) with
    | some x => { r with slot := reslot (reslots (xs.filter (fun y => y.core = x.core))) r.slot }
    | none => r
  modTeam s v.team (fun m => { m with snap := { m.snap with log := m.snap.log.map move } })

/-- Restore a group of saved teams on some cores (R243, R248); a halted one stays halted (R277). -/
def restoreGroup (s : State) (vs : List Saved) (cores : List Nat) : State :=
  match vs.filter (editedAway s) with
  | b :: bs => (b :: bs).foldl (fun s v => killSaved s v 0x04) s
  | [] =>
    let xs := ((savedCores vs).zip cores).flatMap (fun p => seatsOn p.2 p.1 (freeSlots (coreAt s p.2)))
    let m (x : Seat) : Tab Nat := reslots (xs.filter (fun y => y.core = x.core))
    match readSeats s xs with
    | (s1, .error x) =>
      if metPoison s s1 then endContext s1 x.img.wg.hm
      else (vs.filter (fun v => v.images.any (fun g => g.1 == x.wg))).foldl (fun s v => killSaved s v 0x07) s1
    | (s, .ok ps) =>
      let bad := vs.filter (fun v => ps.any (fun p => v.images.any (fun g => g.1 == p.1.wg) && p.1.img.wg.edit && !hasRight s p.1.img.wg.hm))
      if !bad.isEmpty then bad.foldl (fun s v => killSaved s v 0x04) s else
      let s := xs.foldl (fun s x => refreshDesc s x.img.wg.hm) s
      let s := { s with
        saved := s.saved.filter (fun v => !vs.any (fun x => x.team == v.team))
        teams := vs.foldl (fun t v => Tab.set t v.team (backTeam v (cores.headD 0 / 8))) s.teams }
      let s := ps.foldl (fun s p => takeSeat s p.1 (m p.1)) s
      let s := ps.foldl (fun s p => fillSeat s p.1 (m p.1) p.2 false) s
      let s := (vs.filter Saved.halted).foldl (fun s v =>
        (wgsOf s [v.team]).foldl (fun s h => modThreadsOf s h (fun t => if t.live then { t with held := true } else t)) s) s
      vs.foldl (fun s v => restoreAnswer (relog s xs v) v 0) s

end Sys2Proof.Machine
end

