-- ==== Sys2Proof/Machine/Place.lean ====
section
/-!
DEFINITION. The arbiter (R203 to R215, R468): launch records and their checks, streams and their ages, and placing the
next team of the best head.
-/

namespace Sys2Proof.Machine

/-! ## Checks of records (R207, R468) -/

/-- The class that a launch runs in (R206). -/
def Launch.class_ (l : Launch) : Nat := field (l.words.getD 1 0) 5 3

/-- Whether a counter entry is allocated to a context (R184). -/
def counterBad (s : State) (hm : Hm) (n : Nat) : Bool := (counterOf s n hm).isNone

/-- The reserved fields of a launch record are zero (R206). -/
def recordReserved (w : List DWord) : Bool :=
  decide (field (w.getD 1 0) 0 1 ≠ 0 ∨ field (w.getD 3 0) 16 10 ≠ 0 ∨ field (w.getD 4 0) 36 28 ≠ 0 ∨
    field (w.getD 5 0) 48 16 ≠ 0)

/-- Whether a context's descriptor and key let it be placed (R40, R207 code 0x01). -/
def contextBad (s : State) (hm : Hm) : Bool :=
  let d := freshDesc s hm
  !d.v || (Tab.get? s.keys d.kidx.toNat).isNone

/-- The code of the first row of R207's table that applies to a record of a queue. -/
def recordCode (s : State) (hm : Hm) (q : Nat) (l : Launch) : Option Nat :=
  let w := l.words
  let names := (field (w.getD 4 0) 0 12) :: ((([l.gcnt, l.jcnt] ++ l.waits.map Prod.fst).filter (· != 0)))
  if contextBad s hm then some 1
  else if !partValid (field (w.getD 2 0) 0 32) (field (w.getD 3 0) 26 10) then some 2
  else if names.any (counterBad s hm) then some 3
  else if (freshDesc s hm).pclass.toNat < l.class_ ∨ l.class_ ≠ q / 32 then some 4
  else if recordReserved w || !sizesValid (w.getD 2 0) (w.getD 3 0) then some 5
  else none

/-- Whether a child fails the checks of R468. -/
def childBad (s : State) (l : Launch) : Bool :=
  contextBad s l.hm || (match l.lcnt with | some n => counterBad s l.hm n | none => false)

/-- A queue's rejection or refused commit (R205, R207, R442). -/
def queueError (s : State) (q code slot : Nat) : State :=
  let u := Tab.getD s.queues q Queue.reset
  { s with
    queues := Tab.set s.queues q { u with errc := BitVec.ofNat 8 code, errs := BitVec.ofNat 4 slot, err := true }
    host := { s.host with msix := s.host.msix ++ [(actPort s, 2 + q / 32)] } }

/-- Reject the head of a stream where it fails its checks (R207, R468); the reading of its descriptor consumes poison (R256). -/
def rejectHead (s : State) (i : Nat) (l : Launch) : Option State :=
  let s := readDescHere s l.hm
  if l.failed then none
  else if l.child then (if childBad s l then some (rejectLaunch s i) else none)
  else (recordCode s l.hm l.queue l).map (fun c => rejectLaunch (queueError s l.queue c l.slot) i)

/-! ## Streams (R209 to R211) -/

/-- The number of a launch's stream: host stream q is 2q, child stream q is 2q + 1 (R209). -/
def Launch.stream (l : Launch) : Nat := 2 * l.queue + (if l.child then 1 else 0)

/-- Whether a saved team may be placed (R215, R264, R458, R464). -/
def savedReady (v : Saved) : Bool :=
  v.eligible || (v.why == .arbiter && v.images.all (fun g => g.2.wg.children == 0))

/-- The saved teams of a launch that may be placed with all that are bound to them, lowest team first (log entry 10). -/
def readyTeams (s : State) (i : Nat) : List Saved :=
  (s.saved.filter (fun v => decide (v.launch = i) && (savedGroup s v).all savedReady)).mergeSort
    (fun a b => decide (a.number ≤ b.number))

/-- Whether a launch still has a team to place (R209). -/
def teamsLeft (s : State) (i : Nat) (l : Launch) : Bool :=
  !(readyTeams s i).isEmpty || (!l.failed && !l.cancelled && (!l.again.isEmpty || decide (l.nextTeam < l.tcount)))

/-- The head of a stream (R209): launches stand in the order of their commit or creation. -/
def headOf (s : State) (st : Nat) : Option (Nat × Launch) :=
  s.launches.find? (fun e => decide (e.2.stream = st) && teamsLeft s e.1 e.2)

/-- The waits of a launch are met (R184, R206). -/
def waitsMet (s : State) (l : Launch) : Bool :=
  l.waits.all (fun w => match Tab.get? s.counters w.1 with | some k => decide (w.2 ≤ k.value.toNat) | none => false)

/-- Whether a head is eligible (R210); a descriptor that is not valid holds nothing back, so that the record is checked
(R207). -/
def headEligible (s : State) (l : Launch) : Bool :=
  let d := freshDesc s l.hm
  waitsMet s l && (!d.v || (!d.hold && decide (l.class_ ≤ d.pclass.toNat)))

/-- A stream that holds nothing. -/
def Stream.empty : Stream := { age := 0, head := none, eligible := none, idle := [], placed := [], fit := [], fits := false, noted := 0 }

/-- A stream's record. -/
def streamAt (s : State) (st : Nat) : Stream := Tab.getD s.streams st Stream.empty

/-- Change a stream's record. -/
def modStream (s : State) (st : Nat) (f : Stream → Stream) : State :=
  { s with streams := Tab.set s.streams st (f (streamAt s st)) }

/-- The streams that hold a launch or a record. -/
def streamNumbers (s : State) : List Nat := (s.launches.map (fun e => e.2.stream) ++ s.streams.keys).dedup

/-! ## The wants of a head (R108, R213, R243) -/

/-- DLIM of a launch (R187): a value outside 1 to 24 is taken as 24. -/
def Launch.dlim (l : Launch) : BitVec 5 :=
  let d := field (l.words.getD 1 0) 8 5
  if 1 ≤ d ∧ d ≤ 24 then BitVec.ofNat 5 d else 24

/-- The division that a launch's partition word gives a workgroup (R107). -/
def freshWg (l : Launch) (core h : Nat) : Wg :=
  let p := field (l.words.getD 2 0) 0 32
  { Wg.empty with
    core := core, hm := l.hm, nthreads := l.nthreads, regc := partRegc p, spg := partSpg p, acc := partAcc p,
    shd := partShd p, stk := field (l.words.getD 3 0) 0 16, dlim := l.dlim,
    depth := l.depth, launch := h, bind := (List.range (partAcc p)).map (fun i => (i, i)) }

/-- What a workgroup of a launch needs that has not run (R108, R213). -/
def freshWant (l : Launch) : Want :=
  { warps := warpsOf l.nthreads, pages := pagesOf (field (l.words.getD 2 0) 0 32) l.nthreads, copies := 0, mtx := 0,
    sizes := [] }

/-- What the arbiter would place next of a launch: a saved group, or a team by its number, and where. -/
inductive Next where
  | back (vs : List Saved) (cores : List Nat)
  | fresh (n : Nat) (cores : List Nat)
  deriving DecidableEq, Repr

/-- The launch of whose cores `.huddle` prefers the positions (R206, R213). -/
def Launch.prefers (l : Launch) (i : Nat) : Option Nat := if l.flag 4 then some i else none

/-- The next team of a launch and its place, where the head is fit (R209, R213). -/
def nextOf (s : State) (i : Nat) (l : Launch) : Option Next :=
  let back := (readyTeams s i).head?
  let again := if l.failed || l.cancelled then none else l.again.head?
  let first := match back, again with
    | some v, some n => if n < v.number then none else some v
    | b, _ => b
  match first with
  | some v => (fitCourt s (savedWants (savedGroup s v)) (l.prefers i)).map (fun cs => .back (savedGroup s v) cs)
  | none =>
    (fitCourt s (List.replicate l.tsize (freshWant l)) (l.prefers i)).map (fun cs => .fresh (again.getD l.nextTeam) cs)

/-! ## Placing a team (R178 to R180, R213, R214) -/

/-- The lowest save-record index that no workgroup of a context holds (R244, log entry 10). -/
def freeSri (s : State) (hm : Hm) : Nat :=
  let used := (s.wgs.filter (fun e => e.2.hm = hm)).map (fun e => e.2.sri) ++
    s.saved.flatMap (fun v => (v.images.filter (fun g => g.2.wg.hm = hm)).map (fun g => g.2.wg.sri))
  ((List.range 65536).find? (fun i => !used.contains i)).getD 0

/-- A warp at its start (R180): its threads, s0 to s4. -/
def startSlot (l : Launch) (w : Wg) (h i : Nat) : Slot :=
  let args : DWord := BitVec.ofNat 64 (field (l.words.getD 1 0) 13 51 * 64)
  let cbase : DWord := BitVec.ofNat 64 (field (l.words.getD 0 0) 13 51 * 64)
  { Slot.empty with
    wg := some h
    widx := i
    threads := (List.range (min 32 (w.nthreads - 32 * i))).map (fun j =>
      (j, startThread w h (32 * i + j) (hiWord (l.words.getD 2 0)) cbase))
    sregs := [(0, loWord args), (1, hiWord args), (2, BitVec.ofNat 32 w.number), (3, BitVec.ofNat 32 w.rank), (4, l.id)] }

/-- v0 and v1 of a warp at its start (R180). -/
def startRegs (s : State) (w : Wg) (i n : Nat) : State :=
  let live (j : Nat) (x : Nat) : Word := if 32 * i + j < w.nthreads then BitVec.ofNat 32 x else 0
  let s := newRow s w.core n 0 0 (fun j => live j (32 * i + j))
  newRow s w.core n 1 0 (fun j => live j (w.number * w.nthreads + 32 * i + j))

/-- Place one workgroup of a team on a core (R109, R180, R213, R214). -/
def placeWg (s : State) (i : Nat) (l : Launch) (t n k core h : Nat) : State :=
  let w := { freshWg l core i with
    team := t, number := n * l.tsize + k, rank := k, slots := (freeSlots (coreAt s core)).take (warpsOf l.nthreads),
    sri := freeSri s l.hm, barmode := (freshDesc s l.hm).barmode, zeroing := true, floor := s.now + 1 }
  let s := { s with wgs := Tab.set s.wgs h w }
  let s := (withPos w.slots).foldl (fun s p => modSlot s core p.2 (fun _ => startSlot l w h p.1)) s
  let s := takePages s h []
  (withPos w.slots).foldl (fun s p => startRegs s w p.1 p.2) s

/-- A team that has not run, on some cores. -/
def freshTeam (i n court : Nat) (wgs : List Nat) : Team :=
  { launch := i, number := n, court := court, wgs := wgs, stop := none, halted := false, rolling := false,
    snap :=
      { valid := false, gen := 0, bank := true, images := [], log := [], logged := 0, writing := false,
        asker := none, roller := none },
    digest := 0, killed := false }

/-- The mailboxes of a workgroup whose save record is first used are zero, and no call of theirs is recorded (R234). -/
def clearMailboxes (s : State) (h : Nat) : State :=
  let w := wgAt s h
  (List.range w.nthreads).foldl (fun s t =>
    let a := mailboxAt s w t
    let s := (ctxWrite s w.core w.hm a (List.replicate 64 0)).1
    { s with journal := s.journal.filter (fun r => !(r.hm == w.hm && r.va == a)) }) s

/-- Place a team that has not run (R178): the context's descriptor is read (R40), and the placement acquires at system
scope (R76). -/
def placeFresh (s : State) (i : Nat) (l : Launch) (n : Nat) (cores : List Nat) : State :=
  let t := s.stamp + 1
  let hs := (List.range cores.length).map (fun k => 192 + s.stamp + 2 + k)
  let s := acquireRemote (refreshDesc s l.hm) l.hm
  let s := { s with
    stamp := s.stamp + 2 + cores.length
    teams := Tab.set s.teams t (freshTeam i n (cores.headD 0 / 8) hs) }
  let s := ((withPos cores).zip hs).foldl (fun s p => placeWg s i l t n p.1.1 p.1.2 p.2) s
  let s := hs.foldl clearMailboxes s
  modLaunch s i (fun l =>
    if l.again.headD l.nextTeam = n ∧ !l.again.isEmpty then { l with again := l.again.tail }
    else { l with nextTeam := n + 1 })

/-- A launch that is fully placed leaves its queue slot, or its pending-launch entry (R187, R204). -/
def retirePlaced (s : State) (i : Nat) : State :=
  match Tab.get? s.launches i with
  | none => s
  | some l =>
    if l.tcount ≤ l.nextTeam ∧ !l.retired then
      let s := modLaunch s i (fun l => { l with retired := true })
      if l.child then s else tidyQueue s l.queue
    else s

/-- A period of ageing (R211). -/
def agePeriod : Nat := 65536

/-- Place the next team of a head (R211); a restore that fails places none. -/
def placeNext (s : State) (st i : Nat) (l : Launch) (x : Next) : State :=
  let r := match x with
    | .back vs cores =>
      let s := restoreGroup s vs cores
      (s, vs.all (fun v => (Tab.get? s.teams v.team).isSome))
    | .fresh n cores => (retirePlaced (placeFresh s i l n cores) i, true)
  if r.2 then
    modStream { r.1 with placedAt := some (clock s) } st (fun x =>
      { x with age := 0, placed := insertNum (clock s / agePeriod) x.placed })
  else r.1

/-! ## The decision (R211, R212) -/

/-- A head that takes part in a decision. -/
structure Cand where
  st : Nat
  launch : Nat
  rank : Nat
  cls : Nat
  since : Nat
  age : Nat
  deriving DecidableEq, Repr

/-- The order of R211. -/
def Cand.before (a b : Cand) : Bool :=
  if a.rank ≠ b.rank then decide (b.rank < a.rank)
  else if a.cls ≠ b.cls then decide (b.cls < a.cls)
  else if a.since ≠ b.since then decide (a.since < b.since)
  else decide (a.st ≤ b.st)

/-- The eligible heads, best first. -/
def candidatesOf (s : State) : List Cand :=
  ((streamNumbers s).filterMap (fun st =>
    match headOf s st with
    | none => none
    | some (i, l) =>
      if headEligible s l then
        let x := streamAt s st
        some { st := st, launch := i, rank := min 7 (l.class_ + x.age), cls := l.class_, since := x.eligible.getD (clock s),
               age := x.age }
      else none)).mergeSort Cand.before

/-- Whether a head is fit. -/
def headFit (s : State) (i : Nat) : Bool :=
  match Tab.get? s.launches i with
  | some l => (nextOf s i l).isSome
  | none => false

/-- The classes at or below which R212 holds placement back. -/
def heldClass (s : State) (cs : List Cand) : Option Nat :=
  ((cs.filter (fun x => decide (x.age = 15) && !headFit s x.launch)).map Cand.cls).foldl
    (fun b x => match b with | none => some x | some y => some (max x y)) none

/-- Whether the arbiter has placed a team within the last 16 cycles (R211). -/
def placedLately (s : State) : Bool :=
  match s.placedAt with
  | some t => decide (clock s < t + 16)
  | none => false

/-- Whether a restore waits for the Ninals of its cores: for faults, calls, signals and debug causes that stand pending there,
and for a save that they have begun (R230). -/
def restoreWaits (s : State) : Next → Bool
  | .back _ cores => !ninalFree s cores || saveAhead s cores (fun _ _ => true)
  | .fresh _ _ => false

/-- What the arbiter does with the first head that fails its checks or is fit (R207, R211, R212). -/
def decideNext (s : State) (held : Option Nat) : List Cand → State
  | [] => s
  | x :: r =>
    match Tab.get? s.launches x.launch with
    | none => decideNext s held r
    | some l =>
      match rejectHead s x.launch l with
      | some s => s
      | none =>
        match (if (match held with | some c => decide (c < x.cls) | none => true) then nextOf s x.launch l else none) with
        | some n => if placedLately s || restoreWaits s n then s else placeNext s x.st x.launch l n
        | none => decideNext s held r

/-! ## Ageing (R211, R215) -/

/-- Some numbers with those from a number up to another, which is left out. -/
def insertRange (a b : Nat) (l : List Nat) : List Nat := (List.range (b - a)).foldl (fun l i => insertNum (a + i) l) l

/-- Note each stream's head, since when it is eligible, and for each period whether there was none eligible for some of it, and
whether a child's head was fit for some of it (R211, R215): what stood after the step before stood until this one, also over the
periods between. A stream that is new had no head before. -/
def noteStreams (s : State) : State :=
  let p := clock s / agePeriod
  (streamNumbers s).foldl (fun s st =>
    let x := (Tab.get? s.streams st).getD { Stream.empty with noted := s.aged }
    let a := max s.aged x.noted
    let x := { x with
      noted := p
      idle := if x.eligible.isNone then insertRange a (p + 1) x.idle else x.idle
      fit := if x.fits then insertRange a (p + 1) x.fit else x.fit }
    let x := match headOf s st with
      | none => { x with head := none, eligible := none, fits := false }
      | some (i, l) =>
        let since := if x.head = some i then x.eligible else none
        let fits := l.child && headEligible s l && headFit s i
        { x with head := some i
                 eligible := if headEligible s l then some (since.getD (clock s)) else none
                 fits := fits
                 fit := if fits then insertNum p x.fit else x.fit }
    let whole := match x.eligible with | some e => decide (e ≤ agePeriod * p) | none => false
    { s with streams := Tab.set s.streams st (if whole then x else { x with idle := insertNum p x.idle }) }) s

/-- Whether every live thread of a team waits in LWAIT (R215). -/
def allInLwait (s : State) (m : Team) : Bool :=
  let ts := m.wgs.flatMap (fun h => (threadsOf s h).filter (fun t => t.2.2.live))
  !ts.isEmpty && ts.all (fun t => t.2.2.st == .wait .children && (wgAt s t.2.2.home).children != 0)

/-- The resident team of a context that waits in LWAIT, of the lowest court and core by its rank-0 workgroup (R215);
one whose rank-0 workgroup has exited counts as on core 0, and of two on one core the first in the table is taken (log entry 50). -/
def waitingTeam (s : State) (hm : Hm) : Option Nat :=
  let ts := s.teams.filter (fun e =>
    allInLwait s e.2 && ((Tab.get? s.launches e.2.launch).map Launch.hm == some hm))
  (ts.foldl (fun (b : Option (Nat × Nat)) e =>
    let c := (wgAt s (e.2.wgs.headD 0)).core
    match b with
    | none => some (e.1, c)
    | some (t, c') => if c < c' then some (e.1, c) else some (t, c')) none).map Prod.fst

/-- A period has ended for one stream (R211, R215); a placement in a later one has set its age to 0 since. -/
def ageStream (s : State) (st : Nat) : State :=
  let x := streamAt s st
  let throughout := !x.idle.contains s.aged
  let later (l : List Nat) : List Nat := l.filter (fun k => decide (s.aged < k))
  let s := match headOf s st with
    | some (i, l) =>
      if l.child && throughout && decide (x.eligible.any (fun e => e ≤ agePeriod * s.aged)) && !x.fit.contains s.aged &&
          headEligible s l && !headFit s i then
        match waitingTeam s l.hm with
        | some t => requestStop s t .arbiter false
        | none => s
      else s
    | none => s
  modStream s st (fun x =>
    { x with age := if throughout && !x.placed.any (fun p => s.aged ≤ p) then min 15 (x.age + 1) else x.age
             idle := later x.idle, placed := later x.placed, fit := later x.fit })

/-- A period has ended for every stream. -/
def ageAll (s : State) : State :=
  let s := (streamNumbers s).foldl ageStream s
  { s with aged := s.aged + 1 }

/-- The periods that have ended have aged every stream, as a decision finds them. -/
def ageMany : Nat → State → State
  | 0, s => s
  | n + 1, s => ageMany n (ageAll s)
def ageDue (s : State) : State := ageMany (clock s / agePeriod - s.aged) s

/-- PLACE_TEAM (R211): one placement, or a rejection. -/
def execPlaceTeam (s : State) : Host.Outcome State Fault Refusal :=
  .next (
    if s.host.throttle == 4 || s.host.bootStopped then s
    else
    let s := ageDue s
    decideNext s (heldClass s (candidatesOf s)) (candidatesOf s))

/-- STREAM_AGEING (R211): the period that runs has ended. -/
def execStreamAgeing (s : State) : Host.Outcome State Fault Refusal :=
  .next (
    if clock s < agePeriod * (s.aged + 1) then s else ageAll s)

/-! ## Zeroing (R109, R110, R213) -/

/-- PAGE_ZEROING_DONE (R213): the pages of a placed team are zeroed, and its first instructions may issue. -/
def execPageZeroingDone (t : Nat) (s : State) : Host.Outcome State Fault Refusal :=
  .next ((wgsOf s [t]).foldl (fun s h =>
    let w := wgAt s h
    let s := modWg s h (fun w => { w with zeroing := false })
    modCore s w.core (fun k =>
      { k with pageMap := k.pageMap.map (fun e =>
          if field e.2 13 5 = firstSlot w ∧ field e.2 11 2 ≠ 0 then (e.1, e.2 &&& 0xFFFFFFEF) else e) })) s)

end Sys2Proof.Machine
end

