-- ==== Sys2Proof/Machine/Contain.lean ====
section
/-!
DEFINITION. Containment (R255 to R274): errors that the silicon discovers, assay mismatches, fenced cores, unit resets,
snapshots and rollback.
-/

namespace Sys2Proof.Machine

/-! ## Snapshots (R265 to R271) -/

/-- The address of a snapshot bank of a workgroup (R268). -/
def bankAddr (s : State) (w : Wg) (bank : Bool) : DWord :=
  BitVec.ofNat 64 ((descOf s w.hm).savebase.toNat + 0x2000000000 + w.sri * 0x400000 + (if bank then 0x200000 else 0))

/-- A team's bank that the next snapshot fills: the older one (R268). -/
def nextBank (s : State) (h : Nat) : Bool :=
  !(((Tab.get? s.teams (wgAt s h).team).map (fun m => m.snap.bank)).getD true)

/-- The bit of a bank in a unit's pair of dirty bits; the model holds the bits of clean units (R268). -/
def bankBit (bank : Bool) : BitVec 2 := if bank then 2 else 1

/-- Whether a unit is clean for a bank: the bank holds what it holds. -/
def unitClean (k : Core) (bank : Bool) (u : MemUnit) : Bool :=
  (Tab.getD (if u.pool then k.cleanPool else k.cleanBuf) u.blk 0) &&& bankBit bank != 0

/-- A unit is written to a bank: its bit is cleared. -/
def cleanUnit (k : Core) (bank : Bool) (u : MemUnit) : Core :=
  let mark (t : Tab (BitVec 2)) : Tab (BitVec 2) := Tab.set t u.blk (Tab.getD t u.blk 0 ||| bankBit bank)
  if u.pool then { k with cleanPool := mark k.cleanPool } else { k with cleanBuf := mark k.cleanBuf }

/-- The latches of the paths that run stand in the image with their slots (R267). -/
def latchesIn (s : State) (h : Nat) : State :=
  (runsOf s h).foldl (fun s q =>
    let c := (wgAt s h).core
    let k := quarterAt s c q
    match k.run with
    | some r => storeLatches s c r k.latches
    | none => s) s

/-- Write a workgroup's state block and its units that are dirty for the bank being filled (R267, R268). -/
def writeBank (s : State) (h : Nat) : State × Bool :=
  let w := wgAt s h
  let bank := nextBank s h
  let base := bankAddr s w bank
  let us := (pageUnits s h ++ tileUnits s h w (ownTiles s h false) ++ granUnits (resvsOf s h)).filter (fun u =>
    !unitClean (coreAt s w.core) bank u)
  match writeState s w.core (imageOf (latchesIn s h) h false base) with
  | (s, false) => (s, false)
  | (s, true) =>
    us.foldl (fun r u =>
      if r.2 then
        let q := ctxWrite r.1 w.core w.hm (base + BitVec.ofNat 64 u.off) (u.bytes r.1 w.core)
        if q.2 then (modCore q.1 w.core (fun k => cleanUnit k bank u), true) else q
      else r) (s, true)

/-- Write a workgroup's commit word (R268). -/
def writeCommit (s : State) (h gen : Nat) : State × Bool :=
  let w := wgAt s h
  ctxWrite s w.core w.hm (bankAddr s w (nextBank s h) + 0xFF8) (bytesOf 8 (gen * 2 ^ 32 + 1))

/-- Whether an instruction of an opcode is an escape (R266): a release store or FENCE, an atomic, a RED or CMPST, NPOST, LNCH
or SVC. -/
def isEscape (op : Nat) (i : Instr) : Bool :=
  match i with
  | .st _ _ _ _ _ o _ | .sts _ _ _ _ _ o => ordReleases o
  | .fence _ o _ => releases o
  | _ => decide (0x2A0 ≤ op ∧ op ≤ 0x2CE) || [0x293, 0x360, 0x3A1, 0x3B0].contains op

/-- Whether a path has reached an escape: it stands Ready with an escape as its next instruction (R266). -/
def atEscape (s : State) (c n : Nat) (t : Thread) : Bool :=
  t.st == .ready &&
    (let bs := (fetchInstr s c (slotHm s c n) t.cbase t.pc).2.bytes
     match decode bs with
     | .ok (i, _) => isEscape (fetchedOp s bs) i
     | .error _ => false)

/-- A thread whose escape, SNAP or move waits for the snapshot may go on (R267); so may one of a path that has reached an
escape meanwhile (R266). -/
def escapeReady (s : State) (c n : Nat) (t : Thread) : Thread :=
  match t.st with
  | .wait .snapshot | .hudl _ _ _ _ | .hudlHome _ => { t with escOk := true }
  | _ => if atEscape s c n t then { t with escOk := true } else t

/-- The engine commands that wait with their writes done for the snapshot before their release (R266). -/
def releaseReady (s : State) (h : Nat) : State :=
  modCore s (wgAt s h).core (fun k =>
    { k with
      copyQ := k.copyQ.map (fun e => (e.1, if e.2.wg = h ∧ e.2.p = e.2.sectors then { e.2 with snap := true } else e.2))
      mtxQ := k.mtxQ.map (fun e => (e.1, if e.2.wg = h ∧ e.2.p = mtxSectors e.2 then { e.2 with snap := true } else e.2)) })

/-- Let what waits on a snapshot go on. -/
def openEscapes (s : State) (hs : List Nat) : State :=
  hs.foldl (fun s h =>
    let c := (wgAt s h).core
    releaseReady ((threadsOf s h).foldl (fun s x => modThread s c x.1 x.2.1 (escapeReady s c x.1)) s) h) s

/-- Count a snapshot or a rollback on the core of each workgroup of a group (R290), for the thread that caused it, where one
did (R291). -/
def countGroup (s : State) (hs : List Nat) (e : Nat) (who : Option Asker) : State :=
  hs.foldl (fun s h =>
    let c := (wgAt s h).core
    let s := bumpEvent s c e 1
    match who with
    | some a => creditEvent s c a.hm a.top e 1
    | none => s) s

/-- The thread that a snapshot being written, or a rollback that has begun, of a group goes back to. -/
def askerOf (s : State) (g : List Nat) : Option Asker :=
  g.findSome? (fun t => (Tab.get? s.teams t).bind (fun m => if m.snap.writing then m.snap.asker else none))
def rollerOf (s : State) (g : List Nat) : Option Asker :=
  g.findSome? (fun t => (Tab.get? s.teams t).bind (fun m => m.snap.roller))

/-- A workgroup's banks are marked invalid: the commit word of each loses its valid bit (R268, R269). -/
def voidBanks (s : State) (h : Nat) : State :=
  let w := wgAt s h
  match Tab.get? s.teams w.team with
  | none => s
  | some m =>
    let void (s : State) (bank : Bool) (gen : Nat) : State :=
      if gen = 0 then s else (ctxWrite s w.core w.hm (bankAddr s w bank + 0xFF8) (bytesOf 8 (gen * 2 ^ 32))).1
    void (void s m.snap.bank m.snap.gen) (!m.snap.bank) (m.snap.gen - 1)

/-- A snapshot cannot be written (R269): it is abandoned, no bank of the group stays valid, and its escapes proceed. -/
def abandonSnapshot (s : State) (g hs : List Nat) : State :=
  let s := hs.foldl voidBanks s
  let s := g.foldl (fun s t =>
    let l := teamLaunch s t
    let m := Tab.get? s.teams t
    let s := modTeam s t (fun m => { m with snap := { m.snap with valid := false, images := [], log := [], logged := 0, writing := false } })
    report s 5 0 0 ((m.map (fun m => (wgAt s (m.wgs.headD 0)).core)).getD 0) ((l.map Launch.hm).getD devHm) 0
      ((l.map Launch.id).getD 0) ((m.map Team.number).getD 0) ((m.map (fun m => m.snap.gen)).getD 0) 0xFFFFFFFF) s
  openEscapes s hs

/-- The committed snapshot of a team (R267, R268). -/
def commitTeam (s0 s : State) (t : Nat) : State :=
  modTeam s t (fun m =>
    { m with snap :=
      { valid := true, gen := m.snap.gen + 1, bank := !m.snap.bank, log := [], logged := 0, writing := false, asker := none,
        roller := m.snap.roller,
        images := (wgsOf s [t]).map (fun h => (h, imageOf s0 h false (bankAddr s (wgAt s h) (!m.snap.bank)))) } })

/-- The kept reservations of a workgroup go at a commit (R270). -/
def unkeep (s : State) (h : Nat) : State :=
  resvSweep (modCore s (wgAt s h).core (fun k =>
    { k with resvs := k.resvs.map (fun r => if r.wg = h then { r with keep := false } else r) })) (wgAt s h).core

/-- SNAPSHOT_COMMIT (R266 to R269): the snapshot that a group waits for is written and committed as one, and what waited
on it goes on. -/
def execSnapshotCommit (t : Nat) (s : State) : Host.Outcome State Fault Refusal :=
  .next (
    let g := rollbackGroup s t
    let hs := wgsOf s g
    let writing := g.any (fun u => ((Tab.get? s.teams u).map (fun m => m.snap.writing)).getD false)
    let rolling := g.any (fun u => ((Tab.get? s.teams u).map Team.rolling).getD false)
    let moving := hs.any (fun h => (wgAt s h).slots.any (fun n => moveUnderWay s (wgAt s h).core n &&
      (threadsIn s (wgAt s h).core (huddleSlots s (wgAt s h).core n)).all (fun t => t.2.2.escOk)))
    if !writing || rolling || moving then s
    else
      let r := hs.foldl (fun r h => if r.2 then writeBank r.1 h else r) (s, true)
      let r := hs.foldl (fun r h =>
        if r.2 then
          writeCommit r.1 h ((((Tab.get? r.1.teams (wgAt r.1 h).team).map (fun m => m.snap.gen)).getD 0) + 1)
        else r) r
      if !r.2 then abandonSnapshot r.1 g hs
      else
        let s := openEscapes (hs.foldl unkeep r.1) hs
        let s0 := hs.foldl latchesIn s
        countGroup (g.foldl (fun s u => commitTeam s0 s u) s) hs 0x10 (askerOf s g))

/-! ## Rollback (R272 to R274) -/

/-- The teams that roll back with one: its group now, and those that its committed snapshot holds bound to it (R265). -/
def rollGroup (s : State) (t : Nat) : List Nat :=
  let mine := ((Tab.get? s.teams t).map (fun m => m.snap.images)).getD []
  let was := (s.teams.filter (fun e => e.2.snap.images.any (fun a => mine.any (fun b => boundWith a.2 b.2)))).map Prod.fst
  (rollbackGroup s t ++ was).dedup

/-- Begin a rollback (R272 steps 1 and 2): every path of the group stops, and a snapshot being written is abandoned. The thread
that caused the first start is the one that causes the rollback (R291). -/
def startRollback (s : State) (t : Nat) (who : Option Asker) : State :=
  let g := rollGroup s t
  let hs := wgsOf s g
  let s := hs.foldl stopRuns s
  let s := hs.foldl (fun s h => modThreadsOf s h (fun t => if t.live then { t with held := true } else t)) s
  g.foldl (fun s u => modTeam s u (fun m =>
    { m with rolling := true, snap := { m.snap with writing := false, roller := if m.rolling then m.snap.roller else who } })) s

/-- The pending signals of a workgroup's threads, which a rollback leaves (R273). -/
def pendings (s : State) (h : Nat) : Tab Thread := (threadsOf s h).foldl (fun t x => Tab.set t x.2.2.tidx x.2.2) []

/-- Give threads back the signals that were pending. -/
def backPending (old : Tab Thread) (t : Thread) : Thread :=
  match Tab.get? old t.tidx with
  | some x => { t with pend52 := x.pend52, pend71 := x.pend71, pendSince := x.pendSince }
  | none => t

/-- A committed image that is to be placed again: its workgroup's EDIT and pending signals are those of now, and each lane owes a
sync record with RB = 1 (R273, R279, R287). -/
def rolledImage (old : Tab Thread) (edit : Bool) (g : WgImage) : WgImage :=
  { g with
    wg := { g.wg with edit := edit }
    slots := g.slots.map (fun w => (w.1, { mapThreads w.2 (backPending old) with rbSync := 0xFFFFFFFF })) }

/-- Take a workgroup's abandoned state off its core, but for its slots and pages (R272). -/
def clearWork (s : State) (h : Nat) : State :=
  let w := wgAt s h
  let s := dropParks (dropCommands s h) h
  let s := modCore s w.core (fun k =>
    { dropGranules k (k.resvs.filter (fun r => r.wg = h)) with resvs := k.resvs.filter (fun r => r.wg != h) })
  w.slots.foldl (fun s n => modSlot s w.core n (fun _ => { Slot.empty with wg := some h })) s

/-- Fill a workgroup where it stands from its committed bank (R272 steps 4 and 5); RSTEP is the image's (log entry 50). -/
def rollWg (s : State) (x : Seat) (m : Tab Nat) (p : Parts) : State :=
  let w := wgAt s x.wg
  let old := pendings s x.wg
  let runs := w.slots.map (fun n => (n, (slotAt s w.core n).lastRun))
  let s := clearWork s x.wg
  let s := { s with wgs := Tab.set s.wgs x.wg { seatedWg x m with children := w.children, edit := w.edit } }
  let s := modThreadsOf (fillSeat s x m p true) x.wg (backPending old)
  runs.foldl (fun s r => modSlot s w.core r.1 (fun k => { k with lastRun := r.2 })) s

/-- The seats of some teams' committed images, where their workgroups stand now. -/
def rollSeats (s : State) (g : List Nat) : List Seat :=
  g.flatMap (fun t => (((Tab.get? s.teams t).map (fun m => m.snap.images)).getD []).map (fun e =>
    { wg := e.1, img := e.2, core := (wgAt s e.1).core, slots := (wgAt s e.1).slots }))

/-- The units of an image that its core still holds as the committed bank does: those whose dirty bit is clear, in pages and
reservations that the workgroup still has (R272 step 4). -/
def keptUnits (s : State) (x : Seat) : Tab (List Byte) :=
  let bank := ((Tab.get? s.teams (wgAt s x.wg).team).map (fun m => m.snap.bank)).getD false
  let rs := x.img.resvs.filter (fun r => (resvsOf s x.wg).any (fun y => decide (y.lix = r.lix ∧ y.gen = r.gen ∧ y.base = r.base)))
  ((pageUnits s x.wg ++ tileUnits s x.wg x.img.wg x.img.tiles ++ granUnits rs).filter (fun u =>
    unitClean (coreAt s x.core) bank u)).map (fun u => (u.off, u.bytes s x.core))

/-- Read the banks of some seats; the seat that cannot be read. -/
def readBanks (s : State) : List Seat → State × Except Seat (List (Seat × Parts))
  | [] => (s, .ok [])
  | x :: r =>
    match readParts s x.core x.img (keptUnits s x) with
    | (s, none) => (s, .error x)
    | (s, some (g, p)) =>
      match readBanks s r with
      | (s, .error y) => (s, .error y)
      | (s, .ok l) => (s, .ok (({ x with img := g }, p) :: l))

/-- The log is replayed from its start (R272). -/
def rewindLog (m : Team) : Team :=
  { m with rolling := false, snap := { m.snap with log := m.snap.log.map (fun r => { r with replayed := 0 }) } }

/-- A group whose cores are fenced, or of which a workgroup has left its core, is placed again from its banks (R272): a save
that was asked for is done with it, and a halted team, or one that was to be, comes back halted (R240, R277). -/
def replaceGroup (s : State) (g : List Nat) : State :=
  let vs := g.filterMap (fun t => (Tab.get? s.teams t).map (fun m =>
    let m := rewindLog m
    let images := m.snap.images.map (fun e =>
      (e.1, rolledImage (pendings s e.1) (((Tab.get? s.wgs e.1).map Wg.edit).getD e.2.wg.edit) e.2))
    let save := m.stop.filter (fun p => p.kind != .debug)
    ({ team := t, wgs := m.wgs, launch := m.launch, number := m.number, images := images,
       why := (save.map Stop.kind).getD .fence, asks := 0,
       eligible := (save.map (fun p => p.kind == .fence || p.kind == .throttle)).getD true,
       halted := save.isNone && (m.halted || m.stop.isSome), snap := m.snap, digest := m.digest } : Saved)))
  let s := { s with saved := s.saved ++ vs }
  let s := (wgsOf s g).foldl releaseWg s
  let s := g.foldl (fun s t =>
    match Tab.get? s.teams t with
    | some m =>
      (match m.stop with
       | some p => if p.kind = .debug then haltTeam s t p else savedAnswer s m p
       | none => s)
    | none => s) s
  { s with teams := g.foldl Tab.del s.teams }

/-- Restore a group from its committed state (R272). -/
def rollBack (s : State) (g : List Nat) : State :=
  let xs := rollSeats s g
  let gone := xs.any (fun x => (Tab.get? s.wgs x.wg).isNone || (coreAt s x.core).fenced)
  let s := countGroup s (wgsOf s g) 0x11 (rollerOf s g)
  if gone then replaceGroup s g
  else
    match readBanks s xs with
    | (s1, .error x) => if metPoison s s1 then endContext s1 x.img.wg.hm else killTeam s1 (wgAt s1 x.wg).team 0x07 false Blame.none
    | (s, .ok ps) =>
      let m (x : Seat) : Tab Nat := reslots (xs.filter (fun y => y.core = x.core))
      let s := ps.foldl (fun s p => rollWg s p.1 (m p.1) p.2) s
      let s := g.foldl (fun s t => modTeam s t rewindLog) s
      (wgsOf s g).foldl (fun s h =>
        if ((Tab.get? s.teams (wgAt s h).team).map Team.halted).getD false then
          modThreadsOf s h (fun t => if t.live then { t with held := true } else t)
        else
          match stopOf s h with
          | some _ => modThreadsOf s h holdWaiting
          | none => s) s

/-- ROLLBACK (R272 step 3): once every store of the group is acknowledged it is restored. -/
def execRollback (t : Nat) (s : State) : Host.Outcome State Fault Refusal :=
  .next (
    let g := rollGroup s t
    if ((Tab.get? s.teams t).map Team.rolling).getD false && drained s (wgsOf s g) then rollBack s g else s)

/-! ## Outcomes for a team (R258, R263) -/

/-- Whether a rollback can serve a team (R258, R263). -/
def canRoll (s : State) (t : Nat) : Bool :=
  (((teamLaunch s t).map (fun l => l.flag 1)).getD false) && (((Tab.get? s.teams t).map (fun m => m.snap.valid)).getD false)

/-- A report about a team (R261). -/
def teamReport (s0 s : State) (t kind carrier out loc : Nat) (pc : Word) : State :=
  let l := teamLaunch s0 t
  let m := Tab.get? s0.teams t
  report s kind carrier out loc ((l.map Launch.hm).getD devHm) 0 ((l.map Launch.id).getD 0) ((m.map Team.number).getD 0)
    (if out = 1 then (m.map (fun m => m.snap.gen)).getD 0 else 0) pc

/-- An uncorrectable error in a team's state (R258); one met while its huddle set moves ends the set's context (R195, R274). -/
def teamError (s : State) (t carrier loc : Nat) : State :=
  let moving := (wgsOf s [t]).any (fun h => (wgAt s h).slots.any (fun n => moveUnderWay s (wgAt s h).core n))
  if moving then teamReport s (endContext s (((teamLaunch s t).map Launch.hm).getD devHm)) t 2 carrier 4 loc 0xFFFFFFFF
  else if canRoll s t then teamReport s (startRollback s t none) t 2 carrier 1 loc 0xFFFFFFFF
  else if ((teamLaunch s t).map (fun l => l.flag 2)).getD false then
    teamReport s (killTeam s t 0x05 true Blame.none) t 2 carrier 2 loc 0xFFFFFFFF
  else teamReport s (endContext s (((teamLaunch s t).map Launch.hm).getD devHm)) t 2 carrier 4 loc 0xFFFFFFFF

/-- An assay mismatch (R263): a rollback, or a kill with or without relaunch. -/
def assayOutcome (s : State) (t unit loc : Nat) (pc : Word) (who : Option Asker) : State :=
  let b : Blame := { cause := 0x50, detail := BitVec.ofNat 8 unit, pc := pc }
  if canRoll s t then teamReport s (startRollback s t who) t 3 unit 1 loc pc
  else if ((teamLaunch s t).map (fun l => l.flag 2)).getD false then
    teamReport s (killTeam s t 0x06 true b) t 3 unit 2 loc pc
  else
    let n := (teamLaunch s t).bind Launch.lcnt
    let s1 := teamReport s (killTeam s t 0x06 false b) t 3 unit 3 loc pc
    match n with
    | some n => cancelCounter s1 n
    | none => s1

/-- Record a mismatch on a core (R264, R290). -/
def noteMismatch (s : State) (c : Nat) : State :=
  modCore (bumpEvent s c 0x13 1) c (fun k =>
    { k with mismatches := k.mismatches.filter (fun x => decide (clock s < x + 2 ^ 30)) ++ [clock s] })

/-- A mismatch in an instruction that a path has fetched: every active lane traps with cause 0x50 and none writes (R263),
and every team with an active lane has its outcome; in the umpire warp the trap restarts Ninal (R231). -/
def mismatchInstr (s : State) (c unit : Nat) (h : Head) (bs : List Byte) : State :=
  let act := activeLanes s h.guard
  let pc := s.iss.pc
  let teams := (act.map (fun l => (wgAt s (homeOf s c s.iss.slot l)).team)).dedup
  let who := (act.head?).map (fun l =>
    ({ hm := slotHm s c s.iss.slot, top := ((threadAt s c s.iss.slot l).map Thread.top).getD 0 } : Asker))
  if act.isEmpty then s
  else
    let umpire := s.iss.slot == 16
    let s := noteMismatch s c
    let s := performOn s { head := h, op := fetchedOp s bs } [] (fun _ _ => raise 0x50 (BitVec.ofNat 8 unit))
    if umpire then report s 3 unit 5 c devHm 0 0 0 0 pc
    else teams.foldl (fun s t => assayOutcome s t unit c pc who) s

/-- A mismatch in the instruction that a quarter issues (R263). -/
def mismatchRun (s : State) (c q unit : Nat) : State :=
  match (quarterAt s c q).run with
  | none => s
  | some r =>
    match runLanesNow s c r with
    | [] => s
    | l :: ls =>
      let t := (threadAt s c r.slot l).getD (startThread Wg.empty 0 0 0 0)
      let s1 := { s with iss := { core := c, quarter := q, slot := r.slot, lanes := maskOf (l :: ls), pc := t.pc } }
      let f := fetchInstr s1 c (slotHm s1 c r.slot) t.cbase t.pc
      if f.2.trap.isSome || f.2.stall then s
      else
        match decode f.2.bytes with
        | .ok (i, _) =>
          (match i.form with
           | some (h, _) => mismatchInstr f.1 c unit h f.2.bytes
           | none => s)
        | .error _ => s

/-- A mismatch in an engine command: its accumulator slot and its destination are not written (R263, R274). -/
def mismatchCommand (s : State) (c : Nat) (wg : Option (Nat × Origin)) (unit : Nat) : State :=
  match wg with
  | none => s
  | some (h, o) =>
    let s := noteMismatch s c
    if h = c then report (restartNinal s c) 3 unit 5 c devHm 0 0 0 0 o.pc
    else assayOutcome s (wgAt s h).team unit c o.pc (some { hm := (wgAt s h).hm, top := o.top })

/-- The teams that have a thread in a slot's huddle set (R195). -/
def movingTeams (s : State) (c n : Nat) : List Nat :=
  ((threadsIn s c (huddleSlots s c n)).map (fun t => (wgAt s t.2.2.home).team)).dedup

/-- A mismatch during the huddle move of a slot's set: every team of it rolls back to the snapshot taken before the move,
or has its outcome (R195, R263, R274). -/
def mismatchMove (s : State) (c n unit : Nat) : State :=
  if moveUnderWay s c n then (movingTeams s c n).foldl (fun s t => assayOutcome s t unit c 0xFFFFFFFF none) (noteMismatch s c)
  else s

/-- A mismatch on a core: `b` below 4 names the quarter that issues, then the entries of the copy queue, then those of
the matrix queue, then the slots whose huddle set moves (log entry 23). -/
def mismatch (s : State) (c b unit : Nat) : State :=
  if b < 4 then mismatchRun s c b unit
  else if b < 68 then mismatchCommand s c ((copyAt s c (b - 4)).map (fun e => (e.wg, e.orig))) unit
  else if b < 100 then mismatchCommand s c ((mtxAt s c (b - 68)).map (fun e => (e.wg, e.orig))) unit
  else mismatchMove s c (b - 100) unit

/-! ## Discovery (R255, R260) -/

/-- Poison a sector (R256). -/
def poisonSector (s : State) (sec : Nat) : State := { s with poison := Tab.set s.poison sec true }

/-- Whether a sector of a held line is dirty. -/
def sectorDirty (l : Line) (sec : Nat) : Bool := l.dirty.toNat / 2 ^ (16 * (sec % 4)) % 2 ^ 16 != 0

/-- The line that holds a sector. -/
def lineOfSector (s : State) (sec : Nat) : Option Line := Tab.get? s.lines (sec / 4)

/-- A bad sector of local HBM is found there: it is poisoned; where the die holds the sector, its copy stays good and the
poison shows once that copy is gone (R255). A sector of host or remote memory that its home finds bad is poisoned in the same
way, and arrives so at the device (R256, R434, R444); the device reports nothing. -/
def badHbm (s : State) (sec : Nat) : State :=
  if isRemote (16 * sec) then
    (if l2Sector s (16 * sec) then { s with hbmBad := Tab.set s.hbmBad sec true } else poisonSector s sec)
  else if localSize ≤ 16 * sec then s
  else
    let s := if l2Sector s (16 * sec) then { s with hbmBad := Tab.set s.hbmBad sec true } else poisonSector s sec
    report s 2 3 0 (homeStack (16 * sec)) (((lineOfSector s sec).map Line.hm).getD devHm) (16 * sec) 0 0 0 0xFFFFFFFF

/-- A sector that left the L2 shows what was bad beneath it in HBM. -/
def surfaceSector (s : State) (code sec : Nat) : State :=
  if code = 2 ∧ (Tab.get? s.hbmBad sec).isSome then poisonSector { s with hbmBad := Tab.del s.hbmBad sec } sec else s

/-- The L1 line of a core that holds a sector, and the dropping of that sector from it. -/
def l1OfSector (s : State) (c sec : Nat) : Option L1Line :=
  (coreAt s c).l1.find? (fun x => decide (x.line = sec / 4) && bitAt x.valid (sec % 4))
def l1DropSector (s : State) (c sec : Nat) : State :=
  modCore s c (fun k => { k with l1 := k.l1.map (fun x =>
    if x.line = sec / 4 then { x with valid := x.valid &&& ~~~BitVec.ofNat 4 (2 ^ (sec % 4)) } else x) })

/-- A clean sector is dropped and fetched again: from an instruction cache, an L1 or the L2 (R255). -/
def cleanSector (s : State) (sec b : Nat) : State :=
  let code := if b % 256 = 0x0E then 0x0E else if b % 256 = 1 then 1 else 2
  let c := b / 256 % 192
  let hm := ((lineOfSector s sec).map Line.hm).getD devHm
  let loc := if code = 2 then homeSlice (16 * sec) else c
  if code = 0x0E then
    let s := modCore s c (fun k => { k with icache := k.icache.filter (fun x => x.line != sec / 4) })
    let s := { s with courtCode := Tab.adjust s.courtCode (c / 8) (fun l => l.filter (fun x => x.line != sec / 4)) }
    report s 2 code 0 loc hm (16 * sec) 0 0 0 0xFFFFFFFF
  else
    match lineOfSector s sec with
    | some l =>
      if code = 1 then
        (match l1OfSector s c sec with
         | some x =>
           if bitAt x.dirty (sec % 4) then s
           else report (l1DropSector s c sec) 2 1 0 c x.hm (16 * sec) 0 0 0 0xFFFFFFFF
         | none => s)
      else if sectorDirty l sec then s
      else
        let s := l.holders.foldl (fun s c => l1DropSector s c sec) s
        let s := { s with lines := Tab.set s.lines (sec / 4) { l with valid := l.valid &&& ~~~BitVec.ofNat 4 (2 ^ (sec % 4)) } }
        report (surfaceSector s code sec) 2 code 0 loc hm (16 * sec) 0 0 0 0xFFFFFFFF
    | none => s

/-- A dirty sector of an L1 or of the L2 is poisoned (R255). -/
def dirtySector (s : State) (sec b : Nat) : State :=
  if b % 256 = 1 then
    let c := b / 256 % 192
    match l1OfSector s c sec with
    | some x => if bitAt x.dirty (sec % 4) then report (poisonSector s sec) 2 1 0 c x.hm (16 * sec) 0 0 0 0xFFFFFFFF else s
    | none => s
  else
    match lineOfSector s sec with
    | some l =>
      if sectorDirty l sec then report (poisonSector s sec) 2 2 0 (homeSlice (16 * sec)) l.hm (16 * sec) 0 0 0 0xFFFFFFFF else s
    | none => s

/-- An entry of a TLB or of the walk cache is dropped (R255): `a` names a core's TLB, then a court's, then the network
engine's, then the walk cache. -/
def dropTlb (s : State) (a b : Nat) : State :=
  let say (s : State) (hm : Option Hm) : State :=
    match hm with
    | some hm => report s 2 7 0 (a % 256) hm 0 0 0 0 0xFFFFFFFF
    | none => s
  if a < 192 then
    let t := (coreAt s a).tlb
    say (modCore s a (fun k => { k with tlb := t.eraseIdx b })) ((t[b]?).map TlbEntry.hm)
  else if a < 216 then
    let t := Tab.getD s.courtTlb (a - 192) []
    say { s with courtTlb := Tab.set s.courtTlb (a - 192) (t.eraseIdx b) } ((t[b]?).map TlbEntry.hm)
  else if a = 216 then say { s with netTlb := s.netTlb.eraseIdx b } ((s.netTlb[b]?).map TlbEntry.hm)
  else say { s with walkCache := s.walkCache.eraseIdx b } ((s.walkCache[b]?).map WalkPtr.hm)

/-- A directory entry: its line is poisoned, and the line's context ended (R255). Where the line goes with the context, the
poison that was on the die's copies alone goes with it. -/
def badDirectory (s : State) (ln : Nat) : State :=
  match Tab.get? s.lines ln with
  | none => s
  | some l =>
    let fine := ([0, 1, 2, 3].map (4 * ln + ·)).filter (fun x => !(Tab.get? s.poison x).isSome && !(Tab.get? s.hbmBad x).isSome)
    let s := [0, 1, 2, 3].foldl (fun s i => poisonSector s (4 * ln + i)) s
    let s := endContext s l.hm
    let s := if (Tab.get? s.lines ln).isSome then s else { s with poison := fine.foldl Tab.del s.poison }
    report s 2 6 4 (homeStack (64 * ln)) l.hm (64 * ln) 0 0 0 0xFFFFFFFF

/-- Ninal restarts for an error of its own state (R231, R255). -/
def umpireError (s : State) (c : Nat) : State := report (restartNinal s c) 2 0x0F 5 c devHm 0 0 0 0 0xFFFFFFFF

/-- A saved team takes the state of its committed snapshot (R258, R272): what it left on its core is scrubbed, and its
signals stay pending (R273). -/
def rollSaved (s : State) (v : Saved) : State :=
  let old (h : Nat) : Tab Thread :=
    ((Tab.get? v.images h).map (fun g => g.slots.flatMap (fun e => e.2.threads.map (fun t => (t.2.tidx, t.2))))).getD []
  let edit (h : Nat) : Bool := ((Tab.get? v.images h).map (fun g => g.wg.edit)).getD false
  let back (e : Nat × WgImage) : Nat × WgImage := (e.1, rolledImage (old e.1) (edit e.1) e.2)
  let s := scrubSaved (fun s u => killSaved s u 0x07) s v
  { s with saved := s.saved.map (fun x =>
      if x.team = v.team then
        { x with images := v.snap.images.map back, wgs := v.wgs
                 snap := { v.snap with log := v.snap.log.map (fun r => { r with replayed := 0 }) } }
      else x) }

/-- The saved team that an error in a retained page strikes, by the rows of R258: it is rolled back with those bound to it;
killed and placed again where its launch is `.restartable`; else its context is ended. -/
def savedError (s : State) (v : Saved) (c : Nat) : State :=
  match Tab.get? s.launches v.launch with
  | none => s
  | some l =>
    let roll := l.flag 1 && v.snap.valid
    let out := if roll then 1 else if l.flag 2 then 2 else 4
    let s := if roll then (savedGroup s v).foldl rollSaved s
      else if l.flag 2 then
        killSaved (modLaunch s v.launch (fun l => { l with again := insertNum v.number l.again })) v 0x05
      else endContext s l.hm
    report s 2 8 out c l.hm 0 l.id v.number (if roll then v.snap.gen else 0) 0xFFFFFFFF

/-- A pool page (R255, R258): an error in one that no team holds is reported alone (R261). -/
def badPage (s : State) (c p : Nat) : State :=
  let x := Tab.getD (coreAt s c).pageMap p 0
  let unowned := report s 2 8 0 c devHm 0 0 0 0 0xFFFFFFFF
  if 60 ≤ p then umpireError s c
  else if field x 11 2 = 0 then unowned
  else if field x 13 5 = 31 then
    match s.saved.find? (fun v => v.images.any (fun g =>
        (retainedBy s g.2).contains (c, p) || g.2.wg.resident.any (fun e => e.2 / 4 = 64 * c + p))) with
    | some v => savedError s v c
    | none => unowned
  else
    match (slotAt s c (field x 13 5)).wg with
    | some h => teamError s (wgAt s h).team 8 c
    | none => unowned

/-- An entry that one context owns: the context is ended (R255). -/
def ownedEntry (s : State) (hm : Option Hm) (carrier loc : Nat) : State :=
  match hm with
  | some hm => report (endContext s hm) 2 carrier 4 loc hm 0 0 0 0 0xFFFFFFFF
  | none => s

/-- A key-table entry: every context that names it is ended, and it is cleared (R255). -/
def badKey (s : State) (i : Nat) : State :=
  let hit := (List.range 8192).filter (fun n =>
    let d := descOf s (BitVec.ofNat 14 n)
    d.v && (d.kidx.toNat == i || (d.skv && d.skidx.toNat == i)))
  let s := hit.foldl (fun s n => endContext s (BitVec.ofNat 14 n)) s
  report { s with keys := Tab.del s.keys i } 2 0x0D 4 0xFF devHm 0 0 0 0 0xFFFFFFFF

/-- A record of a launch queue's store: it is retired unplaced, and no counter advances (R255). -/
def badRecord (s : State) (i : Nat) : State :=
  match Tab.get? s.launches i with
  | none => s
  | some l =>
    if l.child ∨ l.retired then s
    else
      let s := tidyQueue (modLaunch s i (fun l => { l with failed := true, retired := true, again := [] })) l.queue
      report (completeLaunch s i) 2 0x12 0 0xFF devHm 0 l.id 0 0 0xFFFFFFFF

/-- A counter-table entry: its context is ended, and it reads CANC = 1 (R255). -/
def badCounter (s : State) (n : Nat) : State :=
  match Tab.get? s.counters n with
  | none => s
  | some k =>
    let s := if k.v then endContext s k.hm else s
    report (setCanc s n) 2 0x12 (if k.v then 4 else 0) 0xFF devHm 0 0 0 0 0xFFFFFFFF

/-- The fabric routing tables, or clock and power control: the unit is reset (R260). -/
def resetUnit (s : State) (clock : Bool) : State :=
  let i := if clock then 1 else 0
  let s := { s with host := { s.host with
    unitDown := (List.range 2).map (fun j => j == i || s.host.unitDown.getD j false) } }
  report s 4 (if clock then 0x11 else 0x10) 6 0xFF devHm 0 0 0 0 0xFFFFFFFF

/-- ERROR_DISCOVERY (R255, R258, R260, R263): what `a` and `b` name depends on the carrier (log entry 23). -/
def execErrorDiscovery (k : Carrier) (a b : Nat) (s : State) : Host.Outcome State Fault Refusal :=
  .next (match k with
    | .cleanSector => cleanSector s a b
    | .dirtyLine => dirtySector s a b
    | .hbmSector => badHbm s a
    | .tlb => dropTlb s a b
    | .directory => badDirectory s a
    | .pool =>
      if b < 64 then badPage s (a % 192) b
      else { s with badPages := (a % 192, b % 64) :: s.badPages }
    | .granule =>
      (match (coreAt s a).resvs.find? (fun r => decide (r.base ≤ b ∧ b < r.base + r.size)) with
       | some r => teamError s (wgAt s r.wg).team 9 a
       | none => report s 2 9 0 a devHm 0 0 0 0 0xFFFFFFFF)
    | .copyEntry =>
      (match copyAt s a b with
       | some e => if e.wg = a then umpireError s a else teamError s (wgAt s e.wg).team 0x0A a
       | none => s)
    | .pending => ownedEntry s (((Tab.get? s.launches a).filter Launch.child).map Launch.hm) 0x0B 0xFF
    | .queuePair => ownedEntry s ((Tab.get? s.qps a).map QP.hm) 0x0C 0xFF
    | .keyEntry => badKey s a
    | .launchQueue => badRecord s a
    | .counter => badCounter s a
    | .umpire => umpireError s (a % 192)
    | .teamState =>
      (match (slotAt s (a % 192) b).wg with
       | some h => if h = a % 192 then umpireError s h else teamError s (wgAt s h).team 0x0A (a % 192)
       | none => s)
    | .corrected => if a < 192 then bumpEvent s a 0x12 1 else if 256 ≤ a ∧ a < 264 then countUnit s a 2 1 else s
    | .routing => resetUnit s false
    | .clock => resetUnit s true
    | .assay u => mismatch s (a % 192) b u.toNat)

/-- HBM_SCRUB (R255): the scrubber checks a sector. -/
def execHbmScrub (sec : Nat) (bad : Bool) (s : State) : Host.Outcome State Fault Refusal :=
  .next (if bad then badHbm s sec else s)

/-- What waited for the fabric goes on (R54, R260): the network engine, launches whose release waited, and entries of the
outbound ring. -/
def fabricBack (s : State) : State :=
  let s := netWake s
  let s := s.launches.foldl (fun s e => completeLaunch s e.1) s
  drainOut s s.host.outHeld.length

/-- UNIT_RESET_DONE (R260): the unit runs again; what waited for the fabric goes on. -/
def execUnitResetDone (clock : Bool) (s : State) : Host.Outcome State Fault Refusal :=
  let i := if clock then 1 else 0
  .next (fabricBack { s with host := { s.host with
    unitDown := (List.range 2).map (fun j => j != i && s.host.unitDown.getD j false) } })

/-- The teams that stand on a core. -/
def teamsOn (s : State) (c : Nat) : List Nat :=
  (s.teams.filter (fun e => e.2.wgs.any (fun h => match Tab.get? s.wgs h with | some w => w.core == c | none => false))).map
    Prod.fst

/-- CORE_FENCE (R264): a core with 8 mismatches within 2^30 cycles is fenced, and its teams are saved. -/
def execCoreFence (c : Fin 192) (s : State) : Host.Outcome State Fault Refusal :=
  .next (
    let k := coreAt s c.val
    if k.fenced ∨ (k.mismatches.filter (fun x => decide (clock s < x + 2 ^ 30))).length < 8 then s
    else
      let s := modCore s c.val (fun k => { k with fenced := true })
      let s := (teamsOn s c.val).foldl (fun s t => requestStop s t .fence false) s
      report s 6 0 0 c.val devHm 0 0 0 0 0xFFFFFFFF)

end Sys2Proof.Machine
end

