-- ==== Sys2Proof/Machine/Signals.lean ====
section
/-!
DEFINITION. Yield, sleep and no operation, signals that programs send, service calls and the return from a handler
(R234 to R239, R411 to R415), with the events that end a sleep and force a signal.
-/

namespace Sys2Proof.Machine

/-! ## YIELD, SLEEP, NOP (R411) -/

/-- Change the threads of the issuing path. -/
def mapPath (s : State) (f : Thread → Thread) : State :=
  (pathLanes s).foldl (fun s l => modThread s s.iss.core s.iss.slot l f) s

/-- YIELD (R411): the run ends after it, and at the warp's next turn the path gives way to another Ready path. -/
def execYieldRun (h : Head) (s : State) : Host.Outcome State Fault Refusal :=
  let i := s.iss
  let s := performOn s { head := h, op := 0x398 } [] (fun _ _ => pure {})
  .next (finishRun (mapPath s (fun t => { t with yielded := true })) i.core i.quarter 5)

/-- SLEEP (R411): every lane waits for the largest count of the path's lanes; in slot 16 pending work ends it. -/
def execSleep (h : Head) (a : Src) (s : State) : Host.Outcome State Fault Refusal :=
  let i := s.iss
  let rs := [rdI a 1]
  let s := performOn s { head := h, op := 0x399 } rs (fun _ _ => do
    let s ← get
    let m := ((partVals s h 0 (rdI a 1)).map Prod.snd).foldl max 0
    if m = 0 ∨ (i.slot = 16 ∧ umpireWork s i.core) then pure {}
    else pure { st := some (.sleeping (clock s + m)) })
  .next (finishRun s i.core i.quarter 2)

/-- NOP (R411). -/
def execNop (h : Head) (s : State) : Host.Outcome State Fault Refusal :=
  perform s { head := h, op := 0x39A } [] (fun _ _ => pure {})

/-- SLEEP_EXPIRY (R411): a sleep whose count has passed ends, for the threads that sleep beside it at the same word. -/
def execSleepExpiry (c : Fin 192) (n : Fin 17) (l : Fin 32) (s : State) : Host.Outcome State Fault Refusal :=
  .next (match threadAt s c.val n.val l.val with
    | none => s
    | some t =>
      match t.st with
      | .sleeping till =>
        if clock s < till ∨ t.held then s
        else
          meetings (modSlot s c.val n.val (fun w => mapThreads w (fun u =>
            if u.st = t.st ∧ u.pc = t.pc ∧ u.cbase = t.cbase then { u with st := .ready } else u))) c.val n.val
      | _ => s)

/-! ## Asynchronous signals (R237, R239, R412) -/

/-- A thread becomes pending for cause 0x71; a later code replaces an earlier one (R412). -/
def pendSignal (now : Nat) (code : Byte) (t : Thread) : Thread :=
  if t.live then
    { t with pend71 := some code, pendSince := if t.pend52 || t.pend71.isSome then t.pendSince else now }
  else t

/-- Send a signal to the threads of a workgroup that satisfy a test. -/
def sendSignal (s : State) (h : Nat) (code : Byte) (to_ : Thread → Bool) : State :=
  (threadsOf s h).foldl (fun s x =>
    if to_ x.2.2 then modThread s (wgAt s h).core x.1 x.2.1 (pendSignal (clock s) code) else s) s

/-- The code of a sent signal. -/
def signalCode (x : Nat) : Byte := BitVec.ofNat 8 x

/-- TRAP.self (R412). -/
def execTrapSelf (h : Head) (b : Src) (s : State) : Host.Outcome State Fault Refusal :=
  perform s { head := h, op := 0x3A0 } [rdI b 1] (fun l v => do
    let s ← get
    setState (modThread s s.iss.core s.iss.slot l (pendSignal (clock s) (signalCode (v.getD 0 0))))
    pure {})

/-- TRAP.one (R412). -/
def execTrapOne (h : Head) (a b : Src) (s : State) : Host.Outcome State Fault Refusal :=
  perform s { head := h, op := 0x3A0 } [rdI a 1, rdI b 1] (fun l v => do
    let s ← get
    let g := homeOf s s.iss.core s.iss.slot l
    setState (sendSignal s g (signalCode (v.getD 1 0)) (fun t => t.tidx == v.getD 0 0))
    pure {})

/-- TRAP.wgrp (R412). -/
def execTrapWgrp (h : Head) (b : Src) (s : State) : Host.Outcome State Fault Refusal :=
  perform s { head := h, op := 0x3A0 } [rdI b 1] (fun l v => do
    let s ← get
    let g := homeOf s s.iss.core s.iss.slot l
    setState (sendSignal s g (signalCode (v.getD 0 0)) (fun _ => true))
    pure {})

/-- TRAP.tgrp (R412). -/
def execTrapTgrp (h : Head) (b : Src) (s : State) : Host.Outcome State Fault Refusal :=
  perform s { head := h, op := 0x3A0 } [rdI b 1] (fun l v => do
    let s ← get
    let g := homeOf s s.iss.core s.iss.slot l
    setState ((teamWgs s g).foldl (fun s w => sendSignal s w (signalCode (v.getD 0 0)) (fun _ => true)) s)
    pure {})

/-- ASYNC_SIGNAL_FORCE (R237, R239): 2,048 cycles after a signal became pending, or after SIGRET, it is delivered at the
thread's next instruction boundary, which splits its path (R174); to a parked thread or one in its handler it stays pending. -/
def execAsyncSignalForce (c : Fin 192) (n : Fin 16) (l : Fin 32) (s : State) : Host.Outcome State Fault Refusal :=
  .next (match threadAt s c.val n.val l.val with
    | none => s
    | some t =>
      if t.pendSince + 2048 ≤ clock s && mayDeliver t n.val then deliverPending (splitRun s c.val n.val l.val) c.val n.val l.val
      else s)

/-! ## Service calls (R234 to R236, R413, R414) -/

/-- The mailbox of a lane's thread, translated for an access in its context (R234, R244). -/
def mailboxPlace (l : Nat) (kind : AccKind) (n : Nat) : Act (DWord × Place) := do
  let s ← get
  let i := s.iss
  let h := homeOf s i.core i.slot l
  let va := mailboxAt s (wgAt s h) (((threadAt s i.core i.slot l).map Thread.tidx).getD 0)
  let hm := (wgAt s h).hm
  stallOn va kind
  let r := pathPlace s i.core hm va kind
  setState r.1
  match r.2 with
  | .error o => raiseWalk o hm va (accInfo n (kind == .write) false false)
  | .ok p => pure (va, p)

/-- The first word of a lane's mailbox. -/
def readMailbox (l : Nat) : Act Nat := do
  let (va, p) ← mailboxPlace l .read 8
  consume p va 8 (accInfo 8 false false false) none
  let s ← get
  let r := readPlace s .home (slotHm s s.iss.core s.iss.slot) p false 8
  setState (readNewest r.2 [homeOf s s.iss.core s.iss.slot l] p.home 8)
  pure (natOf r.1)

/-- Write a mailbox from its start, at its place. -/
def writeMailbox (p : Place) (bs : List Byte) : Act Unit := do
  let s ← get
  setState (writePlace s .home (slotHm s s.iss.core s.iss.slot) p false bs)

/-- The call id after one (R235): never 0. -/
def nextCid (x : Nat) : Nat := if x % 2 ^ 32 = 2 ^ 32 - 1 then 1 else x % 2 ^ 32 + 1

/-- The mailbox at a call: word 0, the caller's v2 to v9, and no reply yet (R234). -/
def callMailbox (s : State) (l word0 : Nat) : List Byte :=
  bytesOf 8 word0 ++
    (List.range 8).flatMap (fun k => bytesOf 4 (frameV s s.iss.core s.iss.slot (2 + k) l).toNat) ++ List.replicate 24 0

/-- SVC (R235, R413), once the mailbox can be read and written (R8): CID advances, the mailbox receives NUM, ARG and ST = 01, and the thread traps. It is an escape; a
replayed one changes neither CID nor the mailbox (R272). -/
def execSvc (h : Head) (a : Src) (s : State) : Host.Outcome State Fault Refusal :=
  perform s { head := h, op := 0x3A1 } [rdI a 1] (fun l v => do
    let _ ← escape l (do
      let x ← readMailbox l
      let (_, p) ← mailboxPlace l .write 8
      let s ← get
      let i := s.iss
      let g := homeOf s i.core i.slot l
      order g .rel .sys
      let s ← get
      setState (endReplay s g 0x03)
      let s ← get
      writeMailbox p (callMailbox s l (2 ^ 48 + v.getD 0 0 % 2 ^ 16 * 2 ^ 32 + nextCid x))
      pure {})
    raise 0x70 0x01)

/-- SVCQ (R236, R414): ST becomes 01 and ARG bytes 0x08 to 0x0B receive the id in v2; the rest of the mailbox stays. -/
def execSvcq (h : Head) (s : State) : Host.Outcome State Fault Refusal :=
  perform s { head := h, op := 0x3A2 } [rdI (.v 2 .none false) 1] (fun l v => do
    let x ← readMailbox l
    let (_, p) ← mailboxPlace l .write 8
    writeMailbox p (bytesOf 8 (2 ^ 48 + x % 2 ^ 48) ++ bytesOf 4 (v.getD 0 0))
    raise 0x70 0x02)

/-! ## SIGRET (R238, R415) -/

/-- SIGRET (R238, R415): the thread leaves its handler by the frame at the address that the delivery fixed. -/
def execSigret (h : Head) (s : State) : Host.Outcome State Fault Refusal :=
  perform s { head := h, op := 0x3A3 } [] (fun l _ => do
    let s ← get
    let i := s.iss
    match (threadAt s i.core i.slot l).bind Thread.handler with
    | none => raise 0x82 0
    | some va =>
      let hm := (wgAt s (homeOf s i.core i.slot l)).hm
      let info := accInfo 128 false false false
      stallOn va .read
      match pathPlace s i.core hm va .read with
      | (s, .error o) => do
        setState s
        raiseWalk o hm va info
      | (s, .ok p) => do
        setState s
        consume p va 128 info none
        let r := returnSignal (readNewest s [homeOf s i.core i.slot l] p.home 128) i.core i.slot l va
        setState (modThread r.1 i.core i.slot l (fun t => { t with pendSince := clock r.1 }))
        pure { next := (threadAt r.1 i.core i.slot l).map Thread.pc })

end Sys2Proof.Machine
end

