-- ==== Sys2Proof/Machine/Sched.lean ====
section
/-!
DEFINITION. Issue and the memory system's own events: choosing a slot and a path (R173 to R176, R216, R217), fetches and
loads that return, stores that are acknowledged or lost (R218, R219, R241), and walkers (R29, R33, R34).
-/

namespace Sys2Proof.Machine

/-! ## Choosing a slot (R216, R217) -/

/-- Whether a slot's last run began before another's: one that has not issued counts as oldest, and ties go to the lower
number. -/
def olderRun (s : State) (c a b : Nat) : Bool :=
  match (slotAt s c a).lastRun, (slotAt s c b).lastRun with
  | none, none => decide (a ≤ b)
  | none, some _ => true
  | some _, none => false
  | some x, some y => decide (x < y ∨ x = y ∧ a ≤ b)

/-- The slot that a quarter takes next (R216, R217). -/
def chooseSlot (s : State) (c q : Nat) : Option Nat :=
  let users := [4 * q, 4 * q + 1, 4 * q + 2, 4 * q + 3].filter (slotReady s c)
  let best := users.foldl (fun (b : Option Nat) n =>
    match b with
    | none => some n
    | some m => if olderRun s c m n then some m else some n) none
  if q = 0 ∧ slotReady s c 16 then
    (if (quarterAt s c q).prevUmpire && !users.isEmpty then best else some 16)
  else best

/-! ## Choosing a path (R173, R175, R176, R411) -/

/-- A path that could issue: its lanes, PC, code base, age, and whether it gives way after a YIELD. -/
structure Path where
  lanes : Word
  pc : Word
  cbase : DWord
  age : Nat
  yields : Bool
  deriving DecidableEq, Repr

/-- The Ready threads of a slot: a thread whose wait is over is Ready (R170, R218). -/
def wake (s : State) (c n : Nat) : State :=
  let ready := ((slotAt s c n).threads.filter (fun e => isReady s c n e.2)).map Prod.fst
  modSlot s c n (fun w =>
    { w with threads := w.threads.map (fun e => if ready.contains e.1 then (e.1, { e.2 with st := .ready }) else e) })

/-- The paths of a slot: its Ready threads at equal PC and code base (R173); a path has the largest age of its threads
(R176). -/
def pathsOf (w : Slot) : List Path :=
  let ts := w.threads.filter (fun e => e.2.ready)
  let keys := (ts.map (fun e => (e.2.pc, e.2.cbase))).dedup
  keys.map (fun k =>
    let mine := ts.filter (fun e => e.2.pc = k.1 ∧ e.2.cbase = k.2)
    { lanes := maskOf (mine.map Prod.fst), pc := k.1, cbase := k.2,
      age := (mine.map (fun e => e.2.age.toNat)).foldl max 0, yields := mine.all (fun e => e.2.yielded) })

/-- Whether a path goes before another (R175): overdue paths by age, then by PC; the others by PC; at one PC in two code
bases, the lower code base first (log entry 50). -/
def Path.first (a b : Path) : Bool :=
  let low := decide (a.pc < b.pc ∨ a.pc = b.pc ∧ a.cbase ≤ b.cbase)
  if 16 ≤ a.age ∧ 16 ≤ b.age then decide (b.age < a.age) || (a.age == b.age && low)
  else if 16 ≤ a.age then true
  else if 16 ≤ b.age then false
  else low

/-- The path that issues (R175); a path that yielded gives way to every other (R411). -/
def choosePath (ps : List Path) : Option Path :=
  let willing := ps.filter (fun p => !p.yields)
  (if willing.isEmpty then ps else willing).foldl (fun (b : Option Path) p =>
    match b with
    | none => some p
    | some x => if x.first p then some x else some p) none

/-- The ages after a choice (R176): 0 for the path that issues, one more for each other Ready path. A path that yielded has
given way at this turn, Ready or not (R411). -/
def ageAfter (ps : List Path) (chosen : Path) (t : Thread) : Thread :=
  if !t.ready then { t with yielded := false }
  else if t.pc = chosen.pc ∧ t.cbase = chosen.cbase then { t with age := 0, yielded := false }
  else
    match ps.find? (fun p => p.pc = t.pc ∧ p.cbase = t.cbase) with
    | some p => { t with age := BitVec.ofNat 5 (min 31 (p.age + 1)), yielded := false }
    | none => { t with yielded := false }

/-- The latches that a path finds at the start of its run: those saved with its lanes, whatever lanes have joined them
(R130), or the quarter's, cleared where the hallmark changes (R128, R129). -/
def runLatches (s : State) (c q n : Nat) (lanes : Word) : List Latch :=
  let k := quarterAt s c q
  let mine := if k.prevHm = some (slotHm s c n) ∨ k.prevHm = none then k.latches else List.replicate 4 Latch.empty
  (((slotAt s c n).latches.find? (fun m => lanes &&& m.1 != 0)).map Prod.snd).getD mine

/-- Begin the run of a path (R216, R287). -/
def beginRun (s : State) (c q n : Nat) (ps : List Path) (p : Path) : State :=
  let ls := runLatches s c q n p.lanes
  let s := modSlot s c n (fun w =>
    { mapThreads w (ageAfter ps p) with
      lastRun := some (clock s)
      latches := w.latches.filter (fun m => p.lanes &&& m.1 = 0) })
  let s := modQuarter s c q (fun k =>
    { k with latches := ls, run := some { slot := n, lanes := p.lanes, count := 0, start := p.pc, taken := 0 } })
  let s := { s with iss := { core := c, quarter := q, slot := n, lanes := p.lanes, pc := p.pc } }
  syncAtRun (count s 0x02 1) c n p.lanes p.pc

/-- RUN_SELECT (R175, R216, R217): at a run boundary a quarter takes a slot and a path. -/
def execRunSelect (c : Fin 192) (q : Fin 4) (s : State) : Host.Outcome State Fault Refusal :=
  .next (
    let k := quarterAt s c.val q.val
    if k.run.isSome || k.frozen.isSome || clockStopped s then s
    else
      match chooseSlot s c.val q.val with
      | none => s
      | some n =>
        let s := wake s c.val n
        let ps := pathsOf (slotAt s c.val n)
        match choosePath ps with
        | none => s
        | some p => beginRun s c.val q.val n ps p)

/-! ## Fetches, loads and stores (R218, R219, R241) -/

/-- FETCH_RETURN (R219): the missing lines arrive, and the quarter goes on. -/
def execFetchReturn (c : Fin 192) (q : Fin 4) (s : State) : Host.Outcome State Fault Refusal :=
  .next (match (quarterAt s c.val q.val).frozen with
    | none => s
    | some ls =>
      modQuarter (fillCode s c.val ls) c.val q.val (fun k => { k with frozen := none }))

/-- LOAD_RETURN (R218): one of a slot's global results returns, in any order. -/
def execLoadReturn (c : Fin 192) (n : Fin 17) (s : State) : Host.Outcome State Fault Refusal :=
  .next (modSlot { s with fresh := s.fresh + 1 } c.val n.val (fun w =>
    { w with loads := w.loads.eraseIdx (Config.pick s.fresh % max 1 w.loads.length) }))

/-- The thread that learns of a lost store: the one that issued it, or for an engine's write the workgroup's live thread
of the lowest index (R241). -/
def lostThread (s : State) (p : PendStore) : Option (Nat × Nat × Thread) :=
  let ts := (threadsOf s p.wg).filter (fun t => t.2.2.live)
  match p.tidx with
  | some i => ts.find? (fun t => t.2.2.tidx = i)
  | none => ts.foldl (fun b t =>
      match b with
      | none => some t
      | some x => if t.2.2.tidx < x.2.2.tidx then some t else some x) none

/-- The n-th store that no home has acknowledged is lost (R241): its bytes hold the old value where `back` says so, and cause
0x52 is pending in its thread. -/
def storeLost (s : State) (n : Nat) (p : PendStore) (back : Bool) : State :=
  let s := dropLine { s with stores := s.stores.eraseIdx n } (p.addr / 64)
  let s := { s with mem := if back then writeBytes s.mem p.addr p.old else s.mem }
  match lostThread s p with
  | none => s
  | some t =>
    modThread s (wgAt s p.wg).core t.1 t.2.1 (fun t =>
      { t with pend52 := true, pendSince := if t.pend52 || t.pend71.isSome then t.pendSince else clock s })

/-- STORE_ACK (R241): a store is acknowledged at its home, where a remote line's bytes have then been written back
(R54); none comes from a remote home while the routing tables are being reset (R260) or its port carries no such traffic (R443). The acknowledgement of a remote store
may carry a refusal, as the target decides (log entry 54): the write was dropped, and the store is lost at once (R445). -/
def execStoreAck (n : Nat) (s : State) : Host.Outcome State Fault Refusal :=
  .next (match s.stores[n]? with
    | none => s
    | some p =>
      if p.remote && (routingDown s || !carries s p.addr) then s
      else
      let s := if p.remote then writeBackLine s (p.addr / 64) else s
      if p.remote && Config.pick s.fresh % 2 == 1 then storeLost { s with fresh := s.fresh + 1 } n p true
      else { s with stores := s.stores.eraseIdx n })

/-- 100 µs in cycles at 850 MHz (R241). -/
def lostAfter : Nat := 85000

/-- REMOTE_STORE_LOST (R241): its bytes at its home hold the old or the new value, and cause 0x52 is pending in its
thread. -/
def execRemoteStoreLost (n : Nat) (s : State) : Host.Outcome State Fault Refusal :=
  .next (match s.stores[n]? with
    | none => s
    | some p =>
      if !p.remote ∨ s.now < p.issued + lostAfter then s
      else storeLost { s with fresh := s.fresh + 1 } n p (Config.pick s.fresh % 2 == 0))

/-! ## Walkers (R29, R33, R34) -/

/-- WALK_START (R34). -/
def execWalkStart (w : Fin 64) (s : State) : Host.Outcome State Fault Refusal :=
  .next (if (Tab.get? s.walkers w.val).isSome then s
    else
      match nextCourt s with
      | none => s
      | some (c, m, r) =>
        { s with walkers := Tab.set s.walkers w.val m, courtQ := Tab.set s.courtQ c r, walkNext := (c + 1) % 25 })

/-- Who waited for a walk goes on (R33): a command, a path, or the network engine, whose TLBs hold the entry. -/
def walkServed (s : State) (e : TlbEntry) (w : Waiter) : State :=
  match w with
  | .copy c n => modCopy (fillTlbs s c e) c n (fun x => { x with miss := none })
  | .mtx c n => modMtx (fillTlbs s c e) c n (fun x => { x with miss := none })
  | .core c _ => fillTlbs s c e
  | .net => { s with netTlb := addTlb s.netTlb e 128 }

/-- Who waited meets the outcome of its walk (R33, R99, R232, R256); a path and the network engine meet it at their access, which
is made again and shares it (R31; log entry 6). -/
def walkFailed (s : State) (m : Miss) (o : Outcome) (w : Waiter) : State :=
  let core := match w with | .copy c _ | .mtx c _ | .core c _ => c | .net => 0
  let poison := consumedPte s m.hm m.va o
  let consumed (s : State) (team : List Nat) (pc : Word) : State :=
    match poison with
    | some a => contain s (some core) a false m.hm team o.2 pc
    | none => s
  match w with
  | .copy c n =>
    (match copyAt s c n with
     | none => s
     | some e =>
       if o.1 = 0x51 then
         consumed (endCopy s c n (.failed o.1 o.2)) (if e.form = .cpyp then [] else [(wgAt s e.wg).team]) e.orig.pc
       else stopCopy s c n o (e.miss.getD m.va) m.kind)
  | .mtx c n =>
    (match mtxAt s c n with
     | none => s
     | some e =>
       if o.1 = 0x51 then consumed (endMtx s c n (.failed o.1 o.2)) [(wgAt s e.wg).team] e.orig.pc
       else stopMtx s c n o (e.miss.getD m.va) m.kind)
  | .core _ _ | .net => { s with walked := { who := w, hm := m.hm, page := m.va.toNat / 4096, kind := m.kind, out := o } :: s.walked }

/-- Whether a queued miss completes from an entry: it falls in the entry's page (R33). -/
def fills (e : TlbEntry) (m : Miss) : Bool := m.hm == e.hm && decide (m.va.toNat / 2 ^ e.log = e.va)

/-- WALK_COMPLETE (R29, R31, R33): the walk's leaf fills the TLBs and serves its misses, with every queued miss of its
court in the page; or its outcome meets everyone that waits on it. The network engine goes on where it waited. -/
def execWalkComplete (w : Fin 64) (s : State) : Host.Outcome State Fault Refusal :=
  .next (match Tab.get? s.walkers w.val with
    | none => s
    | some m =>
      let s := { s with walkers := Tab.del s.walkers w.val }
      netWake (match walk s m.hm m.va m.kind with
      | (s, .error o) => m.who.foldl (fun s x => walkFailed s m o x) s
      | (s, .ok e) =>
        let q := Tab.getD s.courtQ m.court []
        let s := { s with
          courtQ := Tab.set s.courtQ m.court (q.filter (fun x => !fills e x))
          courtTlb := if m.court < 24 then Tab.set s.courtTlb m.court (addCourtTlb (Tab.getD s.courtTlb m.court []) e)
            else s.courtTlb }
        (m.who ++ (q.filter (fills e)).flatMap Miss.who).foldl (fun s x => walkServed s e x) s))

end Sys2Proof.Machine
end

