-- ==== Sys2Proof/Machine/Observe.lean ====
section
/-!
DEFINITION. Observation by the part itself: the counter sweeper (R289, R290) and stall samples (R283).
-/

namespace Sys2Proof.Machine

/-! ## The sweeper (R289, R290) -/

/-- The event codes of a unit (R290). -/
def unitEvents (u : Nat) : List Nat :=
  if u < 192 then List.range 0x17
  else if u < 256 then List.range 4
  else List.range 3

/-- What a unit's counter of an event holds at a sweep; cycles count from the last sweep. -/
def counterValue (s : State) (u e : Nat) : Nat :=
  if u < 192 then
    (if e = 0 then min (clock s - s.host.swept) 0xFFFFFFFF else (Tab.getD (coreAt s u).events e 0).toNat)
  else (Tab.getD (Tab.getD s.units u []) e 0).toNat

/-- Add a value into a 64-bit word of local HBM: a read of a counter (R256) and a write. -/
def addTotal (s : State) (a v : Nat) : State :=
  devWrite (consumeOwn s a 8) a (bytesOf 8 (devWord s a + BitVec.ofNat 64 v).toNat)

/-- A counter is cleared. -/
def clearCounter (s : State) (u e : Nat) : State :=
  if u < 192 then { s with cores := Tab.adjust s.cores u (fun k => { k with events := Tab.del k.events e }) }
  else { s with units := Tab.adjust s.units u (fun t => Tab.del t e) }

/-- COUNTER_SWEEP (R289): each counter in turn is added into its total and cleared in one step, and what the sweep's own accesses
then count stays in the counters; the generation is odd during the sweep and even after it. -/
def execCounterSweep (s : State) : Host.Outcome State Fault Refusal :=
  .next (
    if !bitAt s.host.cntbase 0 then s
    else
      let base := field s.host.cntbase 12 40 * 4096
      let s1 := (List.range 303).foldl (fun t u =>
        (unitEvents u).foldl (fun t e =>
          addTotal (clearCounter t u e) (base + 64 + 512 * u + 8 * e) (counterValue t u e)) t) s
      let s1 := addTotal s1 base 2
      { s1 with
        fresh := s1.fresh + 1
        host := { s1.host with swept := clock s1 } })

/-! ## Stall samples (R283) -/

/-- The next occupied user slot in ascending round-robin order. -/
def sampleSlot (k : Core) : Option Nat :=
  ((List.range 16).map (fun i => (k.sampleNext + i) % 16)).find? (fun n => ((Tab.getD k.slots n Slot.empty).wg).isSome)

/-- Why a thread waits and the PC that it blames (R283). Of several Busy tags that a WANY names it blames the lowest, and a
wait that the table does not name (NWAIT, a snapshot, a pre-image, a chain) counts as WHY 5 (log entry 32). -/
def blame (s : State) (c n : Nat) (t : Thread) : Nat × Word :=
  match t.st with
  | .wait (.load i) => (1, (((slotAt s c n).loads.find? (fun p => p.id == i)).map PendLoad.pc).getD 0xFFFFFFFF)
  | .wait (.tag i) => (2, (tagOf (wgAt s t.home) i.toNat).pc)
  | .wait (.anyTag m) =>
    (2, (((List.range 64).find? (fun i => bitAt m i && (tagOf (wgAt s t.home) i).st == .busy)).map
      (fun i => (tagOf (wgAt s t.home) i).pc)).getD 0xFFFFFFFF)
  | .meeting | .bar _ _ | .barn _ _ | .tbar _ _ | .hudl _ _ _ _ | .hudlHome _ => (3, 0xFFFFFFFF)
  | .parked _ | .detached _ _ => (6, 0xFFFFFFFF)
  | .wait .children | .sleeping _ => (8, 0xFFFFFFFF)
  | .wait _ | .trapping _ _ _ => (5, 0xFFFFFFFF)
  | .ready | .exited => (7, 0xFFFFFFFF)

/-- The threads of a path that waits: those at the lowest PC. -/
def waitingPath (w : Slot) : List Thread :=
  let ts := (w.threads.map Prod.snd).filter Thread.live
  match ts.foldl (fun (b : Option Word) t =>
    match b with | none => some t.pc | some x => if t.pc < x then some t.pc else some x) none with
  | some pc => ts.filter (fun t => t.pc = pc)
  | none => []

/-- Whether a thread's own wait goes on. -/
def stillWaits (s : State) (c n : Nat) (t : Thread) : Bool :=
  match t.st with
  | .wait w => !waitOver s c n t w
  | _ => true

/-- The sample of a slot: the path's lead thread, its WHY and its blamed PC. Of a path that waits, the threads whose own wait
goes on are asked: in a huddled warp each waits on the tags of its home (R93). A Ready path counts as WHY 7 whether another
slot's run holds the quarter or none does (log entry 32). -/
def sampleOf (s : State) (c n : Nat) : Option (Thread × Nat × Word) :=
  let q := quarterAt s c (n / 4)
  let lead (m : Word) : Option Thread := threadAt s c n ((lanesOf m).headD 0)
  match q.run.filter (fun r => r.slot = n) with
  | some r => (lead r.lanes).map (fun t => (t, if q.frozen.isSome then 4 else if r.stalled then 5 else 0, 0xFFFFFFFF))
  | none =>
    match choosePath (pathsOf (slotAt (wake s c n) c n)) with
    | some p => (lead p.lanes).map (fun t => (t, if q.frozen.isSome then 4 else 7, 0xFFFFFFFF))
    | none =>
      let ts := waitingPath (slotAt s c n)
      (if ts.any (stillWaits s c n) then ts.filter (stillWaits s c n) else ts).foldl (fun (b : Option (Thread × Nat × Word)) t =>
        let y := blame s c n t
        let x := if q.frozen.isSome && 4 < y.1 then (4, 0xFFFFFFFF) else y
        match b with
        | none => some (t, x)
        | some (u, y) => if x.1 < y.1 then some (u, x) else some (u, y)) none

/-- STALL_SAMPLE (R283, R286): of the next occupied slot, and none where its context lacks the right (log entry 32). -/
def execStallSample (c : Fin 192) (s : State) : Host.Outcome State Fault Refusal :=
  .next (
    let k := coreAt s c.val
    if !bitAt k.trcctl 2 then s
    else
      match sampleSlot k with
      | none => s
      | some n =>
        let s := modCore s c.val (fun k => { k with sampleNext := (n + 1) % 16 })
        if !hasRight s (slotHm s c.val n) then s
        else
          match sampleOf s c.val n with
          | none => s
          | some (t, why, pc) =>
            traceRecord s c.val
              [(recHead 3 2 n c.val (slotHm s c.val n) (why * 2 ^ 25), pair t.pc pc), (cycOf s c.val, t.topFour)])

end Sys2Proof.Machine
end

