-- ==== Sys2Proof/Machine/Power.lean ====
section
/-!
DEFINITION. Power, throttling and temperature (R457 to R459): the throttle state, its changes and their reports, and
TEMP. Times count cycles of 850 MHz (log entry 12).
-/

namespace Sys2Proof.Machine

/-- 10 ms and 100 ms (R458). -/
def calmTime : Nat := 8500000
def coolTime : Nat := 85000000

/-- A reading of the thermal monitor: PKGW, HBMMAX and DIEMAX (R459). -/
structure Reading where
  pkgw : Half
  hbm : Byte
  die : Byte
  deriving DecidableEq, Repr

/-- TEMP (R459). -/
def Reading.word (r : Reading) : DWord :=
  BitVec.ofNat 64 (r.pkgw.toNat * 2 ^ 48 + r.hbm.toNat * 2 ^ 40 + r.die.toNat * 2 ^ 32)

/-- Whether every sensor is at or below 90 °C. -/
def Reading.cool (r : Reading) : Bool := decide (r.die.toNat ≤ 90 ∧ r.hbm.toNat ≤ 90)

/-- The down condition that a reading shows, by its CAUSE; the lowest where there are several (R458, log entry 10). -/
def downCause (s : State) (r : Reading) : Option Nat :=
  if s.host.plim.toNat < r.pkgw.toNat then some 1
  else if 95 < r.die.toNat then some 2
  else if 95 < r.hbm.toNat then some 3
  else none

/-- Take a reading: since when the sensors have stayed at or below 90 °C, and since when no down condition has held
either. -/
def noteReading (s : State) (r : Reading) : State :=
  { s with host := { s.host with
    coolSince := if r.cool then s.host.coolSince else s.now
    calmSince := if r.cool && (downCause s r).isNone then s.host.calmSince else s.now } }

/-- A change of the throttle state, with its report (R458). -/
def changeThrottle (s : State) (r : Reading) (cause new : Nat) : State :=
  let old := s.host.throttle
  let s := { s with host := { s.host with throttle := new, calmSince := s.now } }
  post s 0x09 0xFF devHm [r.word + BitVec.ofNat 64 (cause * 2 ^ 16 + new * 2 ^ 8 + old)]

/-- Whether clock and power control hold the state, since they are being reset (R458). -/
def powerHeld (s : State) : Bool := s.host.unitDown.getD 1 false

/-- What a reading does to the state on its way down (R458): above 110 °C it is T4, where every team is saved and the clock
stops when they are; above 105 °C it is T3 at once; else one state down, no lower than T3. -/
def throttleDown (s : State) (r : Reading) : State :=
  let k := downCause s r
  let s := noteReading s r
  if powerHeld s || s.host.throttle == 4 then s
  else if 110 < r.die.toNat then
    (changeThrottle s r 5 4).teams.foldl (fun s e => requestStop s e.1 .throttle false) (changeThrottle s r 5 4)
  else if 3 ≤ s.host.throttle then s
  else if 105 < r.die.toNat then changeThrottle s r 4 3
  else match k with
    | none => s
    | some k => changeThrottle s r k (s.host.throttle + 1)

/-- THROTTLE_STEP_DOWN (R458). -/
def execThrottleStepDown (pkgw : Half) (hbm die : Byte) (s : State) : Host.Outcome State Fault Refusal :=
  .next (throttleDown s { pkgw := pkgw, hbm := hbm, die := die })

/-- THROTTLE_T3 (R458): above 105 °C. -/
def execThrottleT3 (pkgw : Half) (hbm die : Byte) (s : State) : Host.Outcome State Fault Refusal :=
  .next (throttleDown s { pkgw := pkgw, hbm := hbm, die := die })

/-- THROTTLE_T4 (R458): above 110 °C. -/
def execThrottleT4 (pkgw : Half) (hbm die : Byte) (s : State) : Host.Outcome State Fault Refusal :=
  .next (throttleDown s { pkgw := pkgw, hbm := hbm, die := die })

/-- THROTTLE_LEAVE_T4 (R458): after 100 ms at or below 90 °C; the saved teams may be placed again. -/
def execThrottleLeaveT4 (pkgw : Half) (hbm die : Byte) (s : State) : Host.Outcome State Fault Refusal :=
  .next (
    let r : Reading := { pkgw := pkgw, hbm := hbm, die := die }
    let s := noteReading s r
    if powerHeld s || s.host.throttle != 4 || decide (s.now < s.host.coolSince + coolTime) then s
    else
      let s := changeThrottle s r 7 3
      { s with saved := s.saved.map (fun v => if v.why = .throttle then { v with eligible := true } else v) })

/-- THROTTLE_STEP_UP (R458): after 10 ms without a down condition, with the sensors at or below 90 °C. -/
def execThrottleStepUp (pkgw : Half) (hbm die : Byte) (s : State) : Host.Outcome State Fault Refusal :=
  .next (
    let r : Reading := { pkgw := pkgw, hbm := hbm, die := die }
    let s := noteReading s r
    if powerHeld s || s.host.throttle == 0 || s.host.throttle == 4 || decide (s.now < s.host.calmSince + calmTime) then s
    else changeThrottle s r 6 (s.host.throttle - 1))

/-- TEMP_REFRESH (R459). -/
def execTempRefresh (pkgw : Half) (hbm die : Byte) (s : State) : Host.Outcome State Fault Refusal :=
  .next (
    let r : Reading := { pkgw := pkgw, hbm := hbm, die := die }
    let s := noteReading s r
    { s with host := { s.host with temp := r.word } })

end Sys2Proof.Machine
end

