-- ==== Sys2Proof/Machine/Boot.lean ====
section
/-!
DEFINITION. Start-up (R449 to R455): the module's flash and its window, the boot stages, failed starts, minimal mode and
the reason record.
-/

namespace Sys2Proof.Machine

/-! ## The flash (R454) -/

/-- A byte of slot A. -/
def flashAt (s : State) (a : Nat) : Byte :=
  match Tab.get? s.host.flash (a / 4096) with
  | none => Config.flashByte false a
  | some .erased => Config.erasedByte
  | some (.data ws) => BitVec.ofNat 8 ((ws.getD (a % 4096 / 8) 0).toNat / 2 ^ (8 * (a % 8)))
  | some (.undefined n) => Config.freeBits 8 (n * 4096 + a % 4096)

/-- A byte of the slot that a start reads: A, or B in minimal mode. -/
def imageByte (s : State) (a : Nat) : Byte := if s.host.bootMin then Config.flashByte true a else flashAt s a

/-- `n` bytes of that slot. -/
def imageBytes (s : State) (a n : Nat) : List Byte := (List.range n).map (fun i => imageByte s (a + i))

/-- The lease passes to the other port at the end of each period that has ended: ACT, TKO and the period, which restarts there;
interrupts follow ACT (R439). -/
def passLease (s : State) : State :=
  let n := leaseTurns s
  let act := s.host.leaseAct
  { s with host := { s.host with
    leaseAct := afterTurns act n, leaseTko := true, leaseSince := s.host.leaseSince + n * leaseLen s,
    msix := s.host.msix ++ (List.range n).map (fun i => (afterTurns act (i + 1), 1)) } }

/-- Write the outbound entries from OHEAD on again, with their SEQ unchanged (R441). -/
def rewriteOutbound (s : State) : State :=
  let lo := s.host.ohead.toNat
  (List.range (s.host.otail.toNat - lo)).foldl (fun s i =>
    match s.host.outRing[lo + i]? with
    | some e =>
      let s := hostLink s
      { s with mem := writeBytes s.mem (ringAddr s.host.obase s.host.osize (lo + i)) (wordsBytes e) }
    | none => s) s

/-- The state that a host's access finds: a lease whose period has ended has passed on (R439). -/
def underLease (s : State) : State := if leaseDue s then rewriteOutbound (passLease s) else s

/-- The host acts through a port: its flits count there (R290). -/
def hostTurn (s : State) (port : Bit) : State := countFlits (underLease s) (300 + port.toNat)

/-- Whether a port may write the flash window: the port that holds the lease, or port 0 in minimal mode. -/
def flashPort (s : State) (port : Bit) : Bool := port == (if s.host.bootMin then 0 else s.host.leaseAct)

/-- A write that is dropped and counted in LEASE.REJ, which saturates (R435, R438). -/
def rejectWrite (s : State) : State :=
  { s with host := { s.host with
    leaseRej := if s.host.leaseRej = 0xFFFFFFFF then s.host.leaseRej else s.host.leaseRej + 1 } }

/-- A command that ends with an error. -/
def flashError (s : State) (code : Nat) : State :=
  { s with host := { s.host with flctl := BitVec.ofNat 64 (code * 256 + 128) } }

/-- Write a command to FLCTL (R454). -/
def flashCommand (s : State) (port : Bit) (program : Bool) : State :=
  if !flashPort s port then rejectWrite s
  else if s.host.flRun.isSome then flashError s 3
  else if field s.host.fladdr 0 12 ≠ 0 ∨ field s.host.fladdr 24 40 ≠ 0 then flashError s 2
  else
    let run : FlashRun :=
      { program := program, page := field s.host.fladdr 12 12,
        data := (List.range 512).map (fun i => Tab.getD s.host.flbuf i 0) }
    { s with host := { s.host with flRun := some run, flctl := s.host.flctl &&& 0x80 } }

/-- FLASH_ERASE (R454): OP 01. -/
def execFlashErase (port : Bit) (s : State) : Host.Outcome State Fault Refusal := .next (flashCommand (hostTurn s port) port false)

/-- FLASH_PROGRAM (R454): OP 10. -/
def execFlashProgram (port : Bit) (s : State) : Host.Outcome State Fault Refusal := .next (flashCommand (hostTurn s port) port true)

/-- The pages that a command leaves. -/
def setPages (s : State) (ps : List Nat) (x : FlashPage) : State :=
  { s with host := { s.host with flash := ps.foldl (fun t p => Tab.set t p x) s.host.flash } }

/-- End a flash command: BUSY clears. -/
def flashEnd (s : State) : State := { s with host := { s.host with flRun := none } }

/-- FLASH_ERASE_DONE (R454): the 64 KiB sector is erased, or the flash device reports an error. -/
def execFlashEraseDone (ok : Bool) (s : State) : Host.Outcome State Fault Refusal :=
  .next (match s.host.flRun with
    | none => s
    | some r =>
      if r.program then s
      else
        let ps := (List.range 16).map (fun i => r.page / 16 * 16 + i)
        if ok then setPages (flashEnd s) ps .erased
        else flashError (setPages { flashEnd s with fresh := s.fresh + 1 } ps (.undefined s.fresh)) 4)

/-- FLASH_PROGRAM_DONE (R454): the page holds FLBUF; or it reads back different, or the device reports an error. -/
def execFlashProgramDone (ok : Bool) (s : State) : Host.Outcome State Fault Refusal :=
  .next (match s.host.flRun with
    | none => s
    | some r =>
      if !r.program then s
      else if ok then setPages (flashEnd s) [r.page] (.data r.data)
      else flashError (setPages { flashEnd s with fresh := s.fresh + 1 } [r.page] (.undefined s.fresh))
        (if Config.pick s.fresh % 2 = 0 then 1 else 4))

/-! ## A device reset -/

/-- The state that a device reset leaves before stage 1 (R449, R451): what stands outside the die stays, with FAILS, the
reason record, and what has already left the device. -/
def freshDevice (s : State) : State :=
  let hostLines := (s.lines.filter (fun e => isHost (64 * e.1))).map Prod.fst
  let s := hostLines.foldl discardLine s
  { State.reset with
    mem := s.mem.filter (fun c => decide (2 ^ 48 ≤ c.1))
    poison := s.poison.filter (fun e => decide (2 ^ 44 ≤ e.1))
    netOut := s.netOut
    agenda := s.agenda
    fresh := s.fresh
    stamp := s.stamp
    now := s.now
    iss := s.iss
    host := { HostSide.reset with
      flash := s.host.flash, bootFails := s.host.bootFails, bootMin := s.host.bootFails == 3, reason := s.host.reason,
      portsUp := s.host.portsUp, hostOut := s.host.hostOut, uatinOut := s.host.uatinOut, uatinSent := s.host.uatinSent, msix := s.host.msix,
      bootAt := s.now, leaseSince := s.now, slow := 850 * s.now, coolSince := s.now, calmSince := s.now, swept := 0 } }

/-- Set bytes of the reason record (R453). -/
def setReason (s : State) (i : Nat) (bs : List Byte) : State :=
  { s with host := { s.host with reason := patch ((s.host.reason ++ List.replicate 32 0).take 32) i bs } }

/-- Enter a stage. -/
def enterStage (s : State) (n : Nat) : State := { s with host := { s.host with bootStage := n } }

/-- A failure of a start: its stage, its CODE and its UNIT (R453). -/
structure StartFail where
  stage : Nat
  code : Nat
  part : Nat
  deriving DecidableEq, Repr

/-- The lowest bit of a mask that is set. -/
def lowBit (n x : Nat) : Nat := ((List.range n).find? (fun i => x.testBit i)).getD 0xFF

/-- Stage 1 (R449, R452): self-test and HBM training; in minimal mode a court that fails is only left out, and every court
but the one in service is fenced. -/
def bootStage1 (s : State) : State × Option StartFail :=
  let t := Config.selfTest s.fresh
  let s := enterStage { s with fresh := s.fresh + 1 } 1
  let bad := (~~~t.1).toNat
  let down := ((List.range 8).filter (fun i => t.2.toNat.testBit i)).length
  if (if s.host.bootMin then t.1 == 0 else bad != 0) then (s, some ⟨1, 1, lowBit 24 bad⟩)
  else if 1 < down then (s, some ⟨1, 2, lowBit 8 t.2.toNat⟩)
  else if s.host.bootMin then
    let court := lowBit 24 t.1.toNat
    let s := setReason s 5 [BitVec.ofNat 8 court]
    ((List.range 192).foldl (fun s c => if c / 8 = court then s else modCore s c (fun k => { k with fenced := true })) s,
      none)
  else (s, none)

/-- The cores that run Ninal: all, or in minimal mode those of the court in service. -/
def servedCores (s : State) : List Nat := (List.range 192).filter (fun c => !s.host.bootMin || !(coreAt s c).fenced)

/-- Where the boot ROM places the firmware image in local HBM (log entry 5). -/
def firmwareAt : Nat := 64 * Config.firmwareBase.toNat

/-- Stages 2 to 4 (R449, R455): the image is read, checked and made the firmware region; the measurement log is written, and
a new tweak key, a free value, generated (R42); Ninal starts. -/
def bootStages (s : State) : State × Option StartFail :=
  let s := enterStage s 2
  let n := natOf (imageBytes s 0 8)
  if 2 ^ 24 - 72 < n then (s, some ⟨2, 3, 0xFF⟩)
  else
    let image := imageBytes s 8 n
    let digest := sm3 image
    let s := devWrite s firmwareAt image
    let s := setReason s 0x18 (bytesOf 8 digest.toNat)
    let s := enterStage s 3
    let k := imageCheck digest (imageBytes s (8 + n) 64)
    if k = 4 ∨ k = 5 then (s, some ⟨3, k, 0xFF⟩)
    else
      let s := enterStage s 4
      let log : List (Word × BitVec 256) :=
        [(1, Config.measured 1), (2, digest), (3, Config.measured 3), (4, Config.measured 4)]
      let s := { s with
        fresh := s.fresh + 1
        host := { s.host with firmware := some (firmwareAt, n), measure := log, tweak := Config.freeBits 128 s.fresh } }
      (enterStage ((servedCores s).foldl startNinal s) 5, none)

/-- One start, from the reset to stage 5. -/
def startOnce (s : State) : State × Option StartFail :=
  match bootStage1 (freshDevice s) with
  | (s, some f) => (s, some f)
  | (s, none) => bootStages s

/-- A failed start in minimal mode (R452): the device is not reset, and the boot ROM stops. -/
def stopMinimal (s : State) (code : Nat) : State :=
  let s := setReason s 0x0B [BitVec.ofNat 8 code]
  { s with host := { s.host with bootOk := false, bootStopped := true } }

/-- Count a failed start outside minimal mode (R452, R453). -/
def countFail (s : State) (f : StartFail) : State :=
  let n := s.host.bootFails.toNat
  let s := setReason s (8 + n) [BitVec.ofNat 8 f.code]
  let s := if n = 2 then setReason (setReason s 4 [BitVec.ofNat 8 f.part]) 6 [BitVec.ofNat 8 f.code, BitVec.ofNat 8 f.stage]
    else s
  { s with host := { s.host with bootFails := BitVec.ofNat 2 (min 3 (n + 1)) } }

/-- Start the device, again after each failed start (R452); FAILS lets four starts follow one another at most. -/
def boot : Nat → State → State
  | 0, s => s
  | n + 1, s =>
    match startOnce s with
    | (s, none) => s
    | (s, some f) => if s.host.bootMin then stopMinimal s f.code else boot n (countFail s f)

/-- DEVICE_RESET (R449). -/
def execDeviceReset (s : State) : Host.Outcome State Fault Refusal := .next (boot 4 s)

/-- 10 s (R449). -/
def startTime : Nat := 8500000000

/-- BOOTST_OK (R451, R452): the start succeeds; outside minimal mode FAILS is cleared. -/
def execBootstOk (s : State) : Host.Outcome State Fault Refusal :=
  .next (
    if s.host.bootStage ≠ 5 ∨ s.host.bootStopped ∨ s.host.bootAt + startTime < s.now then s
    else
      let s := { s with host := { s.host with bootOk := true } }
      if s.host.bootMin then s else { s with host := { s.host with bootFails := 0, reason := [] } })

/-- FIRMWARE_TIMEOUT (R449, R452): OK is not written within 10 s of the reset. -/
def execFirmwareTimeout (s : State) : Host.Outcome State Fault Refusal :=
  .next (
    if s.host.bootStage ≠ 5 ∨ s.host.bootOk ∨ s.host.bootStopped ∨ s.now < s.host.bootAt + startTime then s
    else if s.host.bootMin then stopMinimal s 6
    else boot 4 (countFail s ⟨5, 6, 0xFF⟩))

/-- CLEAR_FAILS (R452): 0x5A written to the clear register in minimal mode; a write by a port without the lease is counted (R435). -/
def execClearFails (port : Bit) (x : Byte) (s : State) : Host.Outcome State Fault Refusal :=
  .next (
    let s := hostTurn s port
    if s.host.bootMin then
      (if port != 0 then rejectWrite s
       else if x != 0x5A then s
       else boot 4 { s with host := { s.host with bootFails := 0, reason := [] } })
    else if port == s.host.leaseAct then s
    else rejectWrite s)

end Sys2Proof.Machine
end

