-- ==== Sys2Proof/Machine/Control.lean ====
section
/-!
DEFINITION. Control flow: branches, calls, meetings and exit (R171, R172, R402 to R405).
-/

namespace Sys2Proof.Machine

/-! ## Calls (R171) -/

/-- Where a thread's call stack begins and ends: its first CSP, and the lowest address of its frames (R171). -/
def stackTop (w : Wg) (t : Nat) : Nat := 0xF0000000 + w.spg * 16384 - w.stk * t
def stackEnd (w : Wg) (t : Nat) : Nat := 0xF0000000 + w.spg * 16384 - w.stk * (t + 1)

/-- Push a frame of the return PC and MR, and clear MR (R171); one outside the thread's range has detail 0x0B (R31, R317, R403), and
a workgroup that has no scratchpad 0x06 (R111, log entry 45). -/
def pushFrame (l : Nat) (ret : Word) : Act Unit := do
  let s ← get
  let i := s.iss
  match threadAt s i.core i.slot l with
  | none => pure ()
  | some t =>
    let w := wgAt s t.home
    let a := t.csp.toNat
    if w.spg = 0 then raiseAt (0x11, 0x06) ((t.csp - 8).setWidth 64) (accInfo 8 true false false)
    else if w.stk = 0 ∨ a < stackEnd w t.tidx + 8 ∨ stackTop w t.tidx < a then
      raiseAt (0x11, 0x0B) ((t.csp - 8).setWidth 64) (accInfo 8 true false false)
    else do
      storeSpad l (t.csp - 8) 8 (ret.toNat + t.mr.toNat * 2 ^ 32) .plain
      let s ← get
      setState (modThread s i.core i.slot l (fun t => { t with csp := t.csp - 8, mr := 0xFFFFFFFF }))

/-- Pop a frame: MR is restored, and the return PC answered (R171; R111, log entry 45). -/
def popFrame (l : Nat) : Act Word := do
  let s ← get
  let i := s.iss
  match threadAt s i.core i.slot l with
  | none => pure 0
  | some t =>
    let w := wgAt s t.home
    if w.spg = 0 then raiseAt (0x11, 0x06) (t.csp.setWidth 64) (accInfo 8 false false false)
    else if w.stk = 0 ∨ t.csp.toNat < stackEnd w t.tidx ∨ stackTop w t.tidx < t.csp.toNat + 8 then
      raiseAt (0x11, 0x0B) (t.csp.setWidth 64) (accInfo 8 false false false)
    else do
      let x ← loadSpad l t.csp 8 .plain
      let s ← get
      setState (modThread s i.core i.slot l (fun t =>
        { t with csp := t.csp + 8, mr := BitVec.ofNat 32 (x / 2 ^ 32) }))
      pure (BitVec.ofNat 32 x)

/-! ## Branches (R402, R403) -/

/-- Set MR of a lane where the meeting flag is set: PC + MOFF. -/
def setMeeting (l : Nat) (join : Option (BitVec 16)) : Act Unit := do
  let s ← get
  let i := s.iss
  match join with
  | some m => setState (modThread s i.core i.slot l (fun t => { t with mr := i.pc + m.signExtend 32 }))
  | none => pure ()

/-- A lane goes to a PC. -/
def goTo (pc : Word) : Act Out := pure { next := some pc, taken := true }

/-- BRA (R403). -/
def execBra (h : Head) (off : BitVec 24) (join : Option (BitVec 16)) (s : State) : Host.Outcome State Fault Refusal :=
  perform s { head := h, op := 0x380 } [] (fun l _ => do
    setMeeting l join
    goTo (s.iss.pc + off.signExtend 32))

/-- BRX (R403). -/
def execBrx (h : Head) (a : Src) (join : Option (BitVec 16)) (s : State) : Host.Outcome State Fault Refusal :=
  perform s { head := h, op := 0x381 } [rdI a 1] (fun l v => do
    setMeeting l join
    goTo (BitVec.ofNat 32 (v.getD 0 0)))

/-- CALL (R403). -/
def execCall (h : Head) (off : BitVec 24) (s : State) : Host.Outcome State Fault Refusal :=
  perform s { head := h, op := 0x382 } [] (fun l _ => do
    pushFrame l (nextWord s h)
    goTo (s.iss.pc + off.signExtend 32))

/-- CALLX (R403). -/
def execCallx (h : Head) (a : Src) (s : State) : Host.Outcome State Fault Refusal :=
  perform s { head := h, op := 0x383 } [rdI a 1] (fun l v => do
    pushFrame l (nextWord s h)
    goTo (BitVec.ofNat 32 (v.getD 0 0)))

/-- RET (R403). -/
def execRet (h : Head) (s : State) : Host.Outcome State Fault Refusal :=
  perform s { head := h, op := 0x384 } [] (fun l _ => do
    let pc ← popFrame l
    goTo pc)

/-- MEET (R403): the lane goes on at the next word, with its MR set. -/
def execMeet (h : Head) (join : BitVec 16) (s : State) : Host.Outcome State Fault Refusal :=
  perform s { head := h, op := 0x385 } [] (fun l _ => do
    setMeeting l (some join)
    pure {})

/-! ## Exit (R405) -/

/-- The threads of a slot that have exited drop their pending signals, and their registers count as released (R123,
R405). -/
def afterExit (s : State) (c n : Nat) : State :=
  let s := modSlot s c n (fun w =>
    mapThreads w (fun t =>
      if t.st == .exited then { t with pend52 := false, pend71 := none, handler := none, held := false } else t))
  meetings (sweepRel s c n) c n

/-- EXIT (R405): each active lane's thread becomes Exited. What its workgroup then does is R249's, after the step. -/
def execExit (h : Head) (s : State) : Host.Outcome State Fault Refusal :=
  let i := s.iss
  .next (afterExit (performOn s { head := h, op := 0x386 } [] (fun _ _ => pure { st := some .exited })) i.core i.slot)

end Sys2Proof.Machine
end

