-- ==== Sys2Proof/Machine/Debug.lean ====
section
/-!
DEFINITION. Regions, breakpoints, snapshots that a program asks for, and markers (R275 to R280, R420, R421).
-/

namespace Sys2Proof.Machine

/-- RGE on a thread (R275). -/
def enterRegion (id : Half) (t : Thread) : Thread :=
  { t with
    region := if t.depth.toNat < 16 then t.region.take t.depth.toNat ++ [id] else t.region
    depth := if t.depth = 0xFFFF then t.depth else t.depth + 1 }

/-- RGL on a thread (R275). -/
def leaveRegion (t : Thread) : Thread := if t.depth = 0 then t else { t with depth := t.depth - 1 }

/-- The region step that a region edge takes with RSTEP = 1 (R280). -/
def edgeStep (s : State) (l : Nat) : Out :=
  { after := if (wgAt s (homeOf s s.iss.core s.iss.slot l)).rstep then some { cause := 0x62, detail := 0 } else none }

/-- RGE (R275, R276, R420). -/
def execRge (h : Head) (id : BitVec 16) (s : State) : Host.Outcome State Fault Refusal :=
  perform s { head := h, op := 0x3C0, edge := true } [] (fun l _ => do
    let s ← get
    setState (modThread s s.iss.core s.iss.slot l (enterRegion id))
    pure (edgeStep s l))

/-- RGL (R275, R276, R420). -/
def execRgl (h : Head) (s : State) : Host.Outcome State Fault Refusal :=
  perform s { head := h, op := 0x3C1, edge := true } [] (fun l _ => do
    let s ← get
    let i := s.iss
    let s := if ((threadAt s i.core i.slot l).map Thread.depth).getD 0 = 0 then countBy s l 0x16 1 else s
    setState (modThread s i.core i.slot l leaveRegion)
    pure (edgeStep s l))

/-- BKPT (R420, R421): it traps, but for a lane that RPLY lets complete it. -/
def execBkpt (h : Head) (s : State) : Host.Outcome State Fault Refusal :=
  perform s { head := h, op := 0x3C2 } [] (fun l _ => do
    let s ← get
    if (threadAt s s.iss.core s.iss.slot l).bind Thread.pass = some .bkpt then pure {} else raise 0x60 0)

/-- SNAP (R266, R420, R421): in a `.rollback` launch the path waits for a snapshot; otherwise it has no effect. -/
def execSnap (h : Head) (s : State) : Host.Outcome State Fault Refusal :=
  perform s { head := h, op := 0x3C3 } [] (fun l _ => do
    let s ← get
    let i := s.iss
    if i.slot ≠ 16 ∧ rollbackWg s (homeOf s i.core i.slot l) ∧
        !((threadAt s i.core i.slot l).map Thread.escOk).getD true then waitFor .snapshot
    else pure {})

/-- TRMK (R288, R420): one causal record, with the operand of the lowest active lane. -/
def execTrmk (h : Head) (a : Src) (s : State) : Host.Outcome State Fault Refusal :=
  perform s { head := h, op := 0x3C4 } [rdI a 2] (fun l v => do
    let s ← get
    if (activeLanes s h.guard).headD l = l then setState (causal s 0 0 (BitVec.ofNat 64 (v.getD 0 0)))
    pure {})

end Sys2Proof.Machine
end

