-- ==== Sys2Proof/Machine/Host.lean ====
section
/-!
DEFINITION. The host ports (R434 to R442, spec/16): the device registers, the lease, the launch window, host accesses to
local HBM, snoops, and the outbound ring's head.
-/

namespace Sys2Proof.Machine

/-! ## Ports and the lease (R435, R438, R439) -/

/-- Whether a port is in use: in minimal mode only port 0 is (R452). -/
def portUsable (s : State) (port : Bit) : Bool := !s.host.bootMin || port == 0

/-- Whether a port holds the lease. -/
def holdsLease (s : State) (port : Bit) : Bool := portUsable s port && port == s.host.leaseAct

/-- Restart the lease period. -/
def renewLease (s : State) : State := { s with host := { s.host with leaseSince := s.now } }

/-- RENEW (R438, R439): it counts from the port that holds the lease, and is otherwise a dropped write. -/
def execRenew (port : Bit) (s : State) : Host.Outcome State Fault Refusal :=
  .next (let s := hostTurn s port
         if holdsLease s port then renewLease s else rejectWrite s)

/-- The host's driver rewrites an entry of the counter table (R182): V, HM and VALUE; CANC is cleared. -/
def writeCounter (s : State) (n : BitVec 12) (x : DWord) : State :=
  let k : Counter := { v := bitAt x 63, canc := false, hm := x.extractLsb' 48 14, value := x.extractLsb' 0 48 }
  { s with counters := Tab.set s.counters n.toNat k }

/-- LEASE_EXPIRY (R439): ACT passes to the other port, TKO is set, the period restarts, and interrupts follow ACT. -/
def execLeaseExpiry (s : State) : Host.Outcome State Fault Refusal := .next (underLease s)

/-- A write of LEASE (R438): the holder writes every field; while EN = 0 either port writes PERIOD and EN. EN reads 0 in
minimal mode. -/
def writeLease (s : State) (port : Bit) (x : DWord) : State :=
  let mine := holdsLease s port
  if !mine && (s.host.leaseEn || !portUsable s port) then rejectWrite s
  else
    let k := s.host
    let p := field x 12 10
    let en := bitAt x 3 && !k.bootMin
    { s with host := { k with
      leasePeriod := if 1 ≤ p ∧ p ≤ 1000 then BitVec.ofNat 10 p else k.leasePeriod
      leaseEn := en
      leaseTko := k.leaseTko && !(mine && bitAt x 8)
      leaseSince := if (mine && bitAt x 0) || (en && !k.leaseEn) then s.now else k.leaseSince } }

/-- The value of LEASE. -/
def leaseWord (k : HostSide) : Nat :=
  k.leaseRej.toNat * 2 ^ 32 + k.leasePeriod.toNat * 2 ^ 12 + (if k.leaseTko then 2 ^ 8 else 0) +
    (if k.leaseEn then 8 else 0) + k.leaseAct.toNat * 2

/-! ## The device registers (R435) -/

/-- QSTAT (R205). -/
def qstatWord (u : Queue) (q : Nat) : Nat :=
  u.errc.toNat * 2 ^ 56 + u.errs.toNat * 2 ^ 52 + (if u.err then 2 ^ 51 else 0) + u.next.toNat * 2 ^ 16 +
    u.head.toNat * 2 ^ 12 + u.tail.toNat * 2 ^ 8 + q / 32 * 2 ^ 5 + u.count

/-- BOOTST (R451). -/
def bootstWord (k : HostSide) : Nat :=
  k.bootStage * 2 ^ 8 + k.bootFails.toNat * 4 + (if k.bootMin then 2 else 0) + (if k.bootOk then 1 else 0)

/-- The value of PORTST of a fabric port. -/
def portWord (s : State) (p : Nat) : DWord :=
  Config.portWord (Tab.getD s.host.portst p .down) (Tab.getD s.host.portWidth p 0) (Tab.getD s.host.portErr p 0)

/-- Whether an offset lies in the flash window. -/
def isFlashWindow (off : Nat) : Bool := off == 0x200 || off == 0x208 || decide (0x6000 ≤ off ∧ off < 0x7000)

/-- What a read of BAR0 gives, eight bytes at an aligned offset (R435, R451 to R454, R459); the reserved bits of FLADDR
read 0 (R4), though a command checks them (R454); PORTST shows the port's
mode, width and error count in a layout that is not given (log entry 9). What a register that is out of service reads once the boot
ROM has stopped (R452) is free. -/
def barRead (s : State) (off : Nat) : DWord :=
  let k := (underLease s).host
  if s.host.bootStopped && !(decide (0x100 ≤ off ∧ off < 0x180 ∨ isFlashWindow off)) then
    Config.freeBits 64 (s.fresh * 2 ^ 20 + off)
  else if off = 0x00 then Config.devInfo
  else if off = 0x08 then k.devno.setWidth 64
  else if off = 0x10 then BitVec.ofNat 64 (leaseWord k)
  else if off = 0x20 then k.cntbase
  else if 0x40 ≤ off ∧ off < 0x80 then
    [k.obase, k.osize, k.ohead, k.otail, k.ibase, k.isize, k.ihead, k.itail].getD (off / 8 - 8) 0
  else if off = 0x100 then BitVec.ofNat 64 (bootstWord k)
  else if 0x140 ≤ off ∧ off < 0x160 then BitVec.ofNat 64 (natOf ((k.reason.drop (off - 0x140)).take 8))
  else if off = 0x180 then BitVec.ofNat 64 (k.plim.toNat * 2 ^ 16 + k.throttle)
  else if off = 0x188 then k.temp
  else if off = 0x200 then k.flctl + (if k.flRun.isSome then 0x40 else 0)
  else if off = 0x208 then k.fladdr &&& 0xFFF000
  else if 0x1000 ≤ off ∧ off < 0x1800 then
    BitVec.ofNat 64 (qstatWord (Tab.getD s.queues (off / 8 - 0x200) Queue.reset) (off / 8 - 0x200))
  else if 0x3000 ≤ off ∧ off < 0x3400 then Tab.getD k.hwin (off / 8 - 0x600) 0
  else if 0x4000 ≤ off ∧ off < 0x5000 then Tab.getD k.admits (off / 8 - 0x800) 0
  else if 0x6000 ≤ off ∧ off < 0x7000 then Tab.getD k.flbuf (off / 8 - 0xC00) 0
  else if 0x10000 ≤ off ∧ off < 0x10900 ∧ off % 64 = 0 then portWord s ((off - 0x10000) / 64)
  else 0

/-- A write of the flash window (R454). -/
def writeFlash (s : State) (port : Bit) (off : Nat) (x : DWord) : State :=
  if !flashPort s port then rejectWrite s
  else if off = 0x200 then
    let s := if bitAt x 7 then { s with host := { s.host with flctl := s.host.flctl &&& ~~~0x80 } } else s
    if field x 0 2 = 1 then flashCommand s port false
    else if field x 0 2 = 2 then flashCommand s port true
    else s
  else if off = 0x208 then { s with host := { s.host with fladdr := x } }
  else { s with host := { s.host with flbuf := Tab.set s.host.flbuf (off / 8 - 0xC00) x } }

/-- A write of a ring's register (R440): OTAIL and IHEAD are the device's. -/
def writeRing (s : State) (i : Nat) (x : DWord) : State :=
  let base := x &&& ~~~0xFFF
  let k := s.host
  let k := match i with
    | 0 => { k with obase := base }
    | 1 => { k with osize := x }
    | 2 => { k with ohead := x }
    | 4 => { k with ibase := base }
    | 5 => { k with isize := x }
    | 7 => { k with itail := x }
    | _ => k
  drainOut { s with host := k } k.outHeld.length

/-- A write of a register by the port that holds the lease; one of an unlisted or read-only register does nothing, and
reserved bits read 0 (R4, R437, R445). -/
def writeListed (s : State) (off : Nat) (x : DWord) : State :=
  let k := s.host
  if off = 0x08 then { s with host := { k with devno := x.setWidth 13 } }
  else if off = 0x20 then { s with host := { k with cntbase := x &&& 0x000FFFFFFFFFF001 } }
  else if 0x40 ≤ off ∧ off < 0x80 then writeRing s (off / 8 - 8) x
  else if off = 0x180 then
    (if 800 ≤ field x 16 11 ∧ field x 16 11 ≤ 1600 then { s with host := { k with plim := x.extractLsb' 16 11 } } else s)
  else if 0x1000 ≤ off ∧ off < 0x1800 then
    (if bitAt x 51 then
      { s with queues := Tab.adjust s.queues (off / 8 - 0x200) (fun u => { u with err := false }) }
    else s)
  else if 0x3000 ≤ off ∧ off < 0x3400 then
    (let keep : DWord := if off % 16 = 0 then 0xFFFFFFFFFFE00000 else 0xFFFFFFFF00003FFF
     { s with host := { k with hwin := Tab.set k.hwin (off / 8 - 0x600) (x &&& keep) } })
  else if 0x4000 ≤ off ∧ off < 0x5000 then
    (let keep : DWord := if off % 16 = 0 then 0x000FFFFFFFE00000 else 0xFFFFFFFF00003FFF
     { s with host := { k with admits := Tab.set k.admits (off / 8 - 0x800) (x &&& keep) } })
  else s

/-- A write of eight bytes at an aligned offset of BAR0. -/
def writeRegister (s : State) (port : Bit) (off : Nat) (x : DWord) : State :=
  if off % 8 ≠ 0 then (if holdsLease s port then s else rejectWrite s)
  else if off = 0x108 then
    (if s.host.bootMin && port == 0 && x.setWidth 8 == (0x5A : Byte) then
      boot 4 { s with host := { s.host with bootFails := 0, reason := [] } }
    else if holdsLease s port || (s.host.bootMin && port == 0) then s
    else rejectWrite s)
  else if isFlashWindow off then writeFlash s port off x
  else if s.host.bootStopped then s
  else if off = 0x10 then writeLease s port x
  else if !holdsLease s port then rejectWrite s
  else writeListed s off x

/-- REGISTER_WRITE (R435, R438, R440, R459). -/
def execRegisterWrite (port : Bit) (off : BitVec 20) (x : DWord) (s : State) : Host.Outcome State Fault Refusal :=
  .next (writeRegister (hostTurn s port) port off.toNat x)

/-- OUTBOUND_HEAD_ADVANCE (R440): the host has consumed entries, and entries held on the die are written. -/
def execOutboundHeadAdvance (port : Bit) (head : DWord) (s : State) : Host.Outcome State Fault Refusal :=
  .next (writeRegister (hostTurn s port) port 0x50 head)

/-! ## The launch window (R203, R204, R436) -/

/-- The words of a record slot. -/
def slotWords (s : State) (q slot : Nat) : List DWord :=
  (List.range 8).map (fun i => Tab.getD s.window (128 * q + 8 * slot + i) 0)

/-- The launch of a committed record (R206, R208). -/
def hostLaunch (q slot : Nat) (u : Queue) (ws : List DWord) : Launch :=
  { id := BitVec.ofNat 32 (q * 2 ^ 23 + u.next.toNat), hm := BitVec.ofNat 14 (field (ws.getD 0 0) 0 13), queue := q,
    child := false, seq := u.next.toNat, slot := slot, words := ws, depth := 0, parent := none, nextTeam := 0,
    again := [], failed := false, cancelled := false, retired := false, digests := [] }

/-- Commit a record (R204, R207): it is checked at once, and its queue advances. -/
def commitRecord (s : State) (q slot : Nat) : State :=
  let u := Tab.getD s.queues q Queue.reset
  if slot ≠ u.tail.toNat ∨ 16 ≤ u.count then queueError s q 6 slot
  else
    let l := hostLaunch q slot u (slotWords s q slot)
    let s := { s with
      launches := Tab.set s.launches (s.stamp + 1) l, stamp := s.stamp + 1,
      queues := Tab.set s.queues q { u with tail := u.tail + 1, next := u.next + 1 } }
    let s := tidyQueue s q
    match recordCode s l.hm q l with
    | some c => rejectLaunch (queueError s q c slot) s.stamp
    | none => s

/-- LAUNCH_COMMIT (R204, R436): an aligned eight-byte write to bytes 0x38 to 0x3F of a record slot. -/
def launchCommit (s : State) (port : Bit) (q slot : Nat) (x : DWord) : State :=
  if s.host.bootStopped then s
  else if !holdsLease s port then rejectWrite s
  else commitRecord { s with window := Tab.set s.window (128 * q + 8 * slot + 7) x } q slot

def execLaunchCommit (port : Bit) (q : BitVec 8) (slot : BitVec 4) (x : DWord) (s : State) :
    Host.Outcome State Fault Refusal := .next (launchCommit (hostTurn s port) port q.toNat slot.toNat x)

/-- A byte of the launch window, and a write of one. -/
def windowByte (s : State) (o : Nat) : Byte :=
  BitVec.ofNat 8 ((Tab.getD s.window (o / 8) 0).toNat / 2 ^ (8 * (o % 8)))
def setWindowByte (s : State) (o : Nat) (b : Byte) : State :=
  let bs := patch (bytesOf 8 (Tab.getD s.window (o / 8) 0).toNat) (o % 8) [b]
  { s with window := Tab.set s.window (o / 8) (BitVec.ofNat 64 (natOf bs)) }

/-! ## Host accesses to memory (R436, R437, R256) -/

/-- The sizes of the ranges and of the launch window. -/
def range0Size : Nat := 0x5960000000
def windowSize : Nat := 0x40000

/-- The HWIN entry that covers an offset: the lowest; its hallmark. -/
def hwinAt (s : State) (x : Nat) : Option Hm :=
  (List.range 64).findSome? (fun w =>
    let a := Tab.getD s.host.hwin (2 * w) 0
    let b := Tab.getD s.host.hwin (2 * w + 1) 0
    let base := field a 21 43 * 2 ^ 21
    if base ≤ x ∧ x < base + field b 32 32 * 2 ^ 21 then some (b.extractLsb' 0 14) else none)

/-- The hallmark of a host access to a line of range 0; none where no entry covers it or its context has ended. -/
def hostHm (s : State) (x : Nat) : Option Hm :=
  if range0Size ≤ x then none else (hwinAt s x).filter (fun hm => !s.ended.contains hm.toNat)

/-- A host write to bytes of one line of range 0. -/
def hostWriteLine (s : State) (x : Nat) (bs : List Byte) : State :=
  match hostHm s x with
  | none => s
  | some hm =>
    let k := keyOf s hm false
    homeWrite s .home hm k.1 k.2 false x bs

/-- A host read of bytes of one line of range 0: the bytes, and poison. -/
def hostReadLine (s : State) (x n : Nat) : State × List Byte × Bool :=
  match hostHm s x with
  | none => (s, List.replicate n 0xFF, true)
  | some hm =>
    let k := keyOf s hm false
    let r := homeRead s .home hm k.1 k.2 false x n
    (r.2, r.1, isPoisoned s x n)

/-- A host write to range 1: the launch window's bytes, with a commit where it is one (R204); the rest ignores it. -/
def writeWindow (s : State) (port : Bit) (o : Nat) (bs : List Byte) : State :=
  if bs.length = 8 ∧ o % 64 = 0x38 ∧ o < windowSize then
    launchCommit s port (o / 1024) (o / 64 % 16) (BitVec.ofNat 64 (natOf bs))
  else (bs.mapIdx (fun i b => (o + i, b))).foldl
    (fun s p => if p.1 < windowSize then setWindowByte s p.1 p.2 else s) s

/-- A host write at a CXL.mem address: bit 47 selects the range (log entry 27). -/
def hostWrite (s : State) (port : Bit) (a : Nat) (bs : List Byte) : State :=
  if a < 2 ^ 47 then (linePieces a bs bs.length).foldl (fun s p => hostWriteLine s p.1 p.2) s
  else writeWindow s port (a - 2 ^ 47) bs

/-- A host read at a CXL.mem address. -/
def hostRead (s : State) (a n : Nat) : State × List Byte × Bool :=
  if a < 2 ^ 47 then
    (linePieces a (List.replicate n 0) n).foldl (fun r p =>
      let x := hostReadLine r.1 p.1 p.2.length
      (x.1, r.2.1 ++ x.2.1, r.2.2 || x.2.2)) (s, [], false)
  else
    (s, (List.range n).map (fun i =>
      if a - 2 ^ 47 + i < windowSize then windowByte s (a - 2 ^ 47 + i) else 0xFF), false)

/-- HOST_MEMORY_ACCESS (R436, R437). -/
def execHostMemoryAccess (port : Bit) (write : Bool) (a : BitVec 48) (data : List Byte) (s : State) :
    Host.Outcome State Fault Refusal :=
  .next (
    let s := hostTurn s port
    if !portUsable s port || s.host.bootStopped then s
    else if write then hostWrite s port a.toNat data
    else
      let r := hostRead s a.toNat data.length
      { r.1 with host := { r.1.host with hostOut := r.1.host.hostOut ++ [⟨port, r.2.1, r.2.2⟩] } })

/-! ## Snoops and ports (R53, R439) -/

/-- Write a host's own memory from the host's side. -/
def hostOwnWrite (s : State) (a : Nat) (bs : List Byte) : State :=
  let s := dropICache (dropLine (writeOver s a bs.length) (a / 64)) (a / 64)
  { s with
    mem := writeBytes s.mem a bs
    poison := (sectorPieces a bs bs.length).foldl
      (fun t p => if p.2.length = 16 then Tab.del t (p.1 / 16) else t) s.poison }

/-- HOST_SNOOP (R53): the filter answers; the device's line is written back, and for a host's write it leaves the die
before the host's bytes change. -/
def execHostSnoop (a : BitVec 48) (write : Bool) (data : List Byte) (s : State) : Host.Outcome State Fault Refusal :=
  .next ((linePieces (2 ^ 48 + a.toNat) data data.length).foldl
    (fun s p => if write then hostOwnWrite s p.1 p.2 else writeBackLine s (p.1 / 64)) (hostLink s))

/-- HOST_PORT_DOWN (R439): the host-memory lines cached from that host are dropped without write-back. -/
def execHostPortDown (port : Bit) (s : State) : Host.Outcome State Fault Refusal :=
  .next (
    let lines := (s.lines.filter (fun e => isHost (64 * e.1) && e.2.port == port)).map Prod.fst
    let s := lines.foldl discardLine s
    { s with host := { s.host with portsUp := s.host.portsUp.filter (fun p => p != port) } })

end Sys2Proof.Machine
end

