-- ==== Sys2Proof/Machine/Fabric.lean ====
section
/-!
DEFINITION. The fabric ports (R443 to R446): inbound requests and their admission, requests without an answer, flits
replayed, and ports that change state.
-/

namespace Sys2Proof.Machine

/-! ## Admission (R445, R446) -/

/-- An ADMIT entry: base, size in bytes, hallmark. -/
def admitEntry (s : State) (i : Nat) : Nat × Nat × Hm :=
  let a := Tab.getD s.host.admits (2 * i) 0
  let b := Tab.getD s.host.admits (2 * i + 1) 0
  (field a 21 31 * 2 ^ 21, field b 32 32 * 2 ^ 21, b.extractLsb' 0 14)

/-- The hallmark under which a request is admitted: on Uatin its own, which a covering entry names; on UALink that of the
lowest covering entry. Its context must be valid and not ended, and the request must name this device (log entry 54). -/
def admitted (s : State) (r : UatinReq) : Option Hm :=
  let x := r.addr.toNat
  let hms := (List.range 256).filterMap (fun i =>
    let e := admitEntry s i
    if e.1 ≤ x ∧ x + r.size ≤ e.1 + e.2.1 then some e.2.2 else none)
  let here := bitAt s.host.devno 12 && s.host.devno.setWidth 12 == r.dest
  let pick := if r.ualink then hms.head? else hms.find? (fun hm => hm = r.hm)
  if !here ∨ localSize ≤ x ∨ 64 < x % 64 + r.size then none else pick.filter (fun hm => (descOf s hm).v)

/-! ## Serving a request (R444, R374) -/

/-- The operation of an atomic code (R307). -/
def atomOp (code : Nat) : Option AtomOp :=
  ([.add, .min, .max, .and, .or, .xor, .exch, .cas, .addcl, .subcl, .fadd, .fmin, .fmax, .minU, .maxU] :
    List AtomOp)[code]?

/-- Write the bytes of a sector that a mask selects; all of them at once where it selects them all. -/
def maskedWrite (s : State) (hm : Hm) (a : Nat) (bs : List (Bool × Byte)) : State :=
  let k := keyOf s hm false
  if bs.all Prod.fst then homeWrite s .home hm k.1 k.2 false a (bs.map Prod.snd)
  else (bs.mapIdx (fun i b => (a + i, b))).foldl
    (fun s p => if p.2.1 then homeWrite s .home hm k.1 k.2 false p.1 [p.2.2] else s) s

/-- Write the selected bytes, sector by sector. -/
def maskedPieces (s : State) (hm : Hm) (a : Nat) (bs : List (Bool × Byte)) : Nat → State
  | 0 => s
  | n + 1 =>
    if bs.isEmpty then s
    else
      let k := 16 - a % 16
      maskedPieces (maskedWrite s hm a (bs.take k)) hm (a + k) (bs.drop k) n

/-- Send a response under the hallmark that the request is served for (R253); none travels on UALink (R446). -/
def uatinReply (s : State) (r : UatinReq) (hm : Hm) (data : List Byte) (poison refused : Bool) : State :=
  { s with host := { s.host with uatinOut := s.host.uatinOut ++ [⟨r.source, s.host.devno.setWidth 12, if r.ualink then none else some hm, r.tag, data, poison, refused⟩] } }

/-- Data that arrives with the poison bit poisons the sectors of local HBM that it is written to (R256). -/
def arrivePoison (r : UatinReq) (s : State) : State :=
  if !r.poison then s
  else
    let bytes := (List.range r.size).filter (fun i => bitAt r.mask i)
    { s with poison := bytes.foldl (fun t i => Tab.set t ((r.addr.toNat + i) / 16) true) s.poison }

/-- Serve an admitted request under a hallmark. -/
def serveUatin (s : State) (r : UatinReq) (hm : Hm) : State :=
  let a := r.addr.toNat
  let k := keyOf s hm false
  match r.op with
  | .read =>
    let x := homeRead s .home hm k.1 k.2 false a r.size
    uatinReply x.2 r hm x.1 (isPoisoned s a r.size) false
  | .write =>
    let bs := (List.range r.size).map (fun i => (bitAt r.mask i, r.data.getD i 0))
    uatinReply (arrivePoison r (maskedPieces s hm a bs r.size)) r hm [] false false
  | .atomic code =>
    match atomOp code.toNat with
    | none => uatinReply s r hm [] false true
    | some op =>
      if isPoisoned s a r.size then uatinReply s r hm (List.replicate r.size 0) true false
      else
        let x := homeRead s .home hm k.1 k.2 false a r.size
        let s := match atomWrite op r.size (natOf r.data) (natOf x.1) with
          | some y => homeWrite x.2 .home hm k.1 k.2 false a (bytesOf r.size y)
          | none => x.2
        uatinReply s r hm x.1 false false

/-- Whether a request can arrive by its port: the port is up in the mode of the request (R443, R446). -/
def portTakes (s : State) (r : UatinReq) : Bool :=
  match Tab.getD s.host.portst (routePort (r.source.toNat * 2 ^ 39)) .down with
  | .uatin => !r.ualink
  | .ualink => r.ualink
  | .down | .ethernet => false

/-- UATIN_REQUEST (R45, R443 to R446): admitted and served, or refused; dropped, for the link layer to retry, while the
routing tables are being reset (R260). No request arrives by a port that is not up in its mode. -/
def execUatinRequest (r : UatinReq) (s : State) : Host.Outcome State Fault Refusal :=
  .next (
    if routingDown s || !portTakes s r then s
    else
      let s := countFlits s (264 + routePort (r.source.toNat * 2 ^ 39))
      match admitted s r with
      | some hm => serveUatin (holdDesc s hm) r hm
      | none => uatinReply s r r.hm [] false true)

/-- UATIN_TIMEOUT (R445): a store unanswered for 100 µs is lost (R241); any other number stands for the next read or
atomic, which ends as poison with carrier 0x05. -/
def execUatinTimeout (n : Nat) (s : State) : Host.Outcome State Fault Refusal :=
  if n < s.stores.length then execRemoteStoreLost n s else .next { s with unanswered := s.stamp + 1 }

/-! ## Ports (R442 to R444, R452) -/

/-- FLIT_REPLAY (R444, R290): the port counts a link retry. -/
def execFlitReplay (p : Fin 36) (s : State) : Host.Outcome State Fault Refusal :=
  .next (countUnit { s with host := { s.host with
    portErr := Tab.set s.host.portErr p.val (Tab.getD s.host.portErr p.val 0 + 1) } } (264 + p.val) 2 1)

/-- Whether a port may train in a mode: Ethernet on ports 28 to 35, Uatin and UALink once DEVNO.V is set, UALink with
DEVNO[11:10] zero, and none in minimal mode (R435, R443, R446, R452). -/
def mayTrain (s : State) (p : Nat) (st : PortMode) : Bool :=
  match st with
  | .down => true
  | .ethernet => decide (28 ≤ p) && !s.host.bootMin
  | .uatin => bitAt s.host.devno 12 && !s.host.bootMin
  | .ualink => bitAt s.host.devno 12 && field s.host.devno 10 2 == 0 && !s.host.bootMin

/-- PORT_STATE_CHANGE (R442, R443): the port trains to a width of its own, a free value (R435; log entry 9). -/
def execPortStateChange (p : Fin 36) (st : PortMode) (s : State) : Host.Outcome State Fault Refusal :=
  .next (
    if !mayTrain s p.val st then s
    else { s with
      fresh := s.fresh + 1
      host := { s.host with
        portst := Tab.set s.host.portst p.val st
        portWidth := Tab.set s.host.portWidth p.val (Config.freeBits 8 s.fresh)
        msix := s.host.msix ++ [(actPort s, 10)] } })

end Sys2Proof.Machine
end

