-- ==== Sys2Proof/Machine/System.lean ====
section
/-!
DEFINITION. The privileged instructions but MFSR and MTSR (R422 to R432, R469).
-/

namespace Sys2Proof.Machine

/-- The bit that a privileged instruction pushes: whether it acted (R422). -/
def acted (b : Bool) : Act Out := resultPush 0 b

/-- The shape of a privileged instruction. -/
def sysShape (h : Head) (op : Nat) (d : Dst) (words : Nat) (push : Bool) : Shape :=
  { head := h, op := op, dst := d, words := words, perLane := true, push := push }

/-! ## What ERET reports (R424) -/

/-- The pending-work summary. -/
def workSummary (s : State) (c : Nat) : Nat :=
  let k := coreAt s c
  (if reportHeld s then 1 else 0) + (if k.dugout.isEmpty then 0 else 2) + (if engFaultPending k then 4 else 0) +
    (if (inboundWords s).any (inboundFor c) then 8 else 0) + (if savePending s c then 16 else 0)

/-! ## RPLY, PARK and KILL (R226, R237, R250, R425) -/

/-- The reply in a thread's mailbox; where it cannot be read, a free value (log entry 9). -/
def mailboxReply (s : State) (c : Nat) (t : Thread) : List Word :=
  let w := wgAt s t.home
  match (ctxRead s c w.hm (mailboxAt s w t.tidx + 0x28) 16).2 with
  | some bs => (List.range 4).map (fun k => BitVec.ofNat 32 (natOf ((bs.drop (4 * k)).take 4)))
  | none => (List.range 4).map (fun k => Config.freeBits 32 (s.fresh * 4 + k))

/-- Resume one parked thread at its instruction (R226, R425): a service call completes, a breakpoint or a watched access
is let through once, and everything else is issued again. -/
def resumeThread (s : State) (c n l : Nat) (cause : Byte) : State :=
  match threadAt s c n l with
  | none => s
  | some t =>
    if cause = 0x70 then completeCall s c n l (mailboxReply s c t)
    else
      let pass : Option Pass := if cause = 0x60 then some .bkpt else if cause = 0x61 then some .watch else none
      modThread s c n l (fun t => { t with st := .ready, pass := pass, due := [], park := none })

/-- An entry of a core's dugout. -/
def entryAt (s : State) (c e : Nat) : Option DugEntry := Tab.get? (coreAt s c).dugout e

/-- Replay the lanes of a park. -/
def replayLanes (s : State) (c : Nat) (d : DugEntry) : State :=
  meetings ((lanesOf d.lanes).foldl (fun s l => resumeThread s c d.slot l d.cause) s) c d.slot

/-- RPLY of an entry (R425). -/
def replayEntry (s : State) (c e : Nat) : State :=
  match entryAt s c e with
  | none => s
  | some d => freeEntry (replayLanes s c d) c e

/-- RPLY (R425). -/
def execRply (h : Head) (a : Src) (s : State) : Host.Outcome State Fault Refusal :=
  privileged s (sysShape h 0x3E3 .zero 0 true) [rdI a 1] (fun _ v => do
    let s ← get
    setState (replayEntry s s.iss.core (v.getD 0 0))
    acted (entryAt s s.iss.core (v.getD 0 0)).isSome)

/-- Deliver the cause of a park as a signal to each of its threads (R237). -/
def signalLanes (s : State) (c : Nat) (d : DugEntry) : State :=
  (lanesOf d.lanes).foldl (fun s l =>
    deliverSignal s c d.slot l d.cause d.detail (d.addrs.headD 0) d.info false d.pc) s

/-- RPLY.sig of an entry (R237, R425). -/
def signalEntry (s : State) (c e : Nat) : State :=
  match entryAt s c e with
  | none => s
  | some d => freeEntry (signalLanes s c d) c e

/-- RPLY.sig (R228, R232, R425): an entry that waits on an engine command is never delivered as a signal. -/
def execRplySig (h : Head) (a : Src) (s : State) : Host.Outcome State Fault Refusal :=
  privileged s (sysShape h 0x3E3 .zero 0 true) [rdI a 1] (fun _ v => do
    let s ← get
    match entryAt s s.iss.core (v.getD 0 0) with
    | none => acted false
    | some d =>
      if d.eng then acted false
      else do
        setState (signalEntry s s.iss.core (v.getD 0 0))
        acted true)

/-- The detached threads of a user slot that a lane mask names, with their causes (R226). -/
def detachedIn (s : State) (c n : Nat) (m : Word) : List (Nat × Byte) :=
  if 16 ≤ n then []
  else
    (slotAt s c n).threads.filterMap (fun e =>
      match e.2.st with
      | .detached cause _ => if bitAt m e.1 then some (e.1, cause) else none
      | _ => none)

/-- RPLY.det (R425). -/
def execRplyDet (h : Head) (a b : Src) (s : State) : Host.Outcome State Fault Refusal :=
  privileged s (sysShape h 0x3E3 .zero 0 true) [rdI a 1, rdI b 1] (fun _ v => do
    let s ← get
    let c := s.iss.core
    let n := v.getD 0 0
    let ds := detachedIn s c n (BitVec.ofNat 32 (v.getD 1 0))
    if ds.isEmpty then acted false
    else do
      setState (meetings (ds.foldl (fun s d => resumeThread s c n d.1 d.2) s) c n)
      acted true)

/-- PARK (R226, R425). -/
def execPark (h : Head) (a : Src) (s : State) : Host.Outcome State Fault Refusal :=
  privileged s (sysShape h 0x3E4 .zero 0 true) [rdI a 1] (fun _ v => do
    let s ← get
    let c := s.iss.core
    match entryAt s c (v.getD 0 0) with
    | none => acted false
    | some d => do
      let s := (lanesOf d.lanes).foldl (fun s l =>
        modThread s c d.slot l (fun t => { t with st := .detached d.cause d.detail, park := some d.park })) s
      setState (freeEntry s c (v.getD 0 0))
      acted true)

/-- Whether a launch is marked `.restartable` (R206). -/
def restartable (s : State) (t : Nat) : Bool := ((teamLaunch s t).map (fun l => l.flag 2)).getD false

/-- A reason that Ninal gives: one outside R252's table is taken as a host request (R425). -/
def killReason (b : Byte) : Byte := if 1 ≤ b.toNat ∧ b.toNat ≤ 8 then b else 0x08

/-- KILL (R250, R252, R425); a team killed for an error of its state or an assay mismatch is placed again where its
launch is `.restartable` (R258, R263). -/
def execKill (h : Head) (a b : Src) (s : State) : Host.Outcome State Fault Refusal :=
  privileged s (sysShape h 0x3E5 .zero 0 true) [rdI a 1, rdI b 1] (fun _ v => do
    let s ← get
    let n := v.getD 0 0
    match if n < 16 then (slotAt s s.iss.core n).wg else none with
    | none => acted false
    | some g => do
      let t := (wgAt s g).team
      let r := killReason (BitVec.ofNat 8 (v.getD 1 0))
      setState (killTeam s t r (restartable s t && (r == 0x05 || r == 0x06)) Blame.none)
      acted true)

/-! ## TLBI (R35 to R37, R426) -/

/-- Invalidate every translation of a context and its descriptor copy; the ended mark clears (R257). -/
def tlbiContext (s : State) (hm : Hm) : State :=
  if !isContext hm then s
  else
    let s := tlbInvalidate s (fun x => x == hm) (fun e => e.hm == hm) (fun p => p.hm == hm)
    { s with descs := Tab.del s.descs hm.toNat, ended := s.ended.filter (fun n => n != hm.toNat) }

/-- Whether a table pointer's span meets a range of 4 KiB pages. -/
def ptrMeets (p : WalkPtr) (lo n : Nat) : Bool :=
  let log := 9 * (p.level - 1)
  decide (p.va * 2 ^ log < lo + n ∧ lo < (p.va + 1) * 2 ^ log)

/-- Invalidate a context's translations of a range of pages. -/
def tlbiRange (s : State) (hm : Hm) (lo n : Nat) : State :=
  if !isContext hm || n == 0 then s
  else tlbInvalidate s (fun x => x == hm) (fun e => e.hm == hm && meets e lo n) (fun p => p.hm == hm && ptrMeets p lo n)

/-- Invalidate every translation and descriptor copy. -/
def tlbiEvery (s : State) : State := { tlbInvalidate s (fun _ => true) (fun _ => true) (fun _ => true) with descs := [] }

/-- Perform a TLBI once for the path, with the operands of its lowest active lane; the umpire's run breaks (R426). -/
def tlbiOnce (s : State) (h : Head) (rs : List Rd) (f : State → List Nat → State) : Host.Outcome State Fault Refusal :=
  let i := s.iss
  match privileged s (sysShape h 0x3E6 .zero 0 false) rs (fun l v => do
    let s ← get
    if (activeLanes s h.guard).headD l = l then setState (f s v)
    pure {}) with
  | .next s => .next (finishRun s i.core i.quarter 2)
  | o => o

/-- TLBI.ctx (R426). -/
def execTlbiCtx (h : Head) (a : Src) (s : State) : Host.Outcome State Fault Refusal :=
  tlbiOnce s h [rdI a 1] (fun s v => tlbiContext s (BitVec.ofNat 14 (v.getD 0 0)))

/-- TLBI.rng (R426). -/
def execTlbiRng (h : Head) (a b c : Src) (s : State) : Host.Outcome State Fault Refusal :=
  tlbiOnce s h [rdI a 1, rdI b 2, rdI c 1] (fun s v =>
    tlbiRange s (BitVec.ofNat 14 (v.getD 0 0)) (v.getD 1 0 / 4096) (v.getD 2 0))

/-- TLBI.all (R426). -/
def execTlbiAll (h : Head) (s : State) : Host.Outcome State Fault Refusal := tlbiOnce s h [] (fun s _ => tlbiEvery s)

/-! ## POOLRD and POOLWR (R110, R427) -/

/-- The word of the pool that a page and a byte offset name. -/
def poolIndex (page off : Nat) : Nat := 4096 * (page % 64) + off / 4 % 4096

/-- POOLRD.map (R427). -/
def execPoolrdMap (h : Head) (d : Dst) (a : Src) (s : State) : Host.Outcome State Fault Refusal :=
  privileged s (sysShape h 0x3E7 d 1 true) [rdI a 1] (fun _ v => do
    let s ← get
    resultPush (Tab.getD (coreAt s s.iss.core).pageMap (v.getD 0 0 % 64) 0).toNat true)

/-- What POOLRD.dat answers (R427): the word, or, at a page with an uncorrectable error that nothing has met before, 0 and
a free value; that error is contained as the step ends (R258, log entry 23). -/
def readPool (p off : Nat) : Act Out := do
  let s ← get
  let c := s.iss.core
  if s.badPages.contains (c, p) then
    setState { s with
      badPages := s.badPages.filter (fun x => x != (c, p)), metPages := s.metPages ++ [(c, p)], fresh := s.fresh + 1 }
    resultPush (Config.freeBits 32 s.fresh).toNat false
  else resultPush (poolWord (coreAt s c) (poolIndex p off)).toNat true

/-- POOLRD.dat (R427). -/
def execPoolrdDat (h : Head) (d : Dst) (a b : Src) (s : State) : Host.Outcome State Fault Refusal :=
  privileged s (sysShape h 0x3E7 d 1 true) [rdI a 1, rdI b 1] (fun _ v =>
    readPool (v.getD 0 0 % 64) (v.getD 1 0))

/-- Write the HM, OWN, KIND and IDX of a page-map entry (R110, R427). -/
def writeMap (k : Core) (p : Nat) (x : Word) : Core :=
  let y := (Tab.getD k.pageMap p 0 &&& 0x0000001F) ||| (x &&& 0xFFFFFFE0)
  { k with pageMap := Tab.put k.pageMap p (if y = 0 then none else some y) }

/-- Whether a running workgroup holds a page: one of a user slot with a live thread that has not stopped (R427). -/
def pageRuns (s : State) (c p : Nat) : Bool :=
  let x := Tab.getD (coreAt s c).pageMap p 0
  decide (field x 11 2 ≠ 0 ∧ field x 13 5 < 16) &&
    (match (slotAt s c (field x 13 5)).wg with
     | some h => (threadsOf s h).any (fun t => t.2.2.live && !t.2.2.held)
     | none => false)

/-- A write to a page that a running workgroup holds leaves the page's values undefined (R427): they become free values,
those just written among them (log entry 50). -/
def disturbPage (s : State) (c p : Nat) (runs : Bool) : State :=
  if runs then
    let ws := (List.range 4096).filterMap (fun i =>
      let x : Word := Config.freeBits 32 (s.fresh * 4096 + i)
      if x = 0 then none else some (4096 * p + i, x))
    modCore { s with fresh := s.fresh + 1 } c (fun k =>
      { k with
        pool := k.pool.filter (fun e => decide (e.1 < 4096 * p)) ++ ws ++ k.pool.filter (fun e => decide (4096 * (p + 1) ≤ e.1))
        cleanPool := k.cleanPool.filter (fun e => e.1 / 16 != p) })
  else s

/-- POOLWR.map (R427). -/
def execPoolwrMap (h : Head) (a b : Src) (s : State) : Host.Outcome State Fault Refusal :=
  privileged s (sysShape h 0x3E8 .zero 0 false) [rdI a 1, rdI b 1] (fun _ v => do
    let s ← get
    let p := v.getD 0 0 % 64
    let runs := pageRuns s s.iss.core p
    setState (disturbPage (modCore s s.iss.core (fun k => writeMap k p (BitVec.ofNat 32 (v.getD 1 0)))) s.iss.core p runs)
    pure {})

/-- POOLWR.dat (R427); the fault records are read-only (R5, R224). -/
def execPoolwrDat (h : Head) (a b c : Src) (s : State) : Host.Outcome State Fault Refusal :=
  privileged s (sysShape h 0x3E8 .zero 0 false) [rdI a 1, rdI b 1, rdI c 1] (fun _ v => do
    let s ← get
    let i := poolIndex (v.getD 0 0) (v.getD 1 0)
    let s' := modCore s s.iss.core (fun k => if recordWord k i then k else setPoolWord k i (BitVec.ofNat 32 (v.getD 2 0)))
    setState (disturbPage s' s.iss.core (v.getD 0 0 % 64) (pageRuns s s.iss.core (v.getD 0 0 % 64)))
    pure {})

/-! ## CPYP (R428) -/

/-- The checks of a CPYP's block: reserved fields, alignment and range. -/
def cpypChecks (b : List DWord) : Option Outcome :=
  let len := cpypLen b
  let limit := if cpypBuf b then 262144 else 16384
  let start := (if cpypBuf b then 1024 * cpypUnit b else 0) + cpypOff b
  firstFail
    [(decide (field (blkW b 1) 0 8 ≠ 0 ∨ field (blkW b 2) 14 50 ≠ 0) || (b.drop 3).take 4 != [0, 0, 0, 0], (0x44, 0x01)),
     (decide ((blkW b 0).toNat % 16 ≠ 0 ∨ len % 16 ≠ 0 ∨ cpypOff b % 16 ≠ 0), (0x44, 0x04)),
     (decide (len < 16 ∨ 16384 < len ∨ limit < start + len ∨ (cpypBuf b = false ∧ 64 ≤ cpypUnit b)), (0x44, 0x05))]

/-- CPYP (R428): an engine command of the umpire's own tags, under the hallmark that its block names. -/
def execCpyp (h : Head) (e : EBlock) (t : BitVec 6) (s : State) : Host.Outcome State Fault Refusal :=
  privileged s { head := h, op := 0x3E9 } [blockRd e] (fun l v => do
    let (g, o, b) ← blockAt l e (v.getD 0 0) 64 64
    failing (cpypChecks b)
    let s ← get
    failing (firstFail [(streamOn s g t.toNat, (0x44, 0x0A))])
    takeEntryFor (fun s => copyRoom s g) .copyEntry (fun s =>
      let c := (wgAt s g).core
      let n := (Tab.freeKey (coreAt s c).copyQ 64 0).getD 0
      modCopy (enqueueCopy s l g .cpyp b o t none []) c n (fun e => { e with hm := cpypHm b })))

/-! ## SVRESP (R235, R429) -/

/-- The detail of the service call that a thread is parked in: 2 for an SVCQ. -/
def callDetail (s : State) (c : Nat) (t : Thread) : Byte :=
  match t.st with
  | .parked e => ((entryAt s c e).map DugEntry.detail).getD 0
  | .detached _ d => d
  | _ => 0

/-- The thread on a core that is parked in a service call whose mailbox lies at an address of a context. -/
def callerAt (s : State) (c : Nat) (hm : Hm) (va : DWord) : Option (Nat × Nat) :=
  (openCalls s c).find? (fun x =>
    match threadAt s c x.1 x.2 with
    | some t => let w := wgAt s t.home; w.hm == hm && mailboxAt s w t.tidx == va
    | none => false)

/-- Answer a call at a mailbox, in one step (R429): where ST is 01 and CID is the id, RES is written and ST becomes 10 as
a release at system scope; a thread parked on the core is resumed. -/
def answerCall (s : State) (c : Nat) (hm : Hm) (p : Place) (va : DWord) (cid : Nat) (res : List Word) : State × Bool :=
  let r := readPlace s .home hm p false 8
  let x := natOf r.1
  if x / 2 ^ 48 % 4 = 1 ∧ x % 2 ^ 32 = cid then
    let s := releaseRemote r.2 hm
    let s := writePlace s .home hm { p with home := p.home + 0x28 } false (res.flatMap (fun w => bytesOf 4 w.toNat))
    let s := writePlace s .home hm p false (bytesOf 8 (2 ^ 49 + x % 2 ^ 48))
    let y := callerAt s c hm va
    let q := match y.bind (fun y => threadAt s c y.1 y.2) with
      | some t => callDetail s c t == 2
      | none => false
    let s := if q then s else doneCall s hm va (BitVec.ofNat 32 cid) res
    match y with
    | some y => (completeCall s c y.1 y.2 res, true)
    | none => (s, true)
  else (r.2, false)

/-- SVRESP (R429). -/
def execSvresp (h : Head) (a b c : Src) (s : State) : Host.Outcome State Fault Refusal :=
  privileged s (sysShape h 0x3EA .zero 0 true) [rdI a 2, rdI b 4, rdI c 1] (fun l v => do
    let va : DWord := BitVec.ofNat 64 (v.getD 0 0)
    let p ← checkGlobal l va 64 true true false false
    consume p va 64 (accInfo 64 true false false) none
    let s ← get
    if releaseStalls s (accessHm s s.iss.core s.iss.slot) then throw (.stall none)
    let i := s.iss
    let res := (List.range 4).map (fun k => BitVec.ofNat 32 (v.getD 1 0 / 2 ^ (32 * k)))
    let r := answerCall s i.core (accessHm s i.core i.slot) p va (v.getD 2 0) res
    setState r.1
    acted r.2)

/-! ## ERST (R233, R430, R469) -/

/-- Whether an entry holds a stopped command. -/
def copyStopped (s : State) (c n : Nat) : Bool := ((copyAt s c n).map (fun e => e.st == .stopped)).getD false
def mtxStopped (s : State) (c n : Nat) : Bool := ((mtxAt s c n).map (fun e => e.st == .stopped)).getD false

/-- Restart a stopped command from P (R98, R233). -/
def restartCopy (s : State) (c n : Nat) : State :=
  modCore (modCopy s c n (fun e => { e with st := .running, ahead := [] })) c (fun k =>
    { k with engFaults := k.engFaults.filter (fun m => m != n) })
def restartMtx (s : State) (c n : Nat) : State :=
  modCore (modMtx s c n (fun e => { e with st := .running, ahead := [] })) c (fun k =>
    { k with drainFaults := k.drainFaults.filter (fun m => m != n) })

/-- ERST (R430). -/
def execErst (h : Head) (a : Src) (s : State) : Host.Outcome State Fault Refusal :=
  privileged s (sysShape h 0x3EB .zero 0 true) [rdI a 1] (fun _ v => do
    let s ← get
    let n := v.getD 0 0
    if copyStopped s s.iss.core n then do
      setState (restartCopy s s.iss.core n)
      acted true
    else acted false)

/-- ERST.mtx (R430). -/
def execErstMtx (h : Head) (a : Src) (s : State) : Host.Outcome State Fault Refusal :=
  privileged s (sysShape h 0x3EB .zero 0 true) [rdI a 1] (fun _ v => do
    let s ← get
    let n := v.getD 0 0
    if mtxStopped s s.iss.core n then do
      setState (restartMtx s s.iss.core n)
      acted true
    else acted false)

/-- The queue pair that a network fault record of a core names. -/
def netFaultAt (s : State) (c n : Nat) : Option (BitVec 12) := Tab.get? (coreAt s c).netFaults n

/-- Retry the access that a record names, and let its pair go on (R469). -/
def retryNet (s : State) (c n : Nat) (q : Nat) : State :=
  let s := modQp (freeNetRecord s c n) q (fun p => { p with stopped := false })
  netRun s q (netTurns s q)

/-- End the faulting request and its pair as R469's table states. -/
def failNet (s : State) (c n : Nat) (q : Nat) : State :=
  let s := stepFails (freeNetRecord s c n) q
  netRun s q (netTurns s q)

/-- ERST.net (R469). -/
def execErstNet (h : Head) (a : Src) (s : State) : Host.Outcome State Fault Refusal :=
  privileged s (sysShape h 0x3EB .zero 0 true) [rdI a 1] (fun _ v => do
    let s ← get
    match netFaultAt s s.iss.core (v.getD 0 0) with
    | none => acted false
    | some q => do
      setState (retryNet s s.iss.core (v.getD 0 0) q.toNat)
      acted true)

/-- The cause and detail that a failing ERST gives (R430). -/
def erstFailure (b : Nat) : CmdEnd := .failed (BitVec.ofNat 8 b) (BitVec.ofNat 8 (b / 256))

/-- ERST.fail (R233, R430). -/
def execErstFail (h : Head) (a b : Src) (s : State) : Host.Outcome State Fault Refusal :=
  privileged s (sysShape h 0x3EB .zero 0 true) [rdI a 1, rdI b 1] (fun _ v => do
    let s ← get
    let n := v.getD 0 0
    if copyStopped s s.iss.core n then do
      setState (endCopy s s.iss.core n (erstFailure (v.getD 1 0)))
      acted true
    else acted false)

/-- ERST.fail.mtx (R233, R430). -/
def execErstFailMtx (h : Head) (a b : Src) (s : State) : Host.Outcome State Fault Refusal :=
  privileged s (sysShape h 0x3EB .zero 0 true) [rdI a 1, rdI b 1] (fun _ v => do
    let s ← get
    let n := v.getD 0 0
    if mtxStopped s s.iss.core n then do
      setState (endMtx s s.iss.core n (erstFailure (v.getD 1 0)))
      acted true
    else acted false)

/-- ERST.fail.net (R430, R469): b is ignored. -/
def execErstFailNet (h : Head) (a b : Src) (s : State) : Host.Outcome State Fault Refusal :=
  privileged s (sysShape h 0x3EB .zero 0 true) [rdI a 1, rdI b 1] (fun _ v => do
    let s ← get
    match netFaultAt s s.iss.core (v.getD 0 0) with
    | none => acted false
    | some q => do
      setState (failNet s s.iss.core (v.getD 0 0) q.toNat)
      acted true)

/-! ## KEYLD and HMCHK (R43, R431, R432, R450) -/

/-- Whether the issuing lanes fetch from the firmware region (R450). -/
def fromFirmware (s : State) : Bool :=
  let t := threadAt s s.iss.core s.iss.slot ((pathLanes s).headD 0)
  inFirmware s (codeAddr ((t.map Thread.cbase).getD 0) s.iss.pc).toNat

/-- Change the key-table entry that KEYSEL names: the dirty lines held under that index are written back under the old
key and dropped first (R431). -/
def changeKey (s : State) (key : Option (BitVec 128)) : State :=
  let i := s.keysel
  let lines := (s.lines.filter (fun e => e.2.key == some i && e.2.dirty != 0)).map Prod.fst
  let s := lines.foldl dropLine s
  { s with keys := Tab.put s.keys i.toNat key }

/-- Perform a KEYLD once for the path; outside the boot image it is privileged in the umpire too (R311, R431). -/
def keyldOnce (s : State) (h : Head) (rs : List Rd) (f : List Nat → Option (BitVec 128)) :
    Host.Outcome State Fault Refusal :=
  let sh := sysShape h 0x3EC .zero 0 false
  if s.iss.slot = 16 ∧ !fromFirmware s then
    .next (trapPath (begun s) sh { cause := 0x02, detail := 0 })
  else
    privileged s sh rs (fun l v => do
      let s ← get
      if (activeLanes s h.guard).headD l = l then setState (changeKey s (f v))
      pure {})

/-- KEYLD (R431). -/
def execKeyld (h : Head) (a : Src) (s : State) : Host.Outcome State Fault Refusal :=
  keyldOnce s h [rdI a 4] (fun v => some (BitVec.ofNat 128 (v.getD 0 0)))

/-- KEYLD.clr (R431). -/
def execKeyldClr (h : Head) (s : State) : Host.Outcome State Fault Refusal := keyldOnce s h [] (fun _ => none)

/-- The state of a hallmark (R432); the key index of a descriptor that is not valid is read from memory. -/
def hmState (s : State) (c : Nat) (hm : Hm) : Nat :=
  let d := (Tab.get? s.descs hm.toNat).getD (readDesc s hm.toNat)
  let kidx := if d.v then d.kidx else rawKidx s hm.toNat
  let here (e : Nat × Wg) : Bool := e.2.hm == hm && e.2.team != 0
  if !isContext hm then 0
  else
    1 + (if d.v then 2 else 0) + (if s.ended.contains hm.toNat then 4 else 0) +
      (if (Tab.get? s.keys kidx.toNat).isSome then 8 else 0) +
      (if s.wgs.any (fun e => here e && e.2.core == c) then 16 else 0) + (if s.wgs.any here then 32 else 0)

/-- HMCHK (R432). -/
def execHmchk (h : Head) (d : Dst) (a : Src) (s : State) : Host.Outcome State Fault Refusal :=
  privileged s (sysShape h 0x3ED d 1 true) [rdI a 1] (fun _ v => do
    let s ← get
    let x := hmState s s.iss.core (BitVec.ofNat 14 (v.getD 0 0))
    resultPush x (decide (x % 16 = 11)))

end Sys2Proof.Machine
end

