-- ==== Sys2Proof/Machine/Ninal.lean ====
section
/-!
DEFINITION. What Ninal does with traps and engine faults (R228, R230, R235, R247, R460), and ERET (R424). Ninal's
program acts by its own instructions; the duties that R228 to R243 give it beside them are an action of the machine, one
item at a time (log entry 4).
-/

namespace Sys2Proof.Machine

/-! ## Dispositions (R228) -/

/-- What Ninal does with a cause. `page` is a repair that it asks the host for, `spill` the repair of R247, `held` what it
leaves as it stands. -/
inductive Disposition where
  | page | spill | serve | debug | signal | held
  deriving DecidableEq, Repr

/-- Whether a record was raised by WTAG or WANY: such an outcome is never forwarded (R228). -/
def fromWait (d : DugEntry) : Bool := field d.info 16 10 == 0x308 || field d.info 16 10 == 0x309

/-- The disposition of a parked cause (R228). -/
def dispositionOf (d : DugEntry) : Disposition :=
  if d.eng then .held
  else if fromWait d then .signal
  else if d.cause = 0x10 then .page
  else if d.cause = 0x11 then
    (if d.detail == 0x06 || d.detail == 0x0B || d.detail == 0x0C then .signal else .page)
  else if d.cause = 0x42 ∧ d.detail = 0x01 then .spill
  else if d.cause = 0x50 ∨ d.cause = 0x51 then .held
  else if d.cause = 0x60 ∨ d.cause = 0x61 ∨ d.cause = 0x62 then .debug
  else if d.cause = 0x70 then .serve
  else .signal

/-- The class of R230 in which Ninal takes it. -/
def Disposition.rank : Disposition → Nat
  | .page | .spill => 2
  | .serve => 3
  | .debug | .signal => 4
  | .held => 5

/-! ## Page requests (R460) -/

/-- A key by which an item is known while it stands: what is done for a fault and when the fault came. -/
def PageReq.code (p : PageReq) : Nat := 4 * p.seq + p.kind

/-- Post a page request of a core, once for what it was made for. -/
def requestPage (s : State) (c : Nat) (p : PageReq) : State :=
  let k := coreAt s c
  if k.pageReqs.any (fun x => x.code == p.code) then s
  else
    let bits := (if p.kind = 3 then 8 else 0) + (if p.kind = 1 ∨ p.kind = 2 ∨ p.kind = 3 then 4 else 0) + (if p.fet then 2 else 0) +
      (if p.wr then 1 else 0)
    let s := post s 0x0A c p.hm
      [p.va, BitVec.ofNat 64 (k.rid.toNat * 2 ^ 32 + p.detail.toNat * 2 ^ 8 + p.cause.toNat), BitVec.ofNat 64 bits]
    modCore s c (fun k => { k with rid := k.rid + 1, pageReqs := k.pageReqs ++ [{ p with rid := k.rid }] })

/-- The request that an engine fault record of a kind and number asks for (R224, R232); a network record's write is told
by its access: the write of SEQ or STATUS, or the addition to CNT (R469). -/
def pageReqOf (k : Core) (kind key : Nat) (w : List DWord) : PageReq :=
  let h := w.getD 0 0
  { rid := 0, kind := kind, key := key, seq := Tab.getD k.faultSeq (4 * key + kind) 0, va := w.getD 8 0,
    cause := h.extractLsb' 56 8, detail := h.extractLsb' 48 8, hm := h.extractLsb' 34 14,
    wr := if kind = 3 then decide (3 ≤ field (w.getD 10 0) 0 3) else bitAt (w.getD 3 0) 8, fet := bitAt (w.getD 3 0) 9 }

/-- The request that a park asks for. -/
def parkReq (d : DugEntry) : PageReq :=
  { rid := 0, kind := 0, key := d.seq, seq := d.seq, va := d.addrs.headD 0, cause := d.cause, detail := d.detail,
    hm := d.hm, wr := bitAt d.info 8, fet := bitAt d.info 9 }

/-- The engine fault records of a core that stand pending, as requests. -/
def engineReqs (s : State) (c : Nat) : List PageReq :=
  let k := coreAt s c
  k.engFaults.map (fun n => pageReqOf k 1 n (umpRecord s c (0x2800 + 128 * n))) ++
    k.drainFaults.map (fun n => pageReqOf k 2 n (umpRecord s c (0x4800 + 128 * n))) ++
    k.netFaults.map (fun e => pageReqOf k 3 e.1 (umpRecord s c (0x5800 + 128 * e.1)))

/-! ## Parks (R226, R243) -/

/-- The detached parks of a user slot, in the form of the entries that they were: the threads that parked together. -/
def detachedParks (s : State) (c n : Nat) : List DugEntry :=
  let w := slotAt s c n
  let seqs := (w.threads.filterMap (fun t => match t.2.st with
    | .detached _ _ => t.2.park.map Park.seq
    | _ => none)).dedup
  seqs.filterMap (fun q =>
    let ts := w.threads.filter (fun t => match t.2.st with
      | .detached _ _ => t.2.park.map Park.seq == some q
      | _ => false)
    match ts.head? with
    | none => none
    | some (_, t) =>
      match t.st, t.park with
      | .detached cause detail, some p =>
        some { slot := n, lanes := maskOf (ts.map Prod.fst), pc := t.pc, cause := cause, detail := detail,
               hm := slotHm s c n, eng := p.eng, tag := p.tag, qix := 0, addrs := p.addrs, info := p.info, seq := q }
      | _, _ => none)

/-- The parks of a core that Ninal finds: the dugout's entries by number, and the detached ones (R230, R243). -/
def parksOf (s : State) (c : Nat) : List (Option Nat × DugEntry) :=
  (coreAt s c).dugout.map (fun e => (some e.1, e.2)) ++
    (List.range 16).flatMap (fun n => (detachedParks s c n).map (fun d => (none, d)))

/-- Replay a park, or deliver its signal; its entry frees. -/
def replayPark (s : State) (c : Nat) (x : Option Nat × DugEntry) : State :=
  match x.1 with
  | some e => replayEntry s c e
  | none => replayLanes s c x.2
def signalPark (s : State) (c : Nat) (x : Option Nat × DugEntry) : State :=
  match x.1 with
  | some e => signalEntry s c e
  | none => signalLanes s c x.2

/-! ## Service calls (R235, R236) -/

/-- Answer an SVCQ by the journal (R236): never seen or retired before, recorded and now retired, or done. -/
def answerQuery (s : State) (c n l : Nat) (hm : Hm) (va : DWord) (id : Word) : State :=
  match (callRec s hm va id).map CallRec.st with
  | none | some .retired => completeCall s c n l [0, 0, 0, 0]
  | some (.done res) => completeCall s c n l (2 :: res)
  | some _ => completeCall (markCall s hm va id (fun _ => .retired)) c n l [1, 0, 0, 0]

/-- Serve the call of a parked thread: an SVC is recorded and forwarded to the host, once (R235, R441): mailbox VA, CID,
NUM and ARG, in the order of R441 (log entry 22); an SVCQ is answered. A replayed call that has been answered already
completes with the reply that stands in its mailbox (R272, log entry 48). -/
def serveCall (s : State) (c : Nat) (d : DugEntry) (l : Nat) : State :=
  match threadAt s c d.slot l with
  | none => s
  | some t =>
    let w := wgAt s t.home
    let a := mailboxAt s w t.tidx
    match ctxRead s c w.hm a 0x28 with
    | (s, none) => s
    | (s, some bs) =>
      let word (i : Nat) : Nat := natOf ((bs.drop (8 * i)).take 8)
      let cid : Word := BitVec.ofNat 32 (word 0)
      if d.detail = 0x02 then answerQuery s c d.slot l w.hm a (BitVec.ofNat 32 (word 1))
      else if (callRec s w.hm a cid).isSome then
        (if word 0 / 2 ^ 48 % 4 = 1 then s else completeCall s c d.slot l (mailboxReply s c t))
      else post (recordCall s w.hm a cid) 0x03 c w.hm ([a, BitVec.ofNat 64 (word 0 % 2 ^ 48)] ++
        (List.range 4).map (fun i => BitVec.ofNat 64 (word (1 + i))))

/-- Serve the calls of a park. -/
def serveCalls (s : State) (c : Nat) (d : DugEntry) : State := (lanesOf d.lanes).foldl (fun s l => serveCall s c d l) s

/-! ## A pass (R228, R230) -/

/-- The home workgroups of a park's lanes. -/
def parkHomes (s : State) (c : Nat) (d : DugEntry) : List Nat := ((lanesOf d.lanes).map (homeOf s c d.slot)).dedup

/-- The tile slots of the trapping lanes' home workgroups that another hallmark owns are spilled or zeroed, and the
instruction is replayed (R247, R463). -/
def repairTiles (s : State) (c : Nat) (x : Option Nat × DugEntry) : State :=
  let s := (parkHomes s c x.2).foldl (fun s h =>
    let w := wgAt s h
    (((List.range (w.acc + w.shd)).map (tileSlot s h)).filter (fun t =>
      let o := Tab.getD (coreAt s c).accown t 0
      accV o && accHm o != w.hm)).foldl (fun s t => settleTile s c t) s) s
  replayPark s c x

/-- Stop the team of a park for a debugger, or deliver a signal where its context has not the right (R277, R278). -/
def debugPark (s : State) (c : Nat) (x : Option Nat × DugEntry) : State :=
  let s := readDescHere s x.2.hm
  if !hasRight s x.2.hm then signalPark s c x
  else
    let t := (wgAt s (slotWg s c x.2.slot)).team
    match Tab.get? s.teams t with
    | some m => if m.halted || m.stop.isSome then s else requestStop s t .debug true
    | none => s

/-- Whether a detached park that waits on an engine command may go on: no command of its tag stands stopped (R233). -/
def waitOverFor (s : State) (c : Nat) (d : DugEntry) : Bool :=
  (parkHomes s c d).all (fun h => (stoppedOn s h d.tag.toNat).isNone)

/-- Deal with one park. -/
def disposePark (s : State) (c : Nat) (x : Option Nat × DugEntry) : State :=
  match dispositionOf x.2 with
  | .page => requestPage s c (parkReq x.2)
  | .spill => repairTiles s c x
  | .serve => serveCalls s c x.2
  | .debug => debugPark s c x
  | .signal => signalPark s c x
  | .held => if x.1.isNone && x.2.eng && waitOverFor s c x.2 then replayPark s c x else s

/-- What Ninal has to deal with on a core: a park, or an engine fault record. -/
inductive NinalItem where
  | park (e : Option Nat) (d : DugEntry)
  | eng (p : PageReq)
  deriving DecidableEq, Repr

/-- Its class, its age and its key. -/
def NinalItem.rank : NinalItem → Nat
  | .park _ d => (dispositionOf d).rank
  | .eng _ => 2
def NinalItem.seq : NinalItem → Nat
  | .park _ d => d.seq
  | .eng p => p.seq
def NinalItem.code : NinalItem → Nat
  | .park _ d => 4 * d.seq
  | .eng p => p.code

/-- The items of a core in the order in which Ninal takes them: by class, in a class the oldest first (R230). -/
def ninalItems (s : State) (c : Nat) : List NinalItem :=
  ((parksOf s c).map (fun x => NinalItem.park x.1 x.2) ++ (engineReqs s c).map NinalItem.eng).mergeSort (fun a b =>
    decide (a.rank < b.rank ∨ a.rank = b.rank ∧ a.seq ≤ b.seq))

/-- Deal with an item, where it still stands. -/
def disposeItem (s : State) (c : Nat) (i : NinalItem) : State :=
  if !((ninalItems s c).map NinalItem.code).contains i.code then s
  else
    match i with
    | .park e d => disposePark s c (e, d)
    | .eng p => if p.cause == 0x10 || p.cause == 0x11 then requestPage s c p else s

/-- Ninal takes the first item of a core that it has not dealt with, in the order of R230, and notes it; where every item
has been dealt with and still stands, it looks at each again. -/
def ninalPass (s : State) (c : Nat) : State :=
  if clockStopped s then s
  else
    let items := ninalItems s c
    let keys := items.map NinalItem.code
    let s := modCore s c (fun k =>
      { k with pageReqs := k.pageReqs.filter (fun p => keys.contains p.code), dealt := k.dealt.filter keys.contains })
    match items.find? (fun i => !((coreAt s c).dealt.contains i.code)) with
    | some i => disposeItem (modCore s c (fun k => { k with dealt := k.dealt ++ [i.code] })) c i
    | none => items.foldl (fun s i => disposeItem s c i) s

/-- ERET (R424): the umpire waits until work is pending, and goes on at the PC of its lowest active lane. -/
def execEret (h : Head) (d : Dst) (a : Src) (s : State) : Host.Outcome State Fault Refusal :=
  let c := s.iss.core
  let first := (activeLanes s h.guard).headD 0
  privileged s { sysShape h 0x3E2 d 1 false with perLane := false, uni := some true } [rdI a 1] (fun l _ =>
    if umpireWork s c then
      match readLane (begun s) d 1 [rdI a 1] first with
      | .ok v => pure { val := workSummary s c, next := some (BitVec.ofNat 32 (v.getD 0 0)), taken := true }
      | .error e => throw e
    else waitFor .event)

end Sys2Proof.Machine
end

