-- ==== Sys2Proof/Machine/Requests.lean ====
section
/-!
DEFINITION. What Ninal does with the entries of the inbound ring (R440, R441): service replies, team requests, debug
requests and revoke notices, TLBI requests, attestation and page replies (R236, R257, R277 to R282, R456, R461, R464).
-/

namespace Sys2Proof.Machine

/-! ## The inbound ring (R440, R441) -/

/-- The entry that Ninal takes next: its eight words. -/
def inboundHead (s : State) : Option (List DWord) :=
  if s.host.itail.toNat ≤ s.host.ihead.toNat then none
  else
    let a := ringAddr s.host.ibase s.host.isize s.host.ihead.toNat
    some ((List.range 8).map (fun i => devWord s (a + 8 * i)))

/-- TYPE, HM and core of an entry. -/
def inType (w : List DWord) : Nat := field (w.getD 0 0) 56 8
def inHm (w : List DWord) : Hm := (w.getD 0 0).extractLsb' 34 14
def inCore (w : List DWord) : Nat := field (w.getD 0 0) 48 8

/-- Take the next entry where it is one that a step serves: the reader of the ring acquires TAIL at system scope (R440), and
Ninal does nothing while its clock stands still (R458). An entry of a TYPE that is not defined is passed over (log
entry 28). -/
def takeEntry (s : State) (mine : List DWord → Bool) (f : State → List DWord → State) : State :=
  match inboundHead s with
  | none => s
  | some w =>
    let t := acquireRemote (hostLink s) devHm
    let s' := { t with host := { t.host with ihead := t.host.ihead + 1 } }
    if clockStopped s then s
    else if inType w < 0x81 ∨ 0x89 < inType w then s' else if mine w then f s' w else s

/-! ## Service replies (R235, R236) -/

/-- The core on which a caller with a mailbox is parked, or the one that the entry names. -/
def callerCore (s : State) (hm : Hm) (va : DWord) (named : Nat) : Nat :=
  ((List.range 192).find? (fun c => (callerAt s c hm va).isSome)).getD (named % 192)

/-- Answer a service call (R235): its fields are in the order of R441 (log entry 22). The reply to a call that has been
answered with the restart status marks its record done and goes no further; a retired call never takes effect (R236). -/
def serviceReply (s : State) (w : List DWord) : State :=
  let hm := inHm w
  let va := w.getD 1 0
  let c := callerCore s hm va (inCore w)
  let cid := loWord (w.getD 2 0)
  let res := [loWord (w.getD 3 0), hiWord (w.getD 3 0), loWord (w.getD 4 0), hiWord (w.getD 4 0)]
  match (callRec s hm va cid).map CallRec.st with
  | some .orphan => doneCall s hm va cid res
  | some (.done _) | some .retired => s
  | _ =>
    match place s c hm va .write with
    | (s, .error _) => s
    | (s, .ok p) => (answerCall s c hm p va cid.toNat res).1

/-- SERVICE_REPLY (R235): inbound TYPE 0x81. -/
def execServiceReply (s : State) : Host.Outcome State Fault Refusal :=
  .next (takeEntry s (fun w => inType w == 0x81) serviceReply)

/-- Whether a restart of the host service answers a call: its record is not marked done, or it is an SVCQ (R236). -/
def unserved (s : State) (hm : Hm) (va : DWord) (cid : Word) (q : Bool) : Bool :=
  q || (match (callRec s hm va cid).map CallRec.st with
    | some .open => true
    | _ => false)

/-- Answer the open calls of a saved workgroup with the restart status: RES is written and ST becomes 10 (R236). -/
def restartSavedCall (s : State) (w : Wg) (t : Nat) (q : Bool) : State :=
  let a := mailboxAt s w t
  match ctxRead s w.core w.hm a 8 with
  | (s, none) => s
  | (s, some bs) =>
    if natOf bs / 2 ^ 48 % 4 ≠ 1 ∨ !unserved s w.hm a (BitVec.ofNat 32 (natOf bs)) q then s
    else
      let s := orphanCall s w.hm a (BitVec.ofNat 32 (natOf bs))
      let s := (ctxWrite s w.core w.hm (a + 0x28) (restartReply.flatMap (fun x => bytesOf 4 x.toNat))).1
      (ctxWrite s w.core w.hm a (bytesOf 8 (natOf bs + 2 ^ 48))).1

/-- HOST_SERVICE_RESTART (R236): every call that is not done is answered as a restart, by Ninal, whose clock runs (R458). -/
def execHostServiceRestart (s : State) : Host.Outcome State Fault Refusal :=
  .next (
    if clockStopped s then s else
    let s := (List.range 192).foldl (fun s c =>
      (openCalls s c).foldl (fun s x =>
        match threadAt s c x.1 x.2 with
        | none => s
        | some t =>
          let w := wgAt s t.home
          if unserved s w.hm (mailboxAt s w t.tidx) (mailboxCid s c w t.tidx) (callDetail s c t == 2) then
            restartCall s c x.1 x.2
          else s) s) s
    let gs := s.saved.flatMap (fun v => v.images.map Prod.snd)
    gs.foldl (fun s g =>
      (g.slots.flatMap (fun e => e.2.threads.filterMap (fun t => match t.2.st with
        | .detached cause d => if cause = 0x70 then some (t.2.tidx, d == 2) else none
        | _ => none))).foldl (fun s t => restartSavedCall s g.wg t.1 t.2) s) s)

/-! ## Team requests (R464) -/

/-- The fields of a team request, or of a debug request: launch id, team, operation, reason. -/
def reqLid (w : List DWord) : Word := hiWord (w.getD 1 0)
def reqTeam (w : List DWord) : Nat := field (w.getD 1 0) 0 32
def reqOp (w : List DWord) : Nat := field (w.getD 2 0) 0 8
def reqReason (w : List DWord) : Nat := field (w.getD 2 0) 8 8

/-- Whether a team request is malformed: a reserved OP, or a reserved field that is not zero. -/
def teamReqBad (w : List DWord) : Bool :=
  decide (reqOp w < 1 ∨ 4 < reqOp w ∨ field (w.getD 2 0) 16 48 ≠ 0 ∨ field (w.getD 0 0) 32 2 ≠ 0) ||
    (reqOp w != 4 && reqReason w != 0) || (w.drop 3).any (· != 0)

/-- Whether a launch is the one that a request names. -/
def isLaunch (s : State) (i : Nat) (hm : Hm) (lid : Word) : Bool :=
  match Tab.get? s.launches i with
  | some l => l.id == lid && l.hm == hm
  | none => false

/-- The resident team, and the saved team, that a request names. -/
def residentTeam (s : State) (w : List DWord) : Option Nat :=
  (s.teams.find? (fun e => e.2.number == reqTeam w && isLaunch s e.2.launch (inHm w) (reqLid w))).map Prod.fst
def savedTeamOf (s : State) (w : List DWord) : Option Saved :=
  s.saved.find? (fun v => v.number == reqTeam w && isLaunch s v.launch (inHm w) (reqLid w))

/-- Answer a team request. -/
def answerTeam (s : State) (w : List DWord) (status : Nat) : State :=
  teamAnswer s (inHm w) (reqLid w) (reqTeam w) (reqReason w) (reqOp w) status

/-- Carry out a team request; the answer to a save and to a restore follows when it is done. -/
def teamRequest (s : State) (w : List DWord) : State :=
  if teamReqBad w then answerTeam s w 5
  else
    match residentTeam s w, savedTeamOf s w with
    | some t, _ =>
      if reqOp w = 3 then answerTeam s w 2
      else if ((Tab.get? s.teams t).map Team.killed).getD false && reqOp w != 4 then answerTeam s w 3
      else if reqOp w = 4 then
        answerTeam (killTeam s t (killReason (BitVec.ofNat 8 (reqReason w))) false Blame.none) w 0
      else requestStop s t (if reqOp w = 1 then .slice else .spill) true
    | none, some v =>
      if reqOp w = 3 then
        { s with saved := s.saved.map (fun x => if x = v then { x with eligible := true, asks := x.asks + 1 } else x) }
      else if reqOp w = 4 then answerTeam (killSaved s v (killReason (BitVec.ofNat 8 (reqReason w)))) w 0
      else answerTeam s w 2
    | none, none => answerTeam s w 1

/-- Whether an entry is a team request of an operation; a malformed one is any. -/
def isTeamReq (op : Nat) (w : List DWord) : Bool := inType w == 0x82 && (teamReqBad w || reqOp w == op)

/-- TEAM_SAVE, TEAM_SAVE_SPILL, TEAM_RESTORE and TEAM_KILL (R464). -/
def execTeamSave (s : State) : Host.Outcome State Fault Refusal := .next (takeEntry s (isTeamReq 1) teamRequest)
def execTeamSaveSpill (s : State) : Host.Outcome State Fault Refusal := .next (takeEntry s (isTeamReq 2) teamRequest)
def execTeamRestore (s : State) : Host.Outcome State Fault Refusal := .next (takeEntry s (isTeamReq 3) teamRequest)
def execTeamKill (s : State) : Host.Outcome State Fault Refusal := .next (takeEntry s (isTeamReq 4) teamRequest)

/-! ## Debug requests and the revoke notice (R277, R278, R282); the payload of TYPE 0x83 is log entry 22's -/

/-- Resume halted teams: their threads go on, and a debug trap is replayed (R277, R281, R421). -/
def resumeTeams (s : State) (ts : List Nat) : State :=
  let hs := wgsOf s ts
  let s := ts.foldl (fun s t => modTeam s t (fun m => { m with halted := false })) s
  let s := letGo s hs
  (hs.map (fun h => (wgAt s h).core)).dedup.foldl (fun s c =>
    ((parksOf s c).filter (fun x =>
      dispositionOf x.2 == .debug && hs.contains (slotWg s c x.2.slot))).foldl (fun s x => replayPark s c x) s) s

/-- A stop request: refused without the debug right (R278) or such a team (log entry 50). -/
def debugStop (s : State) (w : List DWord) : State :=
  match residentTeam s w with
  | none => debugReport s (inHm w) (reqLid w) (reqTeam w) true false
  | some t =>
    let s := readDescHere s (inHm w)
    if !hasRight s (inHm w) then debugReport s (inHm w) (reqLid w) (reqTeam w) true false
    else
      match Tab.get? s.teams t with
      | some m => if m.halted then debugReport s (inHm w) (reqLid w) (reqTeam w) false false
        else requestStop s t .debug true
      | none => s

/-- DEBUG_STOP_REQUEST (R277, R278). -/
def execDebugStopRequest (s : State) : Host.Outcome State Fault Refusal :=
  .next (takeEntry s (fun w => inType w == 0x83 && reqOp w != 2) (fun s w => if reqOp w = 1 then debugStop s w else s))

/-- DEBUG_RESUME_REQUEST (R277): every halted team of the group goes on. -/
def execDebugResumeRequest (s : State) : Host.Outcome State Fault Refusal :=
  .next (takeEntry s (fun w => inType w == 0x83 && reqOp w == 2) (fun s w =>
    match residentTeam s w with
    | none => s
    | some t =>
      if ((Tab.get? s.teams t).map Team.halted).getD false then resumeTeams s (rollbackGroup s t) else s))

/-- What a revoke notice does in a context (R282). -/
def revoke (s : State) (hm : Hm) : State :=
  let mine := (s.teams.filter (fun e => ((Tab.get? s.launches e.2.launch).map Launch.hm).getD devHm == hm && e.2.halted)).map
    Prod.fst
  let edited := mine.filter (fun t => (wgsOf s [t]).any (fun h => (wgAt s h).edit))
  let s := edited.foldl (fun s t => killTeam s t 0x04 false Blame.none) s
  let s := resumeTeams s (mine.filter (fun t => !edited.contains t))
  { s with
    wgs := s.wgs.map (fun e => (e.1, if e.2.hm = hm then { e.2 with rstep := false } else e.2))
    wpc := s.wpc.map (fun e => (e.1, if e.2.extractLsb' 18 14 = hm then e.2 &&& 0xFFFFFFFE else e.2)) }

/-- REVOKE_NOTICE (R282). -/
def execRevokeNotice (s : State) : Host.Outcome State Fault Refusal :=
  .next (takeEntry s (fun w => inType w == 0x84) (fun s w => revoke s (inHm w)))

/-! ## TLBI of a context (R257) -/

/-- CONTEXT_TLBI_REQUEST (R257): the translations go, and the ended mark is cleared. -/
def execContextTlbiRequest (s : State) : Host.Outcome State Fault Refusal :=
  .next (takeEntry s (fun w => inType w == 0x86) (fun s w => tlbiContext s (inHm w)))

/-! ## Attestation (R455, R456) -/

/-- The bytes of a log entry, and the log digest: the chain from 32 zero bytes (log entry 24 for their order). -/
def logBytes (e : Word × BitVec 256) : List Byte := bytesOf 4 e.1.toNat ++ bytesOf 32 e.2.toNat
def logDigest (log : List (Word × BitVec 256)) : BitVec 256 :=
  log.foldl (fun d e => sm3 (bytesOf 32 d.toNat ++ logBytes e)) 0

/-- The report buffer. -/
def attestReport (s : State) (nonce : List Byte) (d : BitVec 256) : List Byte :=
  identitySign (sm3 (nonce ++ bytesOf 32 d.toNat ++ bytesOf 8 Config.devInfo.toNat)) s.fresh ++ identityKey ++
    s.host.measure.flatMap (fun e => bytesOf 8 e.1.toNat ++ bytesOf 32 e.2.toNat)

/-- Answer an attestation request. -/
def attest (s : State) (w : List DWord) : State :=
  let nonce := wordsBytes ((w.drop 1).take 4)
  let buf := field (w.getD 5 0) 0 48
  let n := s.host.measure.length
  let d := logDigest s.host.measure
  let status := if field (w.getD 6 0) 0 32 < 0x80 + 40 * n then 1 else if field (w.getD 5 0) 48 16 ≠ 0 then 2 else 0
  let s := if status = 0 then devWrite { s with fresh := s.fresh + 1 } (2 ^ 48 + buf) (attestReport s nonce d) else s
  post s 0x08 0xFF devHm ((List.range 4).map (fun i => d.extractLsb' (64 * i) 64) ++
    [BitVec.ofNat 64 buf, BitVec.ofNat 64 (status * 2 ^ 32 + n), Config.devInfo])

/-- ATTESTATION_REQUEST (R456). -/
def execAttestationRequest (s : State) : Host.Outcome State Fault Refusal :=
  .next (takeEntry s (fun w => inType w == 0x88) attest)

/-! ## Page replies (R461) -/

/-- The engine command that a request covers goes on, or fails with the request's cause and detail. -/
def resolveEngine (s : State) (c : Nat) (p : PageReq) (mapped : Bool) : State :=
  if p.kind = 1 then
    (if !copyStopped s c p.key then s
     else if mapped then restartCopy s c p.key else endCopy s c p.key (.failed p.cause p.detail))
  else if p.kind = 2 then
    (if !mtxStopped s c p.key then s
     else if mapped then restartMtx s c p.key else endMtx s c p.key (.failed p.cause p.detail))
  else if p.kind = 3 then
    (match netFaultAt s c p.key with
     | some q => if mapped then retryNet s c p.key q.toNat else failNet s c p.key q.toNat
     | none => s)
  else s

/-- The workgroup and tag of the command that a request covers. -/
def coveredTag (s : State) (c : Nat) (p : PageReq) : Option (Nat × Nat) :=
  if p.kind = 1 then (copyAt s c p.key).map (fun e => (e.wg, e.tag.toNat))
  else if p.kind = 2 then (mtxAt s c p.key).bind (fun e => e.tag.map (fun t => (e.wg, t.toNat)))
  else none

/-- Whether an entry waits on a stopped command of a workgroup's tag, and whether it names a request's page. -/
def waitsOn (s : State) (c : Nat) (x : Option (Nat × Nat)) (d : DugEntry) : Bool :=
  match x with
  | some (h, t) => d.eng && d.tag.toNat == t && ((lanesOf d.lanes).any (fun l => homeOf s c d.slot l == h))
  | none => false
def namesPage (p : PageReq) (d : DugEntry) : Bool :=
  !d.eng && d.hm == p.hm && (d.cause == 0x10 || d.cause == 0x11) &&
    d.addrs.any (fun a => a.toNat / 4096 == p.va.toNat / 4096)

/-- Act on a page reply: a request pends while the entry or the record that it was made for stands; a mapped page restarts its commands and replays the entries; a declined one fails them, replays
the waiters, and signals the entries that name the page. -/
def pageReply (s : State) (w : List DWord) : State :=
  let c := inCore w
  let out := field (w.getD 3 0) 0 8
  match (coreAt s c).pageReqs.find? (fun p => p.rid.toNat == field (w.getD 2 0) 0 32) with
  | none => s
  | some p =>
    if 1 < out ∨ 192 ≤ c then s
    else if !((ninalItems s c).map NinalItem.code).contains p.code then
      modCore s c (fun k => { k with pageReqs := k.pageReqs.filter (fun y => y != p) })
    else
      let x := coveredTag s c p
      let ds := parksOf s c
      let waiters := ds.filter (fun e => waitsOn s c x e.2)
      let named := ds.filter (fun e => namesPage p e.2)
      let s := modCore s c (fun k => { k with pageReqs := k.pageReqs.filter (fun y => y != p) })
      let s := resolveEngine s c p (out == 0)
      let s := waiters.foldl (fun s x => replayPark s c x) s
      named.foldl (fun s x => if out = 0 then replayPark s c x else signalPark s c x) s

/-- PAGE_REPLY (R461). -/
def execPageReply (s : State) : Host.Outcome State Fault Refusal :=
  .next (takeEntry s (fun w => inType w == 0x89) pageReply)

end Sys2Proof.Machine
end

