-- ==== Sys2Proof/Machine/Pairs.lean ====
section
/-!
DEFINITION. Queue pairs and memory keys as the driver sets them (R465): inbound TYPE 0x87.
-/

namespace Sys2Proof.Machine

/-! ## The payload -/

/-- OP, IDX, ADDR, AUX, PEER, PQPN, GEN and PORT. -/
def qpOp (w : List DWord) : Nat := field (w.getD 1 0) 56 8
def qpIdx (w : List DWord) : Nat := field (w.getD 1 0) 0 12
def qpAddr (w : List DWord) : DWord := w.getD 2 0
def qpAux (w : List DWord) : DWord := w.getD 3 0
def qpPeer (w : List DWord) : DWord := w.getD 4 0
def qpPqpn (w : List DWord) : BitVec 12 := (w.getD 5 0).extractLsb' 32 12
def qpGen (w : List DWord) : BitVec 20 := (w.getD 5 0).extractLsb' 12 20
def qpPort (w : List DWord) : BitVec 6 := (w.getD 5 0).extractLsb' 0 6

/-- Whether an OP is reserved, or a reserved field is set. -/
def qpReserved (w : List DWord) : Bool :=
  decide (qpOp w < 1 ∨ 5 < qpOp w ∨ field (w.getD 1 0) 12 44 ≠ 0 ∨ field (w.getD 5 0) 44 20 ≠ 0 ∨
    field (w.getD 5 0) 6 6 ≠ 0 ∨ field (w.getD 0 0) 32 2 ≠ 0) || w.getD 6 0 != 0 || w.getD 7 0 != 0

/-- Whether a queue pair, or a key, is held by the entry's hallmark. -/
def ownsPair (s : State) (w : List DWord) : Bool := ((qpAt s (qpIdx w)).map (fun p => p.hm == inHm w)).getD false
def ownsKey (s : State) (w : List DWord) : Bool :=
  ((Tab.get? s.memKeys (qpIdx w)).map (fun m => m.hm == inHm w)).getD false

/-- Whether an address lies in local HBM for a context. -/
def inLocal (s : State) (hm : Hm) (va : DWord) : Bool :=
  match (netXlate s hm va .write).2 with
  | .ok p => isLocal p.home
  | .error _ => false

/-- The checks of each operation: of the fields that it does not use, those that the table gives as zero, which PQPN, GEN and
PORT are not. -/
def openGood (s : State) (w : List DWord) : Bool :=
  (qpAt s (qpIdx w)).isNone && decide ((qpAddr w).toNat % 64 = 0 ∧ (qpAux w).toNat % 64 = 0) &&
    decide (28 ≤ (qpPort w).toNat ∧ (qpPort w).toNat ≤ 35) &&
    Tab.get? s.host.portst (qpPort w).toNat == some .ethernet && inLocal s (inHm w) (qpAux w)
def closeGood (s : State) (w : List DWord) : Bool :=
  ownsPair s w && qpAddr w == 0 && qpAux w == 0 && qpPeer w == 0
def ringGood (s : State) (w : List DWord) : Bool :=
  ownsPair s w && decide ((qpAddr w).toNat % 16 = 0 ∧ 1 ≤ (qpAux w).toNat ∧ (qpAux w).toNat ≤ 4096) && qpPeer w == 0
def keyGood (s : State) (w : List DWord) : Bool :=
  (Tab.get? s.memKeys (qpIdx w)).isNone &&
    decide ((qpAddr w).toNat % 4096 = 0 ∧ (qpAux w).toNat % 4096 = 0 ∧ qpAux w ≠ 0) && qpPeer w == 0
def unkeyGood (s : State) (w : List DWord) : Bool :=
  ownsKey s w && qpAddr w == 0 && qpAux w == 0 && qpPeer w == 0

/-- Report a refused entry (log entry 22). -/
def refuseQp (s : State) (w : List DWord) : State := post s 0x07 0xFF (inHm w) [w.getD 1 0, qpAddr w]

/-! ## The operations -/

/-- A queue pair as it opens: SEQ and PSN are 1, and LAST names no request. -/
def newPair (w : List DWord) : QP :=
  { hm := inHm w, peer := qpPeer w, pqpn := qpPqpn w, port := qpPort w, head := qpAddr w, last := none, tails := [],
    seq := 1, psn := 1, reqs := [], nextReq := 0, packets := [], ended := [], err := false, todo := [], stopped := false, ring := 0,
    ringCount := 0, ringHead := 0, rcbase := qpAux w, rcack := 0, rgot := [], rmsgs := [] }

/-- Perform a write that a closing pair still owes, with a walk within the step where it needs one; one that meets a fault is
left out (log entry 33), and poison is consumed (R256). A counter is advanced without the release of R74 where the fabric cannot
perform it (log entry 33). -/
def lastWrite (s : State) (hm : Hm) (x : NetStep) : State :=
  match stepWriteBy netLook s hm x with
  | (s, .error (.poison a)) => netConsume s hm a
  | (s, .error (.fault o va)) => walkConsumed s hm o va
  | (s, .error .stall) =>
    (match x with
     | .count _ _ cnt =>
       (match netReadBy netLook s hm cnt 8 with
        | (s, .ok bs) => (netWriteBy netLook s hm cnt (bytesOf 8 ((natOf bs + 1) % 2 ^ 64))).1
        | (s, .error _) => s)
     | _ => s)
  | (s, .ok _) => s

/-- Close a queue pair: what is posted is cancelled, and each taken request ends with STATUS 0x13, also where the pair stands
stopped at a fault. -/
def closeByHost (s : State) (q : Nat) : State :=
  match qpAt s q with
  | none => s
  | some p =>
    let s := cancelPosted s q (untaken s p).1
    let s := (((qpAt s q).map QP.reqs).getD []).foldl (fun s r => endReq s q r.id 0x13) s
    closePair ((((qpAt s q).map QP.todo).getD []).foldl (fun s x => lastWrite s p.hm x) s) q

/-- Apply an entry of an operation, or refuse it. -/
def applyQp (s : State) (w : List DWord) : State :=
  let q := qpIdx w
  if qpReserved w then refuseQp s w
  else if qpOp w = 1 then (if openGood s w then { s with qps := Tab.set s.qps q (newPair w) } else refuseQp s w)
  else if qpOp w = 2 then (if closeGood s w then closeByHost s q else refuseQp s w)
  else if qpOp w = 3 then
    (if ringGood s w then
      modQp s q (fun p => { p with ring := qpAddr w, ringCount := (qpAux w).toNat, ringHead := 0 })
     else refuseQp s w)
  else if qpOp w = 4 then
    (if keyGood s w then
      { s with memKeys := Tab.set s.memKeys q { hm := inHm w, gen := qpGen w, base := qpAddr w, len := qpAux w } }
     else refuseQp s w)
  else if unkeyGood s w then { s with memKeys := Tab.del s.memKeys q }
  else refuseQp s w

/-- Whether an entry is one of an operation; one with a reserved OP is any. -/
def isQpOp (op : Nat) (w : List DWord) : Bool :=
  inType w == 0x87 && (qpOp w == op || decide (qpOp w < 1 ∨ 5 < qpOp w))

/-- QP_OPEN, QP_CLOSE, SET_RECEIVE_RING, SET_MEMORY_KEY and CLEAR_MEMORY_KEY (R465). -/
def execQpOpen (s : State) : Host.Outcome State Fault Refusal := .next (takeEntry s (isQpOp 1) applyQp)
def execQpClose (s : State) : Host.Outcome State Fault Refusal := .next (takeEntry s (isQpOp 2) applyQp)
def execSetReceiveRing (s : State) : Host.Outcome State Fault Refusal := .next (takeEntry s (isQpOp 3) applyQp)
def execSetMemoryKey (s : State) : Host.Outcome State Fault Refusal := .next (takeEntry s (isQpOp 4) applyQp)
def execClearMemoryKey (s : State) : Host.Outcome State Fault Refusal := .next (takeEntry s (isQpOp 5) applyQp)

end Sys2Proof.Machine
end

