-- ==== Sys2Proof/Machine/Replay.lean ====
section
/-!
DEFINITION. Kernel replay (R292, R293). The layouts of the request and of the replay area are log entry 24's: word 0x08
holds the passes at [20:16], the slot at [11:8] and the queue at [7:0], word 0x10 the area; in the area, the status word
lies at 0, the ACFG values at 0x800, the ACNT values at 0x10000, and the pre-images at 0x200000.
-/

namespace Sys2Proof.Machine

/-- Change the replay under way. -/
def modReplay (s : State) (f : Replay → Replay) : State := { s with replay := s.replay.map f }

/-- Set ACFG of every core for a pass; ACNT starts at 0. -/
def setPass (s : State) (cfg : List DWord) : State :=
  (List.range 192).foldl (fun s c => modCore s c (fun k =>
    { k with acfg := (List.range 4).map (fun i => (i, cfg.getD i 0 &&& 0xFFFFFFFC000000FF)), acnt := [] })) s

/-- The ACFG values of a pass in the replay area. -/
def areaCfg (s : State) (area pass : Nat) : List DWord :=
  (List.range 4).map (fun i => devWord s (area + 0x800 + 32 * pass + 8 * i))

/-- The launch in a queue's slot of which no team has been placed. -/
def queuedLaunch (s : State) (q slot : Nat) : Option Nat :=
  (s.launches.find? (fun e => decide (e.2.queue = q ∧ e.2.slot = slot ∧ e.2.nextTeam = 0) && !e.2.child && !e.2.failed &&
    !e.2.cancelled && !launchLive s e.1)).map Prod.fst

/-- Begin a replay. -/
def beginReplay (s : State) (w : List DWord) : State :=
  let n := field (w.getD 1 0) 16 5
  let area := (w.getD 2 0).toNat
  match queuedLaunch s (field (w.getD 1 0) 0 8) (field (w.getD 1 0) 8 4) with
  | none => s
  | some i =>
    if s.replay.isSome || decide (n < 1 ∨ 16 < n) then s
    else
      let cfgs := (List.range n).map (areaCfg s area)
      let r : Replay :=
        { launch := i, passes := n, pass := 0, acfgs := cfgs, area := area, pages := [], seals := [], copying := [],
          digests0 := [], mismatch := [], status := 0 }
      setPass { s with replay := some r } (cfgs.getD 0 [])

/-- KERNEL_REPLAY_REQUEST (R292). -/
def execKernelReplayRequest (s : State) : Host.Outcome State Fault Refusal :=
  .next (takeEntry s (fun w => inType w == 0x85) beginReplay)

/-- End a replay: its status stands in the replay area and is reported, and its launch may complete. -/
def finishReplay (s : State) (r : Replay) : State :=
  let flags := r.mismatch.foldl (fun m p => m + 2 ^ p) 0
  let s := devWrite { s with replay := none } r.area (bytesOf 8 (flags * 2 ^ 16 + r.status.toNat))
  let l := Tab.get? s.launches r.launch
  let s := post s 0x06 0xFF ((l.map Launch.hm).getD devHm)
    [BitVec.ofNat 64 (((l.map Launch.id).getD 0).toNat * 2 ^ 32), BitVec.ofNat 64 (flags * 2 ^ 16 + r.status.toNat)]
  completeLaunch s r.launch

/-- Store the ACNT registers of every core to the replay area, and clear them. -/
def storeCounts (s : State) (r : Replay) : State :=
  (List.range 192).foldl (fun s c =>
    let k := coreAt s c
    let s := devWrite s (r.area + 0x10000 + 0x2000 * r.pass + 32 * c)
      (wordsBytes ((List.range 4).map (fun i => Tab.getD k.acnt i 0)))
    modCore s c (fun k => { k with acnt := [] })) s

/-- Restore the captured pages, as they were stored; no instruction line of them stays. -/
def restorePages (s : State) (r : Replay) : State :=
  let n := r.pages.length
  let s := dropCode s (fun l => r.pages.contains (l.line / 64))
  let s := ((List.range n).zip r.pages).foldl (fun s p =>
    let s := ownTraffic (ownTraffic s (r.area + 0x200000 + 4096 * p.1) 4096 0) (4096 * p.2) 4096 1
    { s with mem := ((sectorPieces (4096 * p.2) (readBytes s.mem (r.area + 0x200000 + 4096 * p.1) 4096) 4096).filter
      (fun x => !locked s x.1)).foldl (fun m x => writeBytes m x.1 x.2) s.mem }) s
  let kept := s.seals.filter (fun e => !r.pages.contains (e.1 / 256) || locked s (16 * e.1))
  { s with seals := (r.seals.filter (fun e => !locked s (16 * e.1))).foldl (fun t e => Tab.set t e.1 e.2) kept }

/-- Start the next pass: the context's lines leave the die, its pages are restored, and the launch runs again. -/
def nextPass (s : State) (r : Replay) : State :=
  let hm := ((Tab.get? s.launches r.launch).map Launch.hm).getD devHm
  let lines := (s.lines.filter (fun e => e.2.hm = hm)).map Prod.fst
  let s := restorePages (dropCode (lines.foldl dropLine s) (fun l => l.hm == hm)) r
  let s := modLaunch s r.launch (fun l => { l with nextTeam := 0, again := [], digests := [] })
  setPass (modReplay s (fun _ => { r with pass := r.pass + 1 })) (r.acfgs.getD (r.pass + 1) [])

/-- Whether a pass is over: every team of the launch has been placed and is gone. -/
def passOver (s : State) (r : Replay) : Bool :=
  match Tab.get? s.launches r.launch with
  | none => true
  | some l => (l.cancelled || l.failed || (decide (l.tcount ≤ l.nextTeam) && l.again.isEmpty)) && !launchLive s r.launch

/-- REPLAY_PASS_END (R292). Where the launch was cancelled or rejected with passes left, the status is a free value other than 0,
which means that every pass ran (R293, log entry 24). -/
def execReplayPassEnd (s : State) : Host.Outcome State Fault Refusal :=
  .next (match s.replay with
    | none => s
    | some r =>
      if !passOver s r || clockStopped s then s
      else
        let ds := ((Tab.get? s.launches r.launch).map Launch.digests).getD []
        let r := if r.pass = 0 then { r with digests0 := ds }
          else if ds = r.digests0 then r else { r with mismatch := r.mismatch ++ [r.pass] }
        let s := storeCounts s r
        let l := Tab.get? s.launches r.launch
        let gone := (l.map (fun l => l.cancelled || l.failed)).getD true
        if r.passes ≤ r.pass + 1 then finishReplay s r
        else if gone then
          finishReplay { s with fresh := s.fresh + 1 } { r with status := 1 + BitVec.ofNat 8 ((Config.freeBits 8 s.fresh).toNat % 255) }
        else nextPass s r)

/-- PRE_IMAGE_COPIED (R292): the page's bytes lie in the replay area, and the writers that wait for them go on; the
65,537th page ends the replay (R293). -/
def execPreImageCopied (page : Nat) (s : State) : Host.Outcome State Fault Refusal :=
  .next (match s.replay with
    | none => s
    | some r =>
      if !r.copying.contains page || clockStopped s then s
      else
        let r := { r with copying := r.copying.filter (fun p => p != page) }
        if 65536 ≤ r.pages.length then modReplay s (fun _ => { r with status := 0x01 })
        else
          let old := (List.range 256).filterMap (fun i =>
            (Tab.get? s.seals (256 * page + i)).map (fun x => (256 * page + i, x)))
          let s := devWrite (ownTraffic s (4096 * page) 4096 0) (r.area + 0x200000 + 4096 * r.pages.length)
            (readBytes s.mem (4096 * page) 4096)
          modReplay s (fun _ => { r with
            pages := r.pages ++ [page], seals := old.foldl (fun t e => Tab.set t e.1 e.2) r.seals }))

/-- Another launch of the replayed launch's context is resident (R293). -/
def replayDisturbed (s : State) (r : Replay) : Bool :=
  let hm := ((Tab.get? s.launches r.launch).map Launch.hm).getD devHm
  s.teams.any (fun e => e.2.launch != r.launch && ((Tab.get? s.launches e.2.launch).map Launch.hm).getD devHm == hm)

/-- What ends a replay early ends it now (R293). -/
def settleReplay (s : State) : State :=
  match s.replay with
  | none => s
  | some r =>
    let r := if r.status = 0 ∧ replayDisturbed s r then { r with status := 0x04 } else r
    if r.status = 0 then s else finishReplay s r

end Sys2Proof.Machine
end

