-- ==== Sys2Proof/Machine/SysReg.lean ====
section
/-!
DEFINITION. The system registers, and MFSR and MTSR (R311, R317, R423).
-/

namespace Sys2Proof.Machine

/-- Whether a register's number is privileged (R311). -/
def privReg (r : SReg) : Bool := decide (0x100 ≤ r.code.toNat)

/-- Whether a register's value belongs to a thread, or to a home workgroup (R317). -/
def threadReg : SReg → Bool
  | .ctxid | .fpctl | .fpstat | .lndepth | .csp => true
  | _ => false
def homeReg : SReg → Bool
  | .tagrdy | .gstate | .barmode | .amx _ => true
  | _ => false

/-- GSTATE of a workgroup (R95). -/
def gstate (w : Wg) : Nat := ((List.range 16).map (fun g => if Tab.getD w.guards g false then 2 ^ (2 * g) else 0)).sum

/-- DGQH (R225); HEAD of an empty dugout is a free value. -/
def dgqh (s : State) (k : Core) : Nat :=
  k.dgSel.toNat * 2 ^ 16 + k.dugout.length * 2 ^ 5 +
    (match oldestEntry k with
     | some e => e
     | none => (Config.freeBits 5 s.fresh).toNat)

/-- What a register of the dugout shows of the entry that SEL names (R225); a free entry shows a free value. -/
def dugoutReg (s : State) (k : Core) (n : Nat) (f : DugEntry → Nat) : Nat :=
  match Tab.get? k.dugout k.dgSel.toNat with
  | some e => f e
  | none => (Config.freeBits 64 (s.fresh * 8 + n)).toNat

/-- DBGRIGHT (R279). -/
def dbgright (s : State) (c : Nat) : Nat :=
  let k := coreAt s c
  k.dbgSel.toNat * 2 ^ 16 +
    (match (slotAt s c k.dbgSel.toNat).wg with
     | some h =>
       let w := wgAt s h
       (if w.edit then 32 else 0) + (if ((Tab.get? s.teams w.team).map Team.halted).getD false then 16 else 0) +
         (if w.rstep then 8 else 0)
     | none => 0)

/-- The value of a system register as a lane reads it (R317). -/
def readReg (s : State) (l : Nat) (r : SReg) : Nat :=
  let i := s.iss
  let k := coreAt s i.core
  let t := threadAt s i.core i.slot l
  let w := wgAt s (homeOf s i.core i.slot l)
  match r with
  | .cyc => (cycOf s i.core).toNat
  | .tagrdy => (tagRdy w).toNat
  | .gstate => gstate w
  | .ctxid => (slotHm s i.core i.slot).toNat
  | .fpctl => ((t.map Thread.fpctl).getD 0).toNat
  | .fpstat => ((t.map Thread.fpstat).getD 0).toNat
  | .lndepth => w.dlim.toNat * 2 ^ 8 + w.depth.toNat
  | .barmode => w.barmode.toNat
  | .csp => ((t.map Thread.csp).getD 0).toNat
  | .amx n => (Tab.getD w.amx n.toNat 0).toNat
  | .tcause => dugoutReg s k 0 (fun e => e.cause.toNat * 256 + e.detail.toNat)
  | .trpc => dugoutReg s k 1 (fun e => e.pc.toNat)
  | .tlanes => dugoutReg s k 2 (fun e => e.lanes.toNat)
  | .taddr => dugoutReg s k 3 (fun e => (e.addrs.headD 0).toNat)
  | .tinfo => dugoutReg s k 4 (fun e => e.info.toNat)
  | .dgqh => dgqh s k
  | .hmark => k.hmark.toNat
  | .savebase => k.savebase.toNat
  | .ctxtab => s.ctxtab.toNat
  | .keysel => s.keysel.toNat
  | .trcctl => k.trcctl.toNat
  | .trcwp => k.trcDrop.toNat * 2 ^ 32 + k.trcOff.toNat
  | .dbgright => dbgright s i.core
  | .racechk => s.racechk.toNat
  | .wpa n => (Tab.getD s.wpa n.toNat 0).toNat
  | .wpc n => (Tab.getD s.wpc n.toNat 0).toNat
  | .acfg n => (Tab.getD k.acfg n.toNat 0).toNat
  | .acnt n => (Tab.getD k.acnt n.toNat 0).toNat
  | .accown n => (Tab.getD k.accown n.toNat 0).toNat

/-- A write of DBGRIGHT (R279): SEL, and EDIT and RSTEP of the workgroup that it then names. -/
def writeDbgright (s : State) (c : Nat) (x : DWord) : State :=
  let sel := x.extractLsb' 16 5
  let s := modCore s c (fun k => { k with dbgSel := sel })
  match (slotAt s c sel.toNat).wg with
  | some h =>
    if sel.toNat < 16 then modWg s h (fun w => { w with edit := w.edit || bitAt x 5, rstep := bitAt x 3 }) else s
  | none => s

/-- A lane's write of a system register (R317): only the bits that its map lets be written. -/
def writeReg (s : State) (l : Nat) (r : SReg) (x : DWord) : State :=
  let i := s.iss
  let h := homeOf s i.core i.slot l
  let lo := loWord x
  match r with
  | .cyc | .tagrdy | .gstate | .ctxid | .lndepth => s
  | .tcause | .trpc | .tlanes | .taddr | .tinfo | .trcwp => s
  | .fpctl => modThread s i.core i.slot l (fun t => { t with fpctl := lo &&& 7 })
  | .fpstat => modThread s i.core i.slot l (fun t => { t with fpstat := t.fpstat &&& ~~~lo })
  | .barmode => modWg s h (fun w => { w with barmode := bitAt x 0 })
  | .csp => modThread s i.core i.slot l (fun t => { t with csp := lo &&& ~~~7 })
  | .amx n => modWg s h (fun w => { w with amx := Tab.set w.amx n.toNat lo })
  | .dgqh => modCore s i.core (fun k => { k with dgSel := x.extractLsb' 16 5 })
  | .hmark => modCore s i.core (fun k => { k with hmark := x.extractLsb' 0 14 })
  | .savebase => modCore s i.core (fun k => { k with savebase := x })
  | .ctxtab => { s with ctxtab := x }
  | .keysel => { s with keysel := x.extractLsb' 0 13 }
  | .trcctl => modCore s i.core (fun k =>
      { k with
        trcctl := x &&& 0x000FFFFFFFFFFFFE, trcOff := 0, trcDrop := 0
        slots := if bitAt x 1 && !bitAt k.trcctl 1 then k.slots.map (fun e => (e.1, { e.2 with syncDue := 0xFFFFFFFF }))
          else k.slots })
  | .dbgright => writeDbgright s i.core x
  | .racechk =>
    let s := { s with racechk := bitAt x 0 }
    if bitAt x 1 then { s with shadows := [] } else s
  | .wpa n => { s with wpa := Tab.set s.wpa n.toNat x }
  | .wpc n => { s with wpc := Tab.set s.wpc n.toNat (lo &&& 0xFFFFE007) }
  | .acfg n => modCore s i.core (fun k => { k with acfg := Tab.set k.acfg n.toNat (x &&& 0xFFFFFFFC000000FF) })
  | .acnt n => modCore s i.core (fun k => { k with acnt := Tab.set k.acnt n.toNat x })
  | .accown n => modCore s i.core (fun k => { k with accown := Tab.set k.accown n.toNat ((lo.setWidth 16) &&& 0xBFFF) })

/-- The words of a system register. -/
def regWords (r : SReg) : Nat :=
  match r with
  | .cyc | .tagrdy | .taddr | .tinfo | .savebase | .ctxtab | .trcctl | .trcwp | .wpa _ | .acfg _ | .acnt _ => 2
  | _ => 1

/-- MFSR (R311, R317). -/
def execMfsr (h : Head) (d : Dst) (r : SReg) (s : State) : Host.Outcome State Fault Refusal :=
  let sh : Shape := { head := h, op := 0x3E0, dst := d, words := regWords r,
                      perLane := threadReg r || (homeReg r && slotBound s s.iss.core s.iss.slot) }
  let f := fun (l : Nat) (_ : List Nat) => (do
    let s ← get
    result (readReg s l r) : Act Out)
  if privReg r then privileged s sh [] f else perform s sh [] f

/-- MTSR (R311, R317, R423). -/
def execMtsr (h : Head) (a : Src) (r : SReg) (s : State) : Host.Outcome State Fault Refusal :=
  let sh : Shape := { head := h, op := 0x3E1 }
  let f := fun (l : Nat) (v : List Nat) => (do
    let s ← get
    setState (writeReg s l r (BitVec.ofNat 64 (v.getD 0 0)))
    pure {} : Act Out)
  if privReg r then privileged s sh [rdI a (regWords r)] f else perform s sh [rdI a (regWords r)] f

/-- MTSR of RACECHK (R77): EN takes its bit, and a 1 in CLR invalidates every shadow record. -/
def execRacechkClr (h : Head) (a : Src) (s : State) : Host.Outcome State Fault Refusal :=
  privileged s { head := h, op := 0x3E1 } [rdI a 1] (fun l v => do
    let s ← get
    setState (writeReg s l .racechk (BitVec.ofNat 64 (v.getD 0 0)))
    pure {})

end Sys2Proof.Machine
end

