-- ==== Sys2Proof/Machine/Dispatch.lean ====
section
/-!
DEFINITION. The meaning of every instruction and event, one arm per row of the opcode table.
-/

namespace Sys2Proof.Machine

def exec (i : Instr) (s : State) : Host.Outcome State Fault Refusal :=
  match i with
  | .iadd h d a b t sat => Sys2Proof.Machine.execIadd h d a b t sat s
  | .isub h d a b t sat => Sys2Proof.Machine.execIsub h d a b t sat s
  | .imul h d a b t sat => Sys2Proof.Machine.execImul h d a b t sat s
  | .imulh h d a b t => Sys2Proof.Machine.execImulh h d a b t s
  | .imad h d a b c t sat => Sys2Proof.Machine.execImad h d a b c t sat s
  | .imadw h d a b c signed sat => Sys2Proof.Machine.execImadw h d a b c signed sat s
  | .imin h d a b t => Sys2Proof.Machine.execImin h d a b t s
  | .imax h d a b t => Sys2Proof.Machine.execImax h d a b t s
  | .iabs h d a w sat => Sys2Proof.Machine.execIabs h d a w sat s
  | .ineg h d a t sat => Sys2Proof.Machine.execIneg h d a t sat s
  | .isad h d a b c t sat => Sys2Proof.Machine.execIsad h d a b c t sat s
  | .and h d a b w => Sys2Proof.Machine.execAnd h d a b w s
  | .or h d a b w => Sys2Proof.Machine.execOr h d a b w s
  | .xor h d a b w => Sys2Proof.Machine.execXor h d a b w s
  | .not h d a w => Sys2Proof.Machine.execNot h d a w s
  | .andn h d a b w => Sys2Proof.Machine.execAndn h d a b w s
  | .shl h d a b t => Sys2Proof.Machine.execShl h d a b t s
  | .shr h d a b t => Sys2Proof.Machine.execShr h d a b t s
  | .sar h d a b t => Sys2Proof.Machine.execSar h d a b t s
  | .rotl h d a b t => Sys2Proof.Machine.execRotl h d a b t s
  | .bfx h d a b t => Sys2Proof.Machine.execBfx h d a b t s
  | .bfi h d a b c t => Sys2Proof.Machine.execBfi h d a b c t s
  | .brev h d a w => Sys2Proof.Machine.execBrev h d a w s
  | .popc h d a w => Sys2Proof.Machine.execPopc h d a w s
  | .clz h d a w => Sys2Proof.Machine.execClz h d a w s
  | .ctz h d a w => Sys2Proof.Machine.execCtz h d a w s
  | .lea h d a b c t k => Sys2Proof.Machine.execLea h d a b c t k s
  | .mov h d a w => Sys2Proof.Machine.execMov h d a w s
  | .sel h d a b w p => Sys2Proof.Machine.execSel h d a b w p s
  | .icmp h d a b t cond => Sys2Proof.Machine.execIcmp h d a b t cond s
  | .iaddI h d a imm t sat => Sys2Proof.Machine.execIaddI h d a imm t sat s
  | .isubI h d a imm t sat => Sys2Proof.Machine.execIsubI h d a imm t sat s
  | .imulI h d a imm t sat => Sys2Proof.Machine.execImulI h d a imm t sat s
  | .iminI h d a imm t => Sys2Proof.Machine.execIminI h d a imm t s
  | .imaxI h d a imm t => Sys2Proof.Machine.execImaxI h d a imm t s
  | .andI h d a imm w => Sys2Proof.Machine.execAndI h d a imm w s
  | .orI h d a imm w => Sys2Proof.Machine.execOrI h d a imm w s
  | .xorI h d a imm w => Sys2Proof.Machine.execXorI h d a imm w s
  | .andnI h d a imm w => Sys2Proof.Machine.execAndnI h d a imm w s
  | .shlI h d a imm t => Sys2Proof.Machine.execShlI h d a imm t s
  | .shrI h d a imm t => Sys2Proof.Machine.execShrI h d a imm t s
  | .sarI h d a imm t => Sys2Proof.Machine.execSarI h d a imm t s
  | .rotlI h d a imm t => Sys2Proof.Machine.execRotlI h d a imm t s
  | .leaI h d a imm t k => Sys2Proof.Machine.execLeaI h d a imm t k s
  | .icmpI h d a imm t cond => Sys2Proof.Machine.execIcmpI h d a imm t cond s
  | .movi h d imm t => Sys2Proof.Machine.execMovi h d imm t s
  | .fadd h d a b r => Sys2Proof.Machine.execFadd h d a b r s
  | .fsub h d a b r => Sys2Proof.Machine.execFsub h d a b r s
  | .fmul h d a b r => Sys2Proof.Machine.execFmul h d a b r s
  | .ffma h d a b c m => Sys2Proof.Machine.execFfma h d a b c m s
  | .fmin h d a b nan => Sys2Proof.Machine.execFmin h d a b nan s
  | .fmax h d a b nan => Sys2Proof.Machine.execFmax h d a b nan s
  | .fcmp h d a b cond => Sys2Proof.Machine.execFcmp h d a b cond s
  | .fclass h d a t => Sys2Proof.Machine.execFclass h d a t s
  | .frnd h d a m => Sys2Proof.Machine.execFrnd h d a m s
  | .frcp h d a m => Sys2Proof.Machine.execFrcp h d a m s
  | .frsq h d a m => Sys2Proof.Machine.execFrsq h d a m s
  | .fsqrt h d a m => Sys2Proof.Machine.execFsqrt h d a m s
  | .fex2 h d a => Sys2Proof.Machine.execFex2 h d a s
  | .flg2 h d a => Sys2Proof.Machine.execFlg2 h d a s
  | .fsin h d a => Sys2Proof.Machine.execFsin h d a s
  | .fcos h d a => Sys2Proof.Machine.execFcos h d a s
  | .ftanh h d a => Sys2Proof.Machine.execFtanh h d a s
  | .fsig h d a => Sys2Proof.Machine.execFsig h d a s
  | .hadd2 h d a b t r => Sys2Proof.Machine.execHadd2 h d a b t r s
  | .hmul2 h d a b t r => Sys2Proof.Machine.execHmul2 h d a b t r s
  | .hfma2 h d a b c t m => Sys2Proof.Machine.execHfma2 h d a b c t m s
  | .hmax2 h d a b t nan => Sys2Proof.Machine.execHmax2 h d a b t nan s
  | .hmin2 h d a b t nan => Sys2Proof.Machine.execHmin2 h d a b t nan s
  | .dadd h d a b m => Sys2Proof.Machine.execDadd h d a b m s
  | .dmul h d a b m => Sys2Proof.Machine.execDmul h d a b m s
  | .dfma h d a b c m => Sys2Proof.Machine.execDfma h d a b c m s
  | .dcmp h d a b cond => Sys2Proof.Machine.execDcmp h d a b cond s
  | .dmin h d a b nan => Sys2Proof.Machine.execDmin h d a b nan s
  | .dmax h d a b nan => Sys2Proof.Machine.execDmax h d a b nan s
  | .faddI h d a imm m => Sys2Proof.Machine.execFaddI h d a imm m s
  | .fsubI h d a imm m => Sys2Proof.Machine.execFsubI h d a imm m s
  | .fmulI h d a imm m => Sys2Proof.Machine.execFmulI h d a imm m s
  | .fminI h d a imm nan => Sys2Proof.Machine.execFminI h d a imm nan s
  | .fmaxI h d a imm nan => Sys2Proof.Machine.execFmaxI h d a imm nan s
  | .fcmpI h d a imm cond => Sys2Proof.Machine.execFcmpI h d a imm cond s
  | .cvtf h d a code r => Sys2Proof.Machine.execCvtf h d a code r s
  | .cvti h d a code r => Sys2Proof.Machine.execCvti h d a code r s
  | .cvtn h d a code r => Sys2Proof.Machine.execCvtn h d a code r s
  | .qpk h d a b c f n => Sys2Proof.Machine.execQpk h d a b c f n s
  | .qupk h d a c f n hi => Sys2Proof.Machine.execQupk h d a c f n hi s
  | .bscl h d a f => Sys2Proof.Machine.execBscl h d a f s
  | .amax h a n src => Sys2Proof.Machine.execAmax h a n src s
  | .cbrg h d a b out => Sys2Proof.Machine.execCbrg h d a b out s
  | .shfl h d a b c mode g => Sys2Proof.Machine.execShfl h d a b c mode g s
  | .vote h d test p neg => Sys2Proof.Machine.execVote h d test p neg s
  | .ballot h d p neg => Sys2Proof.Machine.execBallot h d p neg s
  | .redx h d a op t => Sys2Proof.Machine.execRedx h d a op t s
  | .scan h d a b op t => Sys2Proof.Machine.execScan h d a b op t s
  | .matchLanes h d a w => Sys2Proof.Machine.execMatchLanes h d a w s
  | .elect h d cand hi => Sys2Proof.Machine.execElect h d cand hi s
  | .psh h a inv => Sys2Proof.Machine.execPsh h a inv s
  | .pdrop h n => Sys2Proof.Machine.execPdrop h n s
  | .pdup h p => Sys2Proof.Machine.execPdup h p s
  | .plog h op p rep inv => Sys2Proof.Machine.execPlog h op p rep inv s
  | .pmov h op => Sys2Proof.Machine.execPmov h op s
  | .pswp h p => Sys2Proof.Machine.execPswp h p s
  | .ld h d b off w o hint => Sys2Proof.Machine.execLd h d b off w o hint s
  | .st h b off x w o hint => Sys2Proof.Machine.execSt h b off x w o hint s
  | .lds h d b off w o => Sys2Proof.Machine.execLds h d b off w o s
  | .sts h b off x w o => Sys2Proof.Machine.execSts h b off x w o s
  | .pref h b off n hint => Sys2Proof.Machine.execPref h b off n hint s
  | .cctlCln h b off => Sys2Proof.Machine.execCctlCln h b off s
  | .cctlInv h b off => Sys2Proof.Machine.execCctlInv h b off s
  | .cctlPin h d b off => Sys2Proof.Machine.execCctlPin h d b off s
  | .cctlUnpin h b off => Sys2Proof.Machine.execCctlUnpin h b off s
  | .fence h o sc => Sys2Proof.Machine.execFence h o sc s
  | .cmpst h d b off x w o spad => Sys2Proof.Machine.execCmpst h d b off x w o spad s
  | .ipref h off n => Sys2Proof.Machine.execIpref h off n s
  | .atomAdd h d b off x w o sc hint => Sys2Proof.Machine.execAtomAdd h d b off x w o sc hint s
  | .atomMin h d b off x w o sc hint => Sys2Proof.Machine.execAtomMin h d b off x w o sc hint s
  | .atomMax h d b off x w o sc hint => Sys2Proof.Machine.execAtomMax h d b off x w o sc hint s
  | .atomAnd h d b off x w o sc hint => Sys2Proof.Machine.execAtomAnd h d b off x w o sc hint s
  | .atomOr h d b off x w o sc hint => Sys2Proof.Machine.execAtomOr h d b off x w o sc hint s
  | .atomXor h d b off x w o sc hint => Sys2Proof.Machine.execAtomXor h d b off x w o sc hint s
  | .atomExch h d b off x w o sc hint => Sys2Proof.Machine.execAtomExch h d b off x w o sc hint s
  | .atomCas h d b off x w o sc hint => Sys2Proof.Machine.execAtomCas h d b off x w o sc hint s
  | .atomAddcl h d b off x w o sc hint => Sys2Proof.Machine.execAtomAddcl h d b off x w o sc hint s
  | .atomSubcl h d b off x w o sc hint => Sys2Proof.Machine.execAtomSubcl h d b off x w o sc hint s
  | .atomFadd h d b off x w o sc hint => Sys2Proof.Machine.execAtomFadd h d b off x w o sc hint s
  | .atomFmin h d b off x w o sc hint => Sys2Proof.Machine.execAtomFmin h d b off x w o sc hint s
  | .atomFmax h d b off x w o sc hint => Sys2Proof.Machine.execAtomFmax h d b off x w o sc hint s
  | .atomMinU h d b off x w o sc hint => Sys2Proof.Machine.execAtomMinU h d b off x w o sc hint s
  | .atomMaxU h d b off x w o sc hint => Sys2Proof.Machine.execAtomMaxU h d b off x w o sc hint s
  | .atomsAdd h d b off x w o sc => Sys2Proof.Machine.execAtomsAdd h d b off x w o sc s
  | .atomsMin h d b off x w o sc => Sys2Proof.Machine.execAtomsMin h d b off x w o sc s
  | .atomsMax h d b off x w o sc => Sys2Proof.Machine.execAtomsMax h d b off x w o sc s
  | .atomsAnd h d b off x w o sc => Sys2Proof.Machine.execAtomsAnd h d b off x w o sc s
  | .atomsOr h d b off x w o sc => Sys2Proof.Machine.execAtomsOr h d b off x w o sc s
  | .atomsXor h d b off x w o sc => Sys2Proof.Machine.execAtomsXor h d b off x w o sc s
  | .atomsExch h d b off x w o sc => Sys2Proof.Machine.execAtomsExch h d b off x w o sc s
  | .atomsCas h d b off x w o sc => Sys2Proof.Machine.execAtomsCas h d b off x w o sc s
  | .atomsAddcl h d b off x w o sc => Sys2Proof.Machine.execAtomsAddcl h d b off x w o sc s
  | .atomsSubcl h d b off x w o sc => Sys2Proof.Machine.execAtomsSubcl h d b off x w o sc s
  | .atomsFadd h d b off x w o sc => Sys2Proof.Machine.execAtomsFadd h d b off x w o sc s
  | .atomsFmin h d b off x w o sc => Sys2Proof.Machine.execAtomsFmin h d b off x w o sc s
  | .atomsFmax h d b off x w o sc => Sys2Proof.Machine.execAtomsFmax h d b off x w o sc s
  | .atomsMinU h d b off x w o sc => Sys2Proof.Machine.execAtomsMinU h d b off x w o sc s
  | .atomsMaxU h d b off x w o sc => Sys2Proof.Machine.execAtomsMaxU h d b off x w o sc s
  | .redAdd h b off x w o sc hint => Sys2Proof.Machine.execRedAdd h b off x w o sc hint s
  | .redMin h b off x w o sc hint => Sys2Proof.Machine.execRedMin h b off x w o sc hint s
  | .redMax h b off x w o sc hint => Sys2Proof.Machine.execRedMax h b off x w o sc hint s
  | .redAnd h b off x w o sc hint => Sys2Proof.Machine.execRedAnd h b off x w o sc hint s
  | .redOr h b off x w o sc hint => Sys2Proof.Machine.execRedOr h b off x w o sc hint s
  | .redXor h b off x w o sc hint => Sys2Proof.Machine.execRedXor h b off x w o sc hint s
  | .redAddcl h b off x w o sc hint => Sys2Proof.Machine.execRedAddcl h b off x w o sc hint s
  | .redSubcl h b off x w o sc hint => Sys2Proof.Machine.execRedSubcl h b off x w o sc hint s
  | .redFadd h b off x w o sc hint => Sys2Proof.Machine.execRedFadd h b off x w o sc hint s
  | .redFmin h b off x w o sc hint => Sys2Proof.Machine.execRedFmin h b off x w o sc hint s
  | .redFmax h b off x w o sc hint => Sys2Proof.Machine.execRedFmax h b off x w o sc hint s
  | .redMinU h b off x w o sc hint => Sys2Proof.Machine.execRedMinU h b off x w o sc hint s
  | .redMaxU h b off x w o sc hint => Sys2Proof.Machine.execRedMaxU h b off x w o sc hint s
  | .cpy h blk tag g => Sys2Proof.Machine.execCpy h blk tag g s
  | .cpys h blk tag g => Sys2Proof.Machine.execCpys h blk tag g s
  | .cpyx h blk tag g => Sys2Proof.Machine.execCpyx h blk tag g s
  | .strm h blk tag g => Sys2Proof.Machine.execStrm h blk tag g s
  | .scnt h x tag => Sys2Proof.Machine.execScnt h x tag s
  | .wtag h tag => Sys2Proof.Machine.execWtag h tag s
  | .wany h d a => Sys2Proof.Machine.execWany h d a s
  | .tffr h d a => Sys2Proof.Machine.execTffr h d a s
  | .tclr h tag => Sys2Proof.Machine.execTclr h tag s
  | .trdy h d a => Sys2Proof.Machine.execTrdy h d a s
  | .gresCmt h g => Sys2Proof.Machine.execGresCmt h g s
  | .gresDsc h g => Sys2Proof.Machine.execGresDsc h g s
  | .rsv h d a b => Sys2Proof.Machine.execRsv h d a b s
  | .rls h a => Sys2Proof.Machine.execRls h a s
  | .rrec h d a => Sys2Proof.Machine.execRrec h d a s
  | .mma h blk tag g => Sys2Proof.Machine.execMma h blk tag g s
  | .mmas h blk tag g => Sys2Proof.Machine.execMmas h blk tag g s
  | .aclr h slot => Sys2Proof.Machine.execAclr h slot s
  | .ald h blk tag slot => Sys2Proof.Machine.execAld h blk tag slot s
  | .ast h blk tag slot => Sys2Proof.Machine.execAst h blk tag slot s
  | .mdrn h blk tag => Sys2Proof.Machine.execMdrn h blk tag s
  | .acmt h slot => Sys2Proof.Machine.execAcmt h slot s
  | .adsc h slot => Sys2Proof.Machine.execAdsc h slot s
  | .npost h blk => Sys2Proof.Machine.execNpost h blk s
  | .nwait h d a b => Sys2Proof.Machine.execNwait h d a b s
  | .ncanc h d a => Sys2Proof.Machine.execNcanc h d a s
  | .bra h off join => Sys2Proof.Machine.execBra h off join s
  | .brx h a join => Sys2Proof.Machine.execBrx h a join s
  | .call h off => Sys2Proof.Machine.execCall h off s
  | .callx h a => Sys2Proof.Machine.execCallx h a s
  | .ret h => Sys2Proof.Machine.execRet h s
  | .meet h join => Sys2Proof.Machine.execMeet h join s
  | .exit h => Sys2Proof.Machine.execExit h s
  | .bar h b => Sys2Proof.Machine.execBar h b s
  | .barn h a x => Sys2Proof.Machine.execBarn h a x s
  | .tbar h b => Sys2Proof.Machine.execTbar h b s
  | .hudl h d k id => Sys2Proof.Machine.execHudl h d k id s
  | .hudlHome h => Sys2Proof.Machine.execHudlHome h s
  | .yieldRun h => Sys2Proof.Machine.execYieldRun h s
  | .sleep h a => Sys2Proof.Machine.execSleep h a s
  | .nop h => Sys2Proof.Machine.execNop h s
  | .trapSelf h b => Sys2Proof.Machine.execTrapSelf h b s
  | .trapOne h a b => Sys2Proof.Machine.execTrapOne h a b s
  | .trapWgrp h b => Sys2Proof.Machine.execTrapWgrp h b s
  | .trapTgrp h b => Sys2Proof.Machine.execTrapTgrp h b s
  | .svc h a => Sys2Proof.Machine.execSvc h a s
  | .svcq h => Sys2Proof.Machine.execSvcq h s
  | .sigret h => Sys2Proof.Machine.execSigret h s
  | .lnch h d blk => Sys2Proof.Machine.execLnch h d blk s
  | .lwait h => Sys2Proof.Machine.execLwait h s
  | .gctr h d a => Sys2Proof.Machine.execGctr h d a s
  | .cncl h a => Sys2Proof.Machine.execCncl h a s
  | .rge h id => Sys2Proof.Machine.execRge h id s
  | .rgl h => Sys2Proof.Machine.execRgl h s
  | .bkpt h => Sys2Proof.Machine.execBkpt h s
  | .snap h => Sys2Proof.Machine.execSnap h s
  | .trmk h a => Sys2Proof.Machine.execTrmk h a s
  | .mfsr h d r => Sys2Proof.Machine.execMfsr h d r s
  | .mtsr h a r => Sys2Proof.Machine.execMtsr h a r s
  | .racechkClr h a => Sys2Proof.Machine.execRacechkClr h a s
  | .eret h d a => Sys2Proof.Machine.execEret h d a s
  | .rply h a => Sys2Proof.Machine.execRply h a s
  | .rplySig h a => Sys2Proof.Machine.execRplySig h a s
  | .rplyDet h a b => Sys2Proof.Machine.execRplyDet h a b s
  | .park h a => Sys2Proof.Machine.execPark h a s
  | .kill h a b => Sys2Proof.Machine.execKill h a b s
  | .tlbiCtx h a => Sys2Proof.Machine.execTlbiCtx h a s
  | .tlbiRng h a b c => Sys2Proof.Machine.execTlbiRng h a b c s
  | .tlbiAll h => Sys2Proof.Machine.execTlbiAll h s
  | .poolrdMap h d a => Sys2Proof.Machine.execPoolrdMap h d a s
  | .poolrdDat h d a b => Sys2Proof.Machine.execPoolrdDat h d a b s
  | .poolwrMap h a b => Sys2Proof.Machine.execPoolwrMap h a b s
  | .poolwrDat h a b c => Sys2Proof.Machine.execPoolwrDat h a b c s
  | .cpyp h blk tag => Sys2Proof.Machine.execCpyp h blk tag s
  | .svresp h a b c => Sys2Proof.Machine.execSvresp h a b c s
  | .erst h a => Sys2Proof.Machine.execErst h a s
  | .erstMtx h a => Sys2Proof.Machine.execErstMtx h a s
  | .erstNet h a => Sys2Proof.Machine.execErstNet h a s
  | .erstFail h a b => Sys2Proof.Machine.execErstFail h a b s
  | .erstFailMtx h a b => Sys2Proof.Machine.execErstFailMtx h a b s
  | .erstFailNet h a b => Sys2Proof.Machine.execErstFailNet h a b s
  | .keyld h a => Sys2Proof.Machine.execKeyld h a s
  | .keyldClr h => Sys2Proof.Machine.execKeyldClr h s
  | .hmchk h d a => Sys2Proof.Machine.execHmchk h d a s
  | .runSelect c q => Sys2Proof.Machine.execRunSelect c q s
  | .fetchReturn c q => Sys2Proof.Machine.execFetchReturn c q s
  | .loadReturn c slot => Sys2Proof.Machine.execLoadReturn c slot s
  | .storeAck n => Sys2Proof.Machine.execStoreAck n s
  | .remoteStoreLost n => Sys2Proof.Machine.execRemoteStoreLost n s
  | .walkStart w => Sys2Proof.Machine.execWalkStart w s
  | .walkComplete w => Sys2Proof.Machine.execWalkComplete w s
  | .copyStart c n => Sys2Proof.Machine.execCopyStart c n s
  | .copySectorDone c n => Sys2Proof.Machine.execCopySectorDone c n s
  | .mmaStart c n => Sys2Proof.Machine.execMmaStart c n s
  | .mmaStep c n => Sys2Proof.Machine.execMmaStep c n s
  | .drainSectorDone c n => Sys2Proof.Machine.execDrainSectorDone c n s
  | .huddleMove c slot => Sys2Proof.Machine.execHuddleMove c slot s
  | .sleepExpiry c slot lane => Sys2Proof.Machine.execSleepExpiry c slot lane s
  | .nwaitPoll c slot lane => Sys2Proof.Machine.execNwaitPoll c slot lane s
  | .saveForce team => Sys2Proof.Machine.execSaveForce team s
  | .debugStopForce team => Sys2Proof.Machine.execDebugStopForce team s
  | .asyncSignalForce c slot lane => Sys2Proof.Machine.execAsyncSignalForce c slot lane s
  | .placeTeam => Sys2Proof.Machine.execPlaceTeam s
  | .streamAgeing => Sys2Proof.Machine.execStreamAgeing s
  | .counterSweep => Sys2Proof.Machine.execCounterSweep s
  | .stallSample c => Sys2Proof.Machine.execStallSample c s
  | .errorDiscovery k a b => Sys2Proof.Machine.execErrorDiscovery k a b s
  | .hbmScrub sector bad => Sys2Proof.Machine.execHbmScrub sector bad s
  | .coreFence c => Sys2Proof.Machine.execCoreFence c s
  | .snapshotCommit team => Sys2Proof.Machine.execSnapshotCommit team s
  | .rollback team => Sys2Proof.Machine.execRollback team s
  | .launchCommit port q slot x => Sys2Proof.Machine.execLaunchCommit port q slot x s
  | .renew port => Sys2Proof.Machine.execRenew port s
  | .leaseExpiry => Sys2Proof.Machine.execLeaseExpiry s
  | .clearFails port x => Sys2Proof.Machine.execClearFails port x s
  | .flashErase port => Sys2Proof.Machine.execFlashErase port s
  | .flashProgram port => Sys2Proof.Machine.execFlashProgram port s
  | .flashEraseDone ok => Sys2Proof.Machine.execFlashEraseDone ok s
  | .flashProgramDone ok => Sys2Proof.Machine.execFlashProgramDone ok s
  | .registerWrite port off x => Sys2Proof.Machine.execRegisterWrite port off x s
  | .hostMemoryAccess port write a data => Sys2Proof.Machine.execHostMemoryAccess port write a data s
  | .hostSnoop a write data => Sys2Proof.Machine.execHostSnoop a write data s
  | .deviceReset => Sys2Proof.Machine.execDeviceReset s
  | .bootstOk => Sys2Proof.Machine.execBootstOk s
  | .firmwareTimeout => Sys2Proof.Machine.execFirmwareTimeout s
  | .serviceReply => Sys2Proof.Machine.execServiceReply s
  | .teamSave => Sys2Proof.Machine.execTeamSave s
  | .teamSaveSpill => Sys2Proof.Machine.execTeamSaveSpill s
  | .teamRestore => Sys2Proof.Machine.execTeamRestore s
  | .teamKill => Sys2Proof.Machine.execTeamKill s
  | .debugStopRequest => Sys2Proof.Machine.execDebugStopRequest s
  | .debugResumeRequest => Sys2Proof.Machine.execDebugResumeRequest s
  | .revokeNotice => Sys2Proof.Machine.execRevokeNotice s
  | .kernelReplayRequest => Sys2Proof.Machine.execKernelReplayRequest s
  | .replayPassEnd => Sys2Proof.Machine.execReplayPassEnd s
  | .contextTlbiRequest => Sys2Proof.Machine.execContextTlbiRequest s
  | .qpOpen => Sys2Proof.Machine.execQpOpen s
  | .qpClose => Sys2Proof.Machine.execQpClose s
  | .setReceiveRing => Sys2Proof.Machine.execSetReceiveRing s
  | .setMemoryKey => Sys2Proof.Machine.execSetMemoryKey s
  | .clearMemoryKey => Sys2Proof.Machine.execClearMemoryKey s
  | .attestationRequest => Sys2Proof.Machine.execAttestationRequest s
  | .pageReply => Sys2Proof.Machine.execPageReply s
  | .uatinRequest r => Sys2Proof.Machine.execUatinRequest r s
  | .uatinTimeout n => Sys2Proof.Machine.execUatinTimeout n s
  | .flitReplay p => Sys2Proof.Machine.execFlitReplay p s
  | .portStateChange p st => Sys2Proof.Machine.execPortStateChange p st s
  | .netTakeRequest qp => Sys2Proof.Machine.execNetTakeRequest qp s
  | .netPacketReceive k => Sys2Proof.Machine.execNetPacketReceive k s
  | .netAckReceive qp psn bitmap => Sys2Proof.Machine.execNetAckReceive qp psn bitmap s
  | .netRetransmitTimeout qp psn => Sys2Proof.Machine.execNetRetransmitTimeout qp psn s
  | .throttleStepDown pkgw hbm die => Sys2Proof.Machine.execThrottleStepDown pkgw hbm die s
  | .throttleT3 pkgw hbm die => Sys2Proof.Machine.execThrottleT3 pkgw hbm die s
  | .throttleT4 pkgw hbm die => Sys2Proof.Machine.execThrottleT4 pkgw hbm die s
  | .throttleLeaveT4 pkgw hbm die => Sys2Proof.Machine.execThrottleLeaveT4 pkgw hbm die s
  | .throttleStepUp pkgw hbm die => Sys2Proof.Machine.execThrottleStepUp pkgw hbm die s
  | .tempRefresh pkgw hbm die => Sys2Proof.Machine.execTempRefresh pkgw hbm die s
  | .hostPortDown port => Sys2Proof.Machine.execHostPortDown port s
  | .outboundHeadAdvance port head => Sys2Proof.Machine.execOutboundHeadAdvance port head s
  | .unitResetDone clock => Sys2Proof.Machine.execUnitResetDone clock s
  | .hostServiceRestart => Sys2Proof.Machine.execHostServiceRestart s
  | .pageZeroingDone team => Sys2Proof.Machine.execPageZeroingDone team s
  | .preImageCopied page => Sys2Proof.Machine.execPreImageCopied page s
  | .netRefusalReceive qp psn => Sys2Proof.Machine.execNetRefusalReceive qp psn s

end Sys2Proof.Machine
end

