-- ==== Sys2Proof/Machine/Settle.lean ====
section
/-!
DEFINITION. What follows from a step without an agent of its own: workgroups whose threads have all exited are released,
barriers and huddles that an exit leaves trap, stops and saves go on, calls answered while their thread was away complete,
cancelled launches end, and the arbiter notes which heads are eligible (R101, R185, R199, R211, R235, R240, R249, R293).
-/

namespace Sys2Proof.Machine

/-- The workgroups that are not Ninal's. -/
def userWgs (s : State) : List Nat := (s.wgs.keys).filter (fun h => decide (192 ≤ h))

/-- The exit of a workgroup (R76, R78, R101, R249): once its commands have ended it releases at device scope, and what it
holds is freed. -/
def settleExit (s : State) (h : Nat) : State :=
  if (Tab.get? s.wgs h).isNone || wgLive s h || commandsLeft s h then s
  else
    let s := if (wgAt s h).exiting then s
      else modWg (orderWork s h .rel .dev) h (fun w => { w with exiting := true })
    retireWg s h

/-- Barriers that an exit or a number has made unreachable, or that have completed (R199 to R201, R408). -/
def settleBarriers (s : State) (h : Nat) : State :=
  if !(wgAt s h).barLeft.isEmpty || (threadsOf s h).any (fun t => match t.2.2.st with
    | .bar _ _ | .barn _ _ | .tbar _ _ => true
    | _ => false) then sweepBarriers s h else s

/-- The slots of a core in which some thread huddles. -/
def huddling (s : State) (c : Nat) : List Nat :=
  ((coreAt s c).slots.filter (fun e => e.2.threads.any (fun t => (huddleGoal t.2).isSome))).map Prod.fst

/-- The detached callers of a core whose mailbox holds a reply: (slot, lane, reply) (R235). -/
def repliedCalls (s : State) (c : Nat) : List (Nat × Nat × List Word) :=
  (coreAt s c).slots.flatMap (fun e =>
    e.2.threads.filterMap (fun t =>
      match t.2.st with
      | .detached cause _ =>
        if cause = 0x70 ∧ !t.2.held then
          let w := wgAt s t.2.home
          match (ctxRead s c w.hm (mailboxAt s w t.2.tidx) 8).2 with
          | some bs => if natOf bs / 2 ^ 48 % 4 = 2 then some (e.1, t.1, mailboxReply s c t.2) else none
          | none => none
        else none
      | _ => none))

/-- The calls of restored threads that have been answered complete (R235). -/
def settleCalls (s : State) : State :=
  (s.cores.keys).foldl (fun s c => (repliedCalls s c).foldl (fun s x => completeCall s c x.1 x.2.1 x.2.2) s) s

/-- Meetings whose last absent sibling has parked, exited or moved away release their threads (R172). -/
def settleMeetings (s : State) (c : Nat) : State :=
  (((coreAt s c).slots.filter (fun e => e.2.threads.any (fun t => t.2.st == .meeting))).map Prod.fst).foldl
    (fun s n => meetings s c n) s

/-- Threads whose trap waits for a dugout entry take it as entries free (R222). -/
def settleTraps (s : State) (c : Nat) : State :=
  (coreAt s c).slots.foldl (fun s e =>
    ((e.2.threads.filterMap (fun t => match t.2.st with | .trapping x d op => some (x, d, op) | _ => none)).dedup).foldl
      (fun s x =>
        let ls := ((slotAt s c e.1).threads.filter (fun t => t.2.st == .trapping x.1 x.2.1 x.2.2)).map (fun t => (e.1, t.1))
        trapWaiters s c ls x.1 x.2.1 x.2.2) s) s

/-- The destination ranges of the commands that a kill cut short become undefined, wherever their pages are mapped, also where their
context has ended with them, whose lines are then dropped: free values (R101, R257, R9). -/
def settleTorn (s : State) : State :=
  let free (s : State) (c : Nat) (e : Nat × Hm × Half) (va : DWord) : State :=
    match (place { s with ended := [] } c e.2.1 va .write).2 with
    | .ok p =>
      { writePlace s (.core c .none) e.2.1 p false (bytesOf 16 (Config.freeBits 128 s.fresh).toNat) with fresh := s.fresh + 1 }
    | .error _ => s
  let cs := s.torn
  let ms := s.tornMtx
  let s := { s with torn := [], tornMtx := [] }
  let s := cs.foldl (fun s x =>
    (writeSpans s x.2).foldl (fun s a =>
      if a.1 = 0 then
        (List.range (a.2.2 / 16)).foldl (fun s i =>
          free s x.1 (x.2.wg, x.2.hm, x.2.orig.top) (BitVec.ofNat 64 (a.2.1 + 16 * i))) s
      else s) s) s
  let s := ms.foldl (fun s x =>
    if x.2.op = .mdrn ∧ !epDK x.2.block then
      (drainSectors x.2.block (x.2.image.getD (drainImage s x.2))).foldl (fun s d => free s x.1 (x.2.wg, x.2.hm, x.2.orig.top) d.1) s
    else s) s
  let gone := (cs.map (fun x => x.2.hm) ++ ms.map (fun x => x.2.hm)).filter (fun h => s.ended.contains h.toNat)
  ((s.lines.filter (fun l => gone.contains l.2.hm)).map Prod.fst).foldl discardLine s

/-- The poisoned sectors that the device's own reads, or its accesses in a context, have consumed end what R257 names, and are
reported (R256, R261). -/
def settlePoison (s : State) : State :=
  s.consumed.foldl (fun s x => contain s none x.1 false x.2 [] (carrierOf s none x.1) 0xFFFFFFFF) { s with consumed := [] }

/-- The errors of pool pages that POOLRD has met in this step are contained for the pages' owners (R258, R427). -/
def settlePages (s : State) : State :=
  s.metPages.foldl (fun s x => badPage s x.1 x.2) { s with metPages := [] }

/-- The records of the escape log are written to the committed banks (R268, R270): free values, where log entry 30 says. -/
def settleLog (s : State) : State :=
  s.teams.foldl (fun s e =>
    match Tab.get? s.teams e.1 with
    | none => s
    | some m =>
      if !m.snap.valid || m.snap.log.length ≤ m.snap.logged then s
      else
        let s := ((withPos m.snap.log).drop m.snap.logged).foldl (fun s r =>
          let w := wgAt s r.2.wg
          let k := ((m.snap.log.take r.1).filter (fun x => x.wg = r.2.wg)).length
          (ctxWrite { s with fresh := s.fresh + 1 } w.core w.hm (bankAddr s w m.snap.bank + BitVec.ofNat 64 (0x1B0000 + 320 * (k % 1024)))
            (bytesOf 16 (Config.freeBits 128 (s.fresh * 2 ^ 24)).toNat)).1) s
        modTeam s e.1 (fun m => { m with snap := { m.snap with logged := m.snap.log.length } })) s

/-- The engine reads on for an NCANC that waits (R400, R469). -/
def settleChains (s : State) : State :=
  let qs := s.cores.flatMap (fun e => e.2.slots.flatMap (fun w => w.2.threads.filterMap (fun t =>
    match t.2.st with
    | .wait (.chain q) => some q
    | _ => none)))
  qs.dedup.foldl readChain s

/-- What follows from a step. -/
def settle (s : State) : State :=
  let s := settlePages s
  let s := (userWgs s).foldl settleBarriers s
  let s := (s.cores.keys).foldl (fun s c => (huddling s c).foldl (fun s n => sweepHuddle s c n) s) s
  let s := (s.cores.keys).foldl settleTraps s
  let s := (userWgs s).foldl settleExit s
  let s := (s.cores.keys).foldl settleMeetings s
  let s := (s.teams.keys).foldl settleStop s
  let s := settleChains (settleCalls s)
  let s := cancelSweep s s.launches.length
  noteStreams (settleReplay (settlePoison (settleTorn (settleLog s))))

end Sys2Proof.Machine
end

