-- ==== Sys2Proof/Machine/Turn.lean ====
section
/-!
DEFINITION. A turn of a quarter: time passes, an instruction is fetched, decoded and executed (R216, R219, R309); and
the placing of a first instruction.
-/

namespace Sys2Proof.Machine

/-- Time passes: at least one cycle (log entry 12), of which a slower arithmetic clock misses its part (R17, R457). -/
def tick (s : State) : State :=
  let d := 1 + Config.pick s.fresh
  { s with
    now := s.now + d
    fresh := s.fresh + 1
    host := { s.host with slow := s.host.slow + d * (850 - clockMhz s) } }

/-- Settle the next state of an outcome. -/
def settled (o : Host.Outcome State Fault Refusal) : Host.Outcome State Fault Refusal :=
  match o with
  | .next s => .next (settle s)
  | .fault f => .fault f
  | .refused r => .refused r

/-- Issue one instruction of a quarter's run on the lanes of its path: fetch, decode, execute (R216, R309). -/
def issueOn (ex : Instr → State → Host.Outcome State Fault Refusal) (s : State) (c q : Nat) (r : Run) (l : Nat) (ls : List Nat) (t : Thread) :
    Host.Outcome State Fault Refusal :=
  let s := { s with iss := { core := c, quarter := q, slot := r.slot, lanes := maskOf (l :: ls), pc := t.pc } }
  let f := fetchInstr s c (slotHm s c r.slot) t.cbase t.pc
  match f.2.trap with
  | some x => .next (trapPath f.1 (rawShape (fetchedOp f.1 f.2.bytes)) x)
  | none =>
    if f.2.stall then .next (stallPath f.1 (f.2.miss.toList.map (fun m => (l, m))))
    else if !f.2.missing.isEmpty then
      .next (modQuarter (count f.1 0x04 1) c q (fun k => { k with frozen := some f.2.missing }))
    else
      match decode f.2.bytes with
      | .ok (i, _) => ex i f.1
      | .error e =>
        .next (trapPath f.1 (rawShape (fetchedOp f.1 f.2.bytes)) { cause := 0x01, detail := e.detail })

/-- A quarter's turn to issue (R216 to R219): a frozen quarter, a stopped clock, a quarter without a run and
the paths of a group whose snapshot is being written (R267) do nothing. -/
def issueStep (ex : Instr → State → Host.Outcome State Fault Refusal) (s : State) (c q : Nat) : Host.Outcome State Fault Refusal :=
  let k := quarterAt s c q
  if k.frozen.isSome || clockStopped s then .next s
  else
    match k.run with
    | none => .next s
    | some r =>
      if snapping s (slotWg s c r.slot) then .next s
      else
      match runLanesNow s c r with
      | [] => .next (finishRun s c q 2)
      | l :: ls =>
        match threadAt s c r.slot l with
        | some t => issueOn ex s c q r l ls t
        | none => .next s

/-- Whether a constructor is an event: it has no encoding. -/
def isEvent (i : Instr) : Bool := i.form.isNone

/-- A thread of the umpire warp of core 0 that stands at PC 0 with code base 0, in local HBM (R13, R254). -/
def hostThread (t : Nat) : Thread := startThread (umpireWg 0) 0 t 0 0

/-- The state with an instruction stored where the next step fetches it, so that the next step runs it: the umpire warp
of core 0 is started as stage 4 of R449 starts it, with the words at its PC, and it has its turn (log entry 5). -/
def placeInstr (s : State) (nbits w : Nat) : State :=
  let s := devWrite { s with wgs := Tab.set s.wgs 0 (umpireWg 0) } 0 (bytesOf 32 (w % 2 ^ nbits))
  let slot : Slot := { Slot.empty with wg := some 0, threads := (List.range 32).map (fun t => (t, hostThread t)) }
  let s := modCore s 0 (fun k =>
    { k with slots := Tab.set k.slots 16 slot, icache := addCode k.icache [{ line := 0, hm := devHm, key := none }] coreCodeLines })
  let s := modQuarter s 0 0 (fun k =>
    { k with frozen := none, run := some { slot := 16, lanes := 0xFFFFFFFF, count := 0, start := 0, taken := 0 } })
  { s with agenda := [.issue 0 0] }

end Sys2Proof.Machine
end

