-- ==== Sys2Proof/Machine/Step.lean ====
section
/-!
DEFINITION. One step of the machine (log entry 1): time passes, and what the agenda names next takes place: a quarter
issues an instruction of its run, an event, the driver's write of a counter, an item of Ninal's work, or what another device
does. With an empty agenda the choice is free.
-/

namespace Sys2Proof.Machine

/-- One step. -/
def step (s : State) : Host.Outcome State Fault Refusal :=
  match s.agenda with
  | .issue c q :: r => settled (issueStep exec { tick s with agenda := r } c.val q.val)
  | .ev i :: r => if isEvent i then settled (exec i { tick s with agenda := r }) else .fault .badAgenda
  | .counterWrite n x :: r => settled (.next (writeCounter { tick s with agenda := r } n x))
  | .ninal c :: r => settled (.next (ninalPass { tick s with agenda := r } c.val))
  | .remoteRefusal :: r => settled (.next (refuseNext { tick s with agenda := r }))
  | .remoteWrite a x :: r => settled (.next (changeRemote { tick s with agenda := r } a x))
  | [] =>
    match Config.nextAction s.fresh with
    | .issue c q => settled (issueStep exec (tick s) c.val q.val)
    | .ev i => if isEvent i then settled (exec i (tick s)) else .next (tick s)
    | .counterWrite n x => settled (.next (writeCounter (tick s) n x))
    | .ninal c => settled (.next (ninalPass (tick s) c.val))
    | .remoteRefusal => settled (.next (refuseNext (tick s)))
    | .remoteWrite a x => settled (.next (changeRemote (tick s) a x))

/-- The state with an instruction stored where the next step fetches it (log entry 5). -/
def State.withFetchWord (s : State) (nbits w : Nat) : State := placeInstr s nbits w

end Sys2Proof.Machine
end

