-- ==== Sys2Proof/Safety.lean ====
section
/-!
DEFINITION. What counts as a safe run, and the words in which claims about one instruction are stated: when its sources
can be read, its lanes one after another, and the state in which it has completed on its path.
-/

namespace Sys2Proof
open Machine

/-- The step answers a next state. -/
def Safe (s : State) : Prop := ∃ t, step s = .next t

/-! ## One instruction on its path -/

/-- The lanes that pass a guard (R133). -/
def act (s : State) (sh : Shape) : List Nat := activeLanes s sh.head.guard

/-- The values that a lane reads from the sources, in their order. -/
def laneVals (s : State) (rs : List Rd) (l : Nat) : List Nat := (withPos rs).map (fun p => srcVal (begun s) l p.1 p.2)

/-- The instruction's operands can be read: no register waits for a load (R218), no active lane reads a lost latch or a
dead register (R129, R124), and the destination lies below the ceiling (R120). -/
def Readable (s : State) (sh : Shape) (rs : List Rd) : Prop :=
  loadWait s sh.dst sh.words rs = none ∧
    ∀ l ∈ act s sh,
      (∀ p ∈ withPos (readsOf sh.first rs l), latchCheck s l p.1 p.2 = none ∧ deadCheck s l p.2 = none) ∧
        destCheck s sh.dst sh.words = none

/-- Lanes performed one after another, each in the state that the lanes before it left; none where one does not
answer. -/
def inTurn {β : Type} (f : State → Nat → Option (State × β)) : State → List Nat → Option (State × List (Nat × β))
  | s, [] => some (s, [])
  | s, l :: r =>
    match f s l with
    | none => none
    | some (s1, x) => (inTurn f s1 r).map (fun y => (y.1, (l, x) :: y.2))

/-- One lane's action, where it answers. -/
def answer {α : Type} (a : Act α) (s : State) : Option (State × α) :=
  match a s with
  | (.ok o, t) => some (t, o)
  | (.error _, _) => none

/-- The instruction has completed in every lane of its path: `s1` is the state that its lanes left, `outs` what the
active ones produced. Releases, results, latches, predicates, flags and PCs are committed (R122 to R133), a safe point
delivers what is pending (R237), and the run goes on or ends (R218). -/
def completed (s : State) (sh : Shape) (rs : List Rd) (s1 : State) (outs : List (Nat × Out)) : State :=
  let uni := sh.uni.getD (!sh.perLane && rs.all (srcUniform s))
  let t := stopLanes (commitLanes (countIssue s s1 rs) sh rs uni (pathLanes s) outs) sh (pathLanes s)
  let t := if sh.head.sp.isSome then (pathLanes s).foldl (fun t l => deliverPending t s.iss.core s.iss.slot l) t else t
  afterInstr t sh false false (!(pathLanes s).isEmpty) (outs.any (fun e => e.2.taken))

/-- What an instruction does in a lane: its shape, its sources, and the turn of a lane, which takes the lane's number, its
values and the state that the lanes before it left, and answers where the lane neither traps nor waits. -/
structure Acting where
  sh : Shape
  rs : List Rd
  turn : Nat → List Nat → State → Option (State × Out)

/-- The turns of the active lanes, in ascending order. -/
def Acting.turns (p : Acting) (s : State) : Option (State × List (Nat × Out)) :=
  inTurn (fun t l => p.turn l (laneVals s (readsOf p.sh.first p.rs l) l) t) (begun s) (act s p.sh)

/-- The instruction has completed where no lane changes the state: each active lane produced what `f` gives. -/
def plainly (s : State) (sh : Shape) (rs : List Rd) (f : Nat → List Nat → Out) : State :=
  completed s sh rs (begun s) ((act s sh).map (fun l => (l, f l (laneVals s rs l))))

end Sys2Proof
end

