-- ==== Sys2Proof/Claims/Integer.lean ====
section
/-!
DEFINITION. What the claims say of the integer instructions (R326 to R337): each one's sources and the result of a lane,
written from the rules with bit-vector arithmetic.
-/

namespace Sys2Proof.Claims
open Sys2Proof.Machine

/-- What an instruction that only computes does: its shape, its sources, and what a lane produces from their values. -/
structure Plain where
  sh : Shape
  rs : List Rd
  f : Nat → List Nat → Out

/-- A value of a source list. -/
abbrev at0 (v : List Nat) : Nat := v.getD 0 0
abbrev at1 (v : List Nat) : Nat := v.getD 1 0
abbrev at2 (v : List Nat) : Nat := v.getD 2 0

/-- The bits of a type (R308). -/
def width : ITy → Nat
  | .n32 | .i32 => 32
  | .n64 | .i64 => 64
def regs (t : ITy) : Nat := width t / 32
def wide : Wd → Nat
  | .w32 => 32
  | .w64 => 64
def wregs (w : Wd) : Nat := wide w / 32

/-- The integer that a value stands for in a type (R330). -/
def intIn (n : Nat) (signed : Bool) (x : Nat) : Int :=
  if signed then (BitVec.ofNat n x).toInt else (BitVec.ofNat n x).toNat
def isSigned : ITy → Bool
  | .i32 | .i64 => true
  | .n32 | .n64 => false
def int (t : ITy) (x : Nat) : Int := intIn (width t) (isSigned t) x

/-- The result of R330: clamped to the range of the type with `.sat`, else modulo 2 to the width. -/
def least (n : Nat) (signed : Bool) : Int := if signed then -(2 ^ (n - 1)) else 0
def most (n : Nat) (signed : Bool) : Int := if signed then 2 ^ (n - 1) - 1 else 2 ^ n - 1
def fitIn (n : Nat) (signed sat : Bool) (x : Int) : Nat :=
  (BitVec.ofInt n (if sat then (if x < least n signed then least n signed
    else if most n signed < x then most n signed else x) else x)).toNat
def fit (t : ITy) (sat : Bool) (x : Int) : Nat := fitIn (width t) (isSigned t) sat x

/-- IMM in place of source B: sign-extended to the width (R327). -/
def immAt (n : Nat) (imm : Word) : Nat := (imm.signExtend n).toNat

/-- The shape of an ALU instruction: it writes L0 (R325). -/
def aluShape (h : Head) (op : Nat) (d : Dst) (words : Nat) : Shape :=
  { head := h, op := op, dst := d, words := words, latch := some 0 }

/-- An ALU instruction with one result. -/
def aluIs (h : Head) (op : Nat) (d : Dst) (words : Nat) (rs : List Rd) (f : List Nat → Nat) : Option Plain :=
  some { sh := aluShape h op d words, rs := rs, f := fun _ v => { val := f v } }

/-- An ALU instruction that writes and pushes an outcome (R337). -/
def testIs (h : Head) (op : Nat) (d : Dst) (rs : List Rd) (f : List Nat → Bool) : Option Plain :=
  some { sh := { aluShape h op d 1 with push := true }, rs := rs,
         f := fun _ v => { val := if f v then 1 else 0, push := f v } }

/-- A source at a type's width. -/
def src (t : ITy) (a : Src) : Rd := rdI a (regs t)
def wsrc (w : Wd) (a : Src) : Rd := rdI a (wregs w)

/-- A shift count; every count from 64 on shifts all bits out (R332). -/
def upTo64 (c : Nat) : Nat := min c 64

/-- The field that B names in `n` bits: its width and position (R333). -/
def bfPos (b : Nat) : Nat := ((BitVec.ofNat 32 b).extractLsb' 0 8).toNat
def bfWidth (n b : Nat) : Nat :=
  let len := ((BitVec.ofNat 32 b).extractLsb' 8 8).toNat
  if len = 0 ∨ n ≤ bfPos b then 0 else min len (n - bfPos b)

/-- The mask of the field. -/
def bfMask (n b : Nat) : BitVec n := BitVec.ofNat n (2 ^ bfWidth n b - 1) <<< bfPos b

/-- The integer comparisons (R337). -/
def icmpIs (c : ICond) (x y : Int) : Bool :=
  match c with
  | .eq => decide (x = y)
  | .ne => decide (x ≠ y)
  | .lt => decide (x < y)
  | .le => decide (x ≤ y)
  | .gt => decide (x > y)
  | .ge => decide (x ≥ y)

/-- BFX (R333). -/
def bfxIs (t : ITy) (a b : Nat) : Nat :=
  let n := width t
  let f := (BitVec.ofNat n a &&& bfMask n b) >>> bfPos b
  if isSigned t ∧ 0 < bfWidth n b then ((f.setWidth (bfWidth n b)).signExtend n).toNat else f.toNat

/-- BFI (R333). -/
def bfiIs (t : ITy) (a b c : Nat) : Nat :=
  let n := width t
  ((BitVec.ofNat n c &&& ~~~bfMask n b) ||| ((BitVec.ofNat n a <<< bfPos b) &&& bfMask n b)).toNat

/-- The index of LEA as an address term (R335). -/
def index (t : ITy) (b : Nat) : DWord :=
  if isSigned t then (BitVec.ofNat (width t) b).signExtend 64 else (BitVec.ofNat (width t) b).setWidth 64

/-- The depth-D bit of a lane's PRED. -/
def predBit (s : State) (l : Nat) (p : Nat) : Bool :=
  match threadAt s s.iss.core s.iss.slot l with
  | some t => t.pred.getLsbD p
  | none => false

/-- What each integer instruction does. -/
def integerRule (s : State) : Instr → Option Plain
  | .iadd h d a b t sat => aluIs h 0x000 d (regs t) [src t a, src t b] (fun v => fit t sat (int t (at0 v) + int t (at1 v)))
  | .isub h d a b t sat => aluIs h 0x001 d (regs t) [src t a, src t b] (fun v => fit t sat (int t (at0 v) - int t (at1 v)))
  | .imul h d a b t sat => aluIs h 0x002 d (regs t) [src t a, src t b] (fun v => fit t sat (int t (at0 v) * int t (at1 v)))
  | .imulh h d a b t =>
    aluIs h 0x003 d (regs t) [src t a, src t b]
      (fun v => fit t false (Int.fdiv (int t (at0 v) * int t (at1 v)) (2 ^ width t)))
  | .imad h d a b c t sat =>
    aluIs h 0x004 d (regs t) [src t a, src t b, src t c]
      (fun v => fit t sat (int t (at0 v) * int t (at1 v) + int t (at2 v)))
  | .imadw h d a b c sg sat =>
    aluIs h 0x005 d 2 [rdI a 1, rdI b 1, rdI c 2]
      (fun v => fitIn 64 sg sat (intIn 32 sg (at0 v) * intIn 32 sg (at1 v) + intIn 64 sg (at2 v)))
  | .imin h d a b t =>
    aluIs h 0x006 d (regs t) [src t a, src t b]
      (fun v => fit t false (if int t (at0 v) ≤ int t (at1 v) then int t (at0 v) else int t (at1 v)))
  | .imax h d a b t =>
    aluIs h 0x007 d (regs t) [src t a, src t b]
      (fun v => fit t false (if int t (at0 v) ≤ int t (at1 v) then int t (at1 v) else int t (at0 v)))
  | .iabs h d a w sat =>
    aluIs h 0x008 d (wregs w) [wsrc w a]
      (fun v => fitIn (wide w) true sat ((intIn (wide w) true (at0 v)).natAbs : Int))
  | .ineg h d a t sat => aluIs h 0x009 d (regs t) [src t a] (fun v => fit t sat (-int t (at0 v)))
  | .isad h d a b c t sat =>
    aluIs h 0x00A d (regs t) [src t a, src t b, src t c]
      (fun v => fit t sat (((int t (at0 v) - int t (at1 v)).natAbs : Int) + int t (at2 v)))
  | .and h d a b w =>
    aluIs h 0x010 d (wregs w) [wsrc w a, wsrc w b]
      (fun v => (BitVec.ofNat (wide w) (at0 v) &&& BitVec.ofNat (wide w) (at1 v)).toNat)
  | .or h d a b w =>
    aluIs h 0x011 d (wregs w) [wsrc w a, wsrc w b]
      (fun v => (BitVec.ofNat (wide w) (at0 v) ||| BitVec.ofNat (wide w) (at1 v)).toNat)
  | .xor h d a b w =>
    aluIs h 0x012 d (wregs w) [wsrc w a, wsrc w b]
      (fun v => (BitVec.ofNat (wide w) (at0 v) ^^^ BitVec.ofNat (wide w) (at1 v)).toNat)
  | .not h d a w => aluIs h 0x013 d (wregs w) [wsrc w a] (fun v => (~~~BitVec.ofNat (wide w) (at0 v)).toNat)
  | .andn h d a b w =>
    aluIs h 0x014 d (wregs w) [wsrc w a, wsrc w b]
      (fun v => (BitVec.ofNat (wide w) (at0 v) &&& ~~~BitVec.ofNat (wide w) (at1 v)).toNat)
  | .shl h d a b t => aluIs h 0x018 d (regs t) [src t a, rdI b 1] (fun v => (BitVec.ofNat (width t) (at0 v) <<< upTo64 (at1 v)).toNat)
  | .shr h d a b t => aluIs h 0x019 d (regs t) [src t a, rdI b 1] (fun v => (BitVec.ofNat (width t) (at0 v) >>> upTo64 (at1 v)).toNat)
  | .sar h d a b t =>
    aluIs h 0x01A d (regs t) [src t a, rdI b 1] (fun v => ((BitVec.ofNat (width t) (at0 v)).sshiftRight (upTo64 (at1 v))).toNat)
  | .rotl h d a b t =>
    aluIs h 0x01B d (regs t) [src t a, rdI b 1] (fun v => ((BitVec.ofNat (width t) (at0 v)).rotateLeft (at1 v)).toNat)
  | .bfx h d a b t => aluIs h 0x020 d (regs t) [src t a, rdI b 1] (fun v => bfxIs t (at0 v) (at1 v))
  | .bfi h d a b c t => aluIs h 0x021 d (regs t) [src t a, rdI b 1, src t c] (fun v => bfiIs t (at0 v) (at1 v) (at2 v))
  | .brev h d a w => aluIs h 0x022 d (wregs w) [wsrc w a] (fun v => (BitVec.ofNat (wide w) (at0 v)).reverse.toNat)
  | .popc h d a w =>
    aluIs h 0x023 d 1 [wsrc w a] (fun v => ((List.range (wide w)).filter (fun i => (at0 v).testBit i)).length)
  | .clz h d a w => aluIs h 0x024 d 1 [wsrc w a] (fun v => (BitVec.ofNat (wide w) (at0 v)).clz.toNat)
  | .ctz h d a w => aluIs h 0x025 d 1 [wsrc w a] (fun v => (BitVec.ofNat (wide w) (at0 v)).reverse.clz.toNat)
  | .lea h d a b c t k =>
    aluIs h 0x030 d 2 [rdI a 2, src t b, rdI c 1]
      (fun v => (BitVec.ofNat 64 (at0 v) + (index t (at1 v) <<< k.toNat) + (BitVec.ofNat 32 (at2 v)).signExtend 64).toNat)
  | .mov h d a w => aluIs h 0x038 d (wregs w) [wsrc w a] at0
  | .sel h d a b w p =>
    let on := (act s (aluShape h 0x039 d (wregs w))).map (fun l => predBit s l p.val)
    some
      { sh := { aluShape h 0x039 d (wregs w) with
                  uni := some ((on.all (· = true) && srcUniform s (wsrc w a)) ||
                    (on.all (· = false) && srcUniform s (wsrc w b))) }
        rs := [wsrc w a, wsrc w b]
        f := fun l v => { val := if predBit s l p.val then at0 v else at1 v } }
  | .icmp h d a b t c => testIs h 0x03A d [src t a, src t b] (fun v => icmpIs c (int t (at0 v)) (int t (at1 v)))
  | .iaddI h d a m t sat =>
    aluIs h 0x080 d (regs t) [src t a] (fun v => fit t sat (int t (at0 v) + int t (immAt (width t) m)))
  | .isubI h d a m t sat =>
    aluIs h 0x081 d (regs t) [src t a] (fun v => fit t sat (int t (at0 v) - int t (immAt (width t) m)))
  | .imulI h d a m t sat =>
    aluIs h 0x082 d (regs t) [src t a] (fun v => fit t sat (int t (at0 v) * int t (immAt (width t) m)))
  | .iminI h d a m t =>
    aluIs h 0x086 d (regs t) [src t a] (fun v => fit t false (min (int t (at0 v)) (int t (immAt (width t) m))))
  | .imaxI h d a m t =>
    aluIs h 0x087 d (regs t) [src t a] (fun v => fit t false (max (int t (at0 v)) (int t (immAt (width t) m))))
  | .andI h d a m w =>
    aluIs h 0x090 d (wregs w) [wsrc w a] (fun v => (BitVec.ofNat (wide w) (at0 v) &&& m.signExtend (wide w)).toNat)
  | .orI h d a m w =>
    aluIs h 0x091 d (wregs w) [wsrc w a] (fun v => (BitVec.ofNat (wide w) (at0 v) ||| m.signExtend (wide w)).toNat)
  | .xorI h d a m w =>
    aluIs h 0x092 d (wregs w) [wsrc w a] (fun v => (BitVec.ofNat (wide w) (at0 v) ^^^ m.signExtend (wide w)).toNat)
  | .andnI h d a m w =>
    aluIs h 0x094 d (wregs w) [wsrc w a] (fun v => (BitVec.ofNat (wide w) (at0 v) &&& ~~~m.signExtend (wide w)).toNat)
  | .shlI h d a m t => aluIs h 0x098 d (regs t) [src t a] (fun v => (BitVec.ofNat (width t) (at0 v) <<< upTo64 m.toNat).toNat)
  | .shrI h d a m t => aluIs h 0x099 d (regs t) [src t a] (fun v => (BitVec.ofNat (width t) (at0 v) >>> upTo64 m.toNat).toNat)
  | .sarI h d a m t =>
    aluIs h 0x09A d (regs t) [src t a] (fun v => ((BitVec.ofNat (width t) (at0 v)).sshiftRight (upTo64 m.toNat)).toNat)
  | .rotlI h d a m t =>
    aluIs h 0x09B d (regs t) [src t a] (fun v => ((BitVec.ofNat (width t) (at0 v)).rotateLeft m.toNat).toNat)
  | .leaI h d a m t k =>
    aluIs h 0x0B0 d 2 [rdI a 2] (fun v => (BitVec.ofNat 64 (at0 v) + (index t (immAt (width t) m) <<< k.toNat)).toNat)
  | .icmpI h d a m t c => testIs h 0x0BA d [src t a] (fun v => icmpIs c (int t (at0 v)) (int t (immAt (width t) m)))
  | .movi h d m t =>
    aluIs h 0x0C0 d (regs t) [] (fun _ => (if isSigned t then m.signExtend (width t) else m.setWidth (width t)).toNat)
  | _ => none

end Sys2Proof.Claims
end

