-- ==== Sys2Proof/Claims/Float.lean ====
section
/-!
DEFINITION. What the claims say of the float instructions and conversions (R338 to R355): each one's sources, and a
lane's result with its conditions.
-/

namespace Sys2Proof.Claims
open Sys2Proof.Machine

/-- What an instruction that reports float conditions does: its shape, its sources, and a lane's result with the conditions
that it raises, and the bit that it pushes; whether its conditions are raised in every participating lane (R356). -/
structure Floating where
  sh : Shape
  rs : List Rd
  f : Nat → List Nat → FRes × Bool
  joint : Bool := false

/-- What a lane produces: its bits, its push, and every condition as a sticky flag (R167). -/
def Floating.out (p : Floating) (l : Nat) (v : List Nat) : Out :=
  { val := (p.f l v).1.bits, push := (p.f l v).2, flags := ((p.f l v).1.x.or (p.f l v).1.quiet).bits }

/-- The enables of a lane: its thread's FPCTL, or those of all participating lanes together (R165, R356). -/
def Floating.enables (p : Floating) (s : State) (l : Nat) : Word :=
  if p.joint then (act s p.sh).foldl (fun w k => w ||| fpctlOf s k) 0 else fpctlOf s l

/-- The trap of a lane whose enabled condition is raised: NV, then DZ, then OF (R167). -/
def Floating.trap (p : Floating) (s : State) (l : Nat) : Option Byte :=
  fpTrap (p.enables s l) (p.f l (laneVals s p.rs l)).1.x

/-- No active lane raises an enabled condition (R167). -/
def Floating.quiet (p : Floating) (s : State) : Prop := ∀ l ∈ act s p.sh, p.trap s l = none

def fpShape (h : Head) (op : Nat) (d : Dst) (words latch : Nat) : Shape :=
  { head := h, op := op, dst := d, words := words, latch := some latch }

/-- An instruction with a rounded result, in the FMA pipe (latch 1), the special-function unit (2) or the ALU (0). -/
def fpIs (h : Head) (op : Nat) (d : Dst) (words latch : Nat) (rs : List Rd) (f : List Nat → FRes) : Option Floating :=
  some { sh := fpShape h op d words latch, rs := rs, f := fun _ v => (f v, false) }

/-- A comparison: 1 or 0, pushed as well; a signalling comparison of a NaN raises NV (R340). -/
def fcmpIs (h : Head) (op : Nat) (d : Dst) (rs : List Rd) (f : List Nat → Bool × Bool) : Option Floating :=
  some { sh := { fpShape h op d 1 1 with push := true }, rs := rs,
         f := fun _ v => ({ bits := if (f v).1 then 1 else 0, x := { nv := (f v).2 } }, (f v).1) }

/-- Single sources, and the source of the random bits where the mode has one (R338). -/
def f32s (ls : List Src) : List Rd := ls.map (rdF .f32)
def f64s (ls : List Src) : List Rd := ls.map (rdF .f64)
def half (t : HTy) : FFmt := match t with | .f16 => .f16 | .bf16 => .bf16
def halves (t : HTy) (ls : List Src) : List Rd := ls.map (rdH (half t))
def rndSrc (r : Rnd) : List Rd := match r with | .dir _ => [] | .rs c => [rdI c 1]

/-- The rounding mode: a directed one, or stochastic with eight random bits (R145). -/
def modeOf (r : Rnd) (rnd : Nat) : Mode := match r with | .dir m => .dir m | .rs _ => .rs (rnd % 256)

/-- Two elements of a pair of halves, each by itself; stochastic rounding takes byte `i` of rnd for element `i` (R344). -/
def elem (v i : Nat) : Nat := v / 65536 ^ i % 65536
def bothHalves (f : Nat → FRes) : FRes :=
  { bits := (f 0).bits + 65536 * (f 1).bits, x := (f 0).x.or (f 1).x, quiet := (f 0).quiet.or (f 1).quiet }

/-- A special function of one source (R343). -/
def sfuIs (h : Head) (op : Nat) (d : Dst) (a : Src) (g : SFun) (m : DirMode) : Option Floating :=
  fpIs h op d 1 2 (f32s [a]) (fun v => sfun g (.dir m) (at0 v))

/-- What each float instruction and conversion that reports conditions does. -/
def floatRule (s : State) : Instr → Option Floating
  | .fadd h d a b r =>
    fpIs h 0x100 d 1 1 (f32s [a, b] ++ rndSrc r) (fun v => faddOf .f32 (modeOf r (at2 v)) (at0 v) (at1 v))
  | .fsub h d a b r =>
    fpIs h 0x101 d 1 1 (f32s [a, b] ++ rndSrc r) (fun v => fsubOf .f32 (modeOf r (at2 v)) (at0 v) (at1 v))
  | .fmul h d a b r =>
    fpIs h 0x102 d 1 1 (f32s [a, b] ++ rndSrc r) (fun v => fmulOf .f32 (modeOf r (at2 v)) (at0 v) (at1 v))
  | .ffma h d a b c m => fpIs h 0x103 d 1 1 (f32s [a, b, c]) (fun v => ffmaOf .f32 (.dir m) (at0 v) (at1 v) (at2 v))
  | .fmin h d a b n => fpIs h 0x104 d 1 1 (f32s [a, b]) (fun v => fminmax .f32 false n (at0 v) (at1 v))
  | .fmax h d a b n => fpIs h 0x105 d 1 1 (f32s [a, b]) (fun v => fminmax .f32 true n (at0 v) (at1 v))
  | .fcmp h d a b c => fcmpIs h 0x106 d (f32s [a, b]) (fun v => fcond c (fdec .f32 (at0 v)) (fdec .f32 (at1 v)))
  | .fclass h d a t =>
    let f : FFmt := match t with | .f32 => .f32 | .f64 => .f64 | .f16 => .f16 | .bf16 => .bf16
    fpIs h 0x107 d 1 1 [rdF f a] (fun v => { bits := fclass f (at0 v) })
  | .frnd h d a m => fpIs h 0x108 d 1 1 (f32s [a]) (fun v => fround .f32 (.dir m) (at0 v))
  | .frcp h d a m => sfuIs h 0x110 d a .rcp m
  | .frsq h d a m => sfuIs h 0x111 d a .rsq m
  | .fsqrt h d a m => sfuIs h 0x112 d a .sqrt m
  | .fex2 h d a => sfuIs h 0x113 d a .ex2 .rn
  | .flg2 h d a => sfuIs h 0x114 d a .lg2 .rn
  | .fsin h d a => sfuIs h 0x115 d a .sin .rn
  | .fcos h d a => sfuIs h 0x116 d a .cos .rn
  | .ftanh h d a => sfuIs h 0x117 d a .tanh .rn
  | .fsig h d a => sfuIs h 0x118 d a .sig .rn
  | .hadd2 h d a b t r =>
    fpIs h 0x120 d 1 1 (halves t [a, b] ++ rndSrc r)
      (fun v => bothHalves (fun i => faddOf (half t) (modeOf r (at2 v / 256 ^ i)) (elem (at0 v) i) (elem (at1 v) i)))
  | .hmul2 h d a b t r =>
    fpIs h 0x121 d 1 1 (halves t [a, b] ++ rndSrc r)
      (fun v => bothHalves (fun i => fmulOf (half t) (modeOf r (at2 v / 256 ^ i)) (elem (at0 v) i) (elem (at1 v) i)))
  | .hfma2 h d a b c t m =>
    fpIs h 0x122 d 1 1 (halves t [a, b, c])
      (fun v => bothHalves (fun i => ffmaOf (half t) (.dir m) (elem (at0 v) i) (elem (at1 v) i) (elem (at2 v) i)))
  | .hmax2 h d a b t n =>
    fpIs h 0x123 d 1 1 (halves t [a, b])
      (fun v => bothHalves (fun i => fminmax (half t) true n (elem (at0 v) i) (elem (at1 v) i)))
  | .hmin2 h d a b t n =>
    fpIs h 0x124 d 1 1 (halves t [a, b])
      (fun v => bothHalves (fun i => fminmax (half t) false n (elem (at0 v) i) (elem (at1 v) i)))
  | .dadd h d a b m => fpIs h 0x130 d 2 1 (f64s [a, b]) (fun v => faddOf .f64 (.dir m) (at0 v) (at1 v))
  | .dmul h d a b m => fpIs h 0x131 d 2 1 (f64s [a, b]) (fun v => fmulOf .f64 (.dir m) (at0 v) (at1 v))
  | .dfma h d a b c m => fpIs h 0x132 d 2 1 (f64s [a, b, c]) (fun v => ffmaOf .f64 (.dir m) (at0 v) (at1 v) (at2 v))
  | .dcmp h d a b c => fcmpIs h 0x133 d (f64s [a, b]) (fun v => fcond c (fdec .f64 (at0 v)) (fdec .f64 (at1 v)))
  | .dmin h d a b n => fpIs h 0x134 d 2 1 (f64s [a, b]) (fun v => fminmax .f64 false n (at0 v) (at1 v))
  | .dmax h d a b n => fpIs h 0x135 d 2 1 (f64s [a, b]) (fun v => fminmax .f64 true n (at0 v) (at1 v))
  | .faddI h d a m r => fpIs h 0x180 d 1 1 (f32s [a]) (fun v => faddOf .f32 (.dir r) (at0 v) m.toNat)
  | .fsubI h d a m r => fpIs h 0x181 d 1 1 (f32s [a]) (fun v => fsubOf .f32 (.dir r) (at0 v) m.toNat)
  | .fmulI h d a m r => fpIs h 0x182 d 1 1 (f32s [a]) (fun v => fmulOf .f32 (.dir r) (at0 v) m.toNat)
  | .fminI h d a m n => fpIs h 0x184 d 1 1 (f32s [a]) (fun v => fminmax .f32 false n (at0 v) m.toNat)
  | .fmaxI h d a m n => fpIs h 0x185 d 1 1 (f32s [a]) (fun v => fminmax .f32 true n (at0 v) m.toNat)
  | .fcmpI h d a m c => fcmpIs h 0x186 d (f32s [a]) (fun v => fcond c (fdec .f32 (at0 v)) (fdec .f32 m.toNat))
  | .cvtf h d a c r =>
    let dstF := (cvtfFmts c).1
    let srcF := (cvtfFmts c).2.1
    fpIs h 0x1C0 d (if dstF = .f64 then 2 else 1) 0 (rdF srcF a :: rndSrc r)
      (fun v => roundVal dstF (modeOf r (at1 v)) (cvtfFmts c).2.2 (fdec srcF (at0 v)))
  | .cvti h d a c r =>
    let bits := (cvtiFmts c).1
    let sg := (cvtiFmts c).2.1
    fpIs h 0x1C1 d (if bits = 64 then 2 else 1) 0 (rdF (cvtiFmts c).2.2 a :: rndSrc r) (fun v =>
      let y := floatToInt bits sg (modeOf r (at1 v)) (fdec (cvtiFmts c).2.2 (at0 v))
      { bits := (BitVec.ofInt (max bits 32) (intIn bits sg y.1)).toNat, x := y.2 })
  | .cvtn h d a c r =>
    let dstF := (cvtnFmts c).1
    fpIs h 0x1C2 d (if dstF = .f64 then 2 else 1) 0 (src (cvtnFmts c).2.1 a :: rndSrc r)
      (fun v => intToFloat dstF (modeOf r (at1 v)) (cvtnFmts c).2.2 (int (cvtnFmts c).2.1 (at0 v)))
  | .bscl h d a f =>
    fpIs h 0x1CA d 1 0 (f32s [a]) (fun v =>
      let y := scaleFor f (fdec .f32 (at0 v)).abs
      { bits := y.1, quiet := { nv := y.2 } })
  | .qupk h d a c f n hi =>
    let ra := rdI a (if fmtBits f = 8 then 2 else 1)
    some
      { sh := { fpShape h 0x1C9 d 4 0 with perLane := decide (f = .q4x) }
        rs := [ra, rdI c 1]
        f := fun l _ =>
          let ls := blockLanes n l
          let codes := ls.flatMap (fun j => unpackBits (fmtBits f) (blockVal (begun s) j 0 ra) 8)
          let scale := blockVal (begun s) (ls.headD 0) 1 (rdI c 1) % 65536
          let vals := ((decodeBlock f codes).1.drop (8 * (l - ls.headD 0) + (if hi then 4 else 0))).take 4
          let ys := vals.map (fun v => roundEx .f32 (.dir .rn) (qupkScaled scale v))
          ({ bits := packBits 32 (ys.map FRes.bits),
             x := (ys.map FRes.x).foldl Fpx.or { qf := (decodeBlock f codes).2, sf := scaleSf scale } }, false) }
  | .redx h d a op t =>
    some
      { sh := { fpShape h 0x203 d (match t with | .int t => regs t | .f32 => 1) 0 with perLane := true }
        rs := [rdR t a]
        f := fun _ _ =>
          let y := tree (redOp op t) 5 (leaves ((act s (fpShape h 0x203 d 1 0)).map (fun l => (l, otherVal (begun s) l 0 (rdR t a)))))
          ({ bits := redResult t y.1, x := y.2 }, false)
        joint := true }
  | .scan h d a b op t =>
    some
      { sh := { fpShape h 0x204 d (match t with | .int t => regs t | .f32 => 1) 0 with perLane := true }
        rs := [rdR t a, rdR t b]
        f := fun l _ =>
          let ls := act s (fpShape h 0x204 d 1 0)
          let vs := ls.map (fun l => (l, otherVal (begun s) l 0 (rdR t a)))
          let y := prefixes op t vs (otherVal (begun s) (ls.headD 0) 1 (rdR t b))
          ({ bits := Tab.getD y.1 l 0, x := y.2 }, false)
        joint := true }
  | _ => none

end Sys2Proof.Claims
end

