-- ==== Sys2Proof/Claims/Lanes.lean ====
section
/-!
DEFINITION. What the claims say of the lane and predicate instructions (R356 to R365), of quantised packs and random
numbers (R352, R355), and of AMAX (R354).
-/

namespace Sys2Proof.Claims
open Sys2Proof.Machine

/-- The shape of a lane instruction: its result is never uniform (R326). -/
def laneIs (h : Head) (op : Nat) (d : Dst) (push : Bool) : Shape :=
  { aluShape h op d 1 with perLane := true, push := push }

/-- The shape of a predicate instruction: no register and no latch (R363). -/
def predIs (h : Head) (op : Nat) (push : Bool) : Shape := { head := h, op := op, push := push }

/-- A source as lane `j` holds it, read by another lane (R357). -/
def held (s : State) (j pos : Nat) (a : Src) (w : Nat) : Nat := otherVal (begun s) j pos (rdI a w)

/-- The lanes of a list whose PRED bit is 1, inverted by N (R358). -/
def ayes (s : State) (ls : List Nat) (p : Nat) (neg : Bool) : List Nat :=
  ls.filter (fun l => if neg then !predBit s l p else predBit s l p)

/-- The source lane of SHFL (R357). -/
def shflFrom (mode : ShflMode) (g i : Nat) (b : Word) : Int :=
  let base := i - i % g
  match mode with
  | .from => (base + b.toNat % g : Nat)
  | .turn => (base : Int) + Int.emod ((i % g : Nat) + b.toInt) g
  | .slide => (i : Int) + b.toInt
  | .lead => (base : Int) + ((i % g) &&& b.toNat &&& (g - 1) : Nat)

/-- MATCH in a lane: its group's number, its rank, its size, its leader (R361). -/
def matchIs (vs : List (Nat × Nat)) (l x : Nat) : Nat × Bool :=
  let mine := (vs.filter (fun e => decide (e.2 = x))).map Prod.fst
  let lead := mine.headD 0
  let below := vs.filter (fun e => decide (e.1 < lead) && !(vs.any (fun d => decide (d.1 < e.1 ∧ d.2 = e.2))))
  (below.length <<< 24 ||| (mine.filter (· < l)).length <<< 16 ||| mine.length <<< 8 ||| lead, decide (lead = l))

/-- What each lane or predicate instruction that only computes does. -/
def laneRule (s : State) : Instr → Option Plain
  | .shfl h d a b c mode g =>
    some
      { sh := laneIs h 0x200 d true, rs := [rdI a 1, rdI b 1, rdI c 1]
        f := fun i v =>
          let n := 2 ^ g.val
          let base := i - i % n
          let j := shflFrom mode n i (BitVec.ofNat 32 (at1 v))
          let ok := decide ((base : Int) ≤ j ∧ j < base + n) && (act s (laneIs h 0x200 d true)).contains j.toNat
          { val := if ok then held s j.toNat 0 a 1 else at2 v, push := ok } }
  | .vote h d t p neg =>
    let ls := act s (laneIs h 0x201 d true)
    let n := (ayes s ls p.val neg).length
    let b := min (held s (ls.headD 0) 0 t.src 1) ls.length
    let r := match t with
      | .ge _ => decide (b ≤ n)
      | .lt _ => decide (n < b)
      | .agree => decide (n = 0 ∨ n = ls.length)
      | .most => decide (ls.length < 2 * n)
    some { sh := laneIs h 0x201 d true, rs := [rdI t.src 1], f := fun _ _ => { val := n, push := r } }
  | .ballot h d p neg =>
    some { sh := laneIs h 0x202 d false, rs := [],
           f := fun _ _ => { val := (maskOf (ayes s (act s (laneIs h 0x202 d false)) p.val neg)).toNat } }
  | .matchLanes h d a w =>
    let ls := act s (laneIs h 0x205 d true)
    some { sh := laneIs h 0x205 d true, rs := [wsrc w a],
           f := fun l _ =>
             let r := matchIs (ls.map (fun j => (j, held s j 0 a (wregs w)))) l (held s l 0 a (wregs w))
             { val := r.1, push := r.2 } }
  | .elect h d cand hi =>
    let ls := act s (laneIs h 0x206 d true)
    let cs := match cand with | none => ls | some p => ls.filter (fun l => predBit s l p.val)
    let e := if hi then cs.getLastD 32 else cs.headD 32
    some { sh := laneIs h 0x206 d true, rs := [], f := fun l _ => { val := e, push := decide (l = e) } }
  | .psh h a inv =>
    some { sh := predIs h 0x240 true, rs := [rdI a 1], f := fun _ v => { push := (at0 v != 0).xor inv } }
  | .pdup h p => some { sh := predIs h 0x242 true, rs := [], f := fun l _ => { push := predBit s l p.val } }
  | .plog h op p false inv =>
    some { sh := predIs h 0x243 true, rs := [], f := fun l _ =>
      { push := (match op with
          | .and => predBit s l 0 && predBit s l p.val
          | .or => predBit s l 0 || predBit s l p.val
          | .xor => (predBit s l 0).xor (predBit s l p.val)
          | .andn => predBit s l 0 && !predBit s l p.val).xor inv } }
  | .pmov h (.read d) =>
    some { sh := laneIs h 0x244 d false, rs := [],
           f := fun l _ => { val := (((threadAt s s.iss.core s.iss.slot l).map Thread.pred).getD 0).toNat } }
  | .qpk h d a b c f n =>
    some
      { sh := { aluShape h 0x1C8 d (if fmtBits f = 8 then 2 else 1) with perLane := decide (f = .q4x) }
        rs := [rdI a 4, rdI b 4, rdI c 1]
        f := fun l _ =>
          let ls := blockLanes n l
          let xs := ls.flatMap (fun j => lane8 (held s j 0 a 4) (held s j 1 b 4))
          let y := quantBlock f false (held s (ls.headD 0) 2 c 1 % 65536) (xs.map (fun x => (x, .dir .rn)))
          { val := packBits (fmtBits f) ((y.1.drop (8 * (l - ls.headD 0))).take 8), flags := y.2.bits } }
  | .cbrg h d a b out =>
    some
      { sh := aluShape h 0x1D0 d (match out with | .all => 4 | .word _ => 1)
        rs := [rdI a 2, rdI b 4]
        f := fun _ v =>
          let w (x i : Nat) : Word := BitVec.ofNat 32 (x >>> (32 * i))
          let r := philox (w (at0 v) 0, w (at0 v) 1) (w (at1 v) 0, w (at1 v) 1, w (at1 v) 2, w (at1 v) 3)
          { val := match out with
              | .all => packBits 32 (r.map BitVec.toNat)
              | .word i => (r.getD i.toNat 0).toNat } }
  | _ => none

/-- What an instruction does that changes a lane's PRED or its workgroup, and has no result: its shape, its sources, and the
change that a lane makes. -/
structure Change where
  sh : Shape
  rs : List Rd
  g : Nat → List Nat → State → State

/-- The state in which a change has been made by each active lane in turn. -/
def Change.done (p : Change) (s : State) : State :=
  (act s p.sh).foldl (fun t l => p.g l (laneVals s p.rs l) t) (begun s)

/-- Change the PRED of a lane's thread. -/
def onPred (l : Nat) (f : BitVec 8 → BitVec 8) (t : State) : State :=
  modThread t t.iss.core t.iss.slot l (fun th => { th with pred := f th.pred })

/-- PRED with bit `i` replaced. -/
def withBit (p : BitVec 8) (i : Nat) (b : Bool) : BitVec 8 := BitVec.ofNat 8 ((List.range 8).foldr (fun j x => 2 * x + (if (if j = i then b else p.getLsbD j) then 1 else 0)) 0)

/-- What each predicate instruction that changes PRED in place does, and AMAX. -/
def changeRule (s : State) : Instr → Option Change
  | .pdrop h n => some { sh := predIs h 0x241 false, rs := [], g := fun l _ => onPred l (fun p => p >>> (n.val + 1)) }
  | .pswp h d =>
    some { sh := predIs h 0x245 false, rs := [], g := fun l _ =>
      onPred l (fun p => withBit (withBit p 0 (p.getLsbD (d.val + 1))) (d.val + 1) (p.getLsbD 0)) }
  | .pmov h (.write a) =>
    some { sh := predIs h 0x244 false, rs := [rdI a 1], g := fun l v => onPred l (fun _ => BitVec.ofNat 8 (at0 v)) }
  | .plog h op p true inv =>
    some { sh := predIs h 0x243 false, rs := [], g := fun l _ => onPred l (fun q =>
      withBit q 0 ((match op with
        | .and => predBit s l 0 && predBit s l p.val
        | .or => predBit s l 0 || predBit s l p.val
        | .xor => (predBit s l 0).xor (predBit s l p.val)
        | .andn => predBit s l 0 && !predBit s l p.val).xor inv)) }
  | .amax h a n fmt =>
    some
      { sh := predIs h 0x1CB false
        rs := [match fmt with | .f32 => rdF .f32 a | .bf16x2 => rdH .bf16 a | .f16x2 => rdH .f16 a]
        g := fun l v t =>
          let xs := match fmt with
            | .f32 => [fdec .f32 (at0 v)]
            | .bf16x2 => [fdec .bf16 (elem (at0 v) 0), fdec .bf16 (at0 v / 65536)]
            | .f16x2 => [fdec .f16 (elem (at0 v) 0), fdec .f16 (at0 v / 65536)]
          xs.foldl (fun t x => modWg t (homeOf t t.iss.core t.iss.slot l) (fun w =>
            { w with amx := Tab.set w.amx n.toNat (amaxJoin (Tab.getD w.amx n.toNat 0) x) })) t }
  | _ => none

end Sys2Proof.Claims
end

