-- ==== Sys2Proof/Claims/Memory.lean ====
section
/-!
DEFINITION. What the claims say of loads, stores, atomics, prefetches, cache control, fences and the compressing store
(R366 to R376): when a lane's access is performed, and what it does.
-/

namespace Sys2Proof.Claims
open Sys2Proof.Machine

/-! ## A lane's access (R366, R367) -/

/-- The home workgroup of a lane of the issuing path, and the hallmark that its accesses act under. -/
def homeIn (t : State) (l : Nat) : Nat := homeOf t t.iss.core t.iss.slot l
def hmIn (t : State) : Hm := accessHm t t.iss.core t.iss.slot

/-- A global access that passes every check of R367, in their order, and the place where it is performed: the context is
valid and the address canonical, the address is aligned, no walk makes it stall (R33), the translation gives a place, no
watchpoint meets the access, and it does not race. -/
def accessAt (t : State) (l : Nat) (va : DWord) (n : Nat) (rd wr checked : Bool) : Option (State × Place) :=
  let hm := hmIn t
  let kind : AccKind := if wr then .write else .read
  if isContext hm = true ∧ ((descOf t hm).v = false ∨ canonical va (descOf t hm).l5 = false) then none
  else if va.toNat % n ≠ 0 then none
  else if xlateStalls t t.iss.core hm va kind = true then none
  else
    match pathPlace (countMisses t l t.iss.core hm va kind) t.iss.core hm va kind with
    | (_, .error _) => none
    | (u, .ok p) =>
      let replayed := ((threadAt u u.iss.core u.iss.slot l).bind Thread.pass) = some .watch
      if ¬replayed ∧ (freshDesc u hm).dbg = true ∧ (watchHit u hm va n rd wr).isSome then none
      else if checked = true ∧ raceOn u (homeIn u l) = true ∧ isLocal p.home = true ∧ races u (homeIn u l) p.home n = true then
        none
      else some (u, p)

/-- Whether a read or an atomic at a place is answered with data: no remote home refuses it, leaves it without an answer, or
cannot be reached (R260, R445), and no sector of it holds poison (R256). -/
def answered (u : State) (atomic : Bool) (p : Place) (n : Nat) : Bool :=
  remoteEnd u (hmIn u) (p.mt || atomic) p.home n == .answered && !isPoisoned u p.home n

/-- A lane's load through its core's L1: the place holds no poison; its bytes are the value (R49, R56). -/
def loadAt (t : State) (l : Nat) (va : DWord) (n : Nat) (o : AccOrd) (hint : Hint) : Option (State × Nat) :=
  match accessAt t l va n true false (raceChecked o) with
  | none => none
  | some (u, p) =>
    if answered u false p n = false ∨ ordStalls u (homeIn u l) o = true then none
    else
      let r := readPlace (countL1 (ordWork u (homeIn u l) o) l (hmIn u) p n) (.core u.iss.core hint) (hmIn u) p false n
      let r := readPast r.2 (homeIn u l) ((threadAt u u.iss.core u.iss.slot l).map Thread.tidx) (hmIn u) p.home r.1 p.mt
      some (r.2, natOf r.1)

/-- A lane's store of the low bytes of a value. -/
def storeAt (t : State) (l : Nat) (va : DWord) (n x : Nat) (o : AccOrd) (hint : Hint) : Option State :=
  match accessAt t l va n false true (raceChecked o) with
  | none => none
  | some (u, p) =>
    if preImageDue u (homeIn u l) p.home = true ∨ ordStalls u (homeIn u l) o = true then none
    else
      some (afterStore (performWrite (countL1 (ordWork u (homeIn u l) o) l (hmIn u) p n) l (.core u.iss.core hint) p false
        (raceChecked o) (bytesOf n x)) (homeIn u l) o)

/-- A lane's atomic at the line's home: what it read, and what it wrote in its place where `f` says so (R373, R374);
`req` is what a remote home is sent (R307, R444). -/
def atomicAt (t : State) (l : Nat) (va : DWord) (n : Nat) (o : MOrder) (sc : Scope) (req : BitVec 4 × List Byte)
    (f : Nat → Option Nat) : Option (State × Nat) :=
  match accessAt t l va n true true (raceChecked (.marked o sc)) with
  | none => none
  | some (u, p) =>
    if answered u (isRemote p.home) p n = false then none
    else if preImageDue u (homeIn u l) p.home = true ∨ orderStalls u (homeIn u l) o sc = true then none
    else
      let d : Door := .atomic req.1 req.2
      let r := readPlace (orderWork u (homeIn u l) o sc) d (hmIn u) p (isRemote p.home) n
      let u2 := readNewest r.2 [homeIn u l] p.home n
      let u1 := match f (natOf r.1) with
        | some y => performWrite u2 l d p (isRemote p.home) (raceChecked (.marked o sc)) (bytesOf n y)
        | none => u2
      some (u1, natOf r.1)

/-- The workgroup and offset that a scratchpad address names (R46, R111): rank 15 is the executing workgroup's own, another
rank is that of its team; the bytes lie below the workgroup's scratchpad size, aligned, in a page that it holds. -/
def spadPlace (t : State) (l : Nat) (a : Word) (n : Nat) : Option (Nat × Nat) :=
  let own := homeIn t l
  let rank := (a.extractLsb' 28 4).toNat
  let o := (a.extractLsb' 0 28).toNat
  let h := if rank = 15 then own else (teamWgs t own).getD rank own
  if rank ≠ 15 ∧ (8 ≤ rank ∨ (teamWgs t own).length ≤ rank) then none
  else if (wgAt t h).spg * 16384 < o + n then none
  else if a.toNat % n ≠ 0 then none
  else if (spadAt t h o).isNone then none
  else some (h, o)

def loadSpadAt (t : State) (l : Nat) (a : Word) (n : Nat) (o : AccOrd) : Option (State × Nat) :=
  if ordStalls t (homeIn t l) o then none
  else
    (spadPlace t l a n).map (fun w =>
      let u := ordWork t (homeIn t l) o
      (u, natOf (spadRead u w.1 w.2 n)))

def storeSpadAt (t : State) (l : Nat) (a : Word) (n x : Nat) (o : AccOrd) : Option State :=
  if ordStalls t (homeIn t l) o then none
  else (spadPlace t l a n).map (fun w => spadWrite (ordWork t (homeIn t l) o) w.1 w.2 (bytesOf n x))

def atomicSpadAt (t : State) (l : Nat) (a : Word) (n : Nat) (o : MOrder) (sc : Scope) (f : Nat → Option Nat) :
    Option (State × Nat) :=
  if orderStalls t (homeIn t l) o sc then none
  else
  (spadPlace t l a n).map (fun w =>
    let u := orderWork t (homeIn t l) o sc
    let old := natOf (spadRead u w.1 w.2 n)
    (match f old with | some y => spadWrite u w.1 w.2 (bytesOf n y) | none => u, old))

/-! ## Escapes (R266, R270, R272) -/

/-- Change the log of the snapshot of a lane's team. -/
def onLog (t : State) (l : Nat) (f : List LogRec → List LogRec) : State :=
  { t with teams := Tab.adjust t.teams (wgAt t (homeIn t l)).team (fun m => { m with snap := { m.snap with log := f m.snap.log } }) }

/-- Whether the team of a lane has a committed snapshot. -/
def hasSnap (t : State) (l : Nat) : Bool :=
  match Tab.get? t.teams (wgAt t (homeIn t l)).team with
  | some m => m.snap.valid
  | none => false

/-- One lane of an escape: outside a `.rollback` launch it is performed; inside one it replays its log record, or it is
performed and logged once a snapshot has opened the way. -/
def escapeAt (l : Nat) (a : State → Option (State × Out)) (t : State) : Option (State × Out) :=
  if t.iss.slot = 16 ∨ rollbackWg t (homeIn t l) = false then a t
  else
    match logFor t l with
    | some e =>
      some (onLog t l (fun log => log.mapIdx (fun i r =>
          if i = e.1 then { r with replayed := r.replayed ||| maskOf [l] } else r)),
        { val := (Tab.getD e.2.results l 0).toNat, push := bitAt e.2.pushed l })
    | none =>
      if ((threadAt t t.iss.core t.iss.slot l).map Thread.escOk).getD true = false then none
      else
        match a t with
        | none => none
        | some (u, o) =>
          let r : LogRec :=
            { wg := slotWg u u.iss.core u.iss.slot, slot := u.iss.slot, lanes := maskOf [l], pc := u.iss.pc,
              results := [(l, BitVec.ofNat 64 o.val)], pushed := if o.push then maskOf [l] else 0, replayed := 0xFFFFFFFF,
              eng := none }
          some (if hasSnap u l then onLog u l (fun log => log ++ [r]) else u, o)

/-! ## Widths and addresses (R306) -/

def bytesIn : MWidth → Nat
  | .n8 | .i8 => 1
  | .n16 | .i16 => 2
  | .w32 => 4
  | .w64 => 8
  | .w128 => 16
def regsIn (w : MWidth) : Nat := if bytesIn w ≤ 4 then 1 else bytesIn w / 4

/-- A loaded value in its destination: bytes and halves are extended by their signedness. -/
def loaded (w : MWidth) (x : Nat) : Nat :=
  match w with
  | .i8 => ((BitVec.ofNat 8 x).signExtend 32).toNat
  | .i16 => ((BitVec.ofNat 16 x).signExtend 32).toNat
  | _ => x

/-- Base plus signed offset: 64 bits for global memory, 32 for scratchpad. -/
def globalAddr (base : Nat) (off : BitVec 30) : DWord := BitVec.ofNat 64 base + off.signExtend 64
def spadAddr (base : Nat) (off : BitVec 30) : Word := BitVec.ofNat 32 base + off.signExtend 32

def isRelease : AccOrd → Bool
  | .marked .rel _ | .marked .ar _ | .marked .sc _ => true
  | _ => false
def maybeEscape (o : AccOrd) (l : Nat) (a : State → Option (State × Out)) (t : State) : Option (State × Out) :=
  if isRelease o then escapeAt l a t else a t

/-- A turn that has no result. -/
def noResult (x : Option State) : Option (State × Out) := x.map (fun u => (u, {}))

/-- The shapes of loads, which write L3; a global load's result returns later (R128, R218). -/
def loadShape (h : Head) (op : Nat) (d : Dst) (w : MWidth) (later : Bool) : Shape :=
  { head := h, op := op, dst := d, words := regsIn w, latch := some 3, perLane := true, load := later }
def bareShape (h : Head) (op : Nat) : Shape := { head := h, op := op }

/-! ## Prefetch, cache control, fences (R368 to R371) -/

/-- The line addresses from the one that holds an address on. -/
def lineAddrs (va : DWord) (n : Nat) : List DWord := (List.range n).map (fun k => BitVec.ofNat 64 (64 * (va.toNat / 64 + k)))

/-- What cache control does to the line of an address, where no walk makes it stall (R33): nothing where the translation
would fault (R370). -/
def onLine (t : State) (l : Nat) (va : DWord) (f : State → Place → State) : Option (State × Out) :=
  if xlateStalls t t.iss.core (hmIn t) va .read = true then none
  else
    match pathPlace (countMisses t l t.iss.core (hmIn t) va .read) t.iss.core (hmIn t) va .read with
    | (u, .ok p) => some (f u p, {})
    | (u, .error _) => some (u, {})

/-- Cleaning or invalidating a line (R370): a remote one is acted on in the L2, where it is of the executing hallmark;
another in the core's L1, where that holds it. -/
def controlLine (t : State) (a : Nat) (drop : Bool) : State :=
  let ln := a / 64
  let mine := if isRemote a then ((Tab.get? t.lines ln).map Line.hm) == some (hmIn t)
    else (coreAt t t.iss.core).l1.any (fun x => x.line == ln)
  if mine = false then t
  else if drop = false then writeBackLine t ln
  else if isRemote a then dropLine t ln
  else l1Evict (writeBackLine t ln) t.iss.core ln

/-! ## The table -/

/-- An instruction's shape, sources and turns. -/
def acts (sh : Shape) (rs : List Rd) (turn : Nat → List Nat → State → Option (State × Out)) : Option Acting :=
  some { sh := sh, rs := rs, turn := turn }

/-- An atomic's operation (R373). -/
def atomTurn (op : Nat) (f : AtomOp) (w : MWidth) (off : BitVec 30) (o : MOrder) (sc : Scope) (l : Nat) (v : List Nat) :
    State → Option (State × Out) :=
  escapeAt l (fun t => (atomicAt t l (globalAddr (at0 v) off) (bytesIn w) o sc (atomReq op f (bytesIn w) (at1 v)) (atomWrite f (bytesIn w) (at1 v))).map
    (fun r => (r.1, { val := r.2 })))
def atomIs (h : Head) (op : Nat) (d : Dst) (b : Base) (off : BitVec 30) (x : Data) (w : MWidth) (o : MOrder) (sc : Scope)
    (f : AtomOp) : Option Acting :=
  some { sh := loadShape h op d w true, rs := [rdI (baseSrc b) 2, atomRd f x w], turn := atomTurn op f w off o sc }
def atomsIs (h : Head) (op : Nat) (d : Dst) (b : Base) (off : BitVec 30) (x : Data) (w : MWidth) (o : MOrder) (sc : Scope)
    (f : AtomOp) : Option Acting :=
  some
    { sh := loadShape h op d w false, rs := [rdI (baseSrc b) 1, atomRd f x w]
      turn := fun l v => escapeAt l (fun t =>
        (atomicSpadAt t l (spadAddr (at0 v) off) (bytesIn w) o sc (atomWrite f (bytesIn w) (at1 v))).map
          (fun r => (r.1, { val := r.2 }))) }
def redIs (h : Head) (op : Nat) (b : Base) (off : BitVec 30) (x : Data) (w : MWidth) (o : MOrder) (sc : Scope)
    (f : AtomOp) : Option Acting :=
  some
    { sh := bareShape h op, rs := [rdI (baseSrc b) 2, atomRd f x w]
      turn := fun l v => escapeAt l (fun t =>
        noResult ((atomicAt t l (globalAddr (at0 v) off) (bytesIn w) o sc (atomReq op f (bytesIn w) (at1 v)) (atomWrite f (bytesIn w) (at1 v))).map Prod.fst)) }

/-- The place of each lane that appends by CMPST, once the lowest has moved the pointer (R375, R376). -/
def appendPlaces (t : State) (ls : List Nat) (base count : Nat) : State :=
  (withPos ls).foldl (fun t e => modThread t t.iss.core t.iss.slot e.2 (fun th =>
    { th with cmpst := some { base := BitVec.ofNat 64 base, count := count, rank := e.1 } })) t

/-- The pointer's move by all lanes that append: one atomic addition, whose old value rounded down to the width is the
base of the places. -/
def movePointer (t : State) (ls : List Nat) (l base : Nat) (off : BitVec 30) (n : Nat) (o : AccOrd) (spad : Bool) :
    Option State :=
  let po : MOrder × Scope := match o with
    | .plain => (.rlx, if spad then .team else .dev)
    | .marked o sc => (o, sc)
  let k := ls.length
  let r := if spad then atomicSpadAt t l (spadAddr base off) 4 po.1 po.2 (fun x => some ((x + k * n) % 2 ^ 32))
    else atomicAt t l (globalAddr base off) 8 po.1 po.2 (0, bytesOf 8 (k * n)) (fun x => some ((x + k * n) % 2 ^ 64))
  r.map (fun r => appendPlaces r.1 ls (r.2 - r.2 % n) k)

/-- A lane's data write at its place, and its result: the base and, in scratchpad, the count above it. -/
def appendAt (t : State) (l : Nat) (p : CmpstPark) (n x : Nat) (o : AccOrd) (spad : Bool) : Option (State × Out) :=
  let a := p.base + BitVec.ofNat 64 (p.rank * n)
  let od : AccOrd := match o with | .plain => .plain | .marked _ sc => .marked .rlx sc
  if spad then (storeSpadAt t l (a.setWidth 32) n x od).map (fun u => (u, { val := p.base.toNat % 2 ^ 32 + 2 ^ 32 * p.count }))
  else (storeAt t l a n x od .none).map (fun u => (u, { val := p.base.toNat }))

/-- What each memory instruction does. -/
def memoryRule (s : State) : Instr → Option Acting
  | .ld h d b off w o hint =>
    acts (loadShape h 0x280 d w true) [rdI (baseSrc b) 2] (fun l v t =>
      (loadAt t l (globalAddr (at0 v) off) (bytesIn w) o hint).map (fun r => (r.1, { val := loaded w r.2 })))
  | .lds h d b off w o =>
    acts (loadShape h 0x282 d w false) [rdI (baseSrc b) 1] (fun l v t =>
      (loadSpadAt t l (spadAddr (at0 v) off) (bytesIn w) o).map (fun r => (r.1, { val := loaded w r.2 })))
  | .st h b off x w o hint =>
    acts (bareShape h 0x281) [rdI (baseSrc b) 2, rdI (dataSrc x) (regsIn w)] (fun l v =>
      maybeEscape o l (fun t => noResult (storeAt t l (globalAddr (at0 v) off) (bytesIn w) (at1 v) o hint)))
  | .sts h b off x w o =>
    acts (bareShape h 0x283) [rdI (baseSrc b) 1, rdI (dataSrc x) (regsIn w)] (fun l v =>
      maybeEscape o l (fun t => noResult (storeSpadAt t l (spadAddr (at0 v) off) (bytesIn w) (at1 v) o)))
  | .pref h b off n hint =>
    acts { bareShape h 0x290 with calm := true } [rdI (baseSrc b) 2] (fun l v t =>
      let hm := hmIn t
      let lines := lineAddrs (globalAddr (at0 v) off) (n.val + 1)
      if lines.any (fun a => xlateStalls t t.iss.core hm a .read) then none
      else some (lines.foldl (fun t a => prefetchLine t l t.iss.core hm hint a) t, {}))
  | .ipref h off n =>
    acts { bareShape h 0x294 with calm := true } [] (fun l _ t =>
      let cb := ((threadAt t t.iss.core t.iss.slot l).map Thread.cbase).getD 0
      let lines := lineAddrs (codeAddr cb (t.iss.pc + off.signExtend 32)) (n.val + 1)
      if (act s (bareShape h 0x294)).headD l ≠ l then some (t, {})
      else if lines.any (fun a => xlateStalls t t.iss.core (hmIn t) a .fetch) then none
      else
        some (lines.foldl (fun t a => prefetchCode t l t.iss.core (slotHm t t.iss.core t.iss.slot) a) t, {}))
  | .cctlCln h b off =>
    acts (bareShape h 0x291) [rdI (baseSrc b) 2] (fun l v t =>
      onLine t l (globalAddr (at0 v) off) (fun u p => controlLine u p.home false))
  | .cctlInv h b off =>
    acts (bareShape h 0x291) [rdI (baseSrc b) 2] (fun l v t =>
      onLine t l (globalAddr (at0 v) off) (fun u p => controlLine u p.home true))
  | .cctlPin h d b off =>
    acts { bareShape h 0x291 with dst := d, words := 1, push := true, perLane := true } [rdI (baseSrc b) 2] (fun l v t =>
      if xlateStalls t t.iss.core (hmIn t) (globalAddr (at0 v) off) .read = true then none
      else
        match pathPlace (countMisses t l t.iss.core (hmIn t) (globalAddr (at0 v) off) .read) t.iss.core (hmIn t)
            (globalAddr (at0 v) off) .read with
        | (u, .error _) => some (u, {})
        | (u, .ok p) =>
          if isRemote p.home = true ∨ p.mt = true then some (u, {})
          else
            let r := pinLine (coreAt u u.iss.core) (homeIn t l) (p.home / 64)
            some (setCore u u.iss.core r.1, { val := if r.2 then 1 else 0, push := r.2 }))
  | .cctlUnpin h b off =>
    acts (bareShape h 0x291) [rdI (baseSrc b) 2] (fun l v t =>
      onLine t l (globalAddr (at0 v) off) (fun u p =>
        modCore u u.iss.core (fun k => { k with pins := k.pins.filter (fun e => e != (homeIn t l, p.home / 64)) })))
  | .fence h o sc =>
    acts (bareShape h 0x292) [] (fun l _ =>
      maybeEscape (.marked o sc) l (fun t =>
        if orderStalls t (homeIn t l) o sc then none else some (orderWork t (homeIn t l) o sc, {})))
  | .cmpst h d b off x w o spad =>
    let rs := [rdI (baseSrc b) (if spad then 1 else 2), rdI (dataSrc x) (regsIn w)]
    let ls := cmpstLanes s h d rs
    let placeOf (t : State) (l : Nat) : Option CmpstPark := (threadAt t t.iss.core t.iss.slot l).bind Thread.cmpst
    acts { bareShape h 0x293 with dst := d, words := 2, perLane := true, first := some (cmpstBases s h d rs) } rs (fun l v =>
      escapeAt l (fun t =>
        match placeOf t l with
        | some p => appendAt t l p (bytesIn w) (at1 v) o spad
        | none =>
          match movePointer t ls (ls.headD l) (at0 (laneVals s rs (ls.headD l))) off (bytesIn w) o spad with
          | none => none
          | some u =>
            match placeOf u l with
            | some p => appendAt u l p (bytesIn w) (at1 v) o spad
            | none => some (u, {})))
  | .atomAdd h d b off x w o sc _ => atomIs h 0x2A0 d b off x w o sc .add
  | .atomMin h d b off x w o sc _ => atomIs h 0x2A1 d b off x w o sc .min
  | .atomMax h d b off x w o sc _ => atomIs h 0x2A2 d b off x w o sc .max
  | .atomAnd h d b off x w o sc _ => atomIs h 0x2A3 d b off x w o sc .and
  | .atomOr h d b off x w o sc _ => atomIs h 0x2A4 d b off x w o sc .or
  | .atomXor h d b off x w o sc _ => atomIs h 0x2A5 d b off x w o sc .xor
  | .atomExch h d b off x w o sc _ => atomIs h 0x2A6 d b off x w o sc .exch
  | .atomCas h d b off x w o sc _ => atomIs h 0x2A7 d b off x w o sc .cas
  | .atomAddcl h d b off x w o sc _ => atomIs h 0x2A8 d b off x w o sc .addcl
  | .atomSubcl h d b off x w o sc _ => atomIs h 0x2A9 d b off x w o sc .subcl
  | .atomFadd h d b off x w o sc _ => atomIs h 0x2AA d b off x w o sc .fadd
  | .atomFmin h d b off x w o sc _ => atomIs h 0x2AB d b off x w o sc .fmin
  | .atomFmax h d b off x w o sc _ => atomIs h 0x2AC d b off x w o sc .fmax
  | .atomMinU h d b off x w o sc _ => atomIs h 0x2AD d b off x w o sc .minU
  | .atomMaxU h d b off x w o sc _ => atomIs h 0x2AE d b off x w o sc .maxU
  | .atomsAdd h d b off x w o sc => atomsIs h 0x2B0 d b off x w o sc .add
  | .atomsMin h d b off x w o sc => atomsIs h 0x2B1 d b off x w o sc .min
  | .atomsMax h d b off x w o sc => atomsIs h 0x2B2 d b off x w o sc .max
  | .atomsAnd h d b off x w o sc => atomsIs h 0x2B3 d b off x w o sc .and
  | .atomsOr h d b off x w o sc => atomsIs h 0x2B4 d b off x w o sc .or
  | .atomsXor h d b off x w o sc => atomsIs h 0x2B5 d b off x w o sc .xor
  | .atomsExch h d b off x w o sc => atomsIs h 0x2B6 d b off x w o sc .exch
  | .atomsCas h d b off x w o sc => atomsIs h 0x2B7 d b off x w o sc .cas
  | .atomsAddcl h d b off x w o sc => atomsIs h 0x2B8 d b off x w o sc .addcl
  | .atomsSubcl h d b off x w o sc => atomsIs h 0x2B9 d b off x w o sc .subcl
  | .atomsFadd h d b off x w o sc => atomsIs h 0x2BA d b off x w o sc .fadd
  | .atomsFmin h d b off x w o sc => atomsIs h 0x2BB d b off x w o sc .fmin
  | .atomsFmax h d b off x w o sc => atomsIs h 0x2BC d b off x w o sc .fmax
  | .atomsMinU h d b off x w o sc => atomsIs h 0x2BD d b off x w o sc .minU
  | .atomsMaxU h d b off x w o sc => atomsIs h 0x2BE d b off x w o sc .maxU
  | .redAdd h b off x w o sc _ => redIs h 0x2C0 b off x w o sc .add
  | .redMin h b off x w o sc _ => redIs h 0x2C1 b off x w o sc .min
  | .redMax h b off x w o sc _ => redIs h 0x2C2 b off x w o sc .max
  | .redAnd h b off x w o sc _ => redIs h 0x2C3 b off x w o sc .and
  | .redOr h b off x w o sc _ => redIs h 0x2C4 b off x w o sc .or
  | .redXor h b off x w o sc _ => redIs h 0x2C5 b off x w o sc .xor
  | .redAddcl h b off x w o sc _ => redIs h 0x2C8 b off x w o sc .addcl
  | .redSubcl h b off x w o sc _ => redIs h 0x2C9 b off x w o sc .subcl
  | .redFadd h b off x w o sc _ => redIs h 0x2CA b off x w o sc .fadd
  | .redFmin h b off x w o sc _ => redIs h 0x2CB b off x w o sc .fmin
  | .redFmax h b off x w o sc _ => redIs h 0x2CC b off x w o sc .fmax
  | .redMinU h b off x w o sc _ => redIs h 0x2CD b off x w o sc .minU
  | .redMaxU h b off x w o sc _ => redIs h 0x2CE b off x w o sc .maxU
  | _ => none

end Sys2Proof.Claims
end

