-- ==== Sys2Proof/Claims/Engines.lean ====
section
/-!
DEFINITION. What the claims say of engine commands, tags, guard slots, reservations, tiles and the network (R377 to R400):
the conditions under which a lane's command is accepted, and its effect.
-/

namespace Sys2Proof.Claims
open Sys2Proof.Machine

/-- The parameter block of a lane's command: rank 15 or the workgroup's own, below its scratchpad's size, aligned; its
workgroup, its offset and its words (R377). -/
def blockIn (t : State) (l : Nat) (e : EBlock) (base n align : Nat) : Option (Nat × Nat × List DWord) :=
  let h := homeIn t l
  let a := spadAddr' base e.eoff
  let rank := (a.extractLsb' 28 4).toNat
  let o := (a.extractLsb' 0 28).toNat
  if (rank = 15 ∨ rank = (wgAt t h).rank) ∧ o + n ≤ (wgAt t h).spg * 16384 ∧ a.toNat % align = 0 then
    some (h, o, (List.range (n / 8)).map (fun i => spadWord t h (o + 8 * i)))
  else none
where
  /-- The block's address: the source plus the sign-extended offset. -/
  spadAddr' (base : Nat) (off : BitVec 24) : Word := BitVec.ofNat 32 base + off.signExtend 32

/-- A command is accepted: `ok` holds of its workgroup and block, and a queue entry is free; `put` enters it. -/
def commandTurn (e : EBlock) (n align : Nat) (room : State → Nat → Bool) (ok : State → Nat → List DWord → Bool)
    (put : State → Nat → Nat → Nat → List DWord → State) : Nat → List Nat → State → Option (State × Out) :=
  fun l v t =>
    match blockIn t l e (at0 v) n align with
    | none => none
    | some (h, o, b) => if ok t h b ∧ room t h then some (put t l h o b, {}) else none

/-- CPY, CPYS and CPYX (R85, R87, R377): every lane's block passes before any command is entered. -/
def copyIs (s : State) (h : Head) (op : Nat) (f : CopyForm) (e : EBlock) (tag : BitVec 6) (g : Option (BitVec 4)) : Option Acting :=
  acts (bareShape h op) [rdI e.sa 1] (commandTurn e 64 64 copyRoom
    (fun _ w b => copyRows s w tag.toNat f b = none ∧ copySpads s w f b = none ∧ copyResvs s w f b = none)
    (fun t l w o b => enqueueCopy t l w f b o tag g (copyResv b)))

/-- MMA and MMAS (R383, R384). -/
def mmaIs (h : Head) (op : Nat) (solder : Bool) (e : EBlock) (tag : BitVec 6) (g : Option (BitVec 4)) : Option Acting :=
  acts (bareShape h op) [rdI e.sa 1] (commandTurn e 64 64 mtxRoom
    (fun t w b => mmaChecks t w tag.toNat solder b = none ∧
      (solder = false ∨ mmaCount b = 0 ∨ (spadFind t w (mmaList b) (8 * mmaCount b)).isSome) ∧
      slotCheck t w (mmaSlot b).toNat = none ∧ shadowCheck t w (mmaSlot b).toNat g = none)
    (fun t l w o b => enqueueMtx t l w
      { op := if solder then .mmas else .mma, block := b, blkAddr := o, addr := 0, slot := mmaSlot b, tag := some tag, g := g,
        uses := mmaUses t w b }))

/-- ALD and AST (R388): 4 KiB of scratchpad, 16-byte aligned, a tag that runs no stream (R85), and a slot that is bound and has no open shadow. -/
def tileIs (h : Head) (op : Nat) (m : MtxOp) (e : EBlock) (tag : BitVec 6) (n : BitVec 4) : Option Acting :=
  acts (bareShape h op) [rdI e.sa 1] (fun l v t =>
    let w := homeIn t l
    let a : Word := BitVec.ofNat 32 (at0 v) + e.eoff.signExtend 32
    if (spadFind t w a.toNat 4096).isSome ∧ a.toNat % 16 = 0 ∧ streamOn t w tag.toNat = false ∧ slotCheck t w n.toNat = none ∧
        shadowCheck t w n.toNat none = none ∧ mtxRoom t w then
      some (enqueueMtx t l w
        { op := m, block := [], blkAddr := 0, addr := a.toNat, slot := n, tag := some tag, g := none, uses := [],
          writes := if m = .ast then spadSpan t w a.toNat 4096 else [] }, {})
    else none)

/-- An instruction that acts once for each home workgroup of the path, in the lowest of its active lanes (R388, R390). -/
def onceIs (s : State) (h : Head) (op : Nat) (m : MtxOp) (n : BitVec 4) (ok : Nat → Bool) (after : Wg → Wg) : Option Acting :=
  let ls := act s (bareShape h op)
  let homes := (ls.map (homeIn s)).dedup
  acts (bareShape h op) [] (fun l _ t =>
    let w := homeIn s l
    if ok w ∧ onceRoom s homes w then
      if ls.find? (fun k => homeIn s k == w) = some l then
        some (dirtyTiles (modWg (enqueueMtx t l w
          { op := m, block := [], blkAddr := 0, addr := 0, slot := n, tag := none, g := none, uses := [] }) w after) w, {})
      else some (t, {})
    else none)

/-- The tag of a lane's workgroup. -/
def tagIn (t : State) (l : Nat) (n : BitVec 6) : Tag := tagOf (wgAt t (homeIn t l)) n.toNat

/-- A wait that ends: a Failed tag traps in a user slot only (R93). -/
def waitEnds (t : State) (l n : Nat) : Bool :=
  let g := tagOf (wgAt t (homeIn t l)) n
  g.st != .failed || g.fail.isNone || t.iss.slot == 16

/-- The set bits of a tag mask, ascending. -/
def maskTags (m : DWord) : List Nat := (List.range 64).filter (fun i => m.getLsbD i)

/-- A result register of an engine instruction: no latch (R128). -/
def engShape (s : State) (h : Head) (op : Nat) (d : Dst) (words : Nat) (push : Bool) : Shape :=
  { bareShape h op with dst := d, words := words, push := push, perLane := slotBound s s.iss.core s.iss.slot }

/-- What each engine, tag, reservation, tile and network instruction does. -/
def engineRule (s : State) : Instr → Option Acting
  | .cpy h e tag g => copyIs s h 0x300 .cpy e tag g
  | .cpys h e tag g => copyIs s h 0x301 .cpys e tag g
  | .cpyx h e tag g => copyIs s h 0x302 .cpyx e tag g
  | .strm h e tag g =>
    acts (bareShape h 0x303) [rdI e.sa 1] (commandTurn e 64 64 copyRoom
      (fun t w b => strmRows t w tag.toNat g.isSome b = none)
      (fun t l w o b => enqueueCopy t l w .strm b o tag none []))
  | .scnt h x tag =>
    acts (bareShape h 0x304) [rdI x 1] (fun l v t =>
      let w := homeIn t l
      let c := (wgAt t w).core
      match (coreAt t c).copyQ.find? (fun e => decide (e.2.wg = w ∧ e.2.form = .strm ∧ e.2.tag = tag)) with
      | none => none
      | some (n, k) =>
        if k.consumed + at0 v ≤ k.staged then
          some (modCore t c (fun q => { q with copyQ := Tab.adjust q.copyQ n (fun k =>
            { k with consumed := k.consumed + at0 v }) }), {})
        else none)
  | .wtag h tag =>
    acts (bareShape h 0x308) [] (fun l _ t =>
      let parks := (act s (bareShape h 0x308)).any (wtagStopped s tag.toNat)
      if tagReady (wgAt t (homeIn t l)) tag.toNat = true ∧ parks = false ∧ waitEnds t l tag.toNat then
        some (if (tagIn t l tag).st = .failed ∧ (tagIn t l tag).fail.isSome then t else acquireTags t (homeIn t l) [tag.toNat], {})
      else none)
  | .wany h d a =>
    let sh := engShape s h 0x309 d 1 false
    let stands (l : Nat) : AnyState := anyState s (homeIn s l) (BitVec.ofNat 64 (at0 (laneVals s [rdI a 2] l)))
    acts sh [rdI a 2] (fun l v t =>
      let m := BitVec.ofNat 64 (at0 v)
      match (maskTags m).find? (tagReady (wgAt t (homeIn t l))) with
      | some n =>
        if ((act s sh).any (fun k => match stands k with | .stopped _ _ => true | _ => false)) = false ∧ waitEnds t l n then
          let g := tagOf (wgAt t (homeIn t l)) n
          some (if g.st = .failed ∧ g.fail.isSome then t
                else acquireTags t (homeIn t l) ((maskTags m).filter (tagReady (wgAt t (homeIn t l)))), { val := n })
        else none
      | none => none)
  | .tffr h d a =>
    acts (engShape s h 0x30A d 1 true) [rdI a 2] (fun l v t =>
      let n := ((maskTags (BitVec.ofNat 64 (at0 v))).filter (tagReady (wgAt t (homeIn t l)))).headD 64
      some (t, { val := n, push := decide (n < 64) }))
  | .tclr h tag =>
    acts (bareShape h 0x30B) [] (fun l _ t =>
      if (tagIn t l tag).st = .busy then none
      else
        let idle (g : Tag) : Tag := { g with st := .idle, count := 0, some := false, fail := none }
        some (modWg t (homeIn t l) (fun w => { w with tags := Tab.set w.tags tag.toNat (idle (tagOf w tag.toNat)) }), {}))
  | .trdy h d a =>
    acts (engShape s h 0x30C d 2 true) [rdI a 2] (fun l v t =>
      let m : DWord := BitVec.ofNat 64 (at0 v)
      let r := tagRdy (wgAt t (homeIn t l))
      some (if m &&& ~~~r = 0 then acquireTags t (homeIn t l) (maskTags m) else t,
        { val := (m &&& r).toNat, push := decide (m &&& ~~~r = 0) }))
  | .gresCmt h g => acts (bareShape h 0x30D) [] (fun l _ t => some (resolveGuard t (homeIn t l) g true, {}))
  | .gresDsc h g => acts (bareShape h 0x30D) [] (fun l _ t => some (resolveGuard t (homeIn t l) g false, {}))
  | .rsv h d a b =>
    acts { bareShape h 0x310 with dst := d, words := 1, push := true, perLane := true } [rdI a 1, rdI b 1] (fun l v t =>
      if rsvBad (at0 v) (at1 v) then none
      else
        let r := reserve t (homeIn t l) (at0 v) (at1 v)
        some (r.1, { val := r.2.1, push := r.2.2 }))
  | .rls h a =>
    acts (bareShape h 0x311) [rdI a 1] (fun l v t =>
      if at0 v < 2 ^ 16 then (resvOf t (homeIn t l) (at0 v)).map (fun r => (releaseResv t (homeIn t l) r, {})) else none)
  | .rrec h d a =>
    acts (engShape s h 0x312 d 2 false) [rdI a 1] (fun l v t =>
      if at0 v < 2 ^ 16 then (resvOf t (homeIn t l) (at0 v)).map (fun r => (t, { val := r.word })) else none)
  | .mma h e tag g => mmaIs h 0x340 false e tag g
  | .mmas h e tag g => mmaIs h 0x341 true e tag g
  | .aclr h n =>
    onceIs s h 0x342 .aclr n (fun w => slotCheck s w n.toNat = none ∧ shadowCheck s w n.toNat none = none) id
  | .ald h e tag n => tileIs h 0x343 .ald e tag n
  | .ast h e tag n => tileIs h 0x344 .ast e tag n
  | .mdrn h e tag =>
    acts (bareShape h 0x345) [rdI e.sa 1] (commandTurn e 128 64 mtxRoom
      (fun t w b => epReserved b = false ∧ epMisaligned b = false ∧ streamOn t w tag.toNat = false ∧ epSpads t w b = none ∧ epFormats b = false ∧
        slotCheck t w (epSlot b).toNat = none ∧ shadowCheck t w (epSlot b).toNat none = none)
      (fun t l w o b => enqueueMtx t l w
        { op := .mdrn, block := b, blkAddr := o, addr := 0, slot := epSlot b, tag := some tag, g := none, uses := [],
          writes := epWrites t w o b }))
  | .acmt h n =>
    onceIs s h 0x346 .acmt n (fun w => slotCheck s w n.toNat = none ∧ (shadowOf (wgAt s w) n.toNat).isSome)
      (fun w => commitShadow w n.toNat)
  | .adsc h n =>
    onceIs s h 0x347 .adsc n (fun w => slotCheck s w n.toNat = none ∧ (shadowOf (wgAt s w) n.toNat).isSome)
      (fun w => { w with shadow := Tab.del w.shadow n.toNat })
  | .npost h e =>
    acts (bareShape h 0x360) [rdI e.sa 1] (fun l v => escapeAt l (fun t =>
      match blockIn t l e (at0 v) 16 16 with
      | none => none
      | some (w, _, b) =>
        let q := ((blkW b 1).extractLsb' 0 12).toNat
        match openQp t q (slotHm t t.iss.core t.iss.slot) with
        | none => none
        | some p =>
          if (blkW b 1).toNat / 4096 = 0 ∧ (blkW b 0).toNat % 64 = 0 ∧ p.err = false ∧ orderStalls t w .rel .dom = false then
            let u := modQp (endReplay (orderWork t w .rel .dom) w 0x03) q (fun p =>
              { p with tails := p.tails ++ [(blkW b 0, t.iss.core)] })
            some ((match qpAt u q with
              | some p => causal u 1 (BitVec.ofNat 64 q) (postedSeq u p)
              | none => u), {})
          else none))
  | .nwait h d a b =>
    acts { bareShape h 0x361 with dst := d, words := 2, perLane := true } [rdI a 2, rdI b 2] (fun l v t =>
      let va : DWord := BitVec.ofNat 64 (at0 v)
      match accessAt t l va 8 true false false with
      | none => none
      | some (u, p) =>
        if isRemote p.home = true ∨ answered u false p 8 = false then none
        else
          let r := readPlace u (.core u.iss.core .none) (hmIn u) p false 8
          if natOf r.1 < at1 v then none
          else some (causal (orderWork (readNewest r.2 [homeIn u l] p.home 8) (homeIn u l) .acq .sys) 2 va (BitVec.ofNat 64 (natOf r.1)), { val := natOf r.1 }))
  | .ncanc h d a =>
    acts { bareShape h 0x362 with dst := d, words := 1, perLane := true } [rdI a 1] (fun _ v t =>
      match openQp t (at0 v) (slotHm t t.iss.core t.iss.slot) with
      | none => none
      | some p =>
        if p.err then none
        else
          let r := untaken t p
          if r.2 = .all then
            let u := cancelPosted t (at0 v) r.1
            some (netRun u (at0 v) (netTurns u (at0 v)), { val := r.1.length })
          else none)
  | _ => none

end Sys2Proof.Claims
end

