-- ==== Sys2Proof/Claims/Control.lean ====
section
/-!
DEFINITION. What the claims say of control flow, barriers, huddles, sleeps, signals, launches, regions and markers (R402 to
R421).
-/

namespace Sys2Proof.Claims
open Sys2Proof.Machine

/-- An instruction's turns, and what follows once the path has completed them. -/
structure Ending where
  does : Acting
  after : State → State

def ends (sh : Shape) (rs : List Rd) (turn : Nat → List Nat → State → Option (State × Out)) (after : State → State := id) :
    Option Ending := some { does := { sh := sh, rs := rs, turn := turn }, after := after }

/-- Change the thread of a lane of the issuing path. -/
def onThread (t : State) (l : Nat) (f : Thread → Thread) : State := modThread t t.iss.core t.iss.slot l f
def threadIn (t : State) (l : Nat) : Option Thread := threadAt t t.iss.core t.iss.slot l

/-- A branch with a join sets MR to the join's word (R172, R402). -/
def joined (t : State) (l : Nat) (join : Option (BitVec 16)) : State :=
  match join with
  | some m => onThread t l (fun th => { th with mr := t.iss.pc + m.signExtend 32 })
  | none => t

/-- A taken branch. -/
def goes (pc : Word) : Out := { next := some pc, taken := true }

/-- The word after the instruction and, at a safe point, its mask word (R295). -/
def wordAfter (s : State) (h : Head) : Word := s.iss.pc + (match h.sp with | some _ => 2 | none => 1)

/-- CALL pushes the return word and MR on the lane's call stack, where its 8 bytes lie in the thread's slice of scratchpad
(R171). -/
def called (t : State) (l : Nat) (ret : Word) : Option State :=
  match threadIn t l with
  | none => none
  | some th =>
    let w := wgAt t th.home
    let low := 0xF0000000 + w.spg * 16384 - w.stk * (th.tidx + 1)
    let high := 0xF0000000 + w.spg * 16384 - w.stk * th.tidx
    if w.spg = 0 ∨ w.stk = 0 ∨ th.csp.toNat < low + 8 ∨ high < th.csp.toNat then none
    else
      (storeSpadAt t l (th.csp - 8) 8 (ret.toNat + th.mr.toNat * 2 ^ 32) .plain).map (fun u =>
        onThread u l (fun th => { th with csp := th.csp - 8, mr := 0xFFFFFFFF }))

/-- RET pops them (R171). -/
def returned (t : State) (l : Nat) : Option (State × Word) :=
  match threadIn t l with
  | none => none
  | some th =>
    let w := wgAt t th.home
    let low := 0xF0000000 + w.spg * 16384 - w.stk * (th.tidx + 1)
    let high := 0xF0000000 + w.spg * 16384 - w.stk * th.tidx
    if w.spg = 0 ∨ w.stk = 0 ∨ th.csp.toNat < low ∨ high < th.csp.toNat + 8 then none
    else
      (loadSpadAt t l th.csp 8 .plain).map (fun r =>
        (onThread r.1 l (fun th => { th with csp := th.csp + 8, mr := BitVec.ofNat 32 (r.2 / 2 ^ 32) }), BitVec.ofNat 32 r.2))

/-- Lanes that arrive at a barrier keep their PC, and leave to the next word (R198). -/
def arrives (s : State) (st : TState) : Out := { st := some st, next := some s.iss.pc }

/-- The instances that a BAR's arrival may complete are judged, where a lane still waits (R199, R201). -/
def afterBar (b : BitVec 4) (t : State) : State :=
  if (pathLanes t).any (fun l => ((threadIn t l).map (fun th => atBar th.st)).getD false) then
    ((warpCounts t t.iss.core t.iss.slot).toList ++ homesOfPath t).foldl sweepBars (arriveBar t b.toNat)
  else t

/-- BARN's instances: those that its arrivals completed are left, and those that cannot complete trap (R408). -/
def afterBarn (rs : List Rd) (t : State) : State :=
  let u := keepDue t rs atBarn
  let here := (pathLanes u).filterMap (fun l =>
    match threadIn u l with
    | some th => (match th.st with | .barn o _ => some (th.home, o, l) | _ => none)
    | none => none)
  let u := ((here.map (fun e => (e.1, e.2.1))).dedup).foldl (fun u k =>
    settleNamed u k.1 k.2 ((here.filter (fun e => e.1 = k.1 ∧ e.2.1 = k.2)).map (fun e => e.2.2))) u
  (homesOfPath u).foldl sweepNamed u

/-- What each control, barrier, signal, launch and region instruction does. -/
def controlRule (s : State) : Instr → Option Ending
  | .bra h off join =>
    ends (bareShape h 0x380) [] (fun l _ t => some (joined t l join, goes (s.iss.pc + off.signExtend 32)))
  | .brx h a join =>
    ends (bareShape h 0x381) [rdI a 1] (fun l v t => some (joined t l join, goes (BitVec.ofNat 32 (at0 v))))
  | .call h off =>
    ends (bareShape h 0x382) [] (fun l _ t =>
      (called t l (wordAfter s h)).map (fun u => (u, goes (s.iss.pc + off.signExtend 32))))
  | .callx h a =>
    ends (bareShape h 0x383) [rdI a 1] (fun l v t =>
      (called t l (wordAfter s h)).map (fun u => (u, goes (BitVec.ofNat 32 (at0 v)))))
  | .ret h => ends (bareShape h 0x384) [] (fun l _ t => (returned t l).map (fun r => (r.1, goes r.2)))
  | .meet h join => ends (bareShape h 0x385) [] (fun l _ t => some (joined t l (some join), {}))
  | .exit h =>
    ends (bareShape h 0x386) [] (fun _ _ t => some (t, { st := some .exited })) (fun t => afterExit t s.iss.core s.iss.slot)
  | .bar h b =>
    ends (bareShape h 0x388) [] (fun _ _ t => some (t, arrives s (.bar b.toNat (wordAfter s h)))) (afterBar b)
  | .barn h a x =>
    let rs := [rdI a 1, rdI x 1]
    ends (bareShape h 0x389) (rs.map unlast)
      (fun l v t => (answer (arriveNamed l (BitVec.ofNat 32 (at0 v)) (at1 v)) t).map (fun r =>
        (r.1, arrives s (.barn (at0 v % 2 ^ 28) (wordAfter s h)))))
      (afterBarn rs)
  | .tbar h b =>
    ends (bareShape h 0x38A) []
      (fun l _ t => some (orderWork t (homeIn t l) .rel .team, arrives s (.tbar b.toNat (wordAfter s h))))
      (fun t => (((homesOfPath t).map (fun w => (wgAt t w).team)).dedup).foldl sweepTeam t)
  | .hudl h d k id =>
    let rs := [rdI k 1]
    ends (bareShape h 0x390) (rs.map unlast)
      (fun l v t =>
        if ((wgAt s (homeIn s l)).bound.map Bound.id).getD id = id then
          some (t, arrives s (.hudl id (BitVec.ofNat 16 (at0 v)) (match d with | .s r => some r | _ => none) (wordAfter s h)))
        else none)
      (fun t => sweepHuddle (keepDue t rs atHudl) s.iss.core s.iss.slot)
  | .hudlHome h =>
    ends (bareShape h 0x391) []
      (fun l _ t => if (wgAt s (homeIn s l)).bound.isSome then some (t, arrives s (.hudlHome (wordAfter s h))) else none)
      (fun t => sweepHuddle t s.iss.core s.iss.slot)
  | .yieldRun h =>
    ends (bareShape h 0x398) [] (fun _ _ t => some (t, {}))
      (fun t => finishRun ((pathLanes t).foldl (fun u l => onThread u l (fun th => { th with yielded := true })) t)
        s.iss.core s.iss.quarter 5)
  | .sleep h a =>
    ends (bareShape h 0x399) [rdI a 1]
      (fun _ _ t =>
        let m := ((act s (bareShape h 0x399)).map (fun l => held s l 0 a 1)).foldl max 0
        if m = 0 ∨ (s.iss.slot = 16 ∧ umpireWork t s.iss.core = true) then some (t, {})
        else some (t, { st := some (.sleeping (clock t + m)) }))
      (fun t => finishRun t s.iss.core s.iss.quarter 2)
  | .nop h => ends (bareShape h 0x39A) [] (fun _ _ t => some (t, {}))
  | .trapSelf h b =>
    ends (bareShape h 0x3A0) [rdI b 1] (fun l v t => some (onThread t l (pendSignal (clock t) (BitVec.ofNat 8 (at0 v))), {}))
  | .trapOne h a b =>
    ends (bareShape h 0x3A0) [rdI a 1, rdI b 1] (fun l v t =>
      some (sendSignal t (homeIn t l) (BitVec.ofNat 8 (at1 v)) (fun th => th.tidx == at0 v), {}))
  | .trapWgrp h b =>
    ends (bareShape h 0x3A0) [rdI b 1] (fun l v t =>
      some (sendSignal t (homeIn t l) (BitVec.ofNat 8 (at0 v)) (fun _ => true), {}))
  | .trapTgrp h b =>
    ends (bareShape h 0x3A0) [rdI b 1] (fun l v t =>
      some ((teamWgs t (homeIn t l)).foldl (fun t w => sendSignal t w (BitVec.ofNat 8 (at0 v)) (fun _ => true)) t, {}))
  | .sigret h =>
    ends (bareShape h 0x3A3) [] (fun l _ t =>
      match (threadIn t l).bind Thread.handler with
      | none => none
      | some va =>
        if xlateStalls t t.iss.core (hmIn t) va .read then none
        else
        match pathPlace t t.iss.core (wgAt t (homeIn t l)).hm va .read with
        | (_, .error _) => none
        | (u, .ok p) =>
          if answered u false p 128 = false then none
          else
            let r := (returnSignal (readNewest u [homeIn t l] p.home 128) t.iss.core t.iss.slot l va).1
            some (onThread' r t l (fun th => { th with pendSince := clock r }), { next := (threadAt r t.iss.core t.iss.slot l).map Thread.pc }))
  | .gctr h d a =>
    ends { bareShape h 0x3B2 with dst := d, words := 2, perLane := true } [rdI a 1] (fun l v t =>
      let hm := slotHm t t.iss.core t.iss.slot
      let u := orderWork t (homeIn t l) .acq .sys
      match counterOf t (at0 v % 4096) hm, counterOf u (at0 v % 4096) (slotHm u u.iss.core u.iss.slot) with
      | some _, some k => some (u, { val := counterWord k })
      | _, _ => none)
  | .cncl h a =>
    ends (bareShape h 0x3B3) [rdI a 1]
      (fun _ v t =>
        if (counterOf t (at0 v % 4096) (slotHm t t.iss.core t.iss.slot)).isSome then some (setCanc t (at0 v % 4096), {}) else none)
      (fun t => cancelSweep t t.launches.length)
  | .lnch h d e =>
    ends { bareShape h 0x3B0 with dst := d, words := 1, push := true, perLane := true } [rdI e.sa 1] (fun l v =>
      escapeAt l (fun t =>
        match blockIn t l e (at0 v) 64 64 with
        | none => none
        | some (g, _, b) =>
          let u := orderWork (endReplay t g 0x03) g .rel .dev
          if (childChecks t (slotHm t t.iss.core t.iss.slot) b).isSome then none
          else if 16384 ≤ childCount u ∨ (wgAt u g).dlim ≤ (wgAt u g).depth then some (u, {})
          else some (createChild u g b, { val := (childId u.childSeq).toNat, push := true })))
  | .lwait h =>
    ends (bareShape h 0x3B1) [] (fun l _ t =>
      if (wgAt t (homeIn t l)).children = 0 then some (orderWork t (homeIn t l) .acq .dev, {}) else none)
  | .rge h id =>
    ends { bareShape h 0x3C0 with edge := true } [] (fun l _ t =>
      if (wgAt t (homeIn t l)).rstep then none
      else some (onThread t l (fun th =>
        { th with
          region := if th.depth.toNat < 16 then th.region.take th.depth.toNat ++ [id] else th.region
          depth := if th.depth = 0xFFFF then th.depth else th.depth + 1 }), {}))
  | .rgl h =>
    ends { bareShape h 0x3C1 with edge := true } [] (fun l _ t =>
      if (wgAt t (homeIn t l)).rstep then none
      else
        let u := if ((threadIn t l).map Thread.depth).getD 0 = 0 then countBy t l 0x16 1 else t
        some (onThread u l (fun th => if th.depth = 0 then th else { th with depth := th.depth - 1 }), {}))
  | .bkpt h =>
    ends (bareShape h 0x3C2) [] (fun l _ t =>
      if (threadIn t l).bind Thread.pass = some .bkpt then some (t, {}) else none)
  | .snap h =>
    ends (bareShape h 0x3C3) [] (fun l _ t =>
      if s.iss.slot = 16 ∨ rollbackWg t (homeIn t l) = false ∨ ((threadIn t l).map Thread.escOk).getD true = true then
        some (t, {})
      else none)
  | .trmk h a =>
    ends (bareShape h 0x3C4) [rdI a 2] (fun l v t =>
      if (act s (bareShape h 0x3C4)).headD l = l then some (causal t 0 0 (BitVec.ofNat 64 (at0 v)), {}) else some (t, {}))
  | _ => none
where
  /-- Change a lane's thread at the place of another state's path. -/
  onThread' (r t : State) (l : Nat) (f : Thread → Thread) : State := modThread r t.iss.core t.iss.slot l f

end Sys2Proof.Claims
end

