-- ==== Sys2Proof/Claims/System.lean ====
section
/-!
DEFINITION. What the claims say of system registers and of the privileged instructions (R317, R422 to R432).
-/

namespace Sys2Proof.Claims
open Sys2Proof.Machine

/-- The registers that only the umpire warp may name (R311, R317): those from 0x100 on. -/
def umpireOnly : SReg → Bool
  | .cyc | .tagrdy | .gstate | .ctxid | .fpctl | .fpstat | .lndepth | .barmode | .csp | .amx _ => false
  | _ => true

/-- The registers of a system register (R317): 64-bit ones take a pair. -/
def sregWords : SReg → Nat
  | .cyc | .tagrdy | .taddr | .tinfo | .savebase | .ctxtab | .trcctl | .trcwp | .wpa _ | .acfg _ | .acnt _ => 2
  | _ => 1

/-- Whether a register's value differs between the lanes of a path: a thread's own, or a home workgroup's in a huddle. -/
def perLaneReg (s : State) : SReg → Bool
  | .ctxid | .fpctl | .fpstat | .lndepth | .csp => true
  | .tagrdy | .gstate | .barmode | .amx _ => slotBound s s.iss.core s.iss.slot
  | _ => false

/-- An instruction that names a system register. -/
def registerRule (s : State) : Instr → Option (Acting × Bool)
  | .mfsr h d r =>
    (acts { bareShape h 0x3E0 with dst := d, words := sregWords r, perLane := perLaneReg s r } []
      (fun l _ t => some (t, { val := readReg t l r }))).map (fun p => (p, umpireOnly r))
  | .mtsr h a r =>
    (acts (bareShape h 0x3E1) [rdI a (sregWords r)]
      (fun l v t => some (writeReg t l r (BitVec.ofNat 64 (at0 v)), {}))).map (fun p => (p, umpireOnly r))
  | .racechkClr h a =>
    (acts (bareShape h 0x3E1) [rdI a 1]
      (fun l v t => some (writeReg t l .racechk (BitVec.ofNat 64 (at0 v)), {}))).map (fun p => (p, true))
  | _ => none

/-- The shape of a privileged instruction. -/
def privIs (h : Head) (op : Nat) (d : Dst) (words : Nat) (push : Bool) : Shape :=
  { bareShape h op with dst := d, words := words, perLane := true, push := push }

/-- An operation on a numbered entry of a core: it acts and pushes 1 where `found` gives what it acts on, else pushes 0. -/
def entryIs {α : Type} (h : Head) (op : Nat) (rs : List Rd) (found : State → Nat → Option α)
    (act : State → Nat → α → List Nat → State) : Option Ending :=
  ends (privIs h op .zero 0 true) rs (fun _ v t =>
    match found t (at0 v) with
    | some x => some (act t (at0 v) x v, { push := true })
    | none => some (t, {}))

/-- An operation that the lowest active lane performs once for the path. -/
def onceFor (s : State) (h : Head) (op : Nat) (rs : List Rd) (f : State → List Nat → State) (after : State → State) :
    Option Ending :=
  ends (privIs h op .zero 0 false) rs (fun l v t =>
    some (if (act s (privIs h op .zero 0 false)).headD l = l then f t v else t, {})) after

/-- The end of the run that a TLBI causes (R218). -/
def endsRun (s : State) (t : State) : State := finishRun t s.iss.core s.iss.quarter 2

/-- What each privileged instruction does in the umpire warp. -/
def umpireRule (s : State) : Instr → Option Ending
  | .eret h d a =>
    let sh := { privIs h 0x3E2 d 1 false with perLane := false, uni := some true }
    let first := (act s sh).headD 0
    ends sh [rdI a 1] (fun _ _ t =>
      if umpireWork s s.iss.core then
        some (t, { val := workSummary s s.iss.core, next := some (BitVec.ofNat 32 (at0 (laneVals s [rdI a 1] first))), taken := true })
      else none)
  | .rply h a =>
    ends (privIs h 0x3E3 .zero 0 true) [rdI a 1] (fun _ v t =>
      some (replayEntry t t.iss.core (at0 v), { push := (entryAt t t.iss.core (at0 v)).isSome }))
  | .rplySig h a =>
    entryIs h 0x3E3 [rdI a 1] (fun t n => (entryAt t t.iss.core n).filter (fun d => !d.eng))
      (fun t n _ _ => signalEntry t t.iss.core n)
  | .rplyDet h a b =>
    ends (privIs h 0x3E3 .zero 0 true) [rdI a 1, rdI b 1] (fun _ v t =>
      let c := t.iss.core
      match detachedIn t c (at0 v) (BitVec.ofNat 32 (at1 v)) with
      | [] => some (t, {})
      | d :: ds => some (meetings ((d :: ds).foldl (fun t d => resumeThread t c (at0 v) d.1 d.2) t) c (at0 v), { push := true }))
  | .park h a =>
    entryIs h 0x3E4 [rdI a 1] (fun t n => entryAt t t.iss.core n) (fun t n d _ =>
      let u := (lanesOf d.lanes).foldl (fun u l =>
        modThread u t.iss.core d.slot l (fun th => { th with
          st := .detached d.cause d.detail
          park := some { seq := d.seq, eng := d.eng, tag := d.tag, addrs := d.addrs, info := d.info } })) t
      modCore u t.iss.core (fun k => { k with dugout := Tab.del k.dugout n }))
  | .kill h a b =>
    entryIs h 0x3E5 [rdI a 1, rdI b 1] (fun t n => if n < 16 then (slotAt t t.iss.core n).wg else none) (fun t _ g v =>
      let m := (wgAt t g).team
      let r := killReason (BitVec.ofNat 8 (at1 v))
      killTeam t m r (restartable t m && (r == 0x05 || r == 0x06)) Blame.none)
  | .tlbiCtx h a => onceFor s h 0x3E6 [rdI a 1] (fun t v => tlbiContext t (BitVec.ofNat 14 (at0 v))) (endsRun s)
  | .tlbiRng h a b c =>
    onceFor s h 0x3E6 [rdI a 1, rdI b 2, rdI c 1]
      (fun t v => tlbiRange t (BitVec.ofNat 14 (at0 v)) (at1 v / 4096) (at2 v)) (endsRun s)
  | .tlbiAll h => onceFor s h 0x3E6 [] (fun t _ => tlbiEvery t) (endsRun s)
  | .poolrdMap h d a =>
    ends (privIs h 0x3E7 d 1 true) [rdI a 1] (fun _ v t =>
      some (t, { val := (Tab.getD (coreAt t t.iss.core).pageMap (at0 v % 64) 0).toNat, push := true }))
  | .poolrdDat h d a b =>
    ends (privIs h 0x3E7 d 1 true) [rdI a 1, rdI b 1] (fun _ v t =>
      let c := t.iss.core
      let p := at0 v % 64
      if t.badPages.contains (c, p) then
        some ({ t with
          badPages := t.badPages.filter (fun x => x != (c, p)), metPages := t.metPages ++ [(c, p)], fresh := t.fresh + 1 },
          { val := (Config.freeBits 32 t.fresh).toNat, push := false })
      else some (t, { val := (Tab.getD (coreAt t c).pool (4096 * p + at1 v / 4 % 4096) 0).toNat, push := true }))
  | .poolwrMap h a b =>
    ends (privIs h 0x3E8 .zero 0 false) [rdI a 1, rdI b 1] (fun _ v t =>
      let p := at0 v % 64
      some (disturbPage (modCore t t.iss.core (fun k => writeMap k p (BitVec.ofNat 32 (at1 v)))) t.iss.core p
        (pageRuns t t.iss.core p), {}))
  | .poolwrDat h a b c =>
    ends (privIs h 0x3E8 .zero 0 false) [rdI a 1, rdI b 1, rdI c 1] (fun _ v t =>
      let i := 4096 * (at0 v % 64) + at1 v / 4 % 4096
      let u := if recordWord (coreAt t t.iss.core) i then modCore t t.iss.core id
        else modCore t t.iss.core (fun k => setPoolWord k i (BitVec.ofNat 32 (at2 v)))
      some (disturbPage u t.iss.core (at0 v % 64) (pageRuns t t.iss.core (at0 v % 64)), {}))
  | .cpyp h e tag =>
    ends (bareShape h 0x3E9) [rdI e.sa 1] (commandTurn e 64 64 copyRoom
      (fun t w b => cpypChecks b = none ∧ streamOn t w tag.toNat = false)
      (fun t l w o b =>
        let c := (wgAt t w).core
        let n := (Tab.freeKey (coreAt t c).copyQ 64 0).getD 0
        modCopy (enqueueCopy t l w .cpyp b o tag none []) c n (fun e => { e with hm := cpypHm b })))
  | .svresp h a b c =>
    ends (privIs h 0x3EA .zero 0 true) [rdI a 2, rdI b 4, rdI c 1] (fun l v t =>
      let va : DWord := BitVec.ofNat 64 (at0 v)
      match accessAt t l va 64 true true false with
      | none => none
      | some (u, p) =>
        if answered u false p 64 = false ∨ releaseStalls u (hmIn u) = true then none
        else
          let res := (List.range 4).map (fun k => BitVec.ofNat 32 (at1 v / 2 ^ (32 * k)))
          let r := answerCall u u.iss.core (hmIn u) p va (at2 v) res
          some (r.1, { push := r.2 }))
  | .erst h a =>
    entryIs h 0x3EB [rdI a 1] (fun t n => if copyStopped t t.iss.core n then some () else none)
      (fun t n _ _ => restartCopy t t.iss.core n)
  | .erstMtx h a =>
    entryIs h 0x3EB [rdI a 1] (fun t n => if mtxStopped t t.iss.core n then some () else none)
      (fun t n _ _ => restartMtx t t.iss.core n)
  | .erstNet h a =>
    entryIs h 0x3EB [rdI a 1] (fun t n => netFaultAt t t.iss.core n) (fun t n q _ => retryNet t t.iss.core n q.toNat)
  | .erstFail h a b =>
    entryIs h 0x3EB [rdI a 1, rdI b 1] (fun t n => if copyStopped t t.iss.core n then some () else none)
      (fun t n _ v => endCopy t t.iss.core n (erstFailure (at1 v)))
  | .erstFailMtx h a b =>
    entryIs h 0x3EB [rdI a 1, rdI b 1] (fun t n => if mtxStopped t t.iss.core n then some () else none)
      (fun t n _ v => endMtx t t.iss.core n (erstFailure (at1 v)))
  | .erstFailNet h a b =>
    entryIs h 0x3EB [rdI a 1, rdI b 1] (fun t n => netFaultAt t t.iss.core n) (fun t n q _ => failNet t t.iss.core n q.toNat)
  | .keyld h a =>
    if fromFirmware s then onceFor s h 0x3EC [rdI a 4] (fun t v => changeKey t (some (BitVec.ofNat 128 (at0 v)))) id else none
  | .keyldClr h => if fromFirmware s then onceFor s h 0x3EC [] (fun t _ => changeKey t none) id else none
  | .hmchk h d a =>
    ends (privIs h 0x3ED d 1 true) [rdI a 1] (fun _ v t =>
      let x := hmState t t.iss.core (BitVec.ofNat 14 (at0 v))
      some (t, { val := x, push := decide (x % 16 = 11) }))
  | _ => none

end Sys2Proof.Claims
end

