-- ==== Sys2Proof/Claims/Events.lean ====
section
/-!
DEFINITION. What the claims say of the whole-step events (spec/02 to spec/20): when each takes effect, and the state that it
leaves.
-/

namespace Sys2Proof.Claims
open Sys2Proof.Machine

/-- An event's effect where its condition holds. -/
def takes (c : Prop) [Decidable c] (t : State) : Option State := if c then some t else none

/-! ## Issue, fetch, waits, walks and stores -/

/-- Threads of a slot that stand where one does, waiting on a counter, are Ready to read it again (R400). -/
def polled (t : Thread) (w : Slot) : Slot :=
  mapThreads w (fun u =>
    match u.st with
    | .wait (.counter _) => if u.pc = t.pc ∧ u.cbase = t.cbase then { u with st := .ready } else u
    | _ => u)

/-- The n-th store is lost, and its thread is to be signalled (R241, R445): its bytes go back where `back` says so. -/
def lostStore (s : State) (n : Nat) (p : PendStore) (back : Bool) : State :=
  let t := dropLine { s with stores := s.stores.eraseIdx n } (p.addr / 64)
  let t := { t with mem := if back then writeBytes t.mem p.addr p.old else t.mem }
  match lostThread t p with
  | none => t
  | some x =>
    modThread t (wgAt t p.wg).core x.1 x.2.1 (fun th =>
      { th with pend52 := true, pendSince := if th.pend52 || th.pend71.isSome then th.pendSince else clock t })

/-- A remote store that no acknowledgement came for in 100 µs is lost. -/
def lateStore (s : State) (n : Nat) : Option State :=
  match s.stores[n]? with
  | none => none
  | some p =>
    if p.remote ∧ p.issued + lostAfter ≤ s.now then
      some (lostStore { s with fresh := s.fresh + 1 } n p (Config.pick s.fresh % 2 == 0))
    else none

def issueEvent (s : State) : Instr → Option State
  | .runSelect c q =>
    let k := quarterAt s c.val q.val
    if k.run.isSome ∨ k.frozen.isSome ∨ clockStopped s then none
    else
      match chooseSlot s c.val q.val with
      | none => none
      | some n =>
        let t := wake s c.val n
        (choosePath (pathsOf (slotAt t c.val n))).map (fun p => beginRun t c.val q.val n (pathsOf (slotAt t c.val n)) p)
  | .fetchReturn c q =>
    match (quarterAt s c.val q.val).frozen with
    | none => none
    | some ls => some (modQuarter (fillCode s c.val ls) c.val q.val (fun k => { k with frozen := none }))
  | .loadReturn c n =>
    let w := slotAt s c.val n.val
    takes (w.loads ≠ []) (modSlot { s with fresh := s.fresh + 1 } c.val n.val (fun w =>
      { w with loads := w.loads.eraseIdx (Config.pick s.fresh % w.loads.length) }))
  | .storeAck n => (s.stores[n]?).map (fun p =>
      let t := if p.remote then writeBackLine s (p.addr / 64) else s
      if p.remote && (routingDown s || !carries s p.addr) then s
      else if p.remote && Config.pick t.fresh % 2 == 1 then lostStore { t with fresh := t.fresh + 1 } n p true
      else { t with stores := t.stores.eraseIdx n })
  | .remoteStoreLost n => lateStore s n
  | .walkStart w =>
    if (Tab.get? s.walkers w.val).isSome then none
    else (nextCourt s).map (fun x =>
      { s with walkers := Tab.set s.walkers w.val x.2.1, courtQ := Tab.set s.courtQ x.1 x.2.2, walkNext := (x.1 + 1) % 25 })
  | .walkComplete w =>
    match Tab.get? s.walkers w.val with
    | none => none
    | some m =>
      let s := { s with walkers := Tab.del s.walkers w.val }
      match walk s m.hm m.va m.kind with
      | (t, .error o) => some (netWake (m.who.foldl (fun t x => walkFailed t m o x) t))
      | (t, .ok e) =>
        let q := Tab.getD t.courtQ m.court []
        let t := { t with
          courtQ := Tab.set t.courtQ m.court (q.filter (fun x => !fills e x))
          courtTlb := if m.court < 24 then Tab.set t.courtTlb m.court (addCourtTlb (Tab.getD t.courtTlb m.court []) e)
            else t.courtTlb }
        some (netWake ((m.who ++ (q.filter (fills e)).flatMap Miss.who).foldl (fun t x => walkServed t e x) t))
  | .huddleMove c n =>
    let ns := huddleSlots s c.val n.val
    let ts := threadsIn s c.val ns
    let due := ts.any (fun t => rollbackWg s t.2.2.home && !t.2.2.escOk)
    if ns.any (fun m => !(slotAt s c.val m).loads.isEmpty) ∨ moveBarred s ts then none
    else
      match (ts.map (fun t => huddleGoal t.2.2)).dedup with
      | [some (some id)] => some (if due then askMoves s ts else moveHuddle (countMove s c.val ts) c.val ns id)
      | [some none] => some (if due then askMoves s ts else moveHome (countMove s c.val ts) c.val ns)
      | _ => none
  | .sleepExpiry c n l =>
    match threadAt s c.val n.val l.val with
    | none => none
    | some t =>
      match t.st with
      | .sleeping till =>
        takes (till ≤ clock s ∧ t.held = false) (meetings (modSlot s c.val n.val (fun w => mapThreads w (fun u =>
          if u.st = t.st ∧ u.pc = t.pc ∧ u.cbase = t.cbase then { u with st := .ready } else u))) c.val n.val)
      | _ => none
  | .nwaitPoll c n l =>
    match threadAt s c.val n.val l.val with
    | none => none
    | some t => match t.st with | .wait (.counter _) => some (modSlot s c.val n.val (polled t)) | _ => none
  | .asyncSignalForce c n l =>
    match threadAt s c.val n.val l.val with
    | none => none
    | some t => takes (t.pendSince + 2048 ≤ clock s ∧ mayDeliver t n.val = true) (deliverPending (splitRun s c.val n.val l.val) c.val n.val l.val)
  | _ => none

/-! ## Engines -/

def engineEvent (s : State) : Instr → Option State
  | .copyStart c n =>
    match copyAt s c.val n.val with
    | none => none
    | some e =>
      takes (e.st = .queued ∧ enginePaused s e.wg = false ∧
          (coreAt s c.val).copyQ.any (fun x => decide (x.2.wg = e.wg ∧ x.2.st = .queued ∧ x.2.seq < e.seq)) = false)
        (modCopy s c.val n.val (fun e => { e with st := .running }))
  | .copySectorDone c n =>
    match copyAt s c.val n.val with
    | none => none
    | some e =>
      takes (e.st = .running ∧ e.miss = none ∧ enginePaused s e.wg = false ∧
          (e.form ≠ .strm ∨ e.staged < e.consumed + strmAhead e.block))
        (if e.p = e.sectors then copyFull s c.val n.val e
         else if needsExtent e then readExtent s c.val n.val e
         else copySector s c.val n.val e)
  | .mmaStart c n =>
    match mtxAt s c.val n.val with
    | none => none
    | some e =>
      takes (e.st = .queued ∧ enginePaused s e.wg = false ∧ mtxBehind (coreAt s c.val) e = false)
        (match e.op with
         | .mma | .mmas => mmaBegin s c.val n.val e
         | .aclr => endMtx (zeroTile s e.wg e.tile) c.val n.val .completed
         | .acmt | .adsc => endMtx s c.val n.val .completed
         | .ald | .ast => modMtx s c.val n.val (fun e => { e with st := .running })
         | .mdrn => modMtx s c.val n.val (fun e => { e with st := .running, image := some (drainImage s e) }))
  | .mmaStep c n =>
    match mtxAt s c.val n.val with
    | none => none
    | some e =>
      let r := stepTile s e e.p
      let t := setFlags (setTile s e.wg e.tile 0 r.1) e.wg e.tile (tileFlags s e.wg e.tile ||| r.2)
      let t := creditEvent (bumpEvent t c.val 0x0D 1) c.val e.hm e.orig.top 0x0D 1
      let t := modMtx t c.val n.val (fun e => { e with p := e.p + 1 })
      takes (e.st = .running ∧ enginePaused s e.wg = false ∧ (e.op = .mma ∨ e.op = .mmas))
        (if e.p + 1 = mmaK e.block then endMtx t c.val n.val .completed else t)
  | .drainSectorDone c n =>
    match mtxAt s c.val n.val with
    | none => none
    | some e =>
      let j := pickSector s e.ahead e.p (mtxSectors e)
      takes (e.st = .running ∧ e.miss = none ∧ enginePaused s e.wg = false ∧ (e.op = .ald ∨ e.op = .ast ∨ e.op = .mdrn))
        (if e.p = mtxSectors e then mtxFull s c.val n.val e
         else
           match mtxSector s c.val e j with
           | (t, .error x) => mtxStop t c.val n.val e x
           | (t, .ok _) =>
             let r := wrote e.p e.ahead j
             let t := modMtx t c.val n.val (fun e => { e with p := r.1, ahead := r.2 })
             if r.1 = mtxSectors e then (match mtxAt t c.val n.val with | some e => mtxFull t c.val n.val e | none => t) else t)
  | _ => none

/-! ## The arbiter, saves, snapshots, errors -/

def systemEvent (s : State) : Instr → Option State
  | .placeTeam =>
    takes (s.host.throttle ≠ 4 ∧ s.host.bootStopped = false)
      (let t := ageDue s
       decideNext t (heldClass t (candidatesOf t)) (candidatesOf t))
  | .streamAgeing =>
    takes (agePeriod * (s.aged + 1) ≤ clock s)
      (let t := (streamNumbers s).foldl ageStream s
       { t with aged := t.aged + 1 })
  | .pageZeroingDone t =>
    some ((wgsOf s [t]).foldl (fun u h =>
      let w := wgAt u h
      let u := modWg u h (fun w => { w with zeroing := false })
      modCore u w.core (fun k => { k with pageMap := k.pageMap.map (fun e =>
        if field e.2 13 5 = firstSlot w ∧ field e.2 11 2 ≠ 0 then (e.1, e.2 &&& 0xFFFFFFEF) else e) })) s)
  | .saveForce t => some (forceDue s t (fun k => k != .debug))
  | .debugStopForce t => some (forceDue s t (fun k => k == .debug))
  | .counterSweep =>
    let base := field s.host.cntbase 12 40 * 4096
    let t := (List.range 303).foldl (fun t u =>
      (unitEvents u).foldl (fun t e => addTotal (clearCounter t u e) (base + 64 + 512 * u + 8 * e) (counterValue t u e)) t) s
    let t := addTotal t base 2
    takes (bitAt s.host.cntbase 0)
      { t with
        fresh := t.fresh + 1
        host := { t.host with swept := clock t } }
  | .stallSample c =>
    match sampleSlot (coreAt s c.val) with
    | none => none
    | some n =>
      if bitAt (coreAt s c.val).trcctl 2 = false then none
      else
        let t := modCore s c.val (fun k => { k with sampleNext := (n + 1) % 16 })
        if hasRight t (slotHm t c.val n) = false then some t
        else
          match sampleOf t c.val n with
          | none => some t
          | some (th, why, pc) =>
            some (traceRecord t c.val
              [(recHead 3 2 n c.val (slotHm t c.val n) (why * 2 ^ 25), pair th.pc pc), (cycOf t c.val, th.topFour)])
  | .errorDiscovery k a b =>
    some (match k with
      | .cleanSector => cleanSector s a b
      | .dirtyLine => dirtySector s a b
      | .hbmSector => badHbm s a
      | .tlb => dropTlb s a b
      | .directory => badDirectory s a
      | .pool =>
        if b < 64 then badPage s (a % 192) b
        else { s with badPages := (a % 192, b % 64) :: s.badPages }
      | .granule =>
        (match (coreAt s a).resvs.find? (fun r => decide (r.base ≤ b ∧ b < r.base + r.size)) with
         | some r => teamError s (wgAt s r.wg).team 9 a
         | none => report s 2 9 0 a devHm 0 0 0 0 0xFFFFFFFF)
      | .copyEntry =>
        (match copyAt s a b with
         | some e => if e.wg = a then umpireError s a else teamError s (wgAt s e.wg).team 0x0A a
         | none => s)
      | .pending => ownedEntry s (((Tab.get? s.launches a).filter Launch.child).map Launch.hm) 0x0B 0xFF
      | .queuePair => ownedEntry s ((Tab.get? s.qps a).map QP.hm) 0x0C 0xFF
      | .keyEntry => badKey s a
      | .launchQueue => badRecord s a
      | .counter => badCounter s a
      | .umpire => umpireError s (a % 192)
      | .routing => resetUnit s false
      | .clock => resetUnit s true
      | .teamState =>
        (match (slotAt s (a % 192) b).wg with
         | some h => if h = a % 192 then umpireError s h else teamError s (wgAt s h).team 0x0A (a % 192)
         | none => s)
      | .corrected => if a < 192 then bumpEvent s a 0x12 1 else if 256 ≤ a ∧ a < 264 then countUnit s a 2 1 else s
      | .assay u => mismatch s (a % 192) b u.toNat)
  | .hbmScrub sec bad => some (if bad then badHbm s sec else s)
  | .coreFence c =>
    let k := coreAt s c.val
    let t := modCore s c.val (fun k => { k with fenced := true })
    takes (k.fenced = false ∧ 8 ≤ (k.mismatches.filter (fun x => decide (clock s < x + 2 ^ 30))).length)
      (report ((teamsOn t c.val).foldl (fun t m => requestStop t m .fence false) t) 6 0 0 c.val devHm 0 0 0 0 0xFFFFFFFF)
  | .snapshotCommit m =>
    let g := rollbackGroup s m
    let hs := wgsOf s g
    let r := hs.foldl (fun r h => if r.2 then writeBank r.1 h else r) (s, true)
    let r := hs.foldl (fun r h =>
      if r.2 then writeCommit r.1 h ((((Tab.get? r.1.teams (wgAt r.1 h).team).map (fun m => m.snap.gen)).getD 0) + 1)
      else r) r
    let t := openEscapes (hs.foldl unkeep r.1) hs
    let moving := hs.any (fun h => (wgAt s h).slots.any (fun n => moveUnderWay s (wgAt s h).core n &&
      (threadsIn s (wgAt s h).core (huddleSlots s (wgAt s h).core n)).all (fun t => t.2.2.escOk)))
    takes (g.any (fun u => ((Tab.get? s.teams u).map (fun m => m.snap.writing)).getD false) = true ∧
        g.any (fun u => ((Tab.get? s.teams u).map Team.rolling).getD false) = false ∧ moving = false)
      (if r.2 = false then abandonSnapshot r.1 g hs
       else countGroup (g.foldl (fun u m => commitTeam (hs.foldl latchesIn t) u m) t) hs 0x10 (askerOf t g))
  | .rollback m =>
    let g := rollGroup s m
    takes (((Tab.get? s.teams m).map Team.rolling).getD false = true ∧ drained s (wgsOf s g) = true) (rollBack s g)
  | .unitResetDone clock =>
    some (fabricBack { s with host := { s.host with
      unitDown := (List.range 2).map (fun j => j != (if clock then 1 else 0) && s.host.unitDown.getD j false) } })
  | _ => none

end Sys2Proof.Claims
end

