-- ==== Sys2Proof/Claims/HostEvents.lean ====
section
/-!
DEFINITION. What the claims say of the events outside the cores (spec/15 to spec/20): the host's ports and registers,
start-up, power and temperature, the entries of the inbound ring, the fabric, the network, and kernel replay: when each takes
effect, and the state that it leaves.
-/

namespace Sys2Proof.Claims
open Sys2Proof.Machine

/-- A reading of the thermal monitor. -/
def reading (pkgw : Half) (hbm die : Byte) : Reading := { pkgw := pkgw, hbm := hbm, die := die }

/-- Whether a host port may use the lease's rights: it holds the lease, whose period runs, and in minimal mode it is port 0
(R435, R439, R452). -/
def rightful (s : State) (port : Bit) : Bool :=
  !leaseDue s && port == s.host.leaseAct && (!s.host.bootMin || port == 0)

/-- The state in which the host has acted through a port, whose flits count (R290). -/
def heard (s : State) (port : Bit) : State := countFlits s (300 + port.toNat)

/-- A flash command that the window accepts (R454): the right port, no command running, no reserved bit of FLADDR. -/
def flashAccepts (s : State) (port : Bit) : Bool :=
  !leaseDue s && (port == (if s.host.bootMin then 0 else s.host.leaseAct)) && s.host.flRun.isNone &&
    decide (s.host.fladdr.extractLsb' 0 12 = 0 ∧ s.host.fladdr.extractLsb' 24 40 = 0)

/-- The state with a flash command running on the page of FLADDR. -/
def flashBegins (s : State) (program : Bool) : State :=
  let run : FlashRun :=
    { program := program, page := (s.host.fladdr.extractLsb' 12 12).toNat,
      data := (List.range 512).map (fun i => Tab.getD s.host.flbuf i 0) }
  { s with host := { s.host with flRun := some run, flctl := s.host.flctl &&& 0x80 } }

/-- The state after an accepted change of the throttle state, which is reported (R458). -/
def throttled (s : State) (r : Reading) (cause new : Nat) : State :=
  let t := { s with host := { s.host with throttle := new, calmSince := s.now } }
  post t 0x09 0xFF devHm [r.word + BitVec.ofNat 64 (cause * 2 ^ 16 + new * 2 ^ 8 + s.host.throttle)]

/-- Where a port may train (R435, R443, R446, R452): never in minimal mode; Ethernet on ports 28 to 35, the load-store modes
with a valid device number, UALink with its upper bits zero. -/
def trainable (s : State) (p : Nat) (st : PortMode) : Bool :=
  match st with
  | .down => true
  | .ethernet => decide (28 ≤ p ∧ s.host.bootMin = false)
  | .uatin => decide (s.host.devno.getLsbD 12 = true ∧ s.host.bootMin = false)
  | .ualink => decide (s.host.devno.getLsbD 12 = true ∧ s.host.devno.extractLsb' 10 2 = 0 ∧ s.host.bootMin = false)

/-! ## Host ports, start-up, power -/

def hostEvent (s : State) : Instr → Option State
  | .launchCommit port q slot x =>
    takes (rightful s port = true ∧ s.host.bootStopped = false)
      (commitRecord { heard s port with window := Tab.set s.window (128 * q.toNat + 8 * slot.toNat + 7) x } q.toNat slot.toNat)
  | .renew port => takes (rightful s port = true) { heard s port with host := { s.host with leaseSince := s.now } }
  | .leaseExpiry =>
    let len := s.host.leasePeriod.toNat * 850000
    let n := (s.now - s.host.leaseSince) / len
    takes (s.host.leaseEn = true ∧ 1 ≤ n)
      (rewriteOutbound { s with host := { s.host with
        leaseAct := if n % 2 = 1 then ~~~s.host.leaseAct else s.host.leaseAct
        leaseTko := true
        leaseSince := s.host.leaseSince + n * len
        msix := s.host.msix ++ (List.range n).map (fun i => (if i % 2 = 0 then ~~~s.host.leaseAct else s.host.leaseAct, 1)) } })
  | .clearFails port x =>
    takes (leaseDue s = false ∧ s.host.bootMin = true ∧ port = 0 ∧ x = 0x5A)
      (boot 4 { heard s port with host := { s.host with bootFails := 0, reason := [] } })
  | .flashErase port => takes (flashAccepts s port = true) (flashBegins (heard s port) false)
  | .flashProgram port => takes (flashAccepts s port = true) (flashBegins (heard s port) true)
  | .flashEraseDone ok =>
    match s.host.flRun with
    | none => none
    | some r =>
      let sector := (List.range 16).map (fun i => 16 * (r.page / 16) + i)
      let t := { s with host := { s.host with flRun := none } }
      takes (r.program = false)
        (if ok then setPages t sector .erased
         else
           let u := setPages { t with fresh := s.fresh + 1 } sector (.undefined s.fresh)
           { u with host := { u.host with flctl := 0x480 } })
  | .flashProgramDone ok =>
    match s.host.flRun with
    | none => none
    | some r =>
      let t := { s with host := { s.host with flRun := none } }
      takes (r.program = true)
        (if ok then setPages t [r.page] (.data r.data)
         else
           let u := setPages { t with fresh := s.fresh + 1 } [r.page] (.undefined s.fresh)
           { u with host := { u.host with flctl := if Config.pick s.fresh % 2 = 0 then 0x180 else 0x480 } })
  | .registerWrite port off x =>
    takes (off.toNat % 8 = 0 ∧ rightful s port = true ∧ s.host.bootStopped = false ∧ off ≠ 0x10 ∧ off ≠ 0x108 ∧
        isFlashWindow off.toNat = false)
      (writeListed (heard s port) off.toNat x)
  | .outboundHeadAdvance port head =>
    takes (rightful s port = true ∧ s.host.bootStopped = false)
      (let t := { heard s port with host := { s.host with ohead := head } }
       drainOut t s.host.outHeld.length)
  | .hostMemoryAccess port write a data =>
    takes (leaseDue s = false ∧ (s.host.bootMin = false ∨ port = 0) ∧ s.host.bootStopped = false)
      (if write then
         (if a.toNat < 2 ^ 47 then (linePieces a.toNat data data.length).foldl (fun t p => hostWriteLine t p.1 p.2) (heard s port)
          else writeWindow (heard s port) port (a.toNat - 2 ^ 47) data)
       else
         let r := hostRead (heard s port) a.toNat data.length
         { r.1 with host := { r.1.host with hostOut := r.1.host.hostOut ++ [⟨port, r.2.1, r.2.2⟩] } })
  | .hostSnoop a write data =>
    some ((linePieces (2 ^ 48 + a.toNat) data data.length).foldl
      (fun t p => if write then hostOwnWrite t p.1 p.2 else writeBackLine t (p.1 / 64)) (hostLink s))
  | .hostPortDown port =>
    some (let t := ((s.lines.filter (fun e => isHost (64 * e.1) && e.2.port == port)).map Prod.fst).foldl discardLine s
          { t with host := { t.host with portsUp := t.host.portsUp.filter (fun p => p != port) } })
  | .deviceReset => some (boot 4 s)
  | .bootstOk =>
    takes (s.host.bootStage = 5 ∧ s.host.bootStopped = false ∧ s.now ≤ s.host.bootAt + 8500000000)
      { s with host := { s.host with
        bootOk := true
        bootFails := if s.host.bootMin then s.host.bootFails else 0
        reason := if s.host.bootMin then s.host.reason else [] } }
  | .firmwareTimeout =>
    takes (s.host.bootStage = 5 ∧ s.host.bootOk = false ∧ s.host.bootStopped = false ∧ s.host.bootAt + 8500000000 ≤ s.now)
      (if s.host.bootMin then stopMinimal s 6 else boot 4 (countFail s ⟨5, 6, 0xFF⟩))
  | .throttleStepDown pkgw hbm die =>
    let r := reading pkgw hbm die
    takes (powerHeld s = false ∧ s.host.throttle < 3 ∧ die.toNat ≤ 105 ∧ (s.host.plim.toNat < pkgw.toNat ∨ 95 < die.toNat ∨ 95 < hbm.toNat))
      (throttled (noteReading s r) r
        (if s.host.plim.toNat < pkgw.toNat then 1 else if 95 < die.toNat then 2 else 3) (s.host.throttle + 1))
  | .throttleT3 pkgw hbm die =>
    let r := reading pkgw hbm die
    takes (powerHeld s = false ∧ s.host.throttle < 3 ∧ 105 < die.toNat ∧ die.toNat ≤ 110) (throttled (noteReading s r) r 4 3)
  | .throttleT4 pkgw hbm die =>
    let r := reading pkgw hbm die
    let t := throttled (noteReading s r) r 5 4
    takes (powerHeld s = false ∧ s.host.throttle ≠ 4 ∧ 110 < die.toNat)
      (t.teams.foldl (fun t e => requestStop t e.1 .throttle false) t)
  | .throttleLeaveT4 pkgw hbm die =>
    let r := reading pkgw hbm die
    let t := throttled (noteReading s r) r 7 3
    takes (powerHeld s = false ∧ s.host.throttle = 4 ∧ (noteReading s r).host.coolSince + 85000000 ≤ s.now)
      { t with saved := t.saved.map (fun v => if v.why = .throttle then { v with eligible := true } else v) }
  | .throttleStepUp pkgw hbm die =>
    let r := reading pkgw hbm die
    takes (powerHeld s = false ∧ (s.host.throttle = 1 ∨ s.host.throttle = 2 ∨ s.host.throttle = 3) ∧
        (noteReading s r).host.calmSince + 8500000 ≤ s.now)
      (throttled (noteReading s r) r 6 (s.host.throttle - 1))
  | .tempRefresh pkgw hbm die =>
    let r := reading pkgw hbm die
    some (let t := noteReading s r
          { t with host := { t.host with temp := r.word } })
  | .uatinRequest r =>
    let t := countFlits s (264 + routePort (r.source.toNat * 2 ^ 39))
    if routingDown s = true ∨ portTakes s r = false then none else (admitted s r).map (fun hm => serveUatin (holdDesc t hm) r hm)
  | .uatinTimeout n =>
    if n < s.stores.length then lateStore s n else some { s with unanswered := s.stamp + 1 }
  | .flitReplay p =>
    some (countUnit { s with host := { s.host with
      portErr := Tab.set s.host.portErr p.val (Tab.getD s.host.portErr p.val 0 + 1) } } (264 + p.val) 2 1)
  | .portStateChange p st =>
    takes (trainable s p.val st = true)
      { s with
        fresh := s.fresh + 1
        host := { s.host with
          portst := Tab.set s.host.portst p.val st
          portWidth := Tab.set s.host.portWidth p.val (Config.freeBits 8 s.fresh)
          msix := s.host.msix ++ [(actPort s, 10)] } }
  | _ => none

/-! ## The inbound ring -/

/-- Ninal takes the next entry of the inbound ring, where its clock runs and the entry is one of a step: it acquires, IHEAD moves past it, and it has its effect. -/
def entryOf (s : State) (mine : List DWord → Bool) (f : State → List DWord → State) : Option State :=
  match inboundHead s with
  | none => none
  | some w =>
    let t := acquireRemote (hostLink s) devHm
    if clockStopped s = false ∧ 0x81 ≤ inType w ∧ inType w ≤ 0x89 ∧ mine w = true then
      some (f { t with host := { t.host with ihead := t.host.ihead + 1 } } w)
    else none

/-- Whether a team is being killed. -/
def isKilled (s : State) (t : Nat) : Bool := ((Tab.get? s.teams t).map Team.killed).getD false

/-- A team request that is well formed and names a resident team, or a saved one (R464). -/
def teamAsked (s : State) (op : Nat) : Option State :=
  entryOf s (fun w => inType w == 0x82 && (teamReqBad w || reqOp w == op)) (fun t w =>
    if teamReqBad w then answerTeam t w 5
    else
      match residentTeam t w, savedTeamOf t w, op with
      | some m, _, 1 => if isKilled t m then answerTeam t w 3 else requestStop t m .slice true
      | some m, _, 2 => if isKilled t m then answerTeam t w 3 else requestStop t m .spill true
      | some _, _, 3 => answerTeam t w 2
      | some m, _, _ => answerTeam (killTeam t m (killReason (BitVec.ofNat 8 (reqReason w))) false Blame.none) w 0
      | none, some v, 3 => { t with saved := t.saved.map (fun x => if x = v then { x with eligible := true, asks := x.asks + 1 } else x) }
      | none, some v, 4 => answerTeam (killSaved t v (killReason (BitVec.ofNat 8 (reqReason w)))) w 0
      | none, some _, _ => answerTeam t w 2
      | none, none, _ => answerTeam t w 1)

/-- A queue-pair entry of an operation: done where its checks hold, else refused and reported (R465). -/
def pairAsked (s : State) (op : Nat) (good : State → List DWord → Bool) (f : State → List DWord → State) : Option State :=
  entryOf s (fun w => inType w == 0x87 && (qpOp w == op || decide (qpOp w < 1 ∨ 5 < qpOp w))) (fun t w =>
    if qpReserved w = false ∧ good t w = true then f t w else refuseQp t w)

def ringEvent (s : State) : Instr → Option State
  | .serviceReply =>
    entryOf s (fun w => inType w == 0x81) (fun t w =>
      let c := callerCore t (inHm w) (w.getD 1 0) (inCore w)
      match place t c (inHm w) (w.getD 1 0) .write with
      | (u, .error _) => u
      | (u, .ok p) =>
        (answerCall u c (inHm w) p (w.getD 1 0) (field (w.getD 2 0) 0 32)
          [loWord (w.getD 3 0), hiWord (w.getD 3 0), loWord (w.getD 4 0), hiWord (w.getD 4 0)]).1)
  | .teamSave => teamAsked s 1
  | .teamSaveSpill => teamAsked s 2
  | .teamRestore => teamAsked s 3
  | .teamKill => teamAsked s 4
  | .debugStopRequest =>
    entryOf s (fun w => inType w == 0x83 && reqOp w != 2) (fun t w => if reqOp w = 1 then debugStop t w else t)
  | .debugResumeRequest =>
    entryOf s (fun w => inType w == 0x83 && reqOp w == 2) (fun t w =>
      match residentTeam t w with
      | some m => if ((Tab.get? t.teams m).map Team.halted).getD false then resumeTeams t (rollbackGroup t m) else t
      | none => t)
  | .revokeNotice => entryOf s (fun w => inType w == 0x84) (fun t w => revoke t (inHm w))
  | .kernelReplayRequest => entryOf s (fun w => inType w == 0x85) beginReplay
  | .contextTlbiRequest => entryOf s (fun w => inType w == 0x86) (fun t w => tlbiContext t (inHm w))
  | .qpOpen => pairAsked s 1 openGood (fun t w => { t with qps := Tab.set t.qps (qpIdx w) (newPair w) })
  | .qpClose => pairAsked s 2 closeGood (fun t w => closeByHost t (qpIdx w))
  | .setReceiveRing =>
    pairAsked s 3 ringGood (fun t w => modQp t (qpIdx w) (fun p =>
      { p with ring := qpAddr w, ringCount := (qpAux w).toNat, ringHead := 0 }))
  | .setMemoryKey =>
    pairAsked s 4 keyGood (fun t w =>
      { t with memKeys := Tab.set t.memKeys (qpIdx w) { hm := inHm w, gen := qpGen w, base := qpAddr w, len := qpAux w } })
  | .clearMemoryKey => pairAsked s 5 unkeyGood (fun t w => { t with memKeys := Tab.del t.memKeys (qpIdx w) })
  | .attestationRequest => entryOf s (fun w => inType w == 0x88) attest
  | .pageReply => entryOf s (fun w => inType w == 0x89) pageReply
  | .hostServiceRestart =>
    takes (clockStopped s = false) (
      let t := (List.range 192).foldl (fun t c =>
        (openCalls t c).foldl (fun t x =>
          match threadAt t c x.1 x.2 with
          | none => t
          | some u =>
            let w := wgAt t u.home
            if unserved t w.hm (mailboxAt t w u.tidx) (mailboxCid t c w u.tidx) (callDetail t c u == 2) then
              restartCall t c x.1 x.2
            else t) t) s
      let gs := t.saved.flatMap (fun v => v.images.map Prod.snd)
      gs.foldl (fun t g =>
        (g.slots.flatMap (fun e => e.2.threads.filterMap (fun u => match u.2.st with
          | .detached cause d => if cause = 0x70 then some (u.2.tidx, d == 2) else none
          | _ => none))).foldl (fun t i => restartSavedCall t g.wg i.1 i.2) t) t)
  | _ => none

/-! ## Network and kernel replay -/

/-- What a queue pair has still to do is done, one access after another. -/
def turned (s : State) (q : BitVec 12) : State := netRun s q.toNat (netTurns s q.toNat)

def netEvent (s : State) : Instr → Option State
  | .netTakeRequest q =>
    match qpAt s q.toNat with
    | none => none
    | some p =>
      takes (p.stopped = false ∧ p.err = false ∧ p.afresh.tails ≠ [] ∧ p.todo.any takesReq = false)
        (turned (modQp s q.toNat (fun p => { p.afresh with todo := p.todo ++ [.take] })) q)
  | .netAckReceive q cack bmap =>
    match pairReached s q.toNat with
    | none => none
    | some p =>
      let due := (p.packets.filter (fun k => !ackBit cack bmap k.psn)).filter (fun k =>
        reportsMissing cack bmap k.psn && (!k.reported || decide (k.sent + netTimeout ≤ s.now)))
      let told (ks : List NetPkt) : List NetPkt := (ks.filter (fun k => !ackBit cack bmap k.psn)).map (fun k =>
        if due.contains k then { k with reported := true } else k)
      let t := modQp s q.toNat (fun p =>
        { p with packets := told p.packets, ended := p.ended.filter (fun n => !ackBit cack bmap n) })
      some (turned (completeReqs (due.foldl (fun t k => again t q.toNat k) t) q.toNat) q)
  | .netRetransmitTimeout q n =>
    match (qpAt s q.toNat).bind (fun p => p.packets.find? (fun k => k.psn = n)) with
    | none => none
    | some k => takes (k.sent + netTimeout ≤ s.now) (turned (again s q.toNat k) q)
  | .netRefusalReceive q n =>
    match (pairReached s q.toNat).bind (fun p => p.packets.find? (fun k => k.psn = n)) with
    | none => none
    | some k => some (turned (endReq s q.toNat k.req 0x12) q)
  | .netPacketReceive k =>
    let t := countUnit s netUnit 2 1
    if netUp s k.port = false then none
    else
    match qpAt t k.qp.toNat with
    | none => some { t with netOut := t.netOut ++ [.refuse k.peer k.port k.back k.psn] }
    | some p =>
      if hasPsn p k.psn = true then some { t with netOut := t.netOut ++ [ackOf p] }
      else some (placePacket t k.qp.toNat p k)
  | .replayPassEnd =>
    match s.replay with
    | none => none
    | some r =>
      let l := Tab.get? s.launches r.launch
      let ds := (l.map Launch.digests).getD []
      let r1 := if r.pass = 0 then { r with digests0 := ds }
        else { r with mismatch := r.mismatch ++ (if ds = r.digests0 then [] else [r.pass]) }
      let t := storeCounts s r1
      let gone := ((Tab.get? t.launches r1.launch).map (fun l => l.cancelled || l.failed)).getD true
      takes (passOver s r = true ∧ clockStopped s = false)
        (if r1.passes ≤ r1.pass + 1 then finishReplay t r1
         else if gone then
           finishReplay { t with fresh := t.fresh + 1 } { r1 with status := 1 + BitVec.ofNat 8 ((Config.freeBits 8 t.fresh).toNat % 255) }
         else nextPass t r1)
  | .preImageCopied page =>
    match s.replay with
    | none => none
    | some r =>
      let left := r.copying.filter (fun p => p != page)
      let old := (List.range 256).filterMap (fun i =>
        (Tab.get? s.seals (256 * page + i)).map (fun x => (256 * page + i, x)))
      let t := devWrite (ownTraffic s (4096 * page) 4096 0) (r.area + 0x200000 + 4096 * r.pages.length)
        (readBytes s.mem (4096 * page) 4096)
      takes (page ∈ r.copying ∧ clockStopped s = false)
        (if r.pages.length < 65536 then
           { t with replay := t.replay.map (fun _ =>
             { r with copying := left, pages := r.pages ++ [page],
                      seals := old.foldl (fun u e => Tab.set u e.1 e.2) r.seals }) }
         else { s with replay := s.replay.map (fun _ => { r with copying := left, status := 0x01 }) })
  | _ => none

end Sys2Proof.Claims
end

