-- ==== Sys2Proof/Claims/Frame.lean ====
section
/-!
DEFINITION. The words in which frames, traps and invariants of the claims are stated: when nothing but the instruction acts, what
a path that traps leaves, when a warp's rows are apart, and which bytes an instruction stores to.
-/

namespace Sys2Proof.Claims
open Sys2Proof.Machine

/-! ## Nothing else acts -/

/-- The core of the issuing path writes no run records (R284, R286). -/
def Untraced (s : State) : Prop := (coreAt s s.iss.core).trcctl.getLsbD 1 = false

/-- No kernel replay is under way (R292). -/
def Unreplayed (s : State) : Prop := s.replay = none

/-- No asynchronous signal is pending in a lane of the issuing path (R239). -/
def Unsignalled (s : State) : Prop :=
  ∀ l ∈ pathLanes s, ∀ t, threadAt s s.iss.core s.iss.slot l = some t → t.pend52 = false ∧ t.pend71 = none

/-- A path on which only the instruction acts. -/
def Alone (s : State) : Prop := Untraced s ∧ Unreplayed s ∧ Unsignalled s

/-! ## Computing instructions -/

/-- The instructions that only compute, and what they do: the integer, floating-point and lane tables. -/
def computing (s : State) (i : Instr) : Option Plain :=
  match integerRule s i with
  | some p => some p
  | none =>
    match floatRule s i with
    | some p => some { sh := p.sh, rs := p.rs, f := p.out }
    | none => laneRule s i

/-- No active lane raises a floating-point condition that traps (R167). -/
def Undisturbed (s : State) (i : Instr) : Prop := ∀ p, floatRule s i = some p → p.quiet s

/-- Whether the result of an instruction is a uniform result (R122). -/
def uniformResult (s : State) (p : Plain) : Bool := p.sh.uni.getD (!p.sh.perLane && p.rs.all (srcUniform s))

/-- What a lane produces. -/
def Plain.out (p : Plain) (s : State) (l : Nat) : Out := p.f l (laneVals s p.rs l)

/-- A uniform result is the same in every active lane. -/
def Plain.agrees (p : Plain) (s : State) : Prop :=
  uniformResult s p = true → ∀ l ∈ act s p.sh, ∀ k ∈ act s p.sh, (p.out s l).val = (p.out s k).val

/-- A thread of the issuing slot as a computing instruction leaves it, before its meeting is looked at (R133, R167, R295): a lane of
the path stands at the next word, Ready where it has not exited, with its bit pushed and its flags raised, and stops there at a safe
point where its team is asked to save (R240). -/
def Plain.stepped (p : Plain) (s : State) (l : Nat) (th : Thread) : Thread :=
  if l ∈ pathLanes s then
    stopAt s p.sh.head.sp false
      { th with
        pc := wordAfter s p.sh.head
        pred := if p.sh.push then pushPred th.pred (decide (l ∈ act s p.sh) && (p.out s l).push) else th.pred
        fpstat := if l ∈ act s p.sh then th.fpstat ||| BitVec.ofNat 32 ((p.out s l).flags % 128) else th.fpstat
        st := if th.st = .exited then .exited else .ready
        kept := [], pass := none, cmpst := none, escOk := false }
  else th

/-- The issuing slot once the threads that have come to their meetings wait there (R172). -/
def Plain.gathered (p : Plain) (s : State) : Slot :=
  let w := slotAt s s.iss.core s.iss.slot
  { w with threads := w.threads.map (fun e => (e.1, arrive (p.stepped s e.1 e.2))) }

/-! ## Reserved bits of system registers (R4) -/

/-- The reserved bits of TRCCTL, of the counters' configurations, of ACCOWN's entries and of the watchpoints' controls are zero
(R119, R281, R284, R291). -/
def ReservedZero (s : State) : Prop :=
  (∀ c, (coreAt s c).trcctl &&& 0x000FFFFFFFFFFFFE = (coreAt s c).trcctl) ∧
    (∀ c n, let x := Tab.getD (coreAt s c).acfg n 0; x &&& 0xFFFFFFFC000000FF = x) ∧
    (∀ c n, let x := Tab.getD (coreAt s c).accown n 0; x &&& 0xBFFF = x) ∧
    ∀ n, let x := Tab.getD s.wpc n 0; x &&& 0xFFFFE007 = x

/-! ## Rows of a warp (R120, R121, R126) -/

/-- The rows of a warp are apart: its table of mappings is in order; every mapped register lies below the ceiling; a full one's row
is the warp's own, in the bank of its number, and no other register's; and the pages of the warp's rows are mapped, each once. -/
def RowsApart (s : State) (c n : Nat) : Prop :=
  Tab.ordered (slotAt s c n).vmap = true ∧ Tab.ordered (coreAt s c).pageMap = true ∧
    (∀ e ∈ (slotAt s c n).vmap, e.1 < ceiling s c n ∧
      match e.2.form with
      | .full r => firstRow s c n ≤ r ∧ r < firstRow s c n + ceiling s c n ∧ (r ^^^ n) % 8 = e.1 % 8
      | .uniform => True) ∧
    (∀ e ∈ (slotAt s c n).vmap, ∀ d ∈ (slotAt s c n).vmap, ∀ r, e.2.form = .full r → d.2.form = .full r → e = d) ∧
    (n ≠ 16 → ∀ r < firstRow s c n + ceiling s c n,
      (pageWith (coreAt s c) (firstSlot (wgAt s (slotWg s c n))) 1 (r / 128)).isSome = true)

/-- The v registers that an instruction's last reads release, and the s registers that they free (R123). -/
def lastVs (rs : List Rd) : List Nat := rs.flatMap lastV
def lastSs (rs : List Rd) : List Nat := rs.flatMap lastS

/-- The v registers, and the s registers, that a destination names. -/
def dstVs (d : Dst) (words : Nat) : List Nat := match d with | .v n => (List.range words).map (n.toNat + ·) | _ => []
def dstSs (d : Dst) (words : Nat) : List Nat := match d with | .s n => (List.range words).map (n.toNat + ·) | _ => []

/-! ## Traps (R220 to R224) -/

/-- Lanes of the issuing path have parked at the instruction: one entry of the dugout, free before, records them with a cause and
detail at the instruction's PC, and each of their threads is Parked in it there. -/
def ParkedAt (s t : State) (ls : List Nat) (cause detail : Byte) : Prop :=
  ∃ e d, Tab.get? (coreAt s s.iss.core).dugout e = none ∧ Tab.get? (coreAt t s.iss.core).dugout e = some d ∧
    d.cause = cause ∧ d.detail = detail ∧ d.pc = s.iss.pc ∧ d.lanes = maskOf ls ∧ d.slot = s.iss.slot ∧
    d.hm = slotHm s s.iss.core s.iss.slot ∧
    ∀ l ∈ ls, ∀ th, threadAt s s.iss.core s.iss.slot l = some th →
      ∃ th', threadAt t s.iss.core s.iss.slot l = some th' ∧ th'.st = .parked e ∧ th'.pc = s.iss.pc

/-- The dugout of the issuing core has room for one entry more, and the path is not the umpire's. -/
def MayPark (s : State) : Prop := s.iss.slot ≠ 16 ∧ (coreAt s s.iss.core).dugout.length < 32

/-- The first check on source reads that fails in a lane (R309, order 5): lost latches, dead registers, the ceiling. -/
def badRead (s : State) (sh : Shape) (rs : List Rd) (l : Nat) : Option (Byte × Byte) :=
  ((withPos rs).findSome? (fun p => latchCheck s l p.1 p.2)).or
    (((withPos rs).findSome? (fun p => deadCheck s l p.2)).or (destCheck s sh.dst sh.words))

/-- The privileged instructions (R311): the umpire's own, and those that name a register from 0x100 on. -/
def needsUmpire : Instr → Bool
  | .eret _ _ _ | .rply _ _ | .rplySig _ _ | .rplyDet _ _ _ | .park _ _ | .kill _ _ _ | .tlbiCtx _ _ | .tlbiRng _ _ _ _
  | .tlbiAll _ | .poolrdMap _ _ _ | .poolrdDat _ _ _ _ | .poolwrMap _ _ _ | .poolwrDat _ _ _ _ | .cpyp _ _ _
  | .svresp _ _ _ _ | .erst _ _ | .erstMtx _ _ | .erstNet _ _ | .erstFail _ _ _ | .erstFailMtx _ _ _ | .erstFailNet _ _ _
  | .keyld _ _ | .keyldClr _ | .hmchk _ _ _ | .racechkClr _ _ => true
  | .mfsr _ _ r | .mtsr _ _ r => umpireOnly r
  | _ => false

/-! ## Service calls and breakpoints (R235, R236, R413, R414, R421) -/

/-- A lane's mailbox, where its translation is held and succeeds. -/
def mailAt (t : State) (l : Nat) (kind : AccKind) : Option (State × Place) :=
  let w := wgAt t (homeIn t l)
  if xlateStalls t t.iss.core (hmIn t) (mailboxAt t w (((threadIn t l).map Thread.tidx).getD 0)) kind then none
  else
  match pathPlace t t.iss.core w.hm (mailboxAt t w (((threadIn t l).map Thread.tidx).getD 0)) kind with
  | (u, .ok p) => some (u, p)
  | (_, .error _) => none

/-- The first word of a lane's mailbox, and writing the mailbox from its start. -/
def mailRead (t : State) (l : Nat) : Option (State × Nat) :=
  match mailAt t l .read with
  | none => none
  | some (u, p) =>
    if answered u false p 8 = false then none
    else
      let r := readPlace u .home (slotHm u u.iss.core u.iss.slot) p false 8
      some (readNewest r.2 [homeIn u l] p.home 8, natOf r.1)
def mailPut (t : State) (p : Place) (bs : List Byte) : State :=
  writePlace t .home (slotHm t t.iss.core t.iss.slot) p false bs
def mailWrite (t : State) (l : Nat) (bs : List Byte) : Option State := (mailAt t l .write).map (fun r => mailPut r.1 r.2 bs)

/-- The arguments of a call: v2 to v9 in the caller's lane. -/
def callArgs (u : State) (l : Nat) : List Byte :=
  (List.range 8).flatMap (fun k => bytesOf 4 (frameV u u.iss.core u.iss.slot (2 + k) l).toNat)

/-- A call writes its mailbox: the next call id, NUM, ST = 01, its arguments, and no reply. -/
def callTurn (num : Nat) (l : Nat) (t : State) : Option (State × Out) :=
  match mailRead t l with
  | none => none
  | some (u, x) =>
    let cid := if x % 2 ^ 32 = 0xFFFFFFFF then 1 else x % 2 ^ 32 + 1
    match mailAt u l .write with
    | none => none
    | some (u, p) =>
      let g := homeIn u l
      if orderStalls u g .rel .sys then none
      else
        some (mailPut (endReplay (orderWork u g .rel .sys) g 0x03) p
          (bytesOf 8 (2 ^ 48 + num % 2 ^ 16 * 2 ^ 32 + cid) ++ callArgs u l ++ List.replicate 24 0), {})

/-- The instructions whose own effect is a trap: what they do before it, and its cause and detail. -/
def trapRule : Instr → Option (Acting × Byte × Byte)
  | .svc h a =>
    some ({ sh := bareShape h 0x3A1, rs := [rdI a 1], turn := fun l v => escapeAt l (callTurn (at0 v) l) }, 0x70, 0x01)
  | .svcq h =>
    some (
      { sh := bareShape h 0x3A2, rs := [rdI (.v 2 .none false) 1]
        turn := fun l v t =>
          match mailRead t l with
          | none => none
          | some (u, x) => (mailWrite u l (bytesOf 8 (2 ^ 48 + x % 2 ^ 48) ++ bytesOf 4 (at0 v))).map (fun u => (u, {})) }, 0x70, 0x02)
  | .bkpt h =>
    some (
      { sh := bareShape h 0x3C2, rs := []
        turn := fun l _ t => if (threadIn t l).bind Thread.pass = some .bkpt then none else some (t, {}) }, 0x60, 0x00)
  | _ => none

/-! ## The accesses that an instruction's lanes make -/

/-- The states in which lanes are performed, one after another, each with its lane. -/
def before {β : Type} (f : State → Nat → Option (State × β)) : State → List Nat → List (Nat × State)
  | _, [] => []
  | s, l :: r =>
    (l, s) :: (match f s l with | some x => before f x.1 r | none => [])
def turnStates (p : Acting) (s : State) : List (Nat × State) :=
  before (fun t l => p.turn l (laneVals s (readsOf p.sh.first p.rs l) l) t) (begun s) (act s p.sh)

/-- An access of a lane: the state that it is made in, its lane, its address and bytes, whether it reads and writes, and
whether it is checked for races (R79). -/
structure Reach (α : Type) where
  st : State
  lane : Nat
  va : α
  n : Nat
  rd : Bool
  wr : Bool
  chk : Bool

/-- The accesses of a lane, from its values and the state that the lanes before it left. -/
abbrev Reaches (α : Type) := Nat → List Nat → State → List (Reach α)

/-- One access at an address that the lane's values give. -/
def reachOne {α : Type} (f : List Nat → α) (n : Nat) (rd wr chk : Bool) : Reaches α :=
  fun l v t => [{ st := t, lane := l, va := f v, n := n, rd := rd, wr := wr, chk := chk }]

/-- The accesses of a lane of CMPST (R375): the pointer's, where the lane has no place yet, and the data's at its place. -/
def appendReach {α : Type} (s : State) (h : Head) (d : Dst) (rs : List Rd) (off : BitVec 30) (n : Nat) (o : AccOrd)
    (spad : Bool) (m : Nat) (ptr : Nat → α) (data : DWord → α) : Reaches α :=
  let ls := cmpstLanes s h d rs
  let base (l : Nat) : Nat := at0 (laneVals s rs (ls.headD l))
  let placeOf (t : State) (l : Nat) : Option CmpstPark := (threadAt t t.iss.core t.iss.slot l).bind Thread.cmpst
  let write (t : State) (l : Nat) : List (Reach α) :=
    match placeOf t l with
    | some p => [{ st := t, lane := l, va := data (p.base + BitVec.ofNat 64 (p.rank * n)), n := n, rd := false, wr := true, chk := raceChecked o }]
    | none => []
  fun l _ t =>
    if (placeOf t l).isSome then write t l
    else
      { st := t, lane := ls.headD l, va := ptr (base l), n := m, rd := true, wr := true, chk := true } ::
        (match movePointer t ls (ls.headD l) (base l) off n o spad with
         | some u => write u l
         | none => [])

/-- The global address, and the scratchpad address, of an access by its base's value. -/
def globalBy (off : BitVec 30) (v : List Nat) : DWord := globalAddr (at0 v) off
def spadBy (off : BitVec 30) (v : List Nat) : Word := spadAddr (at0 v) off

/-- Whether an access of an order is checked for races. -/
def chk (o : MOrder) (sc : Scope) : Bool := raceChecked (.marked o sc)

/-- The accesses to global memory of the lanes of an instruction that stores (R366 to R376); those to scratchpad have
none. -/
def globalReach (s : State) : Instr → Option (Reaches DWord)
  | .st _ _ off _ w o _ => some (reachOne (globalBy off) (bytesIn w) false true (raceChecked o))
  | .atomAdd _ _ _ off _ w o sc _ | .atomMin _ _ _ off _ w o sc _ | .atomMax _ _ _ off _ w o sc _
  | .atomAnd _ _ _ off _ w o sc _ | .atomOr _ _ _ off _ w o sc _ | .atomXor _ _ _ off _ w o sc _
  | .atomExch _ _ _ off _ w o sc _ | .atomCas _ _ _ off _ w o sc _ | .atomAddcl _ _ _ off _ w o sc _
  | .atomSubcl _ _ _ off _ w o sc _ | .atomFadd _ _ _ off _ w o sc _ | .atomFmin _ _ _ off _ w o sc _
  | .atomFmax _ _ _ off _ w o sc _ | .atomMinU _ _ _ off _ w o sc _ | .atomMaxU _ _ _ off _ w o sc _ =>
    some (reachOne (globalBy off) (bytesIn w) true true (chk o sc))
  | .redAdd _ _ off _ w o sc _ | .redMin _ _ off _ w o sc _ | .redMax _ _ off _ w o sc _ | .redAnd _ _ off _ w o sc _
  | .redOr _ _ off _ w o sc _ | .redXor _ _ off _ w o sc _ | .redAddcl _ _ off _ w o sc _
  | .redSubcl _ _ off _ w o sc _ | .redFadd _ _ off _ w o sc _ | .redFmin _ _ off _ w o sc _
  | .redFmax _ _ off _ w o sc _ | .redMinU _ _ off _ w o sc _ | .redMaxU _ _ off _ w o sc _ =>
    some (reachOne (globalBy off) (bytesIn w) true true (chk o sc))
  | .cmpst h d b off x w o spad =>
    some (if spad then fun _ _ _ => []
      else appendReach s h d [rdI (baseSrc b) 2, rdI (dataSrc x) (regsIn w)] off (bytesIn w) o false 8
        (fun x => globalAddr x off) (fun a => a))
  | .sts _ _ _ _ _ _ | .lds _ _ _ _ _ _ => some (fun _ _ _ => [])
  | .atomsAdd _ _ _ _ _ _ _ _ | .atomsMin _ _ _ _ _ _ _ _ | .atomsMax _ _ _ _ _ _ _ _ | .atomsAnd _ _ _ _ _ _ _ _
  | .atomsOr _ _ _ _ _ _ _ _ | .atomsXor _ _ _ _ _ _ _ _ | .atomsExch _ _ _ _ _ _ _ _ | .atomsCas _ _ _ _ _ _ _ _
  | .atomsAddcl _ _ _ _ _ _ _ _ | .atomsSubcl _ _ _ _ _ _ _ _ | .atomsFadd _ _ _ _ _ _ _ _
  | .atomsFmin _ _ _ _ _ _ _ _ | .atomsFmax _ _ _ _ _ _ _ _ | .atomsMinU _ _ _ _ _ _ _ _
  | .atomsMaxU _ _ _ _ _ _ _ _ => some (fun _ _ _ => [])
  | _ => none

/-- The accesses of LD. -/
def loadReach : Instr → Option (Reaches DWord)
  | .ld _ _ _ off w o _ => some (reachOne (globalBy off) (bytesIn w) true false (raceChecked o))
  | _ => none

/-- The accesses to scratchpad of the lanes of an instruction (R366 to R376). -/
def spadReach (s : State) : Instr → Option (Reaches Word)
  | .lds _ _ _ off w _ => some (reachOne (spadBy off) (bytesIn w) true false false)
  | .sts _ _ off _ w _ => some (reachOne (spadBy off) (bytesIn w) false true false)
  | .atomsAdd _ _ _ off _ w _ _ | .atomsMin _ _ _ off _ w _ _ | .atomsMax _ _ _ off _ w _ _ | .atomsAnd _ _ _ off _ w _ _
  | .atomsOr _ _ _ off _ w _ _ | .atomsXor _ _ _ off _ w _ _ | .atomsExch _ _ _ off _ w _ _ | .atomsCas _ _ _ off _ w _ _
  | .atomsAddcl _ _ _ off _ w _ _ | .atomsSubcl _ _ _ off _ w _ _ | .atomsFadd _ _ _ off _ w _ _
  | .atomsFmin _ _ _ off _ w _ _ | .atomsFmax _ _ _ off _ w _ _ | .atomsMinU _ _ _ off _ w _ _
  | .atomsMaxU _ _ _ off _ w _ _ => some (reachOne (spadBy off) (bytesIn w) true true false)
  | .cmpst h d b off x w o spad =>
    if spad then
      some (appendReach s h d [rdI (baseSrc b) 1, rdI (dataSrc x) (regsIn w)] off (bytesIn w) o true 4
        (fun x => spadAddr x off) (fun a => a.setWidth 32))
    else none
  | _ => none

/-- Whether an access is an escape (R266): a release store, an atomic, a CMPST. -/
def escapes : Instr → Bool
  | .ld _ _ _ _ _ _ _ | .lds _ _ _ _ _ _ => false
  | .st _ _ _ _ _ o _ | .sts _ _ _ _ _ o => isRelease o
  | _ => true

/-- A byte that a held remote line holds dirty: a write-back brings it home (R54). -/
def heldDirty (s : State) (a : Nat) : Bool :=
  match Tab.get? s.lines (a / 64) with
  | some l => l.copy.isSome && l.dirty.getLsbD (a % 64)
  | none => false

/-- An address is left alone by the accesses of a path's lanes: no translation of theirs marks a page-table entry there; no held
remote line holds it dirty, so that no write-back changes it; and, where they store, it is none of the bytes that they store to.
Another byte of a sector of local HBM that they store to must read as it stands under the key of the store: a sector has one
key (R44). -/
def LeftAlone (s : State) (p : Acting) (r : Reaches DWord) (a : Nat) : Prop :=
  heldDirty s a = false ∧
    ∀ e ∈ turnStates p s, ∀ x ∈ r e.1 (laneVals s (readsOf p.sh.first p.rs e.1) e.1) e.2, ∀ u pl,
      accessAt x.st x.lane x.va x.n x.rd x.wr x.chk = some (u, pl) →
        readByte u.mem a = readByte x.st.mem a ∧
        (x.wr = true → ¬(pl.home ≤ a ∧ a < pl.home + x.n) ∧
          (isLocal pl.home = true → (∃ b, pl.home ≤ b ∧ b < pl.home + x.n ∧ b / 16 = a / 16) →
            localView u (placeKey u (hmIn u) pl).2 a 1 = [readByte u.mem a]))

/-- A byte of a core's pool that stands in a scratchpad page and is none of the bytes that a path's lanes store to. -/
def SpadAlone (s : State) (p : Acting) (r : Reaches Word) (c a : Nat) : Prop :=
  field (Tab.getD (coreAt s c).pageMap (a / 16384) 0) 11 2 = 2 ∧
    ∀ e ∈ turnStates p s, ∀ x ∈ r e.1 (laneVals s (readsOf p.sh.first p.rs e.1) e.1) e.2, ∀ h o b,
      x.wr = true → spadPlace x.st x.lane x.va x.n = some (h, o) → spadAt x.st h o = some b →
        (wgAt x.st h).core = c → ¬(b ≤ a ∧ a < b + x.n)

/-- A scratchpad address names bytes of a workgroup's scratchpad (R46, R111), aligned or not. -/
def SpadFits (t : State) (l : Nat) (a : Word) (n : Nat) : Prop :=
  let own := homeIn t l
  let rank := (a.extractLsb' 28 4).toNat
  let h := if rank = 15 then own else (teamWgs t own).getD rank own
  (rank = 15 ∨ rank < 8 ∧ rank < (teamWgs t own).length) ∧ (a.extractLsb' 0 28).toNat + n ≤ (wgAt t h).spg * 16384

end Sys2Proof.Claims
end

