-- ==== Sys2Proof/Certificates/Slice0/Obligations.lean ====
section
/-!
DEFINITION. The statements for the provers. Each one's docstring names the rules of spec/ that it follows; what a statement owes to
a choice of the model is said there with its log entry.
-/

section Statements
open Sys2Proof Sys2Proof.Machine Sys2Proof.Claims

/-! ## Instructions complete with the results of the rules -/

/-- The integer instructions (R326 to R337): where the operands can be read, the instruction completes on its path, and
each active lane produces what the table `integerRule` gives: sums, products, shifts, fields, counts, addresses, copies and
comparisons. IADD to ICMP.I, MOV, SEL, MOVI. -/
def Obligations.IntegerInstructionsComplete : Prop :=
  ∀ (s : State) (i : Instr) (p : Plain), integerRule s i = some p → Readable s p.sh p.rs →
    exec i s = .next (plainly s p.sh p.rs p.f)

/-- The float instructions, conversions, float reductions and scans (R338 to R355, R359, R360, R167): where the operands can be
read and no lane raises an enabled condition, the instruction completes with the rounded results and the sticky flags that the
table `floatRule` gives. The values of EX2, LG2, SIN, COS, TANH and SIG are log entry 13's reading; NV of a fused product, the sign of a zero
sum and a reduction over one lane are log entry 16's. -/
def Obligations.FloatInstructionsComplete : Prop :=
  ∀ (s : State) (i : Instr) (p : Floating), floatRule s i = some p → Readable s p.sh p.rs → p.quiet s →
    exec i s = .next (plainly s p.sh p.rs p.out)

/-- The lane instructions, and the predicate, quantising and random instructions that only compute (R350 to R365): they complete
with the results and pushes that the table `laneRule` gives. -/
def Obligations.LaneInstructionsComplete : Prop :=
  ∀ (s : State) (i : Instr) (p : Plain), laneRule s i = some p → Readable s p.sh p.rs →
    exec i s = .next (plainly s p.sh p.rs p.f)

/-- PDROP, PSWP, PMOV to PRED, PLOG.rep and AMAX (R354, R363 to R365): they complete, having made the change that the table
`changeRule` gives in each active lane. -/
def Obligations.PredicateInstructionsComplete : Prop :=
  ∀ (s : State) (i : Instr) (p : Change), changeRule s i = some p → Readable s p.sh p.rs →
    exec i s = .next (completed s p.sh p.rs (p.done s) ((act s p.sh).map (fun l => (l, ({} : Out)))))

/-- Loads, stores, atomics, prefetches, cache control, fences and CMPST (R366 to R376): where each active lane's access passes its
checks, one lane after another, the instruction completes in the state that the lanes' accesses leave, by the table
`memoryRule`. Which pending stores of other workgroups a load reads is log entry 8's free choice, within the rules R60 to R67. -/
def Obligations.MemoryInstructionsComplete : Prop :=
  ∀ (s t : State) (i : Instr) (p : Acting) (outs : List (Nat × Out)), memoryRule s i = some p → Readable s p.sh p.rs →
    p.turns s = some (t, outs) → exec i s = .next (completed s p.sh p.rs t outs)

/-- The copy, stream, tag, guard, reservation, matrix and network instructions (R377 to R401): where each active lane's command is
accepted, the instruction completes with the commands queued, by the table `engineRule`. That ACLR, ACMT and ADSC act once for each home
workgroup of the path is log entry 19's choice, what NCANC does log entry 33's reading, the place of the stream check log entry 44's
choice, and that a command takes the lowest free entry log entry 10's. -/
def Obligations.EngineInstructionsComplete : Prop :=
  ∀ (s t : State) (i : Instr) (p : Acting) (outs : List (Nat × Out)), engineRule s i = some p → Readable s p.sh p.rs →
    p.turns s = some (t, outs) → exec i s = .next (completed s p.sh p.rs t outs)

/-- Branches, calls, meetings, exit, barriers, huddles, sleep, signals, launches, counters, regions and markers (R402 to R421): they
complete by the table `controlRule`. -/
def Obligations.ControlInstructionsComplete : Prop :=
  ∀ (s t : State) (i : Instr) (p : Ending) (outs : List (Nat × Out)), controlRule s i = some p →
    Readable s p.does.sh p.does.rs → p.does.turns s = some (t, outs) →
    exec i s = .next (p.after (completed s p.does.sh p.does.rs t outs))

/-- MFSR and MTSR (R317, R422, R423): they complete by the table `registerRule`; one that names a register from 0x100 on completes in
the umpire's slot. -/
def Obligations.SystemRegisterInstructionsComplete : Prop :=
  ∀ (s t : State) (i : Instr) (p : Acting × Bool) (outs : List (Nat × Out)), registerRule s i = some p →
    (p.2 = true → s.iss.slot = 16) → Readable s p.1.sh p.1.rs → p.1.turns s = some (t, outs) →
    exec i s = .next (completed s p.1.sh p.1.rs t outs)

/-- The privileged instructions in the umpire's slot (R424 to R432): they complete by the table `umpireRule`. That POOLRD of a page with
an uncorrected error meets it is log entry 23's choice; that POOLWR of a running workgroup's page leaves every value of that page free is
log entry 50's. -/
def Obligations.PrivilegedInstructionsComplete : Prop :=
  ∀ (s t : State) (i : Instr) (p : Ending) (outs : List (Nat × Out)), umpireRule s i = some p → s.iss.slot = 16 →
    Readable s p.does.sh p.does.rs → p.does.turns s = some (t, outs) →
    exec i s = .next (p.after (completed s p.does.sh p.does.rs t outs))

/-- SVC, SVCQ and BKPT (R235, R236, R413, R414, R421): their own effect is a trap. Each active lane writes its mailbox where it is a
call: SVC the whole of it, SVCQ its ST and the id alone. It then parks with cause 0x70 and detail 0x01 or 0x02, or with cause 0x60;
memory holds what the calls wrote. What ARG holds of a register without a value is a free value (log entry 9). -/
def Obligations.ServiceCallsAndBreakpointsTrap : Prop :=
  ∀ (s t : State) (i : Instr) (p : Acting) (c d : Byte) (outs : List (Nat × Out)), trapRule i = some (p, c, d) →
    Readable s p.sh p.rs → MayPark s → act s p.sh ≠ [] → p.turns s = some (t, outs) →
    ∃ u, exec i s = .next u ∧ ParkedAt s u (act s p.sh) c d ∧ (Alone s → u.mem = t.mem)

/-! ## Events take effect -/

/-- Choosing a run, returning fetches and loads, acknowledged and lost stores, walks, huddle moves, timers, counter polls and forced
signals (R29, R34, R173 to R176, R193 to R196, R216 to R219, R237, R241, R400, R412): each takes effect by the table
`issueEvent`. Which load returns and which value a lost store leaves are free choices (log entry 9); other clauses rest on log entry 6
(walks), 20 (barriers and huddles), 49 (the fate of a signalled thread's wait) and 50. -/
def Obligations.IssueEventsTakeEffect : Prop :=
  ∀ (s t : State) (i : Instr), issueEvent s i = some t → exec i s = .next t

/-- The engines' own steps (R88 to R105, R153 to R163, R382 to R395): each takes effect by the table `engineEvent`. That a step moves one
sector and which it is are log entry 19's choice, and that a command works on the tile it named when it was issued is log entry 26's. -/
def Obligations.EngineEventsTakeEffect : Prop :=
  ∀ (s t : State) (i : Instr), engineEvent s i = some t → exec i s = .next t

/-- The arbiter, forced saves and stops, the counter sweep, stall samples, errors and scrubs, fences, snapshots and rollbacks (R209 to
R215, R240, R256 to R272, R277, R288, R289): each takes effect by the table `systemEvent`. How an error names its place is log entry 23's
choice; what a rollback keeps is log entry 31's reading; that free resources are taken lowest first is log entry 10's choice. -/
def Obligations.SystemEventsTakeEffect : Prop :=
  ∀ (s t : State) (i : Instr), systemEvent s i = some t → exec i s = .next t

/-- The host's ports and registers, the lease, start-up, the flash, power and temperature, and the fabric (R204, R435 to R459): each
takes effect by the table `hostEvent`. The two HDM ranges are log entry 27's reading, the conditions of power, flash and boot log entry
34's, and which port a host access takes log entry 36's. -/
def Obligations.HostEventsTakeEffect : Prop :=
  ∀ (s t : State) (i : Instr), hostEvent s i = some t → exec i s = .next t

/-- The entries of the inbound ring (R235, R236, R257, R277, R282, R292, R440, R441, R456, R461, R464, R465): Ninal takes each, and it
has its effect, by the table `ringEvent`. The places of an entry's fields are log entry 22's choice, the call journal log entry 48's, and
that an entry of an undefined TYPE is passed over log entry 28's. -/
def Obligations.InboundEntriesTakeEffect : Prop :=
  ∀ (s t : State) (i : Instr), ringEvent s i = some t → exec i s = .next t

/-- The network engine's events, and the passes of a kernel replay (R292, R293, R398, R447, R448, R466): each takes effect by the table
`netEvent`. The layout of a replay's area is log entry 24's choice, and corners of the network engine are log entry 33's readings. -/
def Obligations.NetworkEventsTakeEffect : Prop :=
  ∀ (s t : State) (i : Instr), netEvent s i = some t → exec i s = .next t

/-! ## Traps -/

/-- A privileged instruction outside the umpire's slot traps every lane of its path with cause 0x02 (R309, R311), whatever its
guard. -/
def Obligations.PrivilegedTrapsOutsideUmpire : Prop :=
  ∀ (s : State) (i : Instr), needsUmpire i = true → MayPark s →
    ∃ t, exec i s = .next t ∧ ParkedAt s t (pathLanes s) 0x02 0x00

/-- A trap in the umpire's slot restarts Ninal on the core (R220, R231): KEYLD that is not fetched from the firmware region (R450), and any
computing instruction with a source that a lane cannot read. The restart takes away what the instruction's other lanes wrote in the
umpire's slot: they do nothing elsewhere. That such an instruction counts as issued is log entry 50's choice. -/
def Obligations.UmpireTrapRestartsNinal : Prop :=
  (∀ (s : State) (h : Head) (a : Src), s.iss.slot = 16 → fromFirmware s = false →
    exec (.keyld h a) s = .next (restartNinal (begun s) s.iss.core) ∧
    exec (.keyldClr h) s = .next (restartNinal (begun s) s.iss.core)) ∧
  ∀ (s : State) (i : Instr) (p : Plain) (l : Nat), computing s i = some p → s.iss.slot = 16 →
    loadWait s p.sh.dst p.sh.words p.rs = none → l ∈ act s p.sh → (badRead s p.sh p.rs l).isSome = true →
    exec i s = .next (restartNinal (countIssue (begun s) (begun s) p.rs) s.iss.core)

/-- A computing instruction whose active lanes all fail the same check on their source reads parks them with it (R309, R124, R129,
R120): first latches that are lost, cause 0x03; then registers that are dead, cause 0x04 with detail 0x01, 0x02 or 0x03. That a lost latch of
any source comes before a dead register of any, and the destination's ceiling last, is log entry 18's reading. -/
def Obligations.BadSourceTraps : Prop :=
  ∀ (s : State) (i : Instr) (p : Plain) (c d : Byte), computing s i = some p → MayPark s →
    loadWait s p.sh.dst p.sh.words p.rs = none → act s p.sh ≠ [] →
    (∀ l ∈ act s p.sh, badRead s p.sh p.rs l = some (c, d)) →
    ∃ t, exec i s = .next t ∧ ParkedAt s t (act s p.sh) c d

/-- An access to global memory or to scratchpad at an address that is not a multiple of its size traps with cause 0x12 (R46, R366, R367):
LD, ST, ATOM, RED and CMPST, whose pointer is 8 bytes or 4, after the check of canonical form; LDS, STS and ATOMS after the checks of
rank and offset. In a `.rollback` launch an escape comes first (R266). -/
def Obligations.MisalignedAccessTraps : Prop :=
  (∀ (s : State) (i : Instr) (p : Acting) (r : Reaches DWord), memoryRule s i = some p →
    (globalReach s i = some r ∨ loadReach i = some r) →
    (escapes i = false ∨ ∀ l, rollbackWg s (homeIn s l) = false) → Readable s p.sh p.rs → MayPark s → act s p.sh ≠ [] →
    (∀ l ∈ act s p.sh, ∃ x xs, r l (laneVals s (readsOf p.sh.first p.rs l) l) (begun s) = x :: xs ∧ x.va.toNat % x.n ≠ 0 ∧
      (isContext (hmIn s) = true → (descOf s (hmIn s)).v = true ∧ canonical x.va (descOf s (hmIn s)).l5 = true)) →
    ∃ t, exec i s = .next t ∧ ParkedAt s t (act s p.sh) 0x12 0x00 ∧ (Alone s → t.mem = s.mem)) ∧
  ∀ (s : State) (i : Instr) (p : Acting) (r : Reaches Word), memoryRule s i = some p → spadReach s i = some r →
    (escapes i = false ∨ ∀ l, rollbackWg s (homeIn s l) = false) → Readable s p.sh p.rs → MayPark s → act s p.sh ≠ [] →
    (∀ l ∈ act s p.sh, ∃ x xs, r l (laneVals s (readsOf p.sh.first p.rs l) l) (begun s) = x :: xs ∧ x.va.toNat % x.n ≠ 0 ∧
      SpadFits s l x.va x.n) →
    ∃ t, exec i s = .next t ∧ ParkedAt s t (act s p.sh) 0x12 0x00 ∧ (Alone s → t.mem = s.mem)

/-- A float instruction whose active lanes all raise an enabled condition with one cause parks them with it (R165, R167, R356): 0x20 for
NV, else 0x21 for DZ, else 0x22 for OF, by the first that is raised and enabled. No trapping lane's result is written and no flag of it
sets: its v registers, its FPSTAT and its PRED stay, and where the whole path traps so do the slot's s registers and the forms of its
v registers. -/
def Obligations.FloatConditionTraps : Prop :=
  ∀ (s : State) (i : Instr) (p : Floating) (c : Byte), floatRule s i = some p → Readable s p.sh p.rs → MayPark s →
    act s p.sh ≠ [] → (∀ l ∈ act s p.sh, p.trap s l = some c) →
    (∀ l ∈ act s p.sh, let x := (p.f l (laneVals s p.rs l)).1.x; let e := p.enables s l
      c = (if x.nv = true ∧ e.getLsbD 0 = true then 0x20 else if x.dz = true ∧ e.getLsbD 1 = true then 0x21 else 0x22)) ∧
    ∃ t, exec i s = .next t ∧ ParkedAt s t (act s p.sh) c 0x00 ∧
      (Alone s →
        let c := s.iss.core
        let n := s.iss.slot
        (RowsApart s c n → ∀ l ∈ act s p.sh, l < 32 → ∀ v, vWord t c n v l = vWord s c n v l) ∧
        (∀ l ∈ act s p.sh, ∀ th, threadAt s c n l = some th →
          ∃ th', threadAt t c n l = some th' ∧ th'.fpstat = th.fpstat ∧ th'.pred = th.pred) ∧
        (pathLanes s = act s p.sh →
          (slotAt t c n).vmap = (slotAt s c n).vmap ∧ (slotAt t c n).cells = (slotAt s c n).cells ∧
          (slotAt t c n).sregs = (slotAt s c n).sregs))

/-- Taking a trap (R222, R224): the lowest free entry of the dugout records the lanes, the PC, the cause and the detail; the 320 bytes
of its record stand in the umpire's scratchpad; each lane's thread is Parked at the PC and keeps the latch values that it read
(R130); other threads and memory stay. The list of addresses has at most 32 pages (NADDR is 0 to 32). That the entry is the lowest free one is log entry 10's choice. -/
def Obligations.TrapEntryRecordsThePath : Prop :=
  ∀ (s : State) (c n : Nat) (ls : List Nat) (t : TrapInfo) (pc : Word) (op : Nat) (addrs : List DWord)
    (kept : Nat → Tab DWord) (e : Nat), dugoutFree (coreAt s c) = some e → ls.Nodup → (pageAddrs addrs).length ≤ 32 →
    let u := parkGroup s c n ls t pc op addrs kept
    (∃ d, Tab.get? (coreAt u c).dugout e = some d ∧ d.slot = n ∧ d.lanes = maskOf ls ∧ d.pc = pc ∧ d.cause = t.cause ∧
      d.detail = t.detail ∧ d.hm = slotHm s c n ∧ d.addrs = pageAddrs addrs ∧
      ∀ p, pageWith (coreAt s c) 16 2 0 = some p →
        poolBytes (coreAt u c) (p * 16384 + 320 * e) 320 =
          wordsBytes (recordWords d (((threadAt s c n (ls.headD 0)).map Thread.cbase).getD 0)
            ((t.eng.map (fun x => x.2.2)).getD 0))) ∧
    (∀ j, j ≠ e → Tab.get? (coreAt u c).dugout j = Tab.get? (coreAt s c).dugout j) ∧
    (∀ l ∈ ls, ∀ th, threadAt s c n l = some th →
      threadAt u c n l = some { th with st := .parked e, pc := pc, kept := kept l }) ∧
    (∀ l, l ∉ ls → threadAt u c n l = threadAt s c n l) ∧ u.mem = s.mem

/-- Word 0 and the pair of words after it of a dugout record (R224): CAUSE, DETAIL, HM, SLOT, NADDR, LANES and PC stand in their
bits. -/
def Obligations.DugoutRecordFields : Prop :=
  ∀ (e : DugEntry) (cbase : DWord) (prog : Nat), e.slot < 32 → e.addrs.length ≤ 32 → e.qix < 64 →
    let w := recordWords e cbase prog
    (w.getD 0 0).extractLsb' 56 8 = e.cause ∧ (w.getD 0 0).extractLsb' 48 8 = e.detail ∧
    (w.getD 0 0).extractLsb' 34 14 = e.hm ∧ ((w.getD 0 0).extractLsb' 29 5).toNat = e.slot ∧
    (w.getD 0 0).getLsbD 28 = e.eng ∧ ((w.getD 0 0).extractLsb' 16 6).toNat = e.addrs.length ∧
    (w.getD 1 0).extractLsb' 32 32 = e.lanes ∧ (w.getD 1 0).extractLsb' 0 32 = e.pc ∧ w.getD 2 0 = cbase ∧ w.length = 40

/-- The registers of the dugout after a park (R225): where DGQH's SEL names the entry that the trap has taken, TCAUSE reads the cause and
the detail, TRPC the PC, TLANES the lanes, TADDR the first address or 0, TINFO word 0x18 of the record, and DGQH the selection and the
count of entries, with the oldest entry in use as HEAD. -/
def Obligations.TrapRegistersReadTheEntry : Prop :=
  ∀ (s : State) (c n l : Nat) (ls : List Nat) (t : TrapInfo) (pc : Word) (op : Nat) (addrs : List DWord) (kept : Nat → Tab DWord)
    (e : Nat), dugoutFree (coreAt s c) = some e → (coreAt s c).dgSel.toNat = e → (pageAddrs addrs).length ≤ 32 →
    let u := parkGroup s c n ls t pc op addrs kept
    let v := { u with iss := { u.iss with core := c, slot := 16 } }
    readReg v l .tcause = t.cause.toNat * 2 ^ 8 + t.detail.toNat ∧ readReg v l .trpc = pc.toNat ∧
    readReg v l .tlanes = (maskOf ls).toNat ∧
    readReg v l .taddr = (match pageAddrs addrs with | [] => 0 | a :: _ => a.toNat) ∧
    (∃ d, Tab.get? (coreAt u c).dugout e = some d ∧
      ∀ cbase prog, readReg v l .tinfo = ((recordWords d cbase prog).getD 3 0).toNat) ∧
    readReg v l .tinfo = op % 1024 * 2 ^ 16 + (if ((threadAt s c n (ls.headD 0)).bind Thread.handler).isSome then 2 ^ 11 else 0) +
      t.info.toNat % 2 ^ 11 ∧
    ∃ h d, readReg v l .dgqh = e * 2 ^ 16 + ((coreAt s c).dugout.length + 1) * 2 ^ 5 + h ∧ (h, d) ∈ (coreAt u c).dugout ∧
      ∀ x ∈ (coreAt u c).dugout, d.seq ≤ x.2.seq

/-- RPLY of an entry of another cause than a call, a breakpoint or a watchpoint (R226, R425): the entry frees, and the threads that
stood parked in its lanes are Ready at the PC where they parked. -/
def Obligations.ReplayResumesTheLanes : Prop :=
  ∀ (s : State) (c e : Nat) (d : DugEntry), entryAt s c e = some d → d.cause ≠ 0x70 → d.cause ≠ 0x60 → d.cause ≠ 0x61 →
    entryAt (replayEntry s c e) c e = none ∧
    ∀ l ∈ lanesOf d.lanes, ∀ th, threadAt s c d.slot l = some th → th.pc ≠ th.mr →
      ∃ th', threadAt (replayEntry s c e) c d.slot l = some th' ∧ th'.st = .ready ∧ th'.pc = th.pc ∧ th'.pass = none

/-! ## Frames -/

/-- What a computing instruction leaves unchanged (R326, R328, R363): where it completes and nothing else acts on the path, every
byte of memory stays; every field of the state but the cores stays; of the cores, only the issuing one changes, and of it
only the issuing slot, the issuing quarter, the pages and rows that hold v registers with their dirty bits (R268), and the event
counters. -/
def Obligations.ComputingChangesNothingElse : Prop :=
  ∀ (s t : State) (i : Instr) (p : Plain), computing s i = some p → Undisturbed s i → Readable s p.sh p.rs → Alone s →
    exec i s = .next t →
    let c := s.iss.core
    (∀ a, readByte t.mem a = readByte s.mem a) ∧ t = { s with cores := t.cores, fresh := s.fresh + 1 } ∧
    (∀ k, k ≠ c → coreAt t k = coreAt s k) ∧
    coreAt t c =
      { coreAt s c with
        slots := (coreAt t c).slots, quarters := (coreAt t c).quarters, pool := (coreAt t c).pool,
        cleanPool := (coreAt t c).cleanPool,
        umpRows := (coreAt t c).umpRows, events := (coreAt t c).events, acnt := (coreAt t c).acnt } ∧
    (∀ n, n ≠ s.iss.slot → slotAt t c n = slotAt s c n) ∧ (∀ q, q ≠ s.iss.quarter → quarterAt t c q = quarterAt s c q)

/-- The registers after a computing instruction (R122, R123, R125, R300, R313): each active lane's result stands in the destination's
v registers, low word first, or the last active lane's in its s registers; every other v register that is not released keeps its
value in every lane, and every other s register that is not freed stays. The rows of the warp are apart, and a uniform result is
one value. -/
def Obligations.ComputingWritesItsDestination : Prop :=
  ∀ (s t : State) (i : Instr) (p : Plain), computing s i = some p → Undisturbed s i → Readable s p.sh p.rs → Alone s →
    RowsApart s s.iss.core s.iss.slot → p.agrees s → exec i s = .next t →
    let c := s.iss.core
    let n := s.iss.slot
    (∀ k < p.sh.words, ∀ d, p.sh.dst = .v d → ∀ l ∈ act s p.sh,
      vWord t c n (d.toNat + k) l = BitVec.ofNat 32 ((p.out s l).val / 2 ^ (32 * k))) ∧
    (∀ k < p.sh.words, ∀ d, p.sh.dst = .s d → ∀ l, (act s p.sh).getLast? = some l →
      Tab.get? (slotAt t c n).sregs (d.toNat + k) = some (BitVec.ofNat 32 ((p.out s l).val / 2 ^ (32 * k)))) ∧
    (∀ v, v ∉ dstVs p.sh.dst p.sh.words → v ∉ lastVs p.rs →
      (∀ m, Tab.get? (slotAt s c n).vmap v = some m → m.rel &&& liveLanes (slotAt s c n) ≠ liveLanes (slotAt s c n)) →
      Tab.get? (slotAt t c n).vmap v = Tab.get? (slotAt s c n).vmap v ∧ ∀ l < 32, vWord t c n v l = vWord s c n v l) ∧
    ∀ r, r ∉ dstSs p.sh.dst p.sh.words → r ∉ lastSs p.rs →
      Tab.get? (slotAt t c n).sregs r = Tab.get? (slotAt s c n).sregs r

/-- The threads after a computing instruction (R133, R166, R167, R295, R363): every lane of the path, whether it passes the guard or not,
stands at the next word; where the instruction pushes, an active lane pushes its bit and another lane pushes 0; an active lane's
conditions join its sticky flags. Then a thread at its meeting waits there, a complete meeting releases its threads (R172), and a thread
whose team is asked to stop stops where the request lets it (R240, R277). Everything else of a thread stays; threads of other paths
change by meetings and stops alone, so that without either they do not change. -/
def Obligations.ComputingMovesItsThreads : Prop :=
  ∀ (s t : State) (i : Instr) (p : Plain), computing s i = some p → Undisturbed s i → Readable s p.sh p.rs → Alone s →
    exec i s = .next t → ∀ l th, threadAt s s.iss.core s.iss.slot l = some th →
    ∃ th', threadAt t s.iss.core s.iss.slot l = some th' ∧
      th' = stopAt s none false (depart (p.gathered s) (arrive (p.stepped s l th))) ∧
      (l ∉ pathLanes s → th.st ≠ .meeting → (th.st = .ready → th.mr ≠ 0xFFFFFFFF → th.pc ≠ th.mr) → stopOf s th.home = none → th' = th)

/-- The bytes of main memory that ST, ATOM, RED and CMPST leave unchanged (R366 to R376): where the instruction completes, every byte
outside the bytes that its lanes store to stays, but for the A and D bits that a translation sets (R30) and for remote bytes held dirty,
which a write-back brings home (R54). LDS, STS, ATOMS and the scratchpad form of CMPST store to none. A lane's address is the one that
the meaning computes. -/
def Obligations.StoresTouchOnlyTheirBytes : Prop :=
  ∀ (s t u : State) (i : Instr) (p : Acting) (r : Reaches DWord) (outs : List (Nat × Out)),
    memoryRule s i = some p → globalReach s i = some r → Readable s p.sh p.rs → Alone s → p.turns s = some (u, outs) →
    exec i s = .next t → ∀ a, LeftAlone s p r a → readByte t.mem a = readByte s.mem a

/-- LD changes no byte of memory (R366, R367), but for the A and D bits that a translation sets (R30) and for remote bytes held
dirty, which a write-back brings home (R54). -/
def Obligations.LoadsTouchNoMemory : Prop :=
  ∀ (s t u : State) (i : Instr) (p : Acting) (r : Reaches DWord) (outs : List (Nat × Out)),
    memoryRule s i = some p → loadReach i = some r → Readable s p.sh p.rs → Alone s → p.turns s = some (u, outs) →
    exec i s = .next t → ∀ a, LeftAlone s p r a → readByte t.mem a = readByte s.mem a

/-- The bytes of scratchpad that LDS, STS, ATOMS and the scratchpad form of CMPST leave unchanged (R46, R111, R366 to R376): where the
instruction completes, every byte of every scratchpad page outside the bytes that its lanes store to stays. -/
def Obligations.ScratchpadStoresTouchOnlyTheirBytes : Prop :=
  ∀ (s t u : State) (i : Instr) (p : Acting) (r : Reaches Word) (outs : List (Nat × Out)),
    memoryRule s i = some p → spadReach s i = some r → Readable s p.sh p.rs → Alone s → p.turns s = some (u, outs) →
    exec i s = .next t → ∀ c a, SpadAlone s p r c a → poolByte (coreAt t c) a = poolByte (coreAt s c) a

/-- A store into a sector of local HBM under a key (R42, R44, R49): the bytes read back under the key, every other byte reads under the
key as before, and under another key, or under the device's own, the sector reads as a value that nothing but the sector, its stored bytes
and the key fix; so does a sector stored under the device's own key, read under a context's. The device's own key is log entry 3's
choice. -/
def Obligations.SectorWritesReadBackUnderTheirKey : Prop :=
  ∀ (s : State) (key : Option (BitVec 128)) (a : Nat) (bs : List Byte), a % 16 + bs.length ≤ 16 → bs ≠ [] →
    locked s a = false →
    let t := writeInSector s key a bs
    localView t key a bs.length = bs ∧
    (∀ b, b < a ∨ a + bs.length ≤ b → localView t key b 1 = localView s key b 1) ∧
    (∀ b, b / 16 ≠ a / 16 → readByte t.mem b = readByte s.mem b) ∧
    ∀ k k', key = some k → k' ≠ k →
      sectorView t (some k') (a / 16) =
        bytesOf 16 (Config.staleSector t.host.tweak (k.toNat + 2) (BitVec.ofNat 128 (natOf (readBytes t.mem (16 * (a / 16)) 16)))
          (a / 16) k').toNat
    ∧ sectorView t none (a / 16) =
        bytesOf 16 (Config.staleSector t.host.tweak (k.toNat + 2) (BitVec.ofNat 128 (natOf (readBytes t.mem (16 * (a / 16)) 16)))
          (a / 16) Config.deviceKey).toNat
    ∧ ∀ j, sectorView (writeInSector s none a bs) (some j) (a / 16) =
        bytesOf 16 (Config.staleSector (writeInSector s none a bs).host.tweak 1
          (BitVec.ofNat 128 (natOf (readBytes (writeInSector s none a bs).mem (16 * (a / 16)) 16))) (a / 16) j).toNat

/-! ## Registers and latches -/

/-- The form that a write leaves a v register in (R121, R122): a uniform result that covers every live thread makes an absent or
uniform register uniform, and another result makes it full; a full one stays full in its row; the writing lanes leave its
release mask. -/
def Obligations.WriteChoosesTheForm : Prop :=
  ∀ (s : State) (c n v : Nat) (a : Word) (uni : Bool) (f : Nat → Word),
    let live := liveLanes (slotAt s c n)
    let covers := uni = true ∧ a &&& live = live
    let m := Tab.get? (slotAt (writeV s c n v a uni f) c n).vmap v
    (Tab.get? (slotAt s c n).vmap v = none →
      (covers → m = some { form := .uniform, rel := 0 }) ∧
      (¬covers → m = some { form := .full (allocRow s c n v), rel := 0 })) ∧
    (∀ r, Tab.get? (slotAt s c n).vmap v = some { form := .uniform, rel := r } →
      (covers → m = some { form := .uniform, rel := r &&& ~~~a }) ∧
      (¬covers → m = some { form := .full (allocRow s c n v), rel := r &&& ~~~a })) ∧
    ∀ row r, Tab.get? (slotAt s c n).vmap v = some { form := .full row, rel := r } →
      m = some { form := .full row, rel := r &&& ~~~a }

/-- A write of a v register keeps the rows of its warp apart, where the register lies below the ceiling (R120, R126), and so does every
computing instruction that completes. -/
def Obligations.WritesKeepRowsApart : Prop :=
  (∀ (s : State) (c n v : Nat) (a : Word) (uni : Bool) (f : Nat → Word), RowsApart s c n → v < ceiling s c n →
    RowsApart (writeV s c n v a uni f) c n ∧ RowsApart (freeV s c n v) c n) ∧
  ∀ (s t : State) (i : Instr) (p : Plain), computing s i = some p → Undisturbed s i → Readable s p.sh p.rs → Alone s →
    RowsApart s s.iss.core s.iss.slot → exec i s = .next t → RowsApart t s.iss.core s.iss.slot

/-- A source that R122 calls uniform gives every lane one value, where the warp is in no huddle and its lanes' home is its own
workgroup (R122, R181, R301). -/
def Obligations.UniformSourcesAgree : Prop :=
  ∀ (s : State) (r : Rd) (pos l k : Nat), srcUniform s r = true →
    homeOf s s.iss.core s.iss.slot l = slotWg s s.iss.core s.iss.slot →
    homeOf s s.iss.core s.iss.slot k = slotWg s s.iss.core s.iss.slot →
    srcVal s l pos r = srcVal s k pos r

/-- The last read of a v register (R123): lanes join its release mask; when the mask covers every live thread the register becomes
absent, and a read of it then raises 0x04 with detail 0x01, or 0x03 above the ceiling. -/
def Obligations.ReleaseFreesAtFullCover : Prop :=
  ∀ (s : State) (c n v : Nat) (a : Word) (m : VMap), Tab.ordered (slotAt s c n).vmap = true →
    Tab.get? (slotAt s c n).vmap v = some m →
    let live := liveLanes (slotAt s c n)
    let t := releaseV s c n v a
    ((m.rel ||| a) &&& live = live → Tab.get? (slotAt t c n).vmap v = none ∧
      ∀ l, deadV { t with iss := { t.iss with core := c, slot := n } } v l =
        some (0x04, if ceiling s c n ≤ v then 0x03 else 0x01)) ∧
    ((m.rel ||| a) &&& live ≠ live → Tab.get? (slotAt t c n).vmap v = some { m with rel := m.rel ||| a })

/-- An s register (R125): a write makes it valid with one value, which every lane reads; other s registers stay; and its release
makes it invalid, so that a read raises 0x04 with detail 0x01. -/
def Obligations.ScalarRegisterLifetime : Prop :=
  ∀ (s : State) (r : BitVec 6) (x : Word) (l pos : Nat) (last : Bool),
    let c := s.iss.core
    let n := s.iss.slot
    let t := writeS s c n r.toNat x
    srcVal t l pos (rdI (.s r last) 1) = x.toNat ∧ deadCheck t l (rdI (.s r last) 1) = none ∧
    (∀ q, q ≠ r.toNat → Tab.get? (slotAt t c n).sregs q = Tab.get? (slotAt s c n).sregs q) ∧
    deadCheck (freeS t c n r.toNat) l (rdI (.s r last) 1) = some (0x04, 0x01)

/-- A bypass latch (R128): a write gives each active lane its result; a lane that did not take part supplies zero or one of its earlier
results; the other latches stay. Which of them it supplies is free (log entry 9). -/
def Obligations.LatchTakesTheResults : Prop :=
  ∀ (s : State) (c q k : Nat) (res : Tab DWord) (x : Latch), (quarterAt s c q).latches[k]? = some x →
    ∃ y, (quarterAt (writeLatch s c q k res) c q).latches[k]? = some y ∧ y.valid = true ∧
      (∀ l v code, Tab.get? res l = some v → latchVal y l code = v) ∧
      (∀ l code, Tab.get? res l = none → latchVal y l code = 0 ∨ latchVal y l code ∈ Tab.getD x.hist l []) ∧
      ∀ j, j ≠ k → (quarterAt (writeLatch s c q k res) c q).latches[j]? = (quarterAt s c q).latches[j]?

/-- A guard and a push (R133): a guard p*d* passes in a lane whose bit *d* is 1, inverted by GN; a push puts its bit at depth 0, and the
bit at depth *d* goes to depth *d* + 1. -/
def Obligations.GuardsReadAndPushesShift : Prop :=
  (∀ (p : BitVec 8) (b : Bool) (d : Fin 8), (pushPred p b).getLsbD d.val = if d.val = 0 then b else p.getLsbD (d.val - 1)) ∧
  (∀ (p : BitVec 8) (neg : Bool) (d : Fin 7), guardPasses (.p neg d) p = (p.getLsbD d.val).xor neg) ∧
  ∀ p, guardPasses .always p = true

/-- The system registers (R317, R423): a write is read back at once, with the bits that the register's map lets be written: those of a
core and of the device; FPCTL, FPSTAT and CSP of a thread (R165, R166); BARMODE and AMX of a workgroup (R161, R200); SEL of DGQH and
DBGRIGHT, and the debug bits of the workgroup that SEL names (R225, R279); RACECHK, whose CLR empties the shadow records (R77). A write
of a read-only register changes nothing. -/
def Obligations.SystemRegistersReadBack : Prop :=
  ∀ (s : State) (l : Nat) (x : DWord),
    (∀ e ∈ [(SReg.hmark, 0x3FFF), (.savebase, 0xFFFFFFFFFFFFFFFF), (.ctxtab, 0xFFFFFFFFFFFFFFFF), (.keysel, 0x1FFF),
        (.trcctl, 0x000FFFFFFFFFFFFE)], readReg (writeReg s l e.1 x) l e.1 = (x &&& e.2).toNat) ∧
    (∀ n, readReg (writeReg s l (.wpa n) x) l (.wpa n) = x.toNat ∧
      readReg (writeReg s l (.wpc n) x) l (.wpc n) = (x &&& 0xFFFFE007).toNat) ∧
    (∀ n, readReg (writeReg s l (.acfg n) x) l (.acfg n) = (x &&& 0xFFFFFFFC000000FF).toNat ∧
      readReg (writeReg s l (.acnt n) x) l (.acnt n) = x.toNat) ∧
    (∀ n, readReg (writeReg s l (.accown n) x) l (.accown n) = (x &&& 0xBFFF).toNat) ∧
    (∀ r ∈ [SReg.cyc, .tagrdy, .gstate, .ctxid, .lndepth, .tcause, .trpc, .tlanes, .taddr, .tinfo, .trcwp], writeReg s l r x = s) ∧
    (∀ th, threadAt s s.iss.core s.iss.slot l = some th →
      readReg (writeReg s l .fpctl x) l .fpctl = (x &&& 7).toNat ∧
      readReg (writeReg s l .fpstat x) l .fpstat = (th.fpstat &&& ~~~(x.extractLsb' 0 32)).toNat ∧
      readReg (writeReg s l .csp x) l .csp = (x &&& 0xFFFFFFF8).toNat) ∧
    ((Tab.get? s.wgs (homeIn s l)).isSome = true →
      readReg (writeReg s l .barmode x) l .barmode = (x &&& 1).toNat ∧
      ∀ n, readReg (writeReg s l (.amx n) x) l (.amx n) = (x &&& 0xFFFFFFFF).toNat) ∧
    ((coreAt s s.iss.core).dugout.length ≤ 32 → readReg (writeReg s l .dgqh x) l .dgqh / 2 ^ 16 = (x.extractLsb' 16 5).toNat) ∧
    (let sel := (x.extractLsb' 16 5).toNat
     ((slotAt s s.iss.core sel).wg = none → readReg (writeReg s l .dbgright x) l .dbgright = sel * 2 ^ 16) ∧
     ∀ h w, (slotAt s s.iss.core sel).wg = some h → sel < 16 → Tab.get? s.wgs h = some w →
       readReg (writeReg s l .dbgright x) l .dbgright =
         sel * 2 ^ 16 + (if w.edit = true ∨ x.getLsbD 5 = true then 32 else 0) +
           (if (Tab.get? s.teams w.team).map Team.halted = some true then 16 else 0) + (if x.getLsbD 3 then 8 else 0)) ∧
    readReg (writeReg s l .racechk x) l .racechk = (x &&& 1).toNat ∧ (x.getLsbD 1 = true → (writeReg s l .racechk x).shadows = [])

/-- The registers that the umpire's accesses and walks go by (R38, R39, R254, R423): in the state after a write of HMARK the umpire's
accesses act under it, and after a write of CTXTAB the descriptor of context n is the 256 bytes at the new table's base + 256 × n, its
fields in their bits; a malformed one, or one with poison, is taken as V = 0 (R40; for poison, log entry 40). -/
def Obligations.HmarkAndCtxtabActAtOnce : Prop :=
  ∀ (s : State) (l : Nat) (x : DWord), s.iss.slot = 16 →
    accessHm (writeReg s l .hmark x) s.iss.core 16 = x.extractLsb' 0 14 ∧
    ∀ ctx,
      let base := x.toNat + 256 * ctx
      let w (i : Nat) : DWord := devWord s (base + 8 * i)
      let d := readDesc (writeReg s l .ctxtab x) ctx
      (descWellFormed w = true → poisonIn s base 256 = none →
        d.v = (w 0).getLsbD 0 ∧ d.l5 = (w 0).getLsbD 1 ∧ d.barmode = (w 0).getLsbD 2 ∧ d.rchk = (w 0).getLsbD 3 ∧
        d.dbg = (w 0).getLsbD 4 ∧ d.hold = (w 0).getLsbD 5 ∧ d.pclass = (w 0).extractLsb' 8 3 ∧
        d.root = ((w 1).extractLsb' 12 40).toNat * 4096 ∧ d.kidx = (w 2).extractLsb' 0 13 ∧ d.skidx = (w 2).extractLsb' 16 13 ∧
        d.skv = (w 2).getLsbD 29 ∧ d.sigbase = (w 3).extractLsb' 0 57 ∧ d.sigpc = (w 4).extractLsb' 0 32 ∧
        d.savebase = (w 5).extractLsb' 0 57 ∧ d.jrnl = (w 6).extractLsb' 0 52) ∧
      (descWellFormed w = false ∨ (poisonIn s base 256).isSome = true → d = Desc.invalid)

/-! ## Signals -/

/-- Delivering a signal to a thread that may take one (R237): its code base and PC become the handler's, MR is cleared, it is Ready and in
its handler at the frame's address, and v2 and v4:v5 hold the cause and detail, and that address. Where the frame's two lines have
translations that the core holds, to local HBM, the frame's 128 bytes stand there, under the key of each line. -/
def Obligations.SignalDeliveryEntersTheHandler : Prop :=
  ∀ (s : State) (c n l : Nat) (cause detail : Byte) (addr info : DWord) (async : Bool) (pc : Word) (th : Thread),
    threadAt s c n l = some th → l < 32 → th.handler = none →
    let w := wgAt s th.home
    let a := frameAt s w th.tidx
    let r := ctxWrite s c w.hm a (wordsBytes (frameWords s c n l th cause detail addr info async pc))
    let d := descOf s w.hm
    d.sigbase ≠ 0 → r.2 = true → RowsApart (leavePark r.1 c n l) c n → 6 ≤ ceiling r.1 c n →
    let t := deliverSignal s c n l cause detail addr info async pc
    (∃ th', threadAt t c n l = some th' ∧ th'.cbase = d.sigbase.setWidth 64 ∧ th'.pc = d.sigpc ∧ th'.mr = 0xFFFFFFFF ∧
      th'.handler = some a ∧ th'.st = .ready ∧ th'.csp = th.csp ∧ th'.pred = th.pred) ∧
    vWord t c n 2 l = BitVec.ofNat 32 (cause.toNat + 256 * detail.toNat) ∧
    vWord t c n 4 l = a.extractLsb' 0 32 ∧ vWord t c n 5 l = a.extractLsb' 32 32 ∧
    ∀ p q, let bs := wordsBytes (frameWords s c n l th cause detail addr info async pc)
      let v := writePlace s .home w.hm p false (bs.take 64)
      a.toNat % 64 = 0 → a.toNat + 128 ≤ 2 ^ 64 → place s c w.hm a .write = (s, .ok p) →
      place v c w.hm (BitVec.ofNat 64 (a.toNat + 64)) .write = (v, .ok q) → isLocal p.home = true → isLocal q.home = true →
      p.home % 64 = 0 → q.home % 64 = 0 → p.home ≠ q.home →
      (∀ b < 64, locked s (p.home + b) = false ∧ locked s (q.home + b) = false) →
      localView t (placeKey s w.hm p).2 p.home 64 = bs.take 64 ∧ localView t (placeKey v w.hm q).2 q.home 64 = bs.drop 64

/-- The words of a signal frame (R237): what SIGRET restores, the cause and what a handler may read of the trap, and which of v2, v4 and v5
held a value; the rest is zero. What the frame holds of a register without a value is a free value (log entry 9). -/
def Obligations.SignalFrameHoldsTheThread : Prop :=
  ∀ (s : State) (c n l : Nat) (th : Thread) (cause detail : Byte) (addr info : DWord) (async : Bool) (pc : Word),
    let w := frameWords s c n l th cause detail addr info async pc
    let word (i : Nat) : DWord := w.getD i 0
    w.length = 16 ∧ (word 0).extractLsb' 0 8 = cause ∧ (word 0).extractLsb' 8 8 = detail ∧ (word 0).getLsbD 16 = async ∧
    (word 0).extractLsb' 17 47 = 0 ∧ (word 1).extractLsb' 0 32 = pc ∧ (word 1).extractLsb' 32 32 = th.mr ∧
    (word 2).extractLsb' 0 32 = th.csp ∧ (word 2).extractLsb' 32 8 = th.pred ∧ (word 2).extractLsb' 40 5 = th.age ∧
    (word 2).extractLsb' 45 19 = 0 ∧ (word 3).extractLsb' 0 32 = th.fpstat ∧ (word 3).extractLsb' 32 32 = th.fpctl ∧
    word 4 = addr ∧ word 5 = info ∧ word 6 = th.cbase ∧ (word 7).extractLsb' 35 29 = 0 ∧
    (∀ e ∈ [(2, 0, (word 7).extractLsb' 0 32), (4, 1, (word 8).extractLsb' 0 32), (5, 2, (word 8).extractLsb' 32 32)],
      (word 7).getLsbD (32 + e.2.1) = holdsV s c n e.1 l ∧ (holdsV s c n e.1 l = true → e.2.2 = vWord s c n e.1 l)) ∧
    ∀ i, 9 ≤ i → word i = 0

/-- Returning from a signal (R238): PC, MR, CSP, PRED, AGE, FPCTL, FPSTAT and the code base come from the frame as it stands, without the
reserved bits of CSP, FPCTL and FPSTAT (R4), and the thread leaves its handler. Of v2, v4 and v5, one whose SVM bit is 1 receives the frame's
value in the lane, and one whose SVM bit is 0 is released there. -/
def Obligations.SignalReturnRestoresTheThread : Prop :=
  ∀ (s u : State) (c n l : Nat) (frame : DWord) (th : Thread) (bs : List Byte), threadAt s c n l = some th →
    ctxRead s c (wgAt s th.home).hm frame 128 = (u, some bs) →
    let word (i : Nat) : DWord := BitVec.ofNat 64 (natOf ((bs.drop (8 * i)).take 8))
    (returnSignal s c n l frame).2 = true ∧
    ∀ th0, threadAt u c n l = some th0 →
    ∃ th', threadAt (returnSignal s c n l frame).1 c n l = some th' ∧
      th'.pc = (word 1).extractLsb' 0 32 ∧ th'.mr = (word 1).extractLsb' 32 32 ∧ th'.csp = (word 2).extractLsb' 0 32 &&& 0xFFFFFFF8 ∧
      th'.pred = (word 2).extractLsb' 32 8 ∧ th'.age = (word 2).extractLsb' 40 5 ∧
      th'.fpstat = (word 3).extractLsb' 0 32 &&& 0x7F ∧ th'.fpctl = (word 3).extractLsb' 32 32 &&& 7 ∧
      th'.cbase = ((word 6).extractLsb' 0 57).setWidth 64 ∧ th'.handler = none ∧ th'.home = th.home ∧ th'.st = th0.st ∧
      (RowsApart u c n → 6 ≤ ceiling u c n → l < 32 →
        ∀ e ∈ [(2, 0, (word 7).extractLsb' 0 32), (4, 1, (word 8).extractLsb' 0 32), (5, 2, (word 8).extractLsb' 32 32)],
          let t := (returnSignal s c n l frame).1
          if (word 7).getLsbD (32 + e.2.1) then holdsV t c n e.1 l = true ∧ vWord t c n e.1 l = e.2.2 else holdsV t c n e.1 l = false)

/-! ## Rules of the whole machine -/

/-- A TLBI over one context (R37): what the V9 holds of every other context stays — entries of the core TLBs, the court TLBs and the network
engine's, table pointers and descriptor copies — and the context's own translations and descriptor copy are gone. A TLBI over a range
removes the context's translations and table pointers of the range, and no descriptor copy. -/
def Obligations.TlbiSparesOtherContexts : Prop :=
  ∀ (s : State) (hm : Hm), isContext hm = true →
    let t := tlbiContext s hm
    (∀ c e, e ∈ (coreAt t c).tlb ↔ e ∈ (coreAt s c).tlb ∧ e.hm ≠ hm) ∧
    (∀ k e, e ∈ Tab.getD t.courtTlb k [] ↔ e ∈ Tab.getD s.courtTlb k [] ∧ e.hm ≠ hm) ∧
    (∀ e, e ∈ t.netTlb ↔ e ∈ s.netTlb ∧ e.hm ≠ hm) ∧ (∀ e, e ∈ t.walkCache ↔ e ∈ s.walkCache ∧ e.hm ≠ hm) ∧
    Tab.get? t.descs hm.toNat = none ∧ (∀ x, x ≠ hm.toNat → Tab.get? t.descs x = Tab.get? s.descs x) ∧
    ∀ lo n, let r := tlbiRange s hm lo n
      (∀ e, e.hm ≠ hm →
        (∀ c, e ∈ (coreAt r c).tlb ↔ e ∈ (coreAt s c).tlb) ∧
        (∀ k, e ∈ Tab.getD r.courtTlb k [] ↔ e ∈ Tab.getD s.courtTlb k []) ∧ (e ∈ r.netTlb ↔ e ∈ s.netTlb)) ∧
      (∀ p, p.hm ≠ hm → (p ∈ r.walkCache ↔ p ∈ s.walkCache)) ∧ r.descs = s.descs ∧
      (0 < n → (∀ e, e.hm = hm → meets e lo n = true →
          (∀ c, e ∉ (coreAt r c).tlb) ∧ (∀ k, e ∉ Tab.getD r.courtTlb k []) ∧ e ∉ r.netTlb) ∧
        ∀ p, p.hm = hm → ptrMeets p lo n = true → p ∉ r.walkCache)

/-- The local HBM region (R21): 0x59_6800_0000 bytes, 5,722 blocks of 64 MiB; no address reaches past it, and local addresses from there
on are not backed. -/
def Obligations.LocalHbmEndsWhereTheRuleSays : Prop :=
  localSize = 0x5968000000 ∧ localSize = 5722 * (64 * 2 ^ 20) ∧
  (∀ (s : State) (pa a : Nat), homeAddr s pa = some a → isLocal a = true → a < 0x5968000000) ∧
  (∀ (s : State) (pa : Nat), pa < 0x5968000000 → homeAddr s pa = some pa) ∧
  ∀ (s : State) (pa : Nat), 0x5968000000 ≤ pa → pa ≤ 0xFFFFFFFFFFFF → homeAddr s pa = none

/-- The choice of a slot at a run boundary (R217): slot 16 takes part only on quarter 0; there it goes ahead of the user slots when it is
Ready, unless the previous run of the quarter was its own and a user slot of the quarter is Ready, which then issues. -/
def Obligations.UmpireIssuesAheadOfUsers : Prop :=
  ∀ (s : State) (c q : Nat),
    let users := [4 * q, 4 * q + 1, 4 * q + 2, 4 * q + 3].filter (slotReady s c)
    (∀ n, chooseSlot s c q = some n → (n ∈ users ∨ n = 16 ∧ q = 0) ∧ slotReady s c n = true) ∧
    (q = 0 → slotReady s c 16 = true → ((quarterAt s c 0).prevUmpire = false ∨ users = []) → chooseSlot s c q = some 16) ∧
    (q = 0 → (quarterAt s c 0).prevUmpire = true → users ≠ [] → ∃ n ∈ users, chooseSlot s c q = some n) ∧
    (chooseSlot s c q = none ↔ users = [] ∧ (q = 0 → slotReady s c 16 = false))

/-- The warps of a workgroup (R179, R180, R214): they take the first free user slots in the order of R214, warp by warp, and each slot
starts with the argument block's address, the record's ARGS times 64, in s0:s1, the workgroup's linear number in s2, its team rank in s3 and the launch's id
in s4, every other s register invalid. -/
def Obligations.WorkgroupTakesSlotsInOrder : Prop :=
  ∀ (s : State) (i : Nat) (la : Launch) (tm n k core h : Nat),
    let order := [0, 4, 8, 12, 1, 5, 9, 13, 2, 6, 10, 14, 3, 7, 11, 15]
    let mine := (order.filter (fun m => ((slotAt s core m).wg).isNone)).take ((la.nthreads + 31) / 32)
    let args : DWord := ((la.words.getD 1 0).extractLsb' 13 51).setWidth 64 <<< 6
    let t := placeWg s i la tm n k core h
    (wgAt t h).slots = mine ∧ (wgAt t h).number = n * la.tsize + k ∧ (wgAt t h).rank = k ∧
    ∀ j m, mine[j]? = some m →
      (slotAt t core m).wg = some h ∧ (slotAt t core m).widx = j ∧
      Tab.get? (slotAt t core m).sregs 0 = some (args.extractLsb' 0 32) ∧
      Tab.get? (slotAt t core m).sregs 1 = some (args.extractLsb' 32 32) ∧
      Tab.get? (slotAt t core m).sregs 2 = some (BitVec.ofNat 32 (n * la.tsize + k)) ∧
      Tab.get? (slotAt t core m).sregs 3 = some (BitVec.ofNat 32 k) ∧ Tab.get? (slotAt t core m).sregs 4 = some la.id ∧
      ∀ r, 5 ≤ r → Tab.get? (slotAt t core m).sregs r = none

/-- Launch ids (R208): a host launch's is its queue's number above the 23 bits of NEXT, with bit 31 clear; a child's has bit 31 set above
the low 31 bits of its sequence number. -/
def Obligations.LaunchIdsNameTheirQueues : Prop :=
  (∀ (q slot : Nat) (u : Queue) (ws : List DWord), q < 256 →
    (hostLaunch q slot u ws).id = (BitVec.ofNat 32 q <<< 23) ||| u.next.setWidth 32 ∧
    (hostLaunch q slot u ws).id.getLsbD 31 = false) ∧
  ∀ seq, childId seq = 0x80000000 ||| (BitVec.ofNat 32 seq &&& 0x7FFFFFFF)

/-! ## Reset -/

/-- The machine after a reset (R110, R205, R435, R438, R451, R454, R459): the values that the tables of spec/ state, with nothing running;
log entry 2 names the values that no rule gives, none of which stands here. -/
def Obligations.ResetHoldsTheStatedValues : Prop :=
  let h := State.reset.host
  h.devno = 0 ∧ h.cntbase = 0 ∧ h.leaseRej = 0 ∧ h.leasePeriod = 1000 ∧ h.leaseTko = false ∧ h.leaseEn = false ∧
  h.leaseAct = 0 ∧ h.flctl = 0 ∧ h.plim = 1600 ∧ h.throttle = 0 ∧ h.bootOk = false ∧ h.bootMin = false ∧
  (∀ c p, p < 60 → Tab.getD (coreAt State.reset c).pageMap p 0 = 0) ∧
  (∀ c p, 60 ≤ p → p < 64 → field (Tab.getD (coreAt State.reset c).pageMap p 0) 18 14 = 0x2000 ∧
    field (Tab.getD (coreAt State.reset c).pageMap p 0) 13 5 = 16 ∧
    field (Tab.getD (coreAt State.reset c).pageMap p 0) 5 6 = p - 60) ∧
  (∀ c, (coreAt State.reset c).hmark = 0x2000 ∧ dgqh State.reset (coreAt State.reset c) < 32) ∧
  State.reset.racechk = false ∧ State.reset.wgs = [] ∧ State.reset.teams = [] ∧ State.reset.launches = [] ∧ ReservedZero State.reset

/-- The canonical form of memory at reset; that an unlisted byte is stored as 0 is log entry 3's choice. -/
def Obligations.ResetMemoryIsCanonical : Prop := Memory.wf State.reset.mem = true ∧ ∀ a, readByte State.reset.mem a = 0

/-- The canonical form of memory is kept by every step, from every state that has it: addresses rise, and no entry equals what an unlisted
address reads as (log entry 3), so that equal memories are equal data. -/
def Obligations.StepsKeepMemoryCanonical : Prop :=
  ∀ s t : State, Memory.wf s.mem = true → step s = .next t → Memory.wf t.mem = true

/-- The reserved bits of TRCCTL, of the counters' configurations, of ACCOWN and of the watchpoints' controls stay zero (R4, R119, R281, R284,
R291): every step keeps them so, from every state that has them so, whatever an instruction, an event or a kernel replay writes. -/
def Obligations.StepsKeepReservedBitsZero : Prop := ∀ s t : State, ReservedZero s → step s = .next t → ReservedZero t

/-! ## Encoding -/

/-- A few words written out from the encoding tables (R299 to R306, R314, R404) decode to the instructions that they stand for; an
unassigned opcode, an executed mask word and a guard p7 inverted (a NOP with GN = 1 and GD = 7) are
refused by name. -/
def Obligations.WrittenWordsDecode : Prop :=
  let plain : Head := { guard := .always, eor := false, sp := none, stall := 0, yld := false }
  decodeTableWord 96 0xE15C00300C00040005000000 = some (.meet plain 5) ∧
  decodeTableWord 96 0xE00000300C00000000000003 = some (.bra { plain with guard := .p false 0 } 3 none) ∧
  decodeTableWord 96 0xE69C00300C00030000C00000 = some (.nop plain) ∧
  decodeWords 0xFFC00000000000000080C040 0 = .error .mask ∧
  decodeWords 0xE6BC00300C00030000C00000 0 = .error .guard ∧
  (∀ op : BitVec 10, formatOf op = none → op ≠ 0x3FF → ∀ r : BitVec 86, decodeWords (op ++ r) 0 = .error .unassigned)

/-- The decoder undoes the encoder (R294, R299 to R306, R314): for every well-formed instruction that has an encoding, with every operand at
every value that the encoding admits, and whatever bytes follow. -/
def Obligations.DecodeUndoesEncode : Prop :=
  ∀ (i : Instr) (r : List Byte), i.wf = true → i.form.isSome = true → decode (encode i ++ r) = .ok (i, r)

/-- What the decoder reads is well formed, and its encoding is the bytes that it was read from: each word has one meaning. -/
def Obligations.DecodeGivesWellFormed : Prop :=
  ∀ (bs r : List Byte) (i : Instr), decode bs = .ok (i, r) → i.wf = true ∧ encode i ++ r = bs

/-! ## The step -/

/-- A turn of a quarter whose path's words decode runs the decoded instruction (R216, R309): the step is the instruction's meaning on the path,
once time has passed and the fetch has been made; what follows from it is settled (log entry 1). -/
def Obligations.StepRunsTheDecodedInstruction : Prop :=
  ∀ (s : State) (c : Fin 192) (q : Fin 4) (r : List Action) (run : Run) (l : Nat) (ls : List Nat) (th : Thread) (i : Instr)
    (rest : List Byte), s.agenda = .issue c q :: r →
    let s1 := { tick s with agenda := r }
    (quarterAt s1 c.val q.val).frozen = none → clockStopped s1 = false → (quarterAt s1 c.val q.val).run = some run →
    snapping s1 (slotWg s1 c.val run.slot) = false → runLanesNow s1 c.val run = l :: ls → threadAt s1 c.val run.slot l = some th →
    let s2 := { s1 with iss := { core := c.val, quarter := q.val, slot := run.slot, lanes := maskOf (l :: ls), pc := th.pc } }
    let f := fetchInstr s2 c.val (slotHm s2 c.val run.slot) th.cbase th.pc
    f.2.trap = none → f.2.stall = false → f.2.missing = [] → decode f.2.bytes = .ok (i, rest) → step s = settled (exec i f.1)

/-- A word that does not decode traps every lane of the path with cause 0x01 and the detail of the failing check (R309, R310), as the path
stands. Which check a word with several failing ones reports is log entry 11's reading. -/
def Obligations.IllegalWordsTrap : Prop :=
  ∀ (s : State) (c : Fin 192) (q : Fin 4) (r : List Action) (run : Run) (l : Nat) (ls : List Nat) (th : Thread)
    (e : DecodeError), s.agenda = .issue c q :: r →
    let s1 := { tick s with agenda := r }
    (quarterAt s1 c.val q.val).frozen = none → clockStopped s1 = false → (quarterAt s1 c.val q.val).run = some run →
    snapping s1 (slotWg s1 c.val run.slot) = false → runLanesNow s1 c.val run = l :: ls → threadAt s1 c.val run.slot l = some th →
    let s2 := { s1 with iss := { core := c.val, quarter := q.val, slot := run.slot, lanes := maskOf (l :: ls), pc := th.pc } }
    let f := fetchInstr s2 c.val (slotHm s2 c.val run.slot) th.cbase th.pc
    f.2.trap = none → f.2.stall = false → f.2.missing = [] → decode f.2.bytes = .error e → MayPark f.1 →
    ∃ t, step s = .next (settle t) ∧ ParkedAt f.1 t (pathLanes f.1) 0x01 e.detail

/-- An event of the agenda takes place as its meaning says, the driver's write of a counter rewrites its entry (R182, log entry
47), Ninal deals with an item of its work (R230, log entry 4), another device refuses the next remote read (R445, log entry 54), and
another device's memory changes (R54, log entry 8); with an empty agenda the next action is a free choice (log entries 1 and 9). -/
def Obligations.StepTakesTheEvent : Prop :=
  (∀ (s : State) (i : Instr) (r : List Action), s.agenda = .ev i :: r → isEvent i = true →
    step s = settled (exec i { tick s with agenda := r })) ∧
  (∀ (s : State) (n : BitVec 12) (x : DWord) (r : List Action), s.agenda = .counterWrite n x :: r →
    step s = .next (settle (writeCounter { tick s with agenda := r } n x))) ∧
  (∀ (s : State) (c : Fin 192) (r : List Action), s.agenda = .ninal c :: r →
    step s = .next (settle (ninalPass { tick s with agenda := r } c.val))) ∧
  (∀ (s : State) (r : List Action), s.agenda = .remoteRefusal :: r →
    step s = .next (settle (refuseNext { tick s with agenda := r }))) ∧
  (∀ (s : State) (a : BitVec 52) (x : Byte) (r : List Action), s.agenda = .remoteWrite a x :: r →
    step s = .next (settle (changeRemote { tick s with agenda := r } a x))) ∧
  (∀ (s : State), s.agenda = [] → (∃ c q, step s = settled (issueStep exec (tick s) c q)) ∨
    (∃ i, isEvent i = true ∧ step s = settled (exec i (tick s))) ∨ step s = .next (tick s) ∨
    (∃ n x, step s = .next (settle (writeCounter (tick s) n x))) ∨ step s = .next (settle (refuseNext (tick s))) ∨
    (∃ a x, step s = .next (settle (changeRemote (tick s) a x))) ∨
    ∃ c : Fin 192, step s = .next (settle (ninalPass (tick s) c.val)))

/-- A counter that the driver writes holds the V, HM and VALUE written, with CANC clear (R182), and every other counter, and all that the
machine holds beside the table, stays (log entry 47). -/
def Obligations.CounterTableIsRewritten : Prop :=
  ∀ (s : State) (n : BitVec 12) (x : DWord),
    Tab.get? (writeCounter s n x).counters n.toNat =
      some { v := x.getLsbD 63, canc := false, hm := x.extractLsb' 48 14, value := x.extractLsb' 0 48 } ∧
    (∀ m, m ≠ n.toNat → Tab.get? (writeCounter s n x).counters m = Tab.get? s.counters m) ∧
    writeCounter s n x = { s with counters := (writeCounter s n x).counters }

end Statements
end

