-- ==== Sys2Proof/Laws/Tab.lean ====
section
/-!
SUPPORT. Reading a table after a change of it; the rising order of a table's numbers, which every change keeps.
-/

namespace Sys2Proof.Laws

variable {α : Type}

/-! ## Read after write -/

@[simp] theorem get?_nil (k : Nat) : Tab.get? ([] : Tab α) k = none := rfl

theorem get?_cons (j k : Nat) (x : α) (t : Tab α) :
    Tab.get? ((j, x) :: t) k = if j = k then some x else Tab.get? t k := rfl

@[simp] theorem get?_set (t : Tab α) (k j : Nat) (x : α) :
    Tab.get? (Tab.set t k x) j = if k = j then some x else Tab.get? t j := by
  induction t with
  | nil => simp [Tab.set, get?_cons]
  | cons e r ih =>
    obtain ⟨i, y⟩ := e
    unfold Tab.set
    split_ifs with h1 h2 <;> simp only [get?_cons, ih] <;> split_ifs <;> first | rfl | omega

@[simp] theorem get?_del (t : Tab α) (k j : Nat) :
    Tab.get? (Tab.del t k) j = if k = j then none else Tab.get? t j := by
  induction t with
  | nil => simp [Tab.del]
  | cons e r ih =>
    obtain ⟨i, y⟩ := e
    unfold Tab.del
    split_ifs with h1 h2 <;> simp only [get?_cons, ih] <;> split_ifs <;> first | rfl | omega

@[simp] theorem get?_put (t : Tab α) (k j : Nat) (o : Option α) :
    Tab.get? (Tab.put t k o) j = if k = j then o else Tab.get? t j := by
  cases o <;> simp [Tab.put]

@[simp] theorem get?_adjust (t : Tab α) (k j : Nat) (f : α → α) :
    Tab.get? (Tab.adjust t k f) j = if k = j then (Tab.get? t j).map f else Tab.get? t j := by
  induction t with
  | nil => simp [Tab.adjust]
  | cons e r ih =>
    obtain ⟨i, y⟩ := e
    unfold Tab.adjust at ih ⊢
    simp only [List.map_cons]
    split_ifs at ih ⊢ with h1 h2 h2 <;> simp only [get?_cons, ih] <;> split_ifs <;> first | rfl | omega

@[simp] theorem getD_set (t : Tab α) (k j : Nat) (x d : α) :
    Tab.getD (Tab.set t k x) j d = if k = j then x else Tab.getD t j d := by
  simp only [Tab.getD, get?_set]; split_ifs <;> rfl

@[simp] theorem getD_del (t : Tab α) (k j : Nat) (d : α) :
    Tab.getD (Tab.del t k) j d = if k = j then d else Tab.getD t j d := by
  simp only [Tab.getD, get?_del]; split_ifs <;> rfl

@[simp] theorem getD_put (t : Tab α) (k j : Nat) (o : Option α) (d : α) :
    Tab.getD (Tab.put t k o) j d = if k = j then o.getD d else Tab.getD t j d := by
  simp only [Tab.getD, get?_put]; split_ifs <;> rfl

/-! ## Rising order -/

/-- Rising order, seen from the head: every later number is greater. -/
theorem ordered_cons (j : Nat) (x : α) (t : Tab α) :
    Tab.ordered ((j, x) :: t) = true ↔ (∀ e ∈ t.head?, j < e.1) ∧ Tab.ordered t = true := by
  cases t with
  | nil => simp [Tab.ordered]
  | cons e r => simp [Tab.ordered]

theorem ordered_lt {j : Nat} {x : α} {t : Tab α} (h : Tab.ordered ((j, x) :: t) = true) : ∀ e ∈ t, j < e.1 := by
  induction t generalizing j x with
  | nil => simp
  | cons e r ih =>
    obtain ⟨i, y⟩ := e
    obtain ⟨h1, h2⟩ := (ordered_cons j x _).1 h
    intro e' he
    have hj : j < i := h1 (i, y) rfl
    rcases List.mem_cons.1 he with rfl | he
    · exact hj
    · exact lt_trans hj (ih h2 e' he)

theorem ordered_of_lt {j : Nat} {x : α} {t : Tab α} (h : ∀ e ∈ t, j < e.1) (ht : Tab.ordered t = true) :
    Tab.ordered ((j, x) :: t) = true :=
  (ordered_cons j x t).2 ⟨fun e he => h e (List.mem_of_mem_head? he), ht⟩

theorem ordered_tail {e : Nat × α} {t : Tab α} (h : Tab.ordered (e :: t) = true) : Tab.ordered t = true :=
  ((ordered_cons e.1 e.2 t).1 h).2

theorem mem_set {t : Tab α} {k : Nat} {x : α} {e : Nat × α} (h : e ∈ Tab.set t k x) : e = (k, x) ∨ e ∈ t := by
  induction t with
  | nil => simpa [Tab.set] using h
  | cons a r ih =>
    obtain ⟨i, y⟩ := a
    unfold Tab.set at h
    split_ifs at h <;> simp only [List.mem_cons] at h ⊢ <;> rcases h with h | h
    · exact .inl h
    · exact .inr h
    · exact .inl h
    · exact .inr (.inr h)
    · exact .inr (.inl h)
    · exact (ih h).elim .inl (fun h => .inr (.inr h))

theorem mem_del {t : Tab α} {k : Nat} {e : Nat × α} (h : e ∈ Tab.del t k) : e ∈ t := by
  induction t with
  | nil => simp [Tab.del] at h
  | cons a r ih =>
    obtain ⟨i, y⟩ := a
    unfold Tab.del at h
    split_ifs at h
    · exact List.mem_cons_of_mem _ (ih h)
    · rcases List.mem_cons.1 h with rfl | h
      · exact List.mem_cons_self
      · exact List.mem_cons_of_mem _ (ih h)

theorem ordered_set {t : Tab α} (k : Nat) (x : α) (h : Tab.ordered t = true) : Tab.ordered (Tab.set t k x) = true := by
  induction t with
  | nil => rfl
  | cons a r ih =>
    obtain ⟨i, y⟩ := a
    have hl := ordered_lt h
    unfold Tab.set
    split_ifs with h1 h2
    · exact ordered_of_lt (by
        intro e he
        rcases List.mem_cons.1 he with rfl | he
        · exact h1
        · exact lt_trans h1 (hl e he)) h
    · subst h2; exact ordered_of_lt hl (ordered_tail h)
    · refine ordered_of_lt ?_ (ih (ordered_tail h))
      intro e he
      rcases mem_set he with rfl | he
      · show i < k; omega
      · exact hl e he

theorem ordered_del {t : Tab α} (k : Nat) (h : Tab.ordered t = true) : Tab.ordered (Tab.del t k) = true := by
  induction t with
  | nil => rfl
  | cons a r ih =>
    obtain ⟨i, y⟩ := a
    unfold Tab.del
    split_ifs
    · exact ih (ordered_tail h)
    · exact ordered_of_lt (fun e he => ordered_lt h e (mem_del he)) (ih (ordered_tail h))

theorem ordered_filter {t : Tab α} (p : Nat × α → Bool) (h : Tab.ordered t = true) :
    Tab.ordered (t.filter p) = true := by
  induction t with
  | nil => rfl
  | cons a r ih =>
    simp only [List.filter_cons]
    split_ifs
    · exact ordered_of_lt (fun e he => ordered_lt h e (List.mem_of_mem_filter he)) (ih (ordered_tail h))
    · exact ih (ordered_tail h)

end Sys2Proof.Laws
end

