-- ==== Sys2Proof/Laws/Memory.lean ====
section
/-!
SUPPORT. Memory: a read after a write gives what was written and every other byte is left alone; the canonical form of
memory, which every memory operation keeps.
-/

namespace Sys2Proof.Laws
open Sys2Proof.Machine

/-! ## Read after write -/

@[simp] theorem readByte_writeByte (m : List Host.Cell) (a j : Nat) (b : Byte) :
    readByte (writeByte m a b) j = if a = j then b else readByte m j := by
  unfold readByte writeByte
  split_ifs with h1 h2 h2 <;> simp_all

@[simp] theorem readByte_writeBytes (m : List Host.Cell) (a j : Nat) (bs : List Byte) :
    readByte (writeBytes m a bs) j = if a ≤ j ∧ j < a + bs.length then bs.getD (j - a) 0 else readByte m j := by
  induction bs generalizing m a with
  | nil => simp [writeBytes]
  | cons b r ih =>
    simp only [writeBytes, ih, readByte_writeByte, List.length_cons]
    by_cases h : a = j
    · subst h; simp
    · by_cases h2 : a + 1 ≤ j ∧ j < a + 1 + r.length
      · have : j - a = (j - (a + 1)) + 1 := by omega
        rw [if_pos h2, if_pos (by omega), this, List.getD_cons_succ]
      · rw [if_neg h2, if_neg h, if_neg (by omega)]

@[simp] theorem length_readBytes (m : List Host.Cell) (a n : Nat) : (readBytes m a n).length = n := by
  induction n generalizing a with
  | zero => rfl
  | succ n ih => simp [readBytes, ih]

theorem getD_readBytes (m : List Host.Cell) (a n i : Nat) :
    (readBytes m a n).getD i 0 = if i < n then readByte m (a + i) else 0 := by
  induction n generalizing a i with
  | zero => simp [readBytes]
  | succ n ih =>
    cases i with
    | zero => simp [readBytes]
    | succ i =>
      simp only [readBytes, List.getD_cons_succ, ih, Nat.add_lt_add_iff_right]
      rw [show a + 1 + i = a + (i + 1) by omega]

theorem readBytes_writeBytes (m : List Host.Cell) (a : Nat) (bs : List Byte) :
    readBytes (writeBytes m a bs) a bs.length = bs := by
  refine List.ext_getElem (by simp) (fun i h1 h2 => ?_)
  have := getD_readBytes (writeBytes m a bs) a bs.length i
  rw [if_pos h2, readByte_writeBytes, if_pos (by omega), Nat.add_sub_cancel_left,
    List.getD_eq_getElem _ _ h1, List.getD_eq_getElem _ _ h2] at this
  exact this

theorem readBytes_congr (m m' : List Host.Cell) (a n : Nat)
    (h : ∀ j, a ≤ j → j < a + n → readByte m j = readByte m' j) : readBytes m a n = readBytes m' a n := by
  induction n generalizing a with
  | zero => rfl
  | succ n ih =>
    simp only [readBytes, h a (le_refl a) (by omega)]
    rw [ih (a + 1) (fun j h1 h2 => h j (by omega) (by omega))]

/-! ## The canonical form -/

theorem wf_nil : Memory.wf [] = true := rfl

theorem wf_iff (m : List Host.Cell) :
    Memory.wf m = true ↔ Tab.ordered m = true ∧ ∀ e ∈ m, e.2 ≠ 0 := by
  simp [Memory.wf, List.all_eq_true]

theorem wf_writeByte {m : List Host.Cell} (a : Nat) (b : Byte) (h : Memory.wf m = true) :
    Memory.wf (writeByte m a b) = true := by
  obtain ⟨h1, h2⟩ := (wf_iff m).1 h
  rw [wf_iff]
  unfold writeByte
  split_ifs with hb
  · exact ⟨ordered_del a h1, fun e he => h2 e (mem_del he)⟩
  · refine ⟨ordered_set a b h1, fun e he => ?_⟩
    rcases mem_set he with rfl | he
    · exact hb
    · exact h2 e he

theorem wf_writeBytes {m : List Host.Cell} (a : Nat) (bs : List Byte) (h : Memory.wf m = true) :
    Memory.wf (writeBytes m a bs) = true := by
  induction bs generalizing m a with
  | nil => exact h
  | cons b r ih => exact ih (a + 1) (wf_writeByte a b h)

theorem wf_filter {m : List Host.Cell} (p : Host.Cell → Bool) (h : Memory.wf m = true) :
    Memory.wf (m.filter p) = true := by
  obtain ⟨h1, h2⟩ := (wf_iff m).1 h
  exact (wf_iff _).2 ⟨ordered_filter p h1, fun e he => h2 e (List.mem_of_mem_filter he)⟩

/-- What keeps the canonical form in every element of a fold keeps it in the fold. -/
theorem wf_foldl {α : Type} (f : State → α → State) (ls : List α)
    (hf : ∀ s x, Memory.wf s.mem = true → Memory.wf (f s x).mem = true) (s : State) (h : Memory.wf s.mem = true) :
    Memory.wf (ls.foldl f s).mem = true := by
  induction ls generalizing s with
  | nil => exact h
  | cons x r ih => exact ih (f s x) (hf s x h)

section
variable {s : State} (h : Memory.wf s.mem = true)
include h

theorem wf_writeInSector (key : Option (BitVec 128)) (a : Nat) (bs : List Byte) :
    Memory.wf (writeInSector s key a bs).mem = true := by
  unfold writeInSector
  split_ifs
  · exact h
  all_goals first
    | exact wf_writeBytes _ _ h
    | exact wf_writeBytes _ _ (wf_writeBytes _ _ h)

/-! ### The caches leave memory alone but for write-backs -/

omit h in
theorem mem_countFlits (s : State) (u : Nat) : (countFlits s u).mem = s.mem := by
  unfold countFlits
  dsimp only
  split_ifs <;> rfl

omit h in
theorem mem_sendUatin (s : State) (hm : Hm) (op : UatinOp) (a size : Nat) (mask : DWord) (data : List Byte) :
    (sendUatin s hm op a size mask data).mem = s.mem := by
  unfold sendUatin
  split_ifs
  · rfl
  · exact mem_countFlits s _

omit h in
theorem mem_countStack (s : State) (ln e n : Nat) : (countStack s ln e n).mem = s.mem := by
  unfold countStack
  split_ifs <;> rfl

omit h in
theorem mem_hostLink (s : State) : (hostLink s).mem = s.mem := mem_countFlits s _

omit h in
theorem mem_fetchHome (s : State) (hm : Hm) (a n : Nat) : (fetchHome s hm a n).mem = s.mem := by
  unfold fetchHome
  split_ifs
  · exact mem_sendUatin ..
  · exact mem_hostLink _
  · exact mem_countStack ..

omit h in
theorem mem_storeHome (s : State) (hm : Hm) (ln : Nat) (mask : DWord) (data : List Byte) :
    (storeHome s hm ln mask data).mem = s.mem := by
  unfold storeHome
  split_ifs
  · exact mem_sendUatin ..
  · exact mem_hostLink _
  · exact mem_countStack ..

omit h in
/-- What keeps memory in every element of a fold keeps it in the fold. -/
theorem mem_foldl {α : Type} (f : State → α → State) (ls : List α) (hf : ∀ s x, (f s x).mem = s.mem) (s : State) :
    (ls.foldl f s).mem = s.mem := by
  induction ls generalizing s with
  | nil => rfl
  | cons x r ih => rw [List.foldl_cons, ih, hf]

omit h in
theorem mem_ownTraffic (s : State) (a n e : Nat) : (ownTraffic s a n e).mem = s.mem := by
  unfold ownTraffic
  split_ifs
  · exact mem_foldl _ _ (fun s _ => mem_hostLink s) s
  · exact mem_foldl _ _ (fun s _ => mem_countStack s ..) s

omit h in
theorem mem_recallBut (s : State) (keep : Option Nat) (ln : Nat) : (recallBut s keep ln).mem = s.mem := by
  unfold recallBut
  split
  · rfl
  · dsimp only
    split_ifs
    · rfl
    · refine (mem_foldl _ _ ?_ _).trans rfl
      intros; rfl

theorem wf_landed (ln : Nat) (l : Line) : Memory.wf (landed s ln l) = true := by
  unfold landed
  split
  · exact h
  · split_ifs
    · exact wf_writeBytes _ _ h
    · exact h

theorem wf_writeBackLine (ln : Nat) : Memory.wf (writeBackLine s ln).mem = true := by
  unfold writeBackLine
  split
  · exact h
  · dsimp only
    split_ifs
    · exact h
    · refine wf_foldl _ _ ?_ _ ?_
      · intro s' _ hs; exact hs
      · exact wf_landed (by rw [mem_storeHome]; exact h) _ _

omit h in
theorem mem_forgetLine (s : State) (ln : Nat) : (forgetLine s ln).mem = s.mem := by
  unfold forgetLine surface
  dsimp only
  split_ifs <;> rfl

theorem wf_dropLine (ln : Nat) : Memory.wf (dropLine s ln).mem = true := by
  unfold dropLine
  rw [mem_forgetLine]
  exact wf_writeBackLine (s := recallBut s none ln) (by rw [mem_recallBut]; exact h) ln

theorem wf_makeRoom (ln : Nat) : Memory.wf (makeRoom s ln).mem = true := by
  unfold makeRoom
  dsimp only
  split_ifs
  · exact h
  · exact wf_dropLine (s := { s with fresh := s.fresh + 1 }) h _

theorem wf_openLine (hm : Hm) (key : Option (BitVec 13)) (a : Nat) : Memory.wf (openLine s hm key a).mem = true := by
  have h1 : Memory.wf (match Tab.get? s.lines (a / 64) with
      | some l => if l.serves hm key a then s else dropLine s (a / 64)
      | none => s).mem = true := by
    split
    · split_ifs
      · exact h
      · exact wf_dropLine h _
    · exact h
  unfold openLine
  dsimp only
  split_ifs
  · exact h1
  · exact wf_makeRoom h1 _
  · exact wf_makeRoom h1 _

theorem wf_fillLine (hm : Hm) (key : Option (BitVec 13)) (a n : Nat) :
    Memory.wf (fillLine s hm key a n).mem = true := by
  have h1 := wf_openLine h hm key a
  unfold fillLine
  dsimp only
  split
  · exact h1
  · split_ifs
    · exact h1
    · dsimp only
      rw [mem_countStack]
      exact h1
    · dsimp only
      rw [mem_fetchHome]
      exact h1

theorem wf_discardSectors (ln : Nat) (secs : BitVec 4) : Memory.wf (discardSectors s ln secs).mem = true := by
  unfold discardSectors
  split
  · exact h
  · dsimp only
    split_ifs
    · unfold surface
      dsimp only
      split_ifs <;> exact h
    · exact wf_writeBytes _ _ h
    · exact wf_writeBytes _ _ h

theorem wf_discardLine (ln : Nat) : Memory.wf (discardLine s ln).mem = true := by
  unfold discardLine
  rw [mem_forgetLine]
  exact wf_discardSectors (by rw [mem_recallBut]; exact h) _ _

theorem wf_acquireRemote (hm : Hm) : Memory.wf (acquireRemote s hm).mem = true :=
  wf_foldl _ _ (fun _ _ hs => wf_dropLine hs _) _ h

theorem wf_releaseRemote (hm : Hm) : Memory.wf (releaseRemote s hm).mem = true :=
  wf_foldl _ _ (fun _ _ hs => wf_writeBackLine hs _) _ h

theorem wf_settleStores (p : Hm → Bool) : Memory.wf (settleStores s p).mem = true :=
  wf_foldl _ _ (fun _ _ hs => wf_writeBackLine hs _) _ h

omit h in
theorem mem_l1Put (s : State) (c : Nat) (hm : Hm) (key : Option (BitVec 13)) (hint : Hint) (ln : Nat)
    (secs dirty : BitVec 4) : (l1Put s c hm key hint ln secs dirty).mem = s.mem := by
  unfold l1Put
  dsimp only
  split_ifs <;> first | rfl | (split <;> rfl)

theorem wf_cacheRead (d : Door) (hm : Hm) (key : Option (BitVec 13)) (a n : Nat) :
    Memory.wf (cacheRead s d hm key a n).mem = true := by
  have h1 := wf_fillLine h hm key a n
  unfold cacheRead
  dsimp only
  split
  · split_ifs <;> first | exact h | exact h1 | (rw [mem_l1Put]; first | exact h | exact h1)
  · exact h1
  · exact h1
  · exact h1

theorem wf_cacheWrite (d : Door) (hm : Hm) (key : Option (BitVec 13)) (a : Nat) (bs : List Byte) :
    Memory.wf (cacheWrite s d hm key a bs).mem = true := by
  have h1 := wf_openLine h hm key a
  have h2 := wf_fillLine h hm key a bs.length
  unfold cacheWrite
  dsimp only
  split
  · exact h1
  · have h3 (b : Bool) (keep : Option Nat) : Memory.wf (dirtyLine (recallBut
        (if b = true then openLine s hm key a else fillLine s hm key a bs.length) keep (a / 64)) hm a bs).mem = true := by
      show Memory.wf (recallBut _ keep (a / 64)).mem = true
      rw [mem_recallBut]
      split_ifs
      · exact h1
      · exact h2
    have h4 (t : State) (c : Nat) (hint : Hint) (p : Prop) (_ : Decidable p) (ht : Memory.wf t.mem = true) :
        Memory.wf (if p then t else l1Put t c hm key hint (a / 64) (sectorBits a bs.length)
          (sectorBits a bs.length)).mem = true := by
      split_ifs
      · exact ht
      · rw [mem_l1Put]; exact ht
    cases d with
    | core c hint =>
      exact h4 _ c hint _ _ (h3 _ (some c))
    | net => exact h3 _ none
    | home => exact h3 _ none
    | atomic _ _ => exact h3 _ none

theorem wf_askHome (d : Door) (hm : Hm) (a n : Nat) : Memory.wf (askHome s d hm a n).mem = true := by
  have h1 := wf_dropLine h (a / 64)
  unfold askHome
  dsimp only
  split
  · split_ifs
    · rw [mem_sendUatin]; exact h1
    · rw [mem_fetchHome]; exact h1
  · rw [mem_fetchHome]; exact h1

theorem wf_tellHome (d : Door) (hm : Hm) (a : Nat) (bs : List Byte) : Memory.wf (tellHome s d hm a bs).mem = true := by
  have h1 := wf_dropLine h (a / 64)
  unfold tellHome
  dsimp only
  split
  · split_ifs
    · exact h1
    · rw [mem_storeHome]; exact h1
  · rw [mem_storeHome]; exact h1

theorem wf_homeRead (d : Door) (hm : Hm) (kidx : Option (BitVec 13)) (key : Option (BitVec 128)) (unc : Bool)
    (a n : Nat) : Memory.wf (homeRead s d hm kidx key unc a n).2.mem = true := by
  have h0 : Memory.wf (readHere s d a n).mem = true := h
  have h1 : Memory.wf (if unc = true then askHome (readHere s d a n) d hm a n
      else cacheRead (readHere s d a n) d hm kidx a n).mem = true := by
    split_ifs
    · exact wf_askHome h0 _ _ _ _
    · exact wf_cacheRead h0 _ _ _ _ _
  unfold homeRead
  dsimp only
  split
  · exact h1
  · split <;> exact h1

theorem wf_homeWriteOpen (d : Door) (hm : Hm) (kidx : Option (BitVec 13)) (key : Option (BitVec 128)) (unc : Bool)
    (a : Nat) (bs : List Byte) : Memory.wf (homeWriteOpen s d hm kidx key unc a bs).mem = true := by
  have h0 : Memory.wf (dropICache s (a / 64)).mem = true := h
  have h1 : Memory.wf (if unc = true then tellHome (dropICache s (a / 64)) d hm a bs
      else cacheWrite (dropICache s (a / 64)) d hm kidx a bs).mem = true := by
    split_ifs
    · exact wf_tellHome h0 _ _ _ _
    · exact wf_cacheWrite h0 _ _ _ _ _
  unfold homeWriteOpen
  dsimp only
  split
  · exact wf_foldl _ _ (fun _ _ hs => wf_writeInSector hs _ _ _) _ h1
  · generalize hu : (if unc = true then tellHome (dropICache s (a / 64)) d hm a bs
      else cacheWrite (dropICache s (a / 64)) d hm kidx a bs) = u at h1
    by_cases hc : (isRemote a && !(unc && carries (clearPoison u a bs) a)) = true
    · rw [if_pos hc]; exact h1
    · rw [if_neg hc]; exact wf_writeBytes _ _ h1

theorem wf_homeWrite (d : Door) (hm : Hm) (kidx : Option (BitVec 13)) (key : Option (BitVec 128)) (unc : Bool)
    (a : Nat) (bs : List Byte) : Memory.wf (homeWrite s d hm kidx key unc a bs).mem = true := by
  have h0 : Memory.wf (writeOver s a bs.length).mem = true := h
  unfold homeWrite
  dsimp only
  split_ifs
  · exact wf_foldl _ _ (fun _ p hs => wf_homeWriteOpen hs d hm kidx key unc p.1 p.2) _ h0
  · exact wf_homeWriteOpen h0 d hm kidx key unc a bs

theorem wf_devWrite (pa : Nat) (bs : List Byte) : Memory.wf (devWrite s pa bs).mem = true := by
  have h0 (a n : Nat) : Memory.wf (ownTraffic (dropICache (writeOver s a n) (a / 64)) a n 1).mem = true := by
    rw [mem_ownTraffic]; exact h
  unfold devWrite
  split
  · dsimp only
    split_ifs
    · exact wf_foldl _ _ (fun _ p hs => (wf_writeInSector hs none p.1 p.2 : _)) _ (h0 _ _)
    · exact wf_writeBytes _ _ (h0 _ _)
  · exact h

theorem wf_devPatch (pa : Nat) (bs : List Byte) : Memory.wf (devPatch s pa bs).mem = true := by
  unfold devPatch
  split
  · dsimp only
    split_ifs
    · rw [mem_ownTraffic]; exact h
    · exact wf_writeBytes _ _ (by rw [mem_ownTraffic]; exact h)
  · exact h

end

end Sys2Proof.Laws
end

