-- ==== Sys2Proof/Laws/Order.lean ====
section
/-!
SUPPORT. What a read that goes back through the pending stores does (R60 to R67, log entry 8).
-/

namespace Sys2Proof.Laws

open Sys2Proof.Machine

/-- A read that goes back through the pending stores leaves memory as it is; where none is pending it takes what memory holds. -/
theorem mem_readPast (s : State) (h : Nat) (t : Option Nat) (hm : Hm) (a : Nat) (bs : List Byte) :
    (readPast s h t hm a bs).2.mem = s.mem := by
  unfold readPast
  dsimp only
  split <;> rfl

theorem readPast_none (s : State) (h : Nat) (t : Option Nat) (hm : Hm) (a : Nat) (bs : List Byte) (hs : s.stores = []) :
    readPast s h t hm a bs = (bs, s) := by
  unfold readPast
  rw [hs]
  rfl

/-- A workgroup's thread reads its own store: a read that meets only stores of its own workgroup takes what memory holds. -/
theorem readPast_own (s : State) (h : Nat) (t : Option Nat) (hm : Hm) (a : Nat) (bs : List Byte)
    (hs : ∀ p ∈ s.stores, p.wg = h) : (readPast s h t hm a bs).1 = bs := by
  have key : ∀ ps : List PendStore, (∀ p ∈ ps, p.wg = h) → ∀ r : Past, r.bytes = bs →
      (ps.foldr (backPast s h t hm a) r).bytes = bs := by
    intro ps
    induction ps with
    | nil => intro _ r hr; exact hr
    | cons p ps ih =>
      intro hp r hr
      have h1 := ih (fun q hq => hp q (List.mem_cons_of_mem _ hq)) r hr
      have h2 : (p.wg == h) = true := by simp [hp p (List.mem_cons_self ..)]
      simp only [List.foldr_cons]
      unfold backPast
      dsimp only
      split
      · exact h1
      · simp only [h2, Bool.or_true, Bool.true_or, if_true]; exact h1
  unfold readPast
  dsimp only
  split
  · rfl
  · exact key s.stores hs _ rfl

/-- What an order does to which stores are performed, and read, leaves memory as it is. -/
theorem mem_showStores (s : State) (h : Nat) : (showStores s h).mem = s.mem := rfl
theorem mem_seeStores (s : State) (h : Nat) : (seeStores s h).mem = s.mem := rfl

end Sys2Proof.Laws
end

