-- ==== Sys2Proof/Laws/PerInstr.lean ====
section
/-!
SUPPORT. What the host asks of every instruction by name: how long its encoding is. An instruction of the encoding tables takes
one word of 12 bytes, or two at a safe point (R294, R314); an event of the machine takes none.
-/

/-- The length of an instruction's encoding, in bytes (R294, R314). -/
def Sys2Proof.Laws.EncodedLength.Statement (i : Sys2Proof.Instr) : Prop :=
  (Sys2Proof.encode i).length =
    match i.form with
    | none => 0
    | some (h, _) => if h.sp.isSome then 24 else 12

theorem Sys2Proof.Laws.length_bytesOf (n x : Nat) : (Sys2Proof.bytesOf n x).length = n := by
  induction n generalizing x with
  | zero => rfl
  | succ n ih => simp [Sys2Proof.bytesOf, ih]

theorem Sys2Proof.Laws.encodedLength (i : Sys2Proof.Instr) : Sys2Proof.Laws.EncodedLength.Statement i := by
  unfold Sys2Proof.Laws.EncodedLength.Statement Sys2Proof.encode Sys2Proof.Instr.words
  cases hf : i.form with
  | none => rfl
  | some x =>
    obtain ⟨h, f⟩ := x
    cases hs : h.sp <;> simp [Sys2Proof.Laws.length_bytesOf, hs]

theorem Sys2Proof.Laws.EncodedLength.iadd : ∀ h d a b t sat,
    Sys2Proof.Laws.EncodedLength.Statement (Sys2Proof.Instr.iadd h d a b t sat) := by
  intros; exact Sys2Proof.Laws.encodedLength _

theorem Sys2Proof.Laws.EncodedLength.isub : ∀ h d a b t sat,
    Sys2Proof.Laws.EncodedLength.Statement (Sys2Proof.Instr.isub h d a b t sat) := by
  intros; exact Sys2Proof.Laws.encodedLength _

theorem Sys2Proof.Laws.EncodedLength.imul : ∀ h d a b t sat,
    Sys2Proof.Laws.EncodedLength.Statement (Sys2Proof.Instr.imul h d a b t sat) := by
  intros; exact Sys2Proof.Laws.encodedLength _

theorem Sys2Proof.Laws.EncodedLength.imulh : ∀ h d a b t,
    Sys2Proof.Laws.EncodedLength.Statement (Sys2Proof.Instr.imulh h d a b t) := by
  intros; exact Sys2Proof.Laws.encodedLength _

theorem Sys2Proof.Laws.EncodedLength.imad : ∀ h d a b c t sat,
    Sys2Proof.Laws.EncodedLength.Statement (Sys2Proof.Instr.imad h d a b c t sat) := by
  intros; exact Sys2Proof.Laws.encodedLength _

theorem Sys2Proof.Laws.EncodedLength.imadw : ∀ h d a b c signed sat,
    Sys2Proof.Laws.EncodedLength.Statement (Sys2Proof.Instr.imadw h d a b c signed sat) := by
  intros; exact Sys2Proof.Laws.encodedLength _

theorem Sys2Proof.Laws.EncodedLength.imin : ∀ h d a b t,
    Sys2Proof.Laws.EncodedLength.Statement (Sys2Proof.Instr.imin h d a b t) := by
  intros; exact Sys2Proof.Laws.encodedLength _

theorem Sys2Proof.Laws.EncodedLength.imax : ∀ h d a b t,
    Sys2Proof.Laws.EncodedLength.Statement (Sys2Proof.Instr.imax h d a b t) := by
  intros; exact Sys2Proof.Laws.encodedLength _

theorem Sys2Proof.Laws.EncodedLength.iabs : ∀ h d a w sat,
    Sys2Proof.Laws.EncodedLength.Statement (Sys2Proof.Instr.iabs h d a w sat) := by
  intros; exact Sys2Proof.Laws.encodedLength _

theorem Sys2Proof.Laws.EncodedLength.ineg : ∀ h d a t sat,
    Sys2Proof.Laws.EncodedLength.Statement (Sys2Proof.Instr.ineg h d a t sat) := by
  intros; exact Sys2Proof.Laws.encodedLength _

theorem Sys2Proof.Laws.EncodedLength.isad : ∀ h d a b c t sat,
    Sys2Proof.Laws.EncodedLength.Statement (Sys2Proof.Instr.isad h d a b c t sat) := by
  intros; exact Sys2Proof.Laws.encodedLength _

theorem Sys2Proof.Laws.EncodedLength.and : ∀ h d a b w,
    Sys2Proof.Laws.EncodedLength.Statement (Sys2Proof.Instr.and h d a b w) := by
  intros; exact Sys2Proof.Laws.encodedLength _

theorem Sys2Proof.Laws.EncodedLength.or : ∀ h d a b w,
    Sys2Proof.Laws.EncodedLength.Statement (Sys2Proof.Instr.or h d a b w) := by
  intros; exact Sys2Proof.Laws.encodedLength _

theorem Sys2Proof.Laws.EncodedLength.xor : ∀ h d a b w,
    Sys2Proof.Laws.EncodedLength.Statement (Sys2Proof.Instr.xor h d a b w) := by
  intros; exact Sys2Proof.Laws.encodedLength _

theorem Sys2Proof.Laws.EncodedLength.not : ∀ h d a w,
    Sys2Proof.Laws.EncodedLength.Statement (Sys2Proof.Instr.not h d a w) := by
  intros; exact Sys2Proof.Laws.encodedLength _

theorem Sys2Proof.Laws.EncodedLength.andn : ∀ h d a b w,
    Sys2Proof.Laws.EncodedLength.Statement (Sys2Proof.Instr.andn h d a b w) := by
  intros; exact Sys2Proof.Laws.encodedLength _

theorem Sys2Proof.Laws.EncodedLength.shl : ∀ h d a b t,
    Sys2Proof.Laws.EncodedLength.Statement (Sys2Proof.Instr.shl h d a b t) := by
  intros; exact Sys2Proof.Laws.encodedLength _

theorem Sys2Proof.Laws.EncodedLength.shr : ∀ h d a b t,
    Sys2Proof.Laws.EncodedLength.Statement (Sys2Proof.Instr.shr h d a b t) := by
  intros; exact Sys2Proof.Laws.encodedLength _

theorem Sys2Proof.Laws.EncodedLength.sar : ∀ h d a b t,
    Sys2Proof.Laws.EncodedLength.Statement (Sys2Proof.Instr.sar h d a b t) := by
  intros; exact Sys2Proof.Laws.encodedLength _

theorem Sys2Proof.Laws.EncodedLength.rotl : ∀ h d a b t,
    Sys2Proof.Laws.EncodedLength.Statement (Sys2Proof.Instr.rotl h d a b t) := by
  intros; exact Sys2Proof.Laws.encodedLength _

theorem Sys2Proof.Laws.EncodedLength.bfx : ∀ h d a b t,
    Sys2Proof.Laws.EncodedLength.Statement (Sys2Proof.Instr.bfx h d a b t) := by
  intros; exact Sys2Proof.Laws.encodedLength _

theorem Sys2Proof.Laws.EncodedLength.bfi : ∀ h d a b c t,
    Sys2Proof.Laws.EncodedLength.Statement (Sys2Proof.Instr.bfi h d a b c t) := by
  intros; exact Sys2Proof.Laws.encodedLength _

theorem Sys2Proof.Laws.EncodedLength.brev : ∀ h d a w,
    Sys2Proof.Laws.EncodedLength.Statement (Sys2Proof.Instr.brev h d a w) := by
  intros; exact Sys2Proof.Laws.encodedLength _

theorem Sys2Proof.Laws.EncodedLength.popc : ∀ h d a w,
    Sys2Proof.Laws.EncodedLength.Statement (Sys2Proof.Instr.popc h d a w) := by
  intros; exact Sys2Proof.Laws.encodedLength _

theorem Sys2Proof.Laws.EncodedLength.clz : ∀ h d a w,
    Sys2Proof.Laws.EncodedLength.Statement (Sys2Proof.Instr.clz h d a w) := by
  intros; exact Sys2Proof.Laws.encodedLength _

theorem Sys2Proof.Laws.EncodedLength.ctz : ∀ h d a w,
    Sys2Proof.Laws.EncodedLength.Statement (Sys2Proof.Instr.ctz h d a w) := by
  intros; exact Sys2Proof.Laws.encodedLength _

theorem Sys2Proof.Laws.EncodedLength.lea : ∀ h d a b c t k,
    Sys2Proof.Laws.EncodedLength.Statement (Sys2Proof.Instr.lea h d a b c t k) := by
  intros; exact Sys2Proof.Laws.encodedLength _

theorem Sys2Proof.Laws.EncodedLength.mov : ∀ h d a w,
    Sys2Proof.Laws.EncodedLength.Statement (Sys2Proof.Instr.mov h d a w) := by
  intros; exact Sys2Proof.Laws.encodedLength _

theorem Sys2Proof.Laws.EncodedLength.sel : ∀ h d a b w p,
    Sys2Proof.Laws.EncodedLength.Statement (Sys2Proof.Instr.sel h d a b w p) := by
  intros; exact Sys2Proof.Laws.encodedLength _

theorem Sys2Proof.Laws.EncodedLength.icmp : ∀ h d a b t cond,
    Sys2Proof.Laws.EncodedLength.Statement (Sys2Proof.Instr.icmp h d a b t cond) := by
  intros; exact Sys2Proof.Laws.encodedLength _

theorem Sys2Proof.Laws.EncodedLength.iaddI : ∀ h d a imm t sat,
    Sys2Proof.Laws.EncodedLength.Statement (Sys2Proof.Instr.iaddI h d a imm t sat) := by
  intros; exact Sys2Proof.Laws.encodedLength _

theorem Sys2Proof.Laws.EncodedLength.isubI : ∀ h d a imm t sat,
    Sys2Proof.Laws.EncodedLength.Statement (Sys2Proof.Instr.isubI h d a imm t sat) := by
  intros; exact Sys2Proof.Laws.encodedLength _

theorem Sys2Proof.Laws.EncodedLength.imulI : ∀ h d a imm t sat,
    Sys2Proof.Laws.EncodedLength.Statement (Sys2Proof.Instr.imulI h d a imm t sat) := by
  intros; exact Sys2Proof.Laws.encodedLength _

theorem Sys2Proof.Laws.EncodedLength.iminI : ∀ h d a imm t,
    Sys2Proof.Laws.EncodedLength.Statement (Sys2Proof.Instr.iminI h d a imm t) := by
  intros; exact Sys2Proof.Laws.encodedLength _

theorem Sys2Proof.Laws.EncodedLength.imaxI : ∀ h d a imm t,
    Sys2Proof.Laws.EncodedLength.Statement (Sys2Proof.Instr.imaxI h d a imm t) := by
  intros; exact Sys2Proof.Laws.encodedLength _

theorem Sys2Proof.Laws.EncodedLength.andI : ∀ h d a imm w,
    Sys2Proof.Laws.EncodedLength.Statement (Sys2Proof.Instr.andI h d a imm w) := by
  intros; exact Sys2Proof.Laws.encodedLength _

theorem Sys2Proof.Laws.EncodedLength.orI : ∀ h d a imm w,
    Sys2Proof.Laws.EncodedLength.Statement (Sys2Proof.Instr.orI h d a imm w) := by
  intros; exact Sys2Proof.Laws.encodedLength _

theorem Sys2Proof.Laws.EncodedLength.xorI : ∀ h d a imm w,
    Sys2Proof.Laws.EncodedLength.Statement (Sys2Proof.Instr.xorI h d a imm w) := by
  intros; exact Sys2Proof.Laws.encodedLength _

theorem Sys2Proof.Laws.EncodedLength.andnI : ∀ h d a imm w,
    Sys2Proof.Laws.EncodedLength.Statement (Sys2Proof.Instr.andnI h d a imm w) := by
  intros; exact Sys2Proof.Laws.encodedLength _

theorem Sys2Proof.Laws.EncodedLength.shlI : ∀ h d a imm t,
    Sys2Proof.Laws.EncodedLength.Statement (Sys2Proof.Instr.shlI h d a imm t) := by
  intros; exact Sys2Proof.Laws.encodedLength _

theorem Sys2Proof.Laws.EncodedLength.shrI : ∀ h d a imm t,
    Sys2Proof.Laws.EncodedLength.Statement (Sys2Proof.Instr.shrI h d a imm t) := by
  intros; exact Sys2Proof.Laws.encodedLength _

theorem Sys2Proof.Laws.EncodedLength.sarI : ∀ h d a imm t,
    Sys2Proof.Laws.EncodedLength.Statement (Sys2Proof.Instr.sarI h d a imm t) := by
  intros; exact Sys2Proof.Laws.encodedLength _

theorem Sys2Proof.Laws.EncodedLength.rotlI : ∀ h d a imm t,
    Sys2Proof.Laws.EncodedLength.Statement (Sys2Proof.Instr.rotlI h d a imm t) := by
  intros; exact Sys2Proof.Laws.encodedLength _

theorem Sys2Proof.Laws.EncodedLength.leaI : ∀ h d a imm t k,
    Sys2Proof.Laws.EncodedLength.Statement (Sys2Proof.Instr.leaI h d a imm t k) := by
  intros; exact Sys2Proof.Laws.encodedLength _

theorem Sys2Proof.Laws.EncodedLength.icmpI : ∀ h d a imm t cond,
    Sys2Proof.Laws.EncodedLength.Statement (Sys2Proof.Instr.icmpI h d a imm t cond) := by
  intros; exact Sys2Proof.Laws.encodedLength _

theorem Sys2Proof.Laws.EncodedLength.movi : ∀ h d imm t,
    Sys2Proof.Laws.EncodedLength.Statement (Sys2Proof.Instr.movi h d imm t) := by
  intros; exact Sys2Proof.Laws.encodedLength _

theorem Sys2Proof.Laws.EncodedLength.fadd : ∀ h d a b r,
    Sys2Proof.Laws.EncodedLength.Statement (Sys2Proof.Instr.fadd h d a b r) := by
  intros; exact Sys2Proof.Laws.encodedLength _

theorem Sys2Proof.Laws.EncodedLength.fsub : ∀ h d a b r,
    Sys2Proof.Laws.EncodedLength.Statement (Sys2Proof.Instr.fsub h d a b r) := by
  intros; exact Sys2Proof.Laws.encodedLength _

theorem Sys2Proof.Laws.EncodedLength.fmul : ∀ h d a b r,
    Sys2Proof.Laws.EncodedLength.Statement (Sys2Proof.Instr.fmul h d a b r) := by
  intros; exact Sys2Proof.Laws.encodedLength _

theorem Sys2Proof.Laws.EncodedLength.ffma : ∀ h d a b c m,
    Sys2Proof.Laws.EncodedLength.Statement (Sys2Proof.Instr.ffma h d a b c m) := by
  intros; exact Sys2Proof.Laws.encodedLength _

theorem Sys2Proof.Laws.EncodedLength.fmin : ∀ h d a b nan,
    Sys2Proof.Laws.EncodedLength.Statement (Sys2Proof.Instr.fmin h d a b nan) := by
  intros; exact Sys2Proof.Laws.encodedLength _

theorem Sys2Proof.Laws.EncodedLength.fmax : ∀ h d a b nan,
    Sys2Proof.Laws.EncodedLength.Statement (Sys2Proof.Instr.fmax h d a b nan) := by
  intros; exact Sys2Proof.Laws.encodedLength _

theorem Sys2Proof.Laws.EncodedLength.fcmp : ∀ h d a b cond,
    Sys2Proof.Laws.EncodedLength.Statement (Sys2Proof.Instr.fcmp h d a b cond) := by
  intros; exact Sys2Proof.Laws.encodedLength _

theorem Sys2Proof.Laws.EncodedLength.fclass : ∀ h d a t,
    Sys2Proof.Laws.EncodedLength.Statement (Sys2Proof.Instr.fclass h d a t) := by
  intros; exact Sys2Proof.Laws.encodedLength _

theorem Sys2Proof.Laws.EncodedLength.frnd : ∀ h d a m,
    Sys2Proof.Laws.EncodedLength.Statement (Sys2Proof.Instr.frnd h d a m) := by
  intros; exact Sys2Proof.Laws.encodedLength _

theorem Sys2Proof.Laws.EncodedLength.frcp : ∀ h d a m,
    Sys2Proof.Laws.EncodedLength.Statement (Sys2Proof.Instr.frcp h d a m) := by
  intros; exact Sys2Proof.Laws.encodedLength _

theorem Sys2Proof.Laws.EncodedLength.frsq : ∀ h d a m,
    Sys2Proof.Laws.EncodedLength.Statement (Sys2Proof.Instr.frsq h d a m) := by
  intros; exact Sys2Proof.Laws.encodedLength _

theorem Sys2Proof.Laws.EncodedLength.fsqrt : ∀ h d a m,
    Sys2Proof.Laws.EncodedLength.Statement (Sys2Proof.Instr.fsqrt h d a m) := by
  intros; exact Sys2Proof.Laws.encodedLength _

theorem Sys2Proof.Laws.EncodedLength.fex2 : ∀ h d a,
    Sys2Proof.Laws.EncodedLength.Statement (Sys2Proof.Instr.fex2 h d a) := by
  intros; exact Sys2Proof.Laws.encodedLength _

theorem Sys2Proof.Laws.EncodedLength.flg2 : ∀ h d a,
    Sys2Proof.Laws.EncodedLength.Statement (Sys2Proof.Instr.flg2 h d a) := by
  intros; exact Sys2Proof.Laws.encodedLength _

theorem Sys2Proof.Laws.EncodedLength.fsin : ∀ h d a,
    Sys2Proof.Laws.EncodedLength.Statement (Sys2Proof.Instr.fsin h d a) := by
  intros; exact Sys2Proof.Laws.encodedLength _

theorem Sys2Proof.Laws.EncodedLength.fcos : ∀ h d a,
    Sys2Proof.Laws.EncodedLength.Statement (Sys2Proof.Instr.fcos h d a) := by
  intros; exact Sys2Proof.Laws.encodedLength _

theorem Sys2Proof.Laws.EncodedLength.ftanh : ∀ h d a,
    Sys2Proof.Laws.EncodedLength.Statement (Sys2Proof.Instr.ftanh h d a) := by
  intros; exact Sys2Proof.Laws.encodedLength _

theorem Sys2Proof.Laws.EncodedLength.fsig : ∀ h d a,
    Sys2Proof.Laws.EncodedLength.Statement (Sys2Proof.Instr.fsig h d a) := by
  intros; exact Sys2Proof.Laws.encodedLength _

theorem Sys2Proof.Laws.EncodedLength.hadd2 : ∀ h d a b t r,
    Sys2Proof.Laws.EncodedLength.Statement (Sys2Proof.Instr.hadd2 h d a b t r) := by
  intros; exact Sys2Proof.Laws.encodedLength _

theorem Sys2Proof.Laws.EncodedLength.hmul2 : ∀ h d a b t r,
    Sys2Proof.Laws.EncodedLength.Statement (Sys2Proof.Instr.hmul2 h d a b t r) := by
  intros; exact Sys2Proof.Laws.encodedLength _

theorem Sys2Proof.Laws.EncodedLength.hfma2 : ∀ h d a b c t m,
    Sys2Proof.Laws.EncodedLength.Statement (Sys2Proof.Instr.hfma2 h d a b c t m) := by
  intros; exact Sys2Proof.Laws.encodedLength _

theorem Sys2Proof.Laws.EncodedLength.hmax2 : ∀ h d a b t nan,
    Sys2Proof.Laws.EncodedLength.Statement (Sys2Proof.Instr.hmax2 h d a b t nan) := by
  intros; exact Sys2Proof.Laws.encodedLength _

theorem Sys2Proof.Laws.EncodedLength.hmin2 : ∀ h d a b t nan,
    Sys2Proof.Laws.EncodedLength.Statement (Sys2Proof.Instr.hmin2 h d a b t nan) := by
  intros; exact Sys2Proof.Laws.encodedLength _

theorem Sys2Proof.Laws.EncodedLength.dadd : ∀ h d a b m,
    Sys2Proof.Laws.EncodedLength.Statement (Sys2Proof.Instr.dadd h d a b m) := by
  intros; exact Sys2Proof.Laws.encodedLength _

theorem Sys2Proof.Laws.EncodedLength.dmul : ∀ h d a b m,
    Sys2Proof.Laws.EncodedLength.Statement (Sys2Proof.Instr.dmul h d a b m) := by
  intros; exact Sys2Proof.Laws.encodedLength _

theorem Sys2Proof.Laws.EncodedLength.dfma : ∀ h d a b c m,
    Sys2Proof.Laws.EncodedLength.Statement (Sys2Proof.Instr.dfma h d a b c m) := by
  intros; exact Sys2Proof.Laws.encodedLength _

theorem Sys2Proof.Laws.EncodedLength.dcmp : ∀ h d a b cond,
    Sys2Proof.Laws.EncodedLength.Statement (Sys2Proof.Instr.dcmp h d a b cond) := by
  intros; exact Sys2Proof.Laws.encodedLength _

theorem Sys2Proof.Laws.EncodedLength.dmin : ∀ h d a b nan,
    Sys2Proof.Laws.EncodedLength.Statement (Sys2Proof.Instr.dmin h d a b nan) := by
  intros; exact Sys2Proof.Laws.encodedLength _

theorem Sys2Proof.Laws.EncodedLength.dmax : ∀ h d a b nan,
    Sys2Proof.Laws.EncodedLength.Statement (Sys2Proof.Instr.dmax h d a b nan) := by
  intros; exact Sys2Proof.Laws.encodedLength _

theorem Sys2Proof.Laws.EncodedLength.faddI : ∀ h d a imm m,
    Sys2Proof.Laws.EncodedLength.Statement (Sys2Proof.Instr.faddI h d a imm m) := by
  intros; exact Sys2Proof.Laws.encodedLength _

theorem Sys2Proof.Laws.EncodedLength.fsubI : ∀ h d a imm m,
    Sys2Proof.Laws.EncodedLength.Statement (Sys2Proof.Instr.fsubI h d a imm m) := by
  intros; exact Sys2Proof.Laws.encodedLength _

theorem Sys2Proof.Laws.EncodedLength.fmulI : ∀ h d a imm m,
    Sys2Proof.Laws.EncodedLength.Statement (Sys2Proof.Instr.fmulI h d a imm m) := by
  intros; exact Sys2Proof.Laws.encodedLength _

theorem Sys2Proof.Laws.EncodedLength.fminI : ∀ h d a imm nan,
    Sys2Proof.Laws.EncodedLength.Statement (Sys2Proof.Instr.fminI h d a imm nan) := by
  intros; exact Sys2Proof.Laws.encodedLength _

theorem Sys2Proof.Laws.EncodedLength.fmaxI : ∀ h d a imm nan,
    Sys2Proof.Laws.EncodedLength.Statement (Sys2Proof.Instr.fmaxI h d a imm nan) := by
  intros; exact Sys2Proof.Laws.encodedLength _

theorem Sys2Proof.Laws.EncodedLength.fcmpI : ∀ h d a imm cond,
    Sys2Proof.Laws.EncodedLength.Statement (Sys2Proof.Instr.fcmpI h d a imm cond) := by
  intros; exact Sys2Proof.Laws.encodedLength _

theorem Sys2Proof.Laws.EncodedLength.cvtf : ∀ h d a code r,
    Sys2Proof.Laws.EncodedLength.Statement (Sys2Proof.Instr.cvtf h d a code r) := by
  intros; exact Sys2Proof.Laws.encodedLength _

theorem Sys2Proof.Laws.EncodedLength.cvti : ∀ h d a code r,
    Sys2Proof.Laws.EncodedLength.Statement (Sys2Proof.Instr.cvti h d a code r) := by
  intros; exact Sys2Proof.Laws.encodedLength _

theorem Sys2Proof.Laws.EncodedLength.cvtn : ∀ h d a code r,
    Sys2Proof.Laws.EncodedLength.Statement (Sys2Proof.Instr.cvtn h d a code r) := by
  intros; exact Sys2Proof.Laws.encodedLength _

theorem Sys2Proof.Laws.EncodedLength.qpk : ∀ h d a b c f n,
    Sys2Proof.Laws.EncodedLength.Statement (Sys2Proof.Instr.qpk h d a b c f n) := by
  intros; exact Sys2Proof.Laws.encodedLength _

theorem Sys2Proof.Laws.EncodedLength.qupk : ∀ h d a c f n hi,
    Sys2Proof.Laws.EncodedLength.Statement (Sys2Proof.Instr.qupk h d a c f n hi) := by
  intros; exact Sys2Proof.Laws.encodedLength _

theorem Sys2Proof.Laws.EncodedLength.bscl : ∀ h d a f,
    Sys2Proof.Laws.EncodedLength.Statement (Sys2Proof.Instr.bscl h d a f) := by
  intros; exact Sys2Proof.Laws.encodedLength _

theorem Sys2Proof.Laws.EncodedLength.amax : ∀ h a n src,
    Sys2Proof.Laws.EncodedLength.Statement (Sys2Proof.Instr.amax h a n src) := by
  intros; exact Sys2Proof.Laws.encodedLength _

theorem Sys2Proof.Laws.EncodedLength.cbrg : ∀ h d a b out,
    Sys2Proof.Laws.EncodedLength.Statement (Sys2Proof.Instr.cbrg h d a b out) := by
  intros; exact Sys2Proof.Laws.encodedLength _

theorem Sys2Proof.Laws.EncodedLength.shfl : ∀ h d a b c mode g,
    Sys2Proof.Laws.EncodedLength.Statement (Sys2Proof.Instr.shfl h d a b c mode g) := by
  intros; exact Sys2Proof.Laws.encodedLength _

theorem Sys2Proof.Laws.EncodedLength.vote : ∀ h d test p neg,
    Sys2Proof.Laws.EncodedLength.Statement (Sys2Proof.Instr.vote h d test p neg) := by
  intros; exact Sys2Proof.Laws.encodedLength _

theorem Sys2Proof.Laws.EncodedLength.ballot : ∀ h d p neg,
    Sys2Proof.Laws.EncodedLength.Statement (Sys2Proof.Instr.ballot h d p neg) := by
  intros; exact Sys2Proof.Laws.encodedLength _

theorem Sys2Proof.Laws.EncodedLength.redx : ∀ h d a op t,
    Sys2Proof.Laws.EncodedLength.Statement (Sys2Proof.Instr.redx h d a op t) := by
  intros; exact Sys2Proof.Laws.encodedLength _

theorem Sys2Proof.Laws.EncodedLength.scan : ∀ h d a b op t,
    Sys2Proof.Laws.EncodedLength.Statement (Sys2Proof.Instr.scan h d a b op t) := by
  intros; exact Sys2Proof.Laws.encodedLength _

theorem Sys2Proof.Laws.EncodedLength.matchLanes : ∀ h d a w,
    Sys2Proof.Laws.EncodedLength.Statement (Sys2Proof.Instr.matchLanes h d a w) := by
  intros; exact Sys2Proof.Laws.encodedLength _

theorem Sys2Proof.Laws.EncodedLength.elect : ∀ h d cand hi,
    Sys2Proof.Laws.EncodedLength.Statement (Sys2Proof.Instr.elect h d cand hi) := by
  intros; exact Sys2Proof.Laws.encodedLength _

theorem Sys2Proof.Laws.EncodedLength.psh : ∀ h a inv,
    Sys2Proof.Laws.EncodedLength.Statement (Sys2Proof.Instr.psh h a inv) := by
  intros; exact Sys2Proof.Laws.encodedLength _

theorem Sys2Proof.Laws.EncodedLength.pdrop : ∀ h n,
    Sys2Proof.Laws.EncodedLength.Statement (Sys2Proof.Instr.pdrop h n) := by
  intros; exact Sys2Proof.Laws.encodedLength _

theorem Sys2Proof.Laws.EncodedLength.pdup : ∀ h p,
    Sys2Proof.Laws.EncodedLength.Statement (Sys2Proof.Instr.pdup h p) := by
  intros; exact Sys2Proof.Laws.encodedLength _

theorem Sys2Proof.Laws.EncodedLength.plog : ∀ h op p rep inv,
    Sys2Proof.Laws.EncodedLength.Statement (Sys2Proof.Instr.plog h op p rep inv) := by
  intros; exact Sys2Proof.Laws.encodedLength _

theorem Sys2Proof.Laws.EncodedLength.pmov : ∀ h op,
    Sys2Proof.Laws.EncodedLength.Statement (Sys2Proof.Instr.pmov h op) := by
  intros; exact Sys2Proof.Laws.encodedLength _

theorem Sys2Proof.Laws.EncodedLength.pswp : ∀ h p,
    Sys2Proof.Laws.EncodedLength.Statement (Sys2Proof.Instr.pswp h p) := by
  intros; exact Sys2Proof.Laws.encodedLength _

theorem Sys2Proof.Laws.EncodedLength.ld : ∀ h d b off w o hint,
    Sys2Proof.Laws.EncodedLength.Statement (Sys2Proof.Instr.ld h d b off w o hint) := by
  intros; exact Sys2Proof.Laws.encodedLength _

theorem Sys2Proof.Laws.EncodedLength.st : ∀ h b off x w o hint,
    Sys2Proof.Laws.EncodedLength.Statement (Sys2Proof.Instr.st h b off x w o hint) := by
  intros; exact Sys2Proof.Laws.encodedLength _

theorem Sys2Proof.Laws.EncodedLength.lds : ∀ h d b off w o,
    Sys2Proof.Laws.EncodedLength.Statement (Sys2Proof.Instr.lds h d b off w o) := by
  intros; exact Sys2Proof.Laws.encodedLength _

theorem Sys2Proof.Laws.EncodedLength.sts : ∀ h b off x w o,
    Sys2Proof.Laws.EncodedLength.Statement (Sys2Proof.Instr.sts h b off x w o) := by
  intros; exact Sys2Proof.Laws.encodedLength _

theorem Sys2Proof.Laws.EncodedLength.pref : ∀ h b off n hint,
    Sys2Proof.Laws.EncodedLength.Statement (Sys2Proof.Instr.pref h b off n hint) := by
  intros; exact Sys2Proof.Laws.encodedLength _

theorem Sys2Proof.Laws.EncodedLength.cctlCln : ∀ h b off,
    Sys2Proof.Laws.EncodedLength.Statement (Sys2Proof.Instr.cctlCln h b off) := by
  intros; exact Sys2Proof.Laws.encodedLength _

theorem Sys2Proof.Laws.EncodedLength.cctlInv : ∀ h b off,
    Sys2Proof.Laws.EncodedLength.Statement (Sys2Proof.Instr.cctlInv h b off) := by
  intros; exact Sys2Proof.Laws.encodedLength _

theorem Sys2Proof.Laws.EncodedLength.cctlPin : ∀ h d b off,
    Sys2Proof.Laws.EncodedLength.Statement (Sys2Proof.Instr.cctlPin h d b off) := by
  intros; exact Sys2Proof.Laws.encodedLength _

theorem Sys2Proof.Laws.EncodedLength.cctlUnpin : ∀ h b off,
    Sys2Proof.Laws.EncodedLength.Statement (Sys2Proof.Instr.cctlUnpin h b off) := by
  intros; exact Sys2Proof.Laws.encodedLength _

theorem Sys2Proof.Laws.EncodedLength.fence : ∀ h o sc,
    Sys2Proof.Laws.EncodedLength.Statement (Sys2Proof.Instr.fence h o sc) := by
  intros; exact Sys2Proof.Laws.encodedLength _

theorem Sys2Proof.Laws.EncodedLength.cmpst : ∀ h d b off x w o spad,
    Sys2Proof.Laws.EncodedLength.Statement (Sys2Proof.Instr.cmpst h d b off x w o spad) := by
  intros; exact Sys2Proof.Laws.encodedLength _

theorem Sys2Proof.Laws.EncodedLength.ipref : ∀ h off n,
    Sys2Proof.Laws.EncodedLength.Statement (Sys2Proof.Instr.ipref h off n) := by
  intros; exact Sys2Proof.Laws.encodedLength _

theorem Sys2Proof.Laws.EncodedLength.atomAdd : ∀ h d b off x w o sc hint,
    Sys2Proof.Laws.EncodedLength.Statement (Sys2Proof.Instr.atomAdd h d b off x w o sc hint) := by
  intros; exact Sys2Proof.Laws.encodedLength _

theorem Sys2Proof.Laws.EncodedLength.atomMin : ∀ h d b off x w o sc hint,
    Sys2Proof.Laws.EncodedLength.Statement (Sys2Proof.Instr.atomMin h d b off x w o sc hint) := by
  intros; exact Sys2Proof.Laws.encodedLength _

theorem Sys2Proof.Laws.EncodedLength.atomMax : ∀ h d b off x w o sc hint,
    Sys2Proof.Laws.EncodedLength.Statement (Sys2Proof.Instr.atomMax h d b off x w o sc hint) := by
  intros; exact Sys2Proof.Laws.encodedLength _

theorem Sys2Proof.Laws.EncodedLength.atomAnd : ∀ h d b off x w o sc hint,
    Sys2Proof.Laws.EncodedLength.Statement (Sys2Proof.Instr.atomAnd h d b off x w o sc hint) := by
  intros; exact Sys2Proof.Laws.encodedLength _

theorem Sys2Proof.Laws.EncodedLength.atomOr : ∀ h d b off x w o sc hint,
    Sys2Proof.Laws.EncodedLength.Statement (Sys2Proof.Instr.atomOr h d b off x w o sc hint) := by
  intros; exact Sys2Proof.Laws.encodedLength _

theorem Sys2Proof.Laws.EncodedLength.atomXor : ∀ h d b off x w o sc hint,
    Sys2Proof.Laws.EncodedLength.Statement (Sys2Proof.Instr.atomXor h d b off x w o sc hint) := by
  intros; exact Sys2Proof.Laws.encodedLength _

theorem Sys2Proof.Laws.EncodedLength.atomExch : ∀ h d b off x w o sc hint,
    Sys2Proof.Laws.EncodedLength.Statement (Sys2Proof.Instr.atomExch h d b off x w o sc hint) := by
  intros; exact Sys2Proof.Laws.encodedLength _

theorem Sys2Proof.Laws.EncodedLength.atomCas : ∀ h d b off x w o sc hint,
    Sys2Proof.Laws.EncodedLength.Statement (Sys2Proof.Instr.atomCas h d b off x w o sc hint) := by
  intros; exact Sys2Proof.Laws.encodedLength _

theorem Sys2Proof.Laws.EncodedLength.atomAddcl : ∀ h d b off x w o sc hint,
    Sys2Proof.Laws.EncodedLength.Statement (Sys2Proof.Instr.atomAddcl h d b off x w o sc hint) := by
  intros; exact Sys2Proof.Laws.encodedLength _

theorem Sys2Proof.Laws.EncodedLength.atomSubcl : ∀ h d b off x w o sc hint,
    Sys2Proof.Laws.EncodedLength.Statement (Sys2Proof.Instr.atomSubcl h d b off x w o sc hint) := by
  intros; exact Sys2Proof.Laws.encodedLength _

theorem Sys2Proof.Laws.EncodedLength.atomFadd : ∀ h d b off x w o sc hint,
    Sys2Proof.Laws.EncodedLength.Statement (Sys2Proof.Instr.atomFadd h d b off x w o sc hint) := by
  intros; exact Sys2Proof.Laws.encodedLength _

theorem Sys2Proof.Laws.EncodedLength.atomFmin : ∀ h d b off x w o sc hint,
    Sys2Proof.Laws.EncodedLength.Statement (Sys2Proof.Instr.atomFmin h d b off x w o sc hint) := by
  intros; exact Sys2Proof.Laws.encodedLength _

theorem Sys2Proof.Laws.EncodedLength.atomFmax : ∀ h d b off x w o sc hint,
    Sys2Proof.Laws.EncodedLength.Statement (Sys2Proof.Instr.atomFmax h d b off x w o sc hint) := by
  intros; exact Sys2Proof.Laws.encodedLength _

theorem Sys2Proof.Laws.EncodedLength.atomMinU : ∀ h d b off x w o sc hint,
    Sys2Proof.Laws.EncodedLength.Statement (Sys2Proof.Instr.atomMinU h d b off x w o sc hint) := by
  intros; exact Sys2Proof.Laws.encodedLength _

theorem Sys2Proof.Laws.EncodedLength.atomMaxU : ∀ h d b off x w o sc hint,
    Sys2Proof.Laws.EncodedLength.Statement (Sys2Proof.Instr.atomMaxU h d b off x w o sc hint) := by
  intros; exact Sys2Proof.Laws.encodedLength _

theorem Sys2Proof.Laws.EncodedLength.atomsAdd : ∀ h d b off x w o sc,
    Sys2Proof.Laws.EncodedLength.Statement (Sys2Proof.Instr.atomsAdd h d b off x w o sc) := by
  intros; exact Sys2Proof.Laws.encodedLength _

theorem Sys2Proof.Laws.EncodedLength.atomsMin : ∀ h d b off x w o sc,
    Sys2Proof.Laws.EncodedLength.Statement (Sys2Proof.Instr.atomsMin h d b off x w o sc) := by
  intros; exact Sys2Proof.Laws.encodedLength _

theorem Sys2Proof.Laws.EncodedLength.atomsMax : ∀ h d b off x w o sc,
    Sys2Proof.Laws.EncodedLength.Statement (Sys2Proof.Instr.atomsMax h d b off x w o sc) := by
  intros; exact Sys2Proof.Laws.encodedLength _

theorem Sys2Proof.Laws.EncodedLength.atomsAnd : ∀ h d b off x w o sc,
    Sys2Proof.Laws.EncodedLength.Statement (Sys2Proof.Instr.atomsAnd h d b off x w o sc) := by
  intros; exact Sys2Proof.Laws.encodedLength _

theorem Sys2Proof.Laws.EncodedLength.atomsOr : ∀ h d b off x w o sc,
    Sys2Proof.Laws.EncodedLength.Statement (Sys2Proof.Instr.atomsOr h d b off x w o sc) := by
  intros; exact Sys2Proof.Laws.encodedLength _

theorem Sys2Proof.Laws.EncodedLength.atomsXor : ∀ h d b off x w o sc,
    Sys2Proof.Laws.EncodedLength.Statement (Sys2Proof.Instr.atomsXor h d b off x w o sc) := by
  intros; exact Sys2Proof.Laws.encodedLength _

theorem Sys2Proof.Laws.EncodedLength.atomsExch : ∀ h d b off x w o sc,
    Sys2Proof.Laws.EncodedLength.Statement (Sys2Proof.Instr.atomsExch h d b off x w o sc) := by
  intros; exact Sys2Proof.Laws.encodedLength _

theorem Sys2Proof.Laws.EncodedLength.atomsCas : ∀ h d b off x w o sc,
    Sys2Proof.Laws.EncodedLength.Statement (Sys2Proof.Instr.atomsCas h d b off x w o sc) := by
  intros; exact Sys2Proof.Laws.encodedLength _

theorem Sys2Proof.Laws.EncodedLength.atomsAddcl : ∀ h d b off x w o sc,
    Sys2Proof.Laws.EncodedLength.Statement (Sys2Proof.Instr.atomsAddcl h d b off x w o sc) := by
  intros; exact Sys2Proof.Laws.encodedLength _

theorem Sys2Proof.Laws.EncodedLength.atomsSubcl : ∀ h d b off x w o sc,
    Sys2Proof.Laws.EncodedLength.Statement (Sys2Proof.Instr.atomsSubcl h d b off x w o sc) := by
  intros; exact Sys2Proof.Laws.encodedLength _

theorem Sys2Proof.Laws.EncodedLength.atomsFadd : ∀ h d b off x w o sc,
    Sys2Proof.Laws.EncodedLength.Statement (Sys2Proof.Instr.atomsFadd h d b off x w o sc) := by
  intros; exact Sys2Proof.Laws.encodedLength _

theorem Sys2Proof.Laws.EncodedLength.atomsFmin : ∀ h d b off x w o sc,
    Sys2Proof.Laws.EncodedLength.Statement (Sys2Proof.Instr.atomsFmin h d b off x w o sc) := by
  intros; exact Sys2Proof.Laws.encodedLength _

theorem Sys2Proof.Laws.EncodedLength.atomsFmax : ∀ h d b off x w o sc,
    Sys2Proof.Laws.EncodedLength.Statement (Sys2Proof.Instr.atomsFmax h d b off x w o sc) := by
  intros; exact Sys2Proof.Laws.encodedLength _

theorem Sys2Proof.Laws.EncodedLength.atomsMinU : ∀ h d b off x w o sc,
    Sys2Proof.Laws.EncodedLength.Statement (Sys2Proof.Instr.atomsMinU h d b off x w o sc) := by
  intros; exact Sys2Proof.Laws.encodedLength _

theorem Sys2Proof.Laws.EncodedLength.atomsMaxU : ∀ h d b off x w o sc,
    Sys2Proof.Laws.EncodedLength.Statement (Sys2Proof.Instr.atomsMaxU h d b off x w o sc) := by
  intros; exact Sys2Proof.Laws.encodedLength _

theorem Sys2Proof.Laws.EncodedLength.redAdd : ∀ h b off x w o sc hint,
    Sys2Proof.Laws.EncodedLength.Statement (Sys2Proof.Instr.redAdd h b off x w o sc hint) := by
  intros; exact Sys2Proof.Laws.encodedLength _

theorem Sys2Proof.Laws.EncodedLength.redMin : ∀ h b off x w o sc hint,
    Sys2Proof.Laws.EncodedLength.Statement (Sys2Proof.Instr.redMin h b off x w o sc hint) := by
  intros; exact Sys2Proof.Laws.encodedLength _

theorem Sys2Proof.Laws.EncodedLength.redMax : ∀ h b off x w o sc hint,
    Sys2Proof.Laws.EncodedLength.Statement (Sys2Proof.Instr.redMax h b off x w o sc hint) := by
  intros; exact Sys2Proof.Laws.encodedLength _

theorem Sys2Proof.Laws.EncodedLength.redAnd : ∀ h b off x w o sc hint,
    Sys2Proof.Laws.EncodedLength.Statement (Sys2Proof.Instr.redAnd h b off x w o sc hint) := by
  intros; exact Sys2Proof.Laws.encodedLength _

theorem Sys2Proof.Laws.EncodedLength.redOr : ∀ h b off x w o sc hint,
    Sys2Proof.Laws.EncodedLength.Statement (Sys2Proof.Instr.redOr h b off x w o sc hint) := by
  intros; exact Sys2Proof.Laws.encodedLength _

theorem Sys2Proof.Laws.EncodedLength.redXor : ∀ h b off x w o sc hint,
    Sys2Proof.Laws.EncodedLength.Statement (Sys2Proof.Instr.redXor h b off x w o sc hint) := by
  intros; exact Sys2Proof.Laws.encodedLength _

theorem Sys2Proof.Laws.EncodedLength.redAddcl : ∀ h b off x w o sc hint,
    Sys2Proof.Laws.EncodedLength.Statement (Sys2Proof.Instr.redAddcl h b off x w o sc hint) := by
  intros; exact Sys2Proof.Laws.encodedLength _

theorem Sys2Proof.Laws.EncodedLength.redSubcl : ∀ h b off x w o sc hint,
    Sys2Proof.Laws.EncodedLength.Statement (Sys2Proof.Instr.redSubcl h b off x w o sc hint) := by
  intros; exact Sys2Proof.Laws.encodedLength _

theorem Sys2Proof.Laws.EncodedLength.redFadd : ∀ h b off x w o sc hint,
    Sys2Proof.Laws.EncodedLength.Statement (Sys2Proof.Instr.redFadd h b off x w o sc hint) := by
  intros; exact Sys2Proof.Laws.encodedLength _

theorem Sys2Proof.Laws.EncodedLength.redFmin : ∀ h b off x w o sc hint,
    Sys2Proof.Laws.EncodedLength.Statement (Sys2Proof.Instr.redFmin h b off x w o sc hint) := by
  intros; exact Sys2Proof.Laws.encodedLength _

theorem Sys2Proof.Laws.EncodedLength.redFmax : ∀ h b off x w o sc hint,
    Sys2Proof.Laws.EncodedLength.Statement (Sys2Proof.Instr.redFmax h b off x w o sc hint) := by
  intros; exact Sys2Proof.Laws.encodedLength _

theorem Sys2Proof.Laws.EncodedLength.redMinU : ∀ h b off x w o sc hint,
    Sys2Proof.Laws.EncodedLength.Statement (Sys2Proof.Instr.redMinU h b off x w o sc hint) := by
  intros; exact Sys2Proof.Laws.encodedLength _

theorem Sys2Proof.Laws.EncodedLength.redMaxU : ∀ h b off x w o sc hint,
    Sys2Proof.Laws.EncodedLength.Statement (Sys2Proof.Instr.redMaxU h b off x w o sc hint) := by
  intros; exact Sys2Proof.Laws.encodedLength _

theorem Sys2Proof.Laws.EncodedLength.cpy : ∀ h blk tag g,
    Sys2Proof.Laws.EncodedLength.Statement (Sys2Proof.Instr.cpy h blk tag g) := by
  intros; exact Sys2Proof.Laws.encodedLength _

theorem Sys2Proof.Laws.EncodedLength.cpys : ∀ h blk tag g,
    Sys2Proof.Laws.EncodedLength.Statement (Sys2Proof.Instr.cpys h blk tag g) := by
  intros; exact Sys2Proof.Laws.encodedLength _

theorem Sys2Proof.Laws.EncodedLength.cpyx : ∀ h blk tag g,
    Sys2Proof.Laws.EncodedLength.Statement (Sys2Proof.Instr.cpyx h blk tag g) := by
  intros; exact Sys2Proof.Laws.encodedLength _

theorem Sys2Proof.Laws.EncodedLength.strm : ∀ h blk tag g,
    Sys2Proof.Laws.EncodedLength.Statement (Sys2Proof.Instr.strm h blk tag g) := by
  intros; exact Sys2Proof.Laws.encodedLength _

theorem Sys2Proof.Laws.EncodedLength.scnt : ∀ h x tag,
    Sys2Proof.Laws.EncodedLength.Statement (Sys2Proof.Instr.scnt h x tag) := by
  intros; exact Sys2Proof.Laws.encodedLength _

theorem Sys2Proof.Laws.EncodedLength.wtag : ∀ h tag,
    Sys2Proof.Laws.EncodedLength.Statement (Sys2Proof.Instr.wtag h tag) := by
  intros; exact Sys2Proof.Laws.encodedLength _

theorem Sys2Proof.Laws.EncodedLength.wany : ∀ h d a,
    Sys2Proof.Laws.EncodedLength.Statement (Sys2Proof.Instr.wany h d a) := by
  intros; exact Sys2Proof.Laws.encodedLength _

theorem Sys2Proof.Laws.EncodedLength.tffr : ∀ h d a,
    Sys2Proof.Laws.EncodedLength.Statement (Sys2Proof.Instr.tffr h d a) := by
  intros; exact Sys2Proof.Laws.encodedLength _

theorem Sys2Proof.Laws.EncodedLength.tclr : ∀ h tag,
    Sys2Proof.Laws.EncodedLength.Statement (Sys2Proof.Instr.tclr h tag) := by
  intros; exact Sys2Proof.Laws.encodedLength _

theorem Sys2Proof.Laws.EncodedLength.trdy : ∀ h d a,
    Sys2Proof.Laws.EncodedLength.Statement (Sys2Proof.Instr.trdy h d a) := by
  intros; exact Sys2Proof.Laws.encodedLength _

theorem Sys2Proof.Laws.EncodedLength.gresCmt : ∀ h g,
    Sys2Proof.Laws.EncodedLength.Statement (Sys2Proof.Instr.gresCmt h g) := by
  intros; exact Sys2Proof.Laws.encodedLength _

theorem Sys2Proof.Laws.EncodedLength.gresDsc : ∀ h g,
    Sys2Proof.Laws.EncodedLength.Statement (Sys2Proof.Instr.gresDsc h g) := by
  intros; exact Sys2Proof.Laws.encodedLength _

theorem Sys2Proof.Laws.EncodedLength.rsv : ∀ h d a b,
    Sys2Proof.Laws.EncodedLength.Statement (Sys2Proof.Instr.rsv h d a b) := by
  intros; exact Sys2Proof.Laws.encodedLength _

theorem Sys2Proof.Laws.EncodedLength.rls : ∀ h a,
    Sys2Proof.Laws.EncodedLength.Statement (Sys2Proof.Instr.rls h a) := by
  intros; exact Sys2Proof.Laws.encodedLength _

theorem Sys2Proof.Laws.EncodedLength.rrec : ∀ h d a,
    Sys2Proof.Laws.EncodedLength.Statement (Sys2Proof.Instr.rrec h d a) := by
  intros; exact Sys2Proof.Laws.encodedLength _

theorem Sys2Proof.Laws.EncodedLength.mma : ∀ h blk tag g,
    Sys2Proof.Laws.EncodedLength.Statement (Sys2Proof.Instr.mma h blk tag g) := by
  intros; exact Sys2Proof.Laws.encodedLength _

theorem Sys2Proof.Laws.EncodedLength.mmas : ∀ h blk tag g,
    Sys2Proof.Laws.EncodedLength.Statement (Sys2Proof.Instr.mmas h blk tag g) := by
  intros; exact Sys2Proof.Laws.encodedLength _

theorem Sys2Proof.Laws.EncodedLength.aclr : ∀ h slot,
    Sys2Proof.Laws.EncodedLength.Statement (Sys2Proof.Instr.aclr h slot) := by
  intros; exact Sys2Proof.Laws.encodedLength _

theorem Sys2Proof.Laws.EncodedLength.ald : ∀ h blk tag slot,
    Sys2Proof.Laws.EncodedLength.Statement (Sys2Proof.Instr.ald h blk tag slot) := by
  intros; exact Sys2Proof.Laws.encodedLength _

theorem Sys2Proof.Laws.EncodedLength.ast : ∀ h blk tag slot,
    Sys2Proof.Laws.EncodedLength.Statement (Sys2Proof.Instr.ast h blk tag slot) := by
  intros; exact Sys2Proof.Laws.encodedLength _

theorem Sys2Proof.Laws.EncodedLength.mdrn : ∀ h blk tag,
    Sys2Proof.Laws.EncodedLength.Statement (Sys2Proof.Instr.mdrn h blk tag) := by
  intros; exact Sys2Proof.Laws.encodedLength _

theorem Sys2Proof.Laws.EncodedLength.acmt : ∀ h slot,
    Sys2Proof.Laws.EncodedLength.Statement (Sys2Proof.Instr.acmt h slot) := by
  intros; exact Sys2Proof.Laws.encodedLength _

theorem Sys2Proof.Laws.EncodedLength.adsc : ∀ h slot,
    Sys2Proof.Laws.EncodedLength.Statement (Sys2Proof.Instr.adsc h slot) := by
  intros; exact Sys2Proof.Laws.encodedLength _

theorem Sys2Proof.Laws.EncodedLength.npost : ∀ h blk,
    Sys2Proof.Laws.EncodedLength.Statement (Sys2Proof.Instr.npost h blk) := by
  intros; exact Sys2Proof.Laws.encodedLength _

theorem Sys2Proof.Laws.EncodedLength.nwait : ∀ h d a b,
    Sys2Proof.Laws.EncodedLength.Statement (Sys2Proof.Instr.nwait h d a b) := by
  intros; exact Sys2Proof.Laws.encodedLength _

theorem Sys2Proof.Laws.EncodedLength.ncanc : ∀ h d a,
    Sys2Proof.Laws.EncodedLength.Statement (Sys2Proof.Instr.ncanc h d a) := by
  intros; exact Sys2Proof.Laws.encodedLength _

theorem Sys2Proof.Laws.EncodedLength.bra : ∀ h off join,
    Sys2Proof.Laws.EncodedLength.Statement (Sys2Proof.Instr.bra h off join) := by
  intros; exact Sys2Proof.Laws.encodedLength _

theorem Sys2Proof.Laws.EncodedLength.brx : ∀ h a join,
    Sys2Proof.Laws.EncodedLength.Statement (Sys2Proof.Instr.brx h a join) := by
  intros; exact Sys2Proof.Laws.encodedLength _

theorem Sys2Proof.Laws.EncodedLength.call : ∀ h off,
    Sys2Proof.Laws.EncodedLength.Statement (Sys2Proof.Instr.call h off) := by
  intros; exact Sys2Proof.Laws.encodedLength _

theorem Sys2Proof.Laws.EncodedLength.callx : ∀ h a,
    Sys2Proof.Laws.EncodedLength.Statement (Sys2Proof.Instr.callx h a) := by
  intros; exact Sys2Proof.Laws.encodedLength _

theorem Sys2Proof.Laws.EncodedLength.ret : ∀ h,
    Sys2Proof.Laws.EncodedLength.Statement (Sys2Proof.Instr.ret h) := by
  intros; exact Sys2Proof.Laws.encodedLength _

theorem Sys2Proof.Laws.EncodedLength.meet : ∀ h join,
    Sys2Proof.Laws.EncodedLength.Statement (Sys2Proof.Instr.meet h join) := by
  intros; exact Sys2Proof.Laws.encodedLength _

theorem Sys2Proof.Laws.EncodedLength.exit : ∀ h,
    Sys2Proof.Laws.EncodedLength.Statement (Sys2Proof.Instr.exit h) := by
  intros; exact Sys2Proof.Laws.encodedLength _

theorem Sys2Proof.Laws.EncodedLength.bar : ∀ h b,
    Sys2Proof.Laws.EncodedLength.Statement (Sys2Proof.Instr.bar h b) := by
  intros; exact Sys2Proof.Laws.encodedLength _

theorem Sys2Proof.Laws.EncodedLength.barn : ∀ h a x,
    Sys2Proof.Laws.EncodedLength.Statement (Sys2Proof.Instr.barn h a x) := by
  intros; exact Sys2Proof.Laws.encodedLength _

theorem Sys2Proof.Laws.EncodedLength.tbar : ∀ h b,
    Sys2Proof.Laws.EncodedLength.Statement (Sys2Proof.Instr.tbar h b) := by
  intros; exact Sys2Proof.Laws.encodedLength _

theorem Sys2Proof.Laws.EncodedLength.hudl : ∀ h d k id,
    Sys2Proof.Laws.EncodedLength.Statement (Sys2Proof.Instr.hudl h d k id) := by
  intros; exact Sys2Proof.Laws.encodedLength _

theorem Sys2Proof.Laws.EncodedLength.hudlHome : ∀ h,
    Sys2Proof.Laws.EncodedLength.Statement (Sys2Proof.Instr.hudlHome h) := by
  intros; exact Sys2Proof.Laws.encodedLength _

theorem Sys2Proof.Laws.EncodedLength.yieldRun : ∀ h,
    Sys2Proof.Laws.EncodedLength.Statement (Sys2Proof.Instr.yieldRun h) := by
  intros; exact Sys2Proof.Laws.encodedLength _

theorem Sys2Proof.Laws.EncodedLength.sleep : ∀ h a,
    Sys2Proof.Laws.EncodedLength.Statement (Sys2Proof.Instr.sleep h a) := by
  intros; exact Sys2Proof.Laws.encodedLength _

theorem Sys2Proof.Laws.EncodedLength.nop : ∀ h,
    Sys2Proof.Laws.EncodedLength.Statement (Sys2Proof.Instr.nop h) := by
  intros; exact Sys2Proof.Laws.encodedLength _

theorem Sys2Proof.Laws.EncodedLength.trapSelf : ∀ h b,
    Sys2Proof.Laws.EncodedLength.Statement (Sys2Proof.Instr.trapSelf h b) := by
  intros; exact Sys2Proof.Laws.encodedLength _

theorem Sys2Proof.Laws.EncodedLength.trapOne : ∀ h a b,
    Sys2Proof.Laws.EncodedLength.Statement (Sys2Proof.Instr.trapOne h a b) := by
  intros; exact Sys2Proof.Laws.encodedLength _

theorem Sys2Proof.Laws.EncodedLength.trapWgrp : ∀ h b,
    Sys2Proof.Laws.EncodedLength.Statement (Sys2Proof.Instr.trapWgrp h b) := by
  intros; exact Sys2Proof.Laws.encodedLength _

theorem Sys2Proof.Laws.EncodedLength.trapTgrp : ∀ h b,
    Sys2Proof.Laws.EncodedLength.Statement (Sys2Proof.Instr.trapTgrp h b) := by
  intros; exact Sys2Proof.Laws.encodedLength _

theorem Sys2Proof.Laws.EncodedLength.svc : ∀ h a,
    Sys2Proof.Laws.EncodedLength.Statement (Sys2Proof.Instr.svc h a) := by
  intros; exact Sys2Proof.Laws.encodedLength _

theorem Sys2Proof.Laws.EncodedLength.svcq : ∀ h,
    Sys2Proof.Laws.EncodedLength.Statement (Sys2Proof.Instr.svcq h) := by
  intros; exact Sys2Proof.Laws.encodedLength _

theorem Sys2Proof.Laws.EncodedLength.sigret : ∀ h,
    Sys2Proof.Laws.EncodedLength.Statement (Sys2Proof.Instr.sigret h) := by
  intros; exact Sys2Proof.Laws.encodedLength _

theorem Sys2Proof.Laws.EncodedLength.lnch : ∀ h d blk,
    Sys2Proof.Laws.EncodedLength.Statement (Sys2Proof.Instr.lnch h d blk) := by
  intros; exact Sys2Proof.Laws.encodedLength _

theorem Sys2Proof.Laws.EncodedLength.lwait : ∀ h,
    Sys2Proof.Laws.EncodedLength.Statement (Sys2Proof.Instr.lwait h) := by
  intros; exact Sys2Proof.Laws.encodedLength _

theorem Sys2Proof.Laws.EncodedLength.gctr : ∀ h d a,
    Sys2Proof.Laws.EncodedLength.Statement (Sys2Proof.Instr.gctr h d a) := by
  intros; exact Sys2Proof.Laws.encodedLength _

theorem Sys2Proof.Laws.EncodedLength.cncl : ∀ h a,
    Sys2Proof.Laws.EncodedLength.Statement (Sys2Proof.Instr.cncl h a) := by
  intros; exact Sys2Proof.Laws.encodedLength _

theorem Sys2Proof.Laws.EncodedLength.rge : ∀ h id,
    Sys2Proof.Laws.EncodedLength.Statement (Sys2Proof.Instr.rge h id) := by
  intros; exact Sys2Proof.Laws.encodedLength _

theorem Sys2Proof.Laws.EncodedLength.rgl : ∀ h,
    Sys2Proof.Laws.EncodedLength.Statement (Sys2Proof.Instr.rgl h) := by
  intros; exact Sys2Proof.Laws.encodedLength _

theorem Sys2Proof.Laws.EncodedLength.bkpt : ∀ h,
    Sys2Proof.Laws.EncodedLength.Statement (Sys2Proof.Instr.bkpt h) := by
  intros; exact Sys2Proof.Laws.encodedLength _

theorem Sys2Proof.Laws.EncodedLength.snap : ∀ h,
    Sys2Proof.Laws.EncodedLength.Statement (Sys2Proof.Instr.snap h) := by
  intros; exact Sys2Proof.Laws.encodedLength _

theorem Sys2Proof.Laws.EncodedLength.trmk : ∀ h a,
    Sys2Proof.Laws.EncodedLength.Statement (Sys2Proof.Instr.trmk h a) := by
  intros; exact Sys2Proof.Laws.encodedLength _

theorem Sys2Proof.Laws.EncodedLength.mfsr : ∀ h d r,
    Sys2Proof.Laws.EncodedLength.Statement (Sys2Proof.Instr.mfsr h d r) := by
  intros; exact Sys2Proof.Laws.encodedLength _

theorem Sys2Proof.Laws.EncodedLength.mtsr : ∀ h a r,
    Sys2Proof.Laws.EncodedLength.Statement (Sys2Proof.Instr.mtsr h a r) := by
  intros; exact Sys2Proof.Laws.encodedLength _

theorem Sys2Proof.Laws.EncodedLength.racechkClr : ∀ h a,
    Sys2Proof.Laws.EncodedLength.Statement (Sys2Proof.Instr.racechkClr h a) := by
  intros; exact Sys2Proof.Laws.encodedLength _

theorem Sys2Proof.Laws.EncodedLength.eret : ∀ h d a,
    Sys2Proof.Laws.EncodedLength.Statement (Sys2Proof.Instr.eret h d a) := by
  intros; exact Sys2Proof.Laws.encodedLength _

theorem Sys2Proof.Laws.EncodedLength.rply : ∀ h a,
    Sys2Proof.Laws.EncodedLength.Statement (Sys2Proof.Instr.rply h a) := by
  intros; exact Sys2Proof.Laws.encodedLength _

theorem Sys2Proof.Laws.EncodedLength.rplySig : ∀ h a,
    Sys2Proof.Laws.EncodedLength.Statement (Sys2Proof.Instr.rplySig h a) := by
  intros; exact Sys2Proof.Laws.encodedLength _

theorem Sys2Proof.Laws.EncodedLength.rplyDet : ∀ h a b,
    Sys2Proof.Laws.EncodedLength.Statement (Sys2Proof.Instr.rplyDet h a b) := by
  intros; exact Sys2Proof.Laws.encodedLength _

theorem Sys2Proof.Laws.EncodedLength.park : ∀ h a,
    Sys2Proof.Laws.EncodedLength.Statement (Sys2Proof.Instr.park h a) := by
  intros; exact Sys2Proof.Laws.encodedLength _

theorem Sys2Proof.Laws.EncodedLength.kill : ∀ h a b,
    Sys2Proof.Laws.EncodedLength.Statement (Sys2Proof.Instr.kill h a b) := by
  intros; exact Sys2Proof.Laws.encodedLength _

theorem Sys2Proof.Laws.EncodedLength.tlbiCtx : ∀ h a,
    Sys2Proof.Laws.EncodedLength.Statement (Sys2Proof.Instr.tlbiCtx h a) := by
  intros; exact Sys2Proof.Laws.encodedLength _

theorem Sys2Proof.Laws.EncodedLength.tlbiRng : ∀ h a b c,
    Sys2Proof.Laws.EncodedLength.Statement (Sys2Proof.Instr.tlbiRng h a b c) := by
  intros; exact Sys2Proof.Laws.encodedLength _

theorem Sys2Proof.Laws.EncodedLength.tlbiAll : ∀ h,
    Sys2Proof.Laws.EncodedLength.Statement (Sys2Proof.Instr.tlbiAll h) := by
  intros; exact Sys2Proof.Laws.encodedLength _

theorem Sys2Proof.Laws.EncodedLength.poolrdMap : ∀ h d a,
    Sys2Proof.Laws.EncodedLength.Statement (Sys2Proof.Instr.poolrdMap h d a) := by
  intros; exact Sys2Proof.Laws.encodedLength _

theorem Sys2Proof.Laws.EncodedLength.poolrdDat : ∀ h d a b,
    Sys2Proof.Laws.EncodedLength.Statement (Sys2Proof.Instr.poolrdDat h d a b) := by
  intros; exact Sys2Proof.Laws.encodedLength _

theorem Sys2Proof.Laws.EncodedLength.poolwrMap : ∀ h a b,
    Sys2Proof.Laws.EncodedLength.Statement (Sys2Proof.Instr.poolwrMap h a b) := by
  intros; exact Sys2Proof.Laws.encodedLength _

theorem Sys2Proof.Laws.EncodedLength.poolwrDat : ∀ h a b c,
    Sys2Proof.Laws.EncodedLength.Statement (Sys2Proof.Instr.poolwrDat h a b c) := by
  intros; exact Sys2Proof.Laws.encodedLength _

theorem Sys2Proof.Laws.EncodedLength.cpyp : ∀ h blk tag,
    Sys2Proof.Laws.EncodedLength.Statement (Sys2Proof.Instr.cpyp h blk tag) := by
  intros; exact Sys2Proof.Laws.encodedLength _

theorem Sys2Proof.Laws.EncodedLength.svresp : ∀ h a b c,
    Sys2Proof.Laws.EncodedLength.Statement (Sys2Proof.Instr.svresp h a b c) := by
  intros; exact Sys2Proof.Laws.encodedLength _

theorem Sys2Proof.Laws.EncodedLength.erst : ∀ h a,
    Sys2Proof.Laws.EncodedLength.Statement (Sys2Proof.Instr.erst h a) := by
  intros; exact Sys2Proof.Laws.encodedLength _

theorem Sys2Proof.Laws.EncodedLength.erstMtx : ∀ h a,
    Sys2Proof.Laws.EncodedLength.Statement (Sys2Proof.Instr.erstMtx h a) := by
  intros; exact Sys2Proof.Laws.encodedLength _

theorem Sys2Proof.Laws.EncodedLength.erstNet : ∀ h a,
    Sys2Proof.Laws.EncodedLength.Statement (Sys2Proof.Instr.erstNet h a) := by
  intros; exact Sys2Proof.Laws.encodedLength _

theorem Sys2Proof.Laws.EncodedLength.erstFail : ∀ h a b,
    Sys2Proof.Laws.EncodedLength.Statement (Sys2Proof.Instr.erstFail h a b) := by
  intros; exact Sys2Proof.Laws.encodedLength _

theorem Sys2Proof.Laws.EncodedLength.erstFailMtx : ∀ h a b,
    Sys2Proof.Laws.EncodedLength.Statement (Sys2Proof.Instr.erstFailMtx h a b) := by
  intros; exact Sys2Proof.Laws.encodedLength _

theorem Sys2Proof.Laws.EncodedLength.erstFailNet : ∀ h a b,
    Sys2Proof.Laws.EncodedLength.Statement (Sys2Proof.Instr.erstFailNet h a b) := by
  intros; exact Sys2Proof.Laws.encodedLength _

theorem Sys2Proof.Laws.EncodedLength.keyld : ∀ h a,
    Sys2Proof.Laws.EncodedLength.Statement (Sys2Proof.Instr.keyld h a) := by
  intros; exact Sys2Proof.Laws.encodedLength _

theorem Sys2Proof.Laws.EncodedLength.keyldClr : ∀ h,
    Sys2Proof.Laws.EncodedLength.Statement (Sys2Proof.Instr.keyldClr h) := by
  intros; exact Sys2Proof.Laws.encodedLength _

theorem Sys2Proof.Laws.EncodedLength.hmchk : ∀ h d a,
    Sys2Proof.Laws.EncodedLength.Statement (Sys2Proof.Instr.hmchk h d a) := by
  intros; exact Sys2Proof.Laws.encodedLength _

theorem Sys2Proof.Laws.EncodedLength.runSelect : ∀ c q,
    Sys2Proof.Laws.EncodedLength.Statement (Sys2Proof.Instr.runSelect c q) := by
  intros; exact Sys2Proof.Laws.encodedLength _

theorem Sys2Proof.Laws.EncodedLength.fetchReturn : ∀ c q,
    Sys2Proof.Laws.EncodedLength.Statement (Sys2Proof.Instr.fetchReturn c q) := by
  intros; exact Sys2Proof.Laws.encodedLength _

theorem Sys2Proof.Laws.EncodedLength.loadReturn : ∀ c slot,
    Sys2Proof.Laws.EncodedLength.Statement (Sys2Proof.Instr.loadReturn c slot) := by
  intros; exact Sys2Proof.Laws.encodedLength _

theorem Sys2Proof.Laws.EncodedLength.storeAck : ∀ n,
    Sys2Proof.Laws.EncodedLength.Statement (Sys2Proof.Instr.storeAck n) := by
  intros; exact Sys2Proof.Laws.encodedLength _

theorem Sys2Proof.Laws.EncodedLength.remoteStoreLost : ∀ n,
    Sys2Proof.Laws.EncodedLength.Statement (Sys2Proof.Instr.remoteStoreLost n) := by
  intros; exact Sys2Proof.Laws.encodedLength _

theorem Sys2Proof.Laws.EncodedLength.walkStart : ∀ w,
    Sys2Proof.Laws.EncodedLength.Statement (Sys2Proof.Instr.walkStart w) := by
  intros; exact Sys2Proof.Laws.encodedLength _

theorem Sys2Proof.Laws.EncodedLength.walkComplete : ∀ w,
    Sys2Proof.Laws.EncodedLength.Statement (Sys2Proof.Instr.walkComplete w) := by
  intros; exact Sys2Proof.Laws.encodedLength _

theorem Sys2Proof.Laws.EncodedLength.copyStart : ∀ c n,
    Sys2Proof.Laws.EncodedLength.Statement (Sys2Proof.Instr.copyStart c n) := by
  intros; exact Sys2Proof.Laws.encodedLength _

theorem Sys2Proof.Laws.EncodedLength.copySectorDone : ∀ c n,
    Sys2Proof.Laws.EncodedLength.Statement (Sys2Proof.Instr.copySectorDone c n) := by
  intros; exact Sys2Proof.Laws.encodedLength _

theorem Sys2Proof.Laws.EncodedLength.mmaStart : ∀ c n,
    Sys2Proof.Laws.EncodedLength.Statement (Sys2Proof.Instr.mmaStart c n) := by
  intros; exact Sys2Proof.Laws.encodedLength _

theorem Sys2Proof.Laws.EncodedLength.mmaStep : ∀ c n,
    Sys2Proof.Laws.EncodedLength.Statement (Sys2Proof.Instr.mmaStep c n) := by
  intros; exact Sys2Proof.Laws.encodedLength _

theorem Sys2Proof.Laws.EncodedLength.drainSectorDone : ∀ c n,
    Sys2Proof.Laws.EncodedLength.Statement (Sys2Proof.Instr.drainSectorDone c n) := by
  intros; exact Sys2Proof.Laws.encodedLength _

theorem Sys2Proof.Laws.EncodedLength.huddleMove : ∀ c slot,
    Sys2Proof.Laws.EncodedLength.Statement (Sys2Proof.Instr.huddleMove c slot) := by
  intros; exact Sys2Proof.Laws.encodedLength _

theorem Sys2Proof.Laws.EncodedLength.sleepExpiry : ∀ c slot lane,
    Sys2Proof.Laws.EncodedLength.Statement (Sys2Proof.Instr.sleepExpiry c slot lane) := by
  intros; exact Sys2Proof.Laws.encodedLength _

theorem Sys2Proof.Laws.EncodedLength.nwaitPoll : ∀ c slot lane,
    Sys2Proof.Laws.EncodedLength.Statement (Sys2Proof.Instr.nwaitPoll c slot lane) := by
  intros; exact Sys2Proof.Laws.encodedLength _

theorem Sys2Proof.Laws.EncodedLength.saveForce : ∀ team,
    Sys2Proof.Laws.EncodedLength.Statement (Sys2Proof.Instr.saveForce team) := by
  intros; exact Sys2Proof.Laws.encodedLength _

theorem Sys2Proof.Laws.EncodedLength.debugStopForce : ∀ team,
    Sys2Proof.Laws.EncodedLength.Statement (Sys2Proof.Instr.debugStopForce team) := by
  intros; exact Sys2Proof.Laws.encodedLength _

theorem Sys2Proof.Laws.EncodedLength.asyncSignalForce : ∀ c slot lane,
    Sys2Proof.Laws.EncodedLength.Statement (Sys2Proof.Instr.asyncSignalForce c slot lane) := by
  intros; exact Sys2Proof.Laws.encodedLength _

theorem Sys2Proof.Laws.EncodedLength.placeTeam :
    Sys2Proof.Laws.EncodedLength.Statement Sys2Proof.Instr.placeTeam := Sys2Proof.Laws.encodedLength _

theorem Sys2Proof.Laws.EncodedLength.streamAgeing :
    Sys2Proof.Laws.EncodedLength.Statement Sys2Proof.Instr.streamAgeing := Sys2Proof.Laws.encodedLength _

theorem Sys2Proof.Laws.EncodedLength.counterSweep :
    Sys2Proof.Laws.EncodedLength.Statement Sys2Proof.Instr.counterSweep := Sys2Proof.Laws.encodedLength _

theorem Sys2Proof.Laws.EncodedLength.stallSample : ∀ c,
    Sys2Proof.Laws.EncodedLength.Statement (Sys2Proof.Instr.stallSample c) := by
  intros; exact Sys2Proof.Laws.encodedLength _

theorem Sys2Proof.Laws.EncodedLength.errorDiscovery : ∀ k a b,
    Sys2Proof.Laws.EncodedLength.Statement (Sys2Proof.Instr.errorDiscovery k a b) := by
  intros; exact Sys2Proof.Laws.encodedLength _

theorem Sys2Proof.Laws.EncodedLength.hbmScrub : ∀ sector bad,
    Sys2Proof.Laws.EncodedLength.Statement (Sys2Proof.Instr.hbmScrub sector bad) := by
  intros; exact Sys2Proof.Laws.encodedLength _

theorem Sys2Proof.Laws.EncodedLength.coreFence : ∀ c,
    Sys2Proof.Laws.EncodedLength.Statement (Sys2Proof.Instr.coreFence c) := by
  intros; exact Sys2Proof.Laws.encodedLength _

theorem Sys2Proof.Laws.EncodedLength.snapshotCommit : ∀ team,
    Sys2Proof.Laws.EncodedLength.Statement (Sys2Proof.Instr.snapshotCommit team) := by
  intros; exact Sys2Proof.Laws.encodedLength _

theorem Sys2Proof.Laws.EncodedLength.rollback : ∀ team,
    Sys2Proof.Laws.EncodedLength.Statement (Sys2Proof.Instr.rollback team) := by
  intros; exact Sys2Proof.Laws.encodedLength _

theorem Sys2Proof.Laws.EncodedLength.launchCommit : ∀ port q slot x,
    Sys2Proof.Laws.EncodedLength.Statement (Sys2Proof.Instr.launchCommit port q slot x) := by
  intros; exact Sys2Proof.Laws.encodedLength _

theorem Sys2Proof.Laws.EncodedLength.renew : ∀ port,
    Sys2Proof.Laws.EncodedLength.Statement (Sys2Proof.Instr.renew port) := by
  intros; exact Sys2Proof.Laws.encodedLength _

theorem Sys2Proof.Laws.EncodedLength.leaseExpiry :
    Sys2Proof.Laws.EncodedLength.Statement Sys2Proof.Instr.leaseExpiry := Sys2Proof.Laws.encodedLength _

theorem Sys2Proof.Laws.EncodedLength.clearFails : ∀ port x,
    Sys2Proof.Laws.EncodedLength.Statement (Sys2Proof.Instr.clearFails port x) := by
  intros; exact Sys2Proof.Laws.encodedLength _

theorem Sys2Proof.Laws.EncodedLength.flashErase : ∀ port,
    Sys2Proof.Laws.EncodedLength.Statement (Sys2Proof.Instr.flashErase port) := by
  intros; exact Sys2Proof.Laws.encodedLength _

theorem Sys2Proof.Laws.EncodedLength.flashProgram : ∀ port,
    Sys2Proof.Laws.EncodedLength.Statement (Sys2Proof.Instr.flashProgram port) := by
  intros; exact Sys2Proof.Laws.encodedLength _

theorem Sys2Proof.Laws.EncodedLength.flashEraseDone : ∀ ok,
    Sys2Proof.Laws.EncodedLength.Statement (Sys2Proof.Instr.flashEraseDone ok) := by
  intros; exact Sys2Proof.Laws.encodedLength _

theorem Sys2Proof.Laws.EncodedLength.flashProgramDone : ∀ ok,
    Sys2Proof.Laws.EncodedLength.Statement (Sys2Proof.Instr.flashProgramDone ok) := by
  intros; exact Sys2Proof.Laws.encodedLength _

theorem Sys2Proof.Laws.EncodedLength.registerWrite : ∀ port off x,
    Sys2Proof.Laws.EncodedLength.Statement (Sys2Proof.Instr.registerWrite port off x) := by
  intros; exact Sys2Proof.Laws.encodedLength _

theorem Sys2Proof.Laws.EncodedLength.hostMemoryAccess : ∀ port write a data,
    Sys2Proof.Laws.EncodedLength.Statement (Sys2Proof.Instr.hostMemoryAccess port write a data) := by
  intros; exact Sys2Proof.Laws.encodedLength _

theorem Sys2Proof.Laws.EncodedLength.hostSnoop : ∀ a write data,
    Sys2Proof.Laws.EncodedLength.Statement (Sys2Proof.Instr.hostSnoop a write data) := by
  intros; exact Sys2Proof.Laws.encodedLength _

theorem Sys2Proof.Laws.EncodedLength.deviceReset :
    Sys2Proof.Laws.EncodedLength.Statement Sys2Proof.Instr.deviceReset := Sys2Proof.Laws.encodedLength _

theorem Sys2Proof.Laws.EncodedLength.bootstOk :
    Sys2Proof.Laws.EncodedLength.Statement Sys2Proof.Instr.bootstOk := Sys2Proof.Laws.encodedLength _

theorem Sys2Proof.Laws.EncodedLength.firmwareTimeout :
    Sys2Proof.Laws.EncodedLength.Statement Sys2Proof.Instr.firmwareTimeout := Sys2Proof.Laws.encodedLength _

theorem Sys2Proof.Laws.EncodedLength.serviceReply :
    Sys2Proof.Laws.EncodedLength.Statement Sys2Proof.Instr.serviceReply := Sys2Proof.Laws.encodedLength _

theorem Sys2Proof.Laws.EncodedLength.teamSave :
    Sys2Proof.Laws.EncodedLength.Statement Sys2Proof.Instr.teamSave := Sys2Proof.Laws.encodedLength _

theorem Sys2Proof.Laws.EncodedLength.teamSaveSpill :
    Sys2Proof.Laws.EncodedLength.Statement Sys2Proof.Instr.teamSaveSpill := Sys2Proof.Laws.encodedLength _

theorem Sys2Proof.Laws.EncodedLength.teamRestore :
    Sys2Proof.Laws.EncodedLength.Statement Sys2Proof.Instr.teamRestore := Sys2Proof.Laws.encodedLength _

theorem Sys2Proof.Laws.EncodedLength.teamKill :
    Sys2Proof.Laws.EncodedLength.Statement Sys2Proof.Instr.teamKill := Sys2Proof.Laws.encodedLength _

theorem Sys2Proof.Laws.EncodedLength.debugStopRequest :
    Sys2Proof.Laws.EncodedLength.Statement Sys2Proof.Instr.debugStopRequest := Sys2Proof.Laws.encodedLength _

theorem Sys2Proof.Laws.EncodedLength.debugResumeRequest :
    Sys2Proof.Laws.EncodedLength.Statement Sys2Proof.Instr.debugResumeRequest := Sys2Proof.Laws.encodedLength _

theorem Sys2Proof.Laws.EncodedLength.revokeNotice :
    Sys2Proof.Laws.EncodedLength.Statement Sys2Proof.Instr.revokeNotice := Sys2Proof.Laws.encodedLength _

theorem Sys2Proof.Laws.EncodedLength.kernelReplayRequest :
    Sys2Proof.Laws.EncodedLength.Statement Sys2Proof.Instr.kernelReplayRequest := Sys2Proof.Laws.encodedLength _

theorem Sys2Proof.Laws.EncodedLength.replayPassEnd :
    Sys2Proof.Laws.EncodedLength.Statement Sys2Proof.Instr.replayPassEnd := Sys2Proof.Laws.encodedLength _

theorem Sys2Proof.Laws.EncodedLength.contextTlbiRequest :
    Sys2Proof.Laws.EncodedLength.Statement Sys2Proof.Instr.contextTlbiRequest := Sys2Proof.Laws.encodedLength _

theorem Sys2Proof.Laws.EncodedLength.qpOpen :
    Sys2Proof.Laws.EncodedLength.Statement Sys2Proof.Instr.qpOpen := Sys2Proof.Laws.encodedLength _

theorem Sys2Proof.Laws.EncodedLength.qpClose :
    Sys2Proof.Laws.EncodedLength.Statement Sys2Proof.Instr.qpClose := Sys2Proof.Laws.encodedLength _

theorem Sys2Proof.Laws.EncodedLength.setReceiveRing :
    Sys2Proof.Laws.EncodedLength.Statement Sys2Proof.Instr.setReceiveRing := Sys2Proof.Laws.encodedLength _

theorem Sys2Proof.Laws.EncodedLength.setMemoryKey :
    Sys2Proof.Laws.EncodedLength.Statement Sys2Proof.Instr.setMemoryKey := Sys2Proof.Laws.encodedLength _

theorem Sys2Proof.Laws.EncodedLength.clearMemoryKey :
    Sys2Proof.Laws.EncodedLength.Statement Sys2Proof.Instr.clearMemoryKey := Sys2Proof.Laws.encodedLength _

theorem Sys2Proof.Laws.EncodedLength.attestationRequest :
    Sys2Proof.Laws.EncodedLength.Statement Sys2Proof.Instr.attestationRequest := Sys2Proof.Laws.encodedLength _

theorem Sys2Proof.Laws.EncodedLength.pageReply :
    Sys2Proof.Laws.EncodedLength.Statement Sys2Proof.Instr.pageReply := Sys2Proof.Laws.encodedLength _

theorem Sys2Proof.Laws.EncodedLength.uatinRequest : ∀ r,
    Sys2Proof.Laws.EncodedLength.Statement (Sys2Proof.Instr.uatinRequest r) := by
  intros; exact Sys2Proof.Laws.encodedLength _

theorem Sys2Proof.Laws.EncodedLength.uatinTimeout : ∀ n,
    Sys2Proof.Laws.EncodedLength.Statement (Sys2Proof.Instr.uatinTimeout n) := by
  intros; exact Sys2Proof.Laws.encodedLength _

theorem Sys2Proof.Laws.EncodedLength.flitReplay : ∀ p,
    Sys2Proof.Laws.EncodedLength.Statement (Sys2Proof.Instr.flitReplay p) := by
  intros; exact Sys2Proof.Laws.encodedLength _

theorem Sys2Proof.Laws.EncodedLength.portStateChange : ∀ p st,
    Sys2Proof.Laws.EncodedLength.Statement (Sys2Proof.Instr.portStateChange p st) := by
  intros; exact Sys2Proof.Laws.encodedLength _

theorem Sys2Proof.Laws.EncodedLength.netTakeRequest : ∀ qp,
    Sys2Proof.Laws.EncodedLength.Statement (Sys2Proof.Instr.netTakeRequest qp) := by
  intros; exact Sys2Proof.Laws.encodedLength _

theorem Sys2Proof.Laws.EncodedLength.netPacketReceive : ∀ k,
    Sys2Proof.Laws.EncodedLength.Statement (Sys2Proof.Instr.netPacketReceive k) := by
  intros; exact Sys2Proof.Laws.encodedLength _

theorem Sys2Proof.Laws.EncodedLength.netAckReceive : ∀ qp psn bitmap,
    Sys2Proof.Laws.EncodedLength.Statement (Sys2Proof.Instr.netAckReceive qp psn bitmap) := by
  intros; exact Sys2Proof.Laws.encodedLength _

theorem Sys2Proof.Laws.EncodedLength.netRetransmitTimeout : ∀ qp psn,
    Sys2Proof.Laws.EncodedLength.Statement (Sys2Proof.Instr.netRetransmitTimeout qp psn) := by
  intros; exact Sys2Proof.Laws.encodedLength _

theorem Sys2Proof.Laws.EncodedLength.throttleStepDown : ∀ pkgw hbm die,
    Sys2Proof.Laws.EncodedLength.Statement (Sys2Proof.Instr.throttleStepDown pkgw hbm die) := by
  intros; exact Sys2Proof.Laws.encodedLength _

theorem Sys2Proof.Laws.EncodedLength.throttleT3 : ∀ pkgw hbm die,
    Sys2Proof.Laws.EncodedLength.Statement (Sys2Proof.Instr.throttleT3 pkgw hbm die) := by
  intros; exact Sys2Proof.Laws.encodedLength _

theorem Sys2Proof.Laws.EncodedLength.throttleT4 : ∀ pkgw hbm die,
    Sys2Proof.Laws.EncodedLength.Statement (Sys2Proof.Instr.throttleT4 pkgw hbm die) := by
  intros; exact Sys2Proof.Laws.encodedLength _

theorem Sys2Proof.Laws.EncodedLength.throttleLeaveT4 : ∀ pkgw hbm die,
    Sys2Proof.Laws.EncodedLength.Statement (Sys2Proof.Instr.throttleLeaveT4 pkgw hbm die) := by
  intros; exact Sys2Proof.Laws.encodedLength _

theorem Sys2Proof.Laws.EncodedLength.throttleStepUp : ∀ pkgw hbm die,
    Sys2Proof.Laws.EncodedLength.Statement (Sys2Proof.Instr.throttleStepUp pkgw hbm die) := by
  intros; exact Sys2Proof.Laws.encodedLength _

theorem Sys2Proof.Laws.EncodedLength.tempRefresh : ∀ pkgw hbm die,
    Sys2Proof.Laws.EncodedLength.Statement (Sys2Proof.Instr.tempRefresh pkgw hbm die) := by
  intros; exact Sys2Proof.Laws.encodedLength _

theorem Sys2Proof.Laws.EncodedLength.hostPortDown : ∀ port,
    Sys2Proof.Laws.EncodedLength.Statement (Sys2Proof.Instr.hostPortDown port) := by
  intros; exact Sys2Proof.Laws.encodedLength _

theorem Sys2Proof.Laws.EncodedLength.outboundHeadAdvance : ∀ port head,
    Sys2Proof.Laws.EncodedLength.Statement (Sys2Proof.Instr.outboundHeadAdvance port head) := by
  intros; exact Sys2Proof.Laws.encodedLength _

theorem Sys2Proof.Laws.EncodedLength.unitResetDone : ∀ clock,
    Sys2Proof.Laws.EncodedLength.Statement (Sys2Proof.Instr.unitResetDone clock) := by
  intros; exact Sys2Proof.Laws.encodedLength _

theorem Sys2Proof.Laws.EncodedLength.hostServiceRestart :
    Sys2Proof.Laws.EncodedLength.Statement Sys2Proof.Instr.hostServiceRestart := Sys2Proof.Laws.encodedLength _

theorem Sys2Proof.Laws.EncodedLength.pageZeroingDone : ∀ team,
    Sys2Proof.Laws.EncodedLength.Statement (Sys2Proof.Instr.pageZeroingDone team) := by
  intros; exact Sys2Proof.Laws.encodedLength _

theorem Sys2Proof.Laws.EncodedLength.preImageCopied : ∀ page,
    Sys2Proof.Laws.EncodedLength.Statement (Sys2Proof.Instr.preImageCopied page) := by
  intros; exact Sys2Proof.Laws.encodedLength _

theorem Sys2Proof.Laws.EncodedLength.netRefusalReceive : ∀ qp psn,
    Sys2Proof.Laws.EncodedLength.Statement (Sys2Proof.Instr.netRefusalReceive qp psn) := by
  intros; exact Sys2Proof.Laws.encodedLength _
end

