-- ==== Sys2Proof/Laws/State.lean ====
section
/-!
SUPPORT. What the named changes of the state leave alone, one lemma for each field, and what they do to the part that
they name.
-/

namespace Sys2Proof.Laws
open Sys2Proof.Machine

/-! ## One lemma for each field -/

section
variable (s : State) (c n l q : Nat) (k : Core) (fc : Core → Core) (fs : Slot → Slot) (ft : Thread → Thread)
  (fq : Quarter → Quarter) (fw : Wg → Wg)

@[simp] theorem setCore_mem : (setCore s c k).mem = s.mem := rfl
@[simp] theorem setCore_seals : (setCore s c k).seals = s.seals := rfl
@[simp] theorem setCore_poison : (setCore s c k).poison = s.poison := rfl
@[simp] theorem setCore_hbmBad : (setCore s c k).hbmBad = s.hbmBad := rfl
@[simp] theorem setCore_badPages : (setCore s c k).badPages = s.badPages := rfl
@[simp] theorem setCore_metPages : (setCore s c k).metPages = s.metPages := rfl
@[simp] theorem setCore_consumed : (setCore s c k).consumed = s.consumed := rfl
@[simp] theorem setCore_journal : (setCore s c k).journal = s.journal := rfl
@[simp] theorem setCore_torn : (setCore s c k).torn = s.torn := rfl
@[simp] theorem setCore_tornMtx : (setCore s c k).tornMtx = s.tornMtx := rfl
@[simp] theorem setCore_lines : (setCore s c k).lines = s.lines := rfl
@[simp] theorem setCore_shadows : (setCore s c k).shadows = s.shadows := rfl
@[simp] theorem setCore_stores : (setCore s c k).stores = s.stores := rfl
@[simp] theorem setCore_ctxtab : (setCore s c k).ctxtab = s.ctxtab := rfl
@[simp] theorem setCore_keysel : (setCore s c k).keysel = s.keysel := rfl
@[simp] theorem setCore_keys : (setCore s c k).keys = s.keys := rfl
@[simp] theorem setCore_descs : (setCore s c k).descs = s.descs := rfl
@[simp] theorem setCore_ended : (setCore s c k).ended = s.ended := rfl
@[simp] theorem setCore_racechk : (setCore s c k).racechk = s.racechk := rfl
@[simp] theorem setCore_wpa : (setCore s c k).wpa = s.wpa := rfl
@[simp] theorem setCore_wpc : (setCore s c k).wpc = s.wpc := rfl
@[simp] theorem setCore_courtTlb : (setCore s c k).courtTlb = s.courtTlb := rfl
@[simp] theorem setCore_courtCode : (setCore s c k).courtCode = s.courtCode := rfl
@[simp] theorem setCore_courtQ : (setCore s c k).courtQ = s.courtQ := rfl
@[simp] theorem setCore_walkers : (setCore s c k).walkers = s.walkers := rfl
@[simp] theorem setCore_walkNext : (setCore s c k).walkNext = s.walkNext := rfl
@[simp] theorem setCore_walked : (setCore s c k).walked = s.walked := rfl
@[simp] theorem setCore_walkCache : (setCore s c k).walkCache = s.walkCache := rfl
@[simp] theorem setCore_netTlb : (setCore s c k).netTlb = s.netTlb := rfl
@[simp] theorem setCore_counters : (setCore s c k).counters = s.counters := rfl
@[simp] theorem setCore_queues : (setCore s c k).queues = s.queues := rfl
@[simp] theorem setCore_window : (setCore s c k).window = s.window := rfl
@[simp] theorem setCore_streams : (setCore s c k).streams = s.streams := rfl
@[simp] theorem setCore_aged : (setCore s c k).aged = s.aged := rfl
@[simp] theorem setCore_placedAt : (setCore s c k).placedAt = s.placedAt := rfl
@[simp] theorem setCore_launches : (setCore s c k).launches = s.launches := rfl
@[simp] theorem setCore_childSeq : (setCore s c k).childSeq = s.childSeq := rfl
@[simp] theorem setCore_teams : (setCore s c k).teams = s.teams := rfl
@[simp] theorem setCore_wgs : (setCore s c k).wgs = s.wgs := rfl
@[simp] theorem setCore_saved : (setCore s c k).saved = s.saved := rfl
@[simp] theorem setCore_units : (setCore s c k).units = s.units := rfl
@[simp] theorem setCore_host : (setCore s c k).host = s.host := rfl
@[simp] theorem setCore_qps : (setCore s c k).qps = s.qps := rfl
@[simp] theorem setCore_memKeys : (setCore s c k).memKeys = s.memKeys := rfl
@[simp] theorem setCore_netWait : (setCore s c k).netWait = s.netWait := rfl
@[simp] theorem setCore_netOut : (setCore s c k).netOut = s.netOut := rfl
@[simp] theorem setCore_netHeld : (setCore s c k).netHeld = s.netHeld := rfl
@[simp] theorem setCore_replay : (setCore s c k).replay = s.replay := rfl
@[simp] theorem setCore_agenda : (setCore s c k).agenda = s.agenda := rfl
@[simp] theorem setCore_fresh : (setCore s c k).fresh = s.fresh := rfl
@[simp] theorem setCore_flitSeq : (setCore s c k).flitSeq = s.flitSeq := rfl
@[simp] theorem setCore_unanswered : (setCore s c k).unanswered = s.unanswered := rfl
@[simp] theorem setCore_refusing : (setCore s c k).refusing = s.refusing := rfl
@[simp] theorem setCore_stamp : (setCore s c k).stamp = s.stamp := rfl
@[simp] theorem setCore_now : (setCore s c k).now = s.now := rfl
@[simp] theorem setCore_iss : (setCore s c k).iss = s.iss := rfl

@[simp] theorem modCore_mem : (modCore s c fc).mem = s.mem := rfl
@[simp] theorem modCore_seals : (modCore s c fc).seals = s.seals := rfl
@[simp] theorem modCore_poison : (modCore s c fc).poison = s.poison := rfl
@[simp] theorem modCore_hbmBad : (modCore s c fc).hbmBad = s.hbmBad := rfl
@[simp] theorem modCore_badPages : (modCore s c fc).badPages = s.badPages := rfl
@[simp] theorem modCore_metPages : (modCore s c fc).metPages = s.metPages := rfl
@[simp] theorem modCore_consumed : (modCore s c fc).consumed = s.consumed := rfl
@[simp] theorem modCore_journal : (modCore s c fc).journal = s.journal := rfl
@[simp] theorem modCore_torn : (modCore s c fc).torn = s.torn := rfl
@[simp] theorem modCore_tornMtx : (modCore s c fc).tornMtx = s.tornMtx := rfl
@[simp] theorem modCore_lines : (modCore s c fc).lines = s.lines := rfl
@[simp] theorem modCore_shadows : (modCore s c fc).shadows = s.shadows := rfl
@[simp] theorem modCore_stores : (modCore s c fc).stores = s.stores := rfl
@[simp] theorem modCore_ctxtab : (modCore s c fc).ctxtab = s.ctxtab := rfl
@[simp] theorem modCore_keysel : (modCore s c fc).keysel = s.keysel := rfl
@[simp] theorem modCore_keys : (modCore s c fc).keys = s.keys := rfl
@[simp] theorem modCore_descs : (modCore s c fc).descs = s.descs := rfl
@[simp] theorem modCore_ended : (modCore s c fc).ended = s.ended := rfl
@[simp] theorem modCore_racechk : (modCore s c fc).racechk = s.racechk := rfl
@[simp] theorem modCore_wpa : (modCore s c fc).wpa = s.wpa := rfl
@[simp] theorem modCore_wpc : (modCore s c fc).wpc = s.wpc := rfl
@[simp] theorem modCore_courtTlb : (modCore s c fc).courtTlb = s.courtTlb := rfl
@[simp] theorem modCore_courtCode : (modCore s c fc).courtCode = s.courtCode := rfl
@[simp] theorem modCore_courtQ : (modCore s c fc).courtQ = s.courtQ := rfl
@[simp] theorem modCore_walkers : (modCore s c fc).walkers = s.walkers := rfl
@[simp] theorem modCore_walkNext : (modCore s c fc).walkNext = s.walkNext := rfl
@[simp] theorem modCore_walked : (modCore s c fc).walked = s.walked := rfl
@[simp] theorem modCore_walkCache : (modCore s c fc).walkCache = s.walkCache := rfl
@[simp] theorem modCore_netTlb : (modCore s c fc).netTlb = s.netTlb := rfl
@[simp] theorem modCore_counters : (modCore s c fc).counters = s.counters := rfl
@[simp] theorem modCore_queues : (modCore s c fc).queues = s.queues := rfl
@[simp] theorem modCore_window : (modCore s c fc).window = s.window := rfl
@[simp] theorem modCore_streams : (modCore s c fc).streams = s.streams := rfl
@[simp] theorem modCore_aged : (modCore s c fc).aged = s.aged := rfl
@[simp] theorem modCore_placedAt : (modCore s c fc).placedAt = s.placedAt := rfl
@[simp] theorem modCore_launches : (modCore s c fc).launches = s.launches := rfl
@[simp] theorem modCore_childSeq : (modCore s c fc).childSeq = s.childSeq := rfl
@[simp] theorem modCore_teams : (modCore s c fc).teams = s.teams := rfl
@[simp] theorem modCore_wgs : (modCore s c fc).wgs = s.wgs := rfl
@[simp] theorem modCore_saved : (modCore s c fc).saved = s.saved := rfl
@[simp] theorem modCore_units : (modCore s c fc).units = s.units := rfl
@[simp] theorem modCore_host : (modCore s c fc).host = s.host := rfl
@[simp] theorem modCore_qps : (modCore s c fc).qps = s.qps := rfl
@[simp] theorem modCore_memKeys : (modCore s c fc).memKeys = s.memKeys := rfl
@[simp] theorem modCore_netWait : (modCore s c fc).netWait = s.netWait := rfl
@[simp] theorem modCore_netOut : (modCore s c fc).netOut = s.netOut := rfl
@[simp] theorem modCore_netHeld : (modCore s c fc).netHeld = s.netHeld := rfl
@[simp] theorem modCore_replay : (modCore s c fc).replay = s.replay := rfl
@[simp] theorem modCore_agenda : (modCore s c fc).agenda = s.agenda := rfl
@[simp] theorem modCore_fresh : (modCore s c fc).fresh = s.fresh := rfl
@[simp] theorem modCore_flitSeq : (modCore s c fc).flitSeq = s.flitSeq := rfl
@[simp] theorem modCore_unanswered : (modCore s c fc).unanswered = s.unanswered := rfl
@[simp] theorem modCore_refusing : (modCore s c fc).refusing = s.refusing := rfl
@[simp] theorem modCore_stamp : (modCore s c fc).stamp = s.stamp := rfl
@[simp] theorem modCore_now : (modCore s c fc).now = s.now := rfl
@[simp] theorem modCore_iss : (modCore s c fc).iss = s.iss := rfl

@[simp] theorem modSlot_mem : (modSlot s c n fs).mem = s.mem := rfl
@[simp] theorem modSlot_seals : (modSlot s c n fs).seals = s.seals := rfl
@[simp] theorem modSlot_poison : (modSlot s c n fs).poison = s.poison := rfl
@[simp] theorem modSlot_hbmBad : (modSlot s c n fs).hbmBad = s.hbmBad := rfl
@[simp] theorem modSlot_badPages : (modSlot s c n fs).badPages = s.badPages := rfl
@[simp] theorem modSlot_metPages : (modSlot s c n fs).metPages = s.metPages := rfl
@[simp] theorem modSlot_consumed : (modSlot s c n fs).consumed = s.consumed := rfl
@[simp] theorem modSlot_journal : (modSlot s c n fs).journal = s.journal := rfl
@[simp] theorem modSlot_torn : (modSlot s c n fs).torn = s.torn := rfl
@[simp] theorem modSlot_tornMtx : (modSlot s c n fs).tornMtx = s.tornMtx := rfl
@[simp] theorem modSlot_lines : (modSlot s c n fs).lines = s.lines := rfl
@[simp] theorem modSlot_shadows : (modSlot s c n fs).shadows = s.shadows := rfl
@[simp] theorem modSlot_stores : (modSlot s c n fs).stores = s.stores := rfl
@[simp] theorem modSlot_ctxtab : (modSlot s c n fs).ctxtab = s.ctxtab := rfl
@[simp] theorem modSlot_keysel : (modSlot s c n fs).keysel = s.keysel := rfl
@[simp] theorem modSlot_keys : (modSlot s c n fs).keys = s.keys := rfl
@[simp] theorem modSlot_descs : (modSlot s c n fs).descs = s.descs := rfl
@[simp] theorem modSlot_ended : (modSlot s c n fs).ended = s.ended := rfl
@[simp] theorem modSlot_racechk : (modSlot s c n fs).racechk = s.racechk := rfl
@[simp] theorem modSlot_wpa : (modSlot s c n fs).wpa = s.wpa := rfl
@[simp] theorem modSlot_wpc : (modSlot s c n fs).wpc = s.wpc := rfl
@[simp] theorem modSlot_courtTlb : (modSlot s c n fs).courtTlb = s.courtTlb := rfl
@[simp] theorem modSlot_courtCode : (modSlot s c n fs).courtCode = s.courtCode := rfl
@[simp] theorem modSlot_courtQ : (modSlot s c n fs).courtQ = s.courtQ := rfl
@[simp] theorem modSlot_walkers : (modSlot s c n fs).walkers = s.walkers := rfl
@[simp] theorem modSlot_walkNext : (modSlot s c n fs).walkNext = s.walkNext := rfl
@[simp] theorem modSlot_walked : (modSlot s c n fs).walked = s.walked := rfl
@[simp] theorem modSlot_walkCache : (modSlot s c n fs).walkCache = s.walkCache := rfl
@[simp] theorem modSlot_netTlb : (modSlot s c n fs).netTlb = s.netTlb := rfl
@[simp] theorem modSlot_counters : (modSlot s c n fs).counters = s.counters := rfl
@[simp] theorem modSlot_queues : (modSlot s c n fs).queues = s.queues := rfl
@[simp] theorem modSlot_window : (modSlot s c n fs).window = s.window := rfl
@[simp] theorem modSlot_streams : (modSlot s c n fs).streams = s.streams := rfl
@[simp] theorem modSlot_aged : (modSlot s c n fs).aged = s.aged := rfl
@[simp] theorem modSlot_placedAt : (modSlot s c n fs).placedAt = s.placedAt := rfl
@[simp] theorem modSlot_launches : (modSlot s c n fs).launches = s.launches := rfl
@[simp] theorem modSlot_childSeq : (modSlot s c n fs).childSeq = s.childSeq := rfl
@[simp] theorem modSlot_teams : (modSlot s c n fs).teams = s.teams := rfl
@[simp] theorem modSlot_wgs : (modSlot s c n fs).wgs = s.wgs := rfl
@[simp] theorem modSlot_saved : (modSlot s c n fs).saved = s.saved := rfl
@[simp] theorem modSlot_units : (modSlot s c n fs).units = s.units := rfl
@[simp] theorem modSlot_host : (modSlot s c n fs).host = s.host := rfl
@[simp] theorem modSlot_qps : (modSlot s c n fs).qps = s.qps := rfl
@[simp] theorem modSlot_memKeys : (modSlot s c n fs).memKeys = s.memKeys := rfl
@[simp] theorem modSlot_netWait : (modSlot s c n fs).netWait = s.netWait := rfl
@[simp] theorem modSlot_netOut : (modSlot s c n fs).netOut = s.netOut := rfl
@[simp] theorem modSlot_netHeld : (modSlot s c n fs).netHeld = s.netHeld := rfl
@[simp] theorem modSlot_replay : (modSlot s c n fs).replay = s.replay := rfl
@[simp] theorem modSlot_agenda : (modSlot s c n fs).agenda = s.agenda := rfl
@[simp] theorem modSlot_fresh : (modSlot s c n fs).fresh = s.fresh := rfl
@[simp] theorem modSlot_flitSeq : (modSlot s c n fs).flitSeq = s.flitSeq := rfl
@[simp] theorem modSlot_unanswered : (modSlot s c n fs).unanswered = s.unanswered := rfl
@[simp] theorem modSlot_refusing : (modSlot s c n fs).refusing = s.refusing := rfl
@[simp] theorem modSlot_stamp : (modSlot s c n fs).stamp = s.stamp := rfl
@[simp] theorem modSlot_now : (modSlot s c n fs).now = s.now := rfl
@[simp] theorem modSlot_iss : (modSlot s c n fs).iss = s.iss := rfl

@[simp] theorem modThread_mem : (modThread s c n l ft).mem = s.mem := rfl
@[simp] theorem modThread_seals : (modThread s c n l ft).seals = s.seals := rfl
@[simp] theorem modThread_poison : (modThread s c n l ft).poison = s.poison := rfl
@[simp] theorem modThread_hbmBad : (modThread s c n l ft).hbmBad = s.hbmBad := rfl
@[simp] theorem modThread_badPages : (modThread s c n l ft).badPages = s.badPages := rfl
@[simp] theorem modThread_metPages : (modThread s c n l ft).metPages = s.metPages := rfl
@[simp] theorem modThread_consumed : (modThread s c n l ft).consumed = s.consumed := rfl
@[simp] theorem modThread_journal : (modThread s c n l ft).journal = s.journal := rfl
@[simp] theorem modThread_torn : (modThread s c n l ft).torn = s.torn := rfl
@[simp] theorem modThread_tornMtx : (modThread s c n l ft).tornMtx = s.tornMtx := rfl
@[simp] theorem modThread_lines : (modThread s c n l ft).lines = s.lines := rfl
@[simp] theorem modThread_shadows : (modThread s c n l ft).shadows = s.shadows := rfl
@[simp] theorem modThread_stores : (modThread s c n l ft).stores = s.stores := rfl
@[simp] theorem modThread_ctxtab : (modThread s c n l ft).ctxtab = s.ctxtab := rfl
@[simp] theorem modThread_keysel : (modThread s c n l ft).keysel = s.keysel := rfl
@[simp] theorem modThread_keys : (modThread s c n l ft).keys = s.keys := rfl
@[simp] theorem modThread_descs : (modThread s c n l ft).descs = s.descs := rfl
@[simp] theorem modThread_ended : (modThread s c n l ft).ended = s.ended := rfl
@[simp] theorem modThread_racechk : (modThread s c n l ft).racechk = s.racechk := rfl
@[simp] theorem modThread_wpa : (modThread s c n l ft).wpa = s.wpa := rfl
@[simp] theorem modThread_wpc : (modThread s c n l ft).wpc = s.wpc := rfl
@[simp] theorem modThread_courtTlb : (modThread s c n l ft).courtTlb = s.courtTlb := rfl
@[simp] theorem modThread_courtCode : (modThread s c n l ft).courtCode = s.courtCode := rfl
@[simp] theorem modThread_courtQ : (modThread s c n l ft).courtQ = s.courtQ := rfl
@[simp] theorem modThread_walkers : (modThread s c n l ft).walkers = s.walkers := rfl
@[simp] theorem modThread_walkNext : (modThread s c n l ft).walkNext = s.walkNext := rfl
@[simp] theorem modThread_walked : (modThread s c n l ft).walked = s.walked := rfl
@[simp] theorem modThread_walkCache : (modThread s c n l ft).walkCache = s.walkCache := rfl
@[simp] theorem modThread_netTlb : (modThread s c n l ft).netTlb = s.netTlb := rfl
@[simp] theorem modThread_counters : (modThread s c n l ft).counters = s.counters := rfl
@[simp] theorem modThread_queues : (modThread s c n l ft).queues = s.queues := rfl
@[simp] theorem modThread_window : (modThread s c n l ft).window = s.window := rfl
@[simp] theorem modThread_streams : (modThread s c n l ft).streams = s.streams := rfl
@[simp] theorem modThread_aged : (modThread s c n l ft).aged = s.aged := rfl
@[simp] theorem modThread_placedAt : (modThread s c n l ft).placedAt = s.placedAt := rfl
@[simp] theorem modThread_launches : (modThread s c n l ft).launches = s.launches := rfl
@[simp] theorem modThread_childSeq : (modThread s c n l ft).childSeq = s.childSeq := rfl
@[simp] theorem modThread_teams : (modThread s c n l ft).teams = s.teams := rfl
@[simp] theorem modThread_wgs : (modThread s c n l ft).wgs = s.wgs := rfl
@[simp] theorem modThread_saved : (modThread s c n l ft).saved = s.saved := rfl
@[simp] theorem modThread_units : (modThread s c n l ft).units = s.units := rfl
@[simp] theorem modThread_host : (modThread s c n l ft).host = s.host := rfl
@[simp] theorem modThread_qps : (modThread s c n l ft).qps = s.qps := rfl
@[simp] theorem modThread_memKeys : (modThread s c n l ft).memKeys = s.memKeys := rfl
@[simp] theorem modThread_netWait : (modThread s c n l ft).netWait = s.netWait := rfl
@[simp] theorem modThread_netOut : (modThread s c n l ft).netOut = s.netOut := rfl
@[simp] theorem modThread_netHeld : (modThread s c n l ft).netHeld = s.netHeld := rfl
@[simp] theorem modThread_replay : (modThread s c n l ft).replay = s.replay := rfl
@[simp] theorem modThread_agenda : (modThread s c n l ft).agenda = s.agenda := rfl
@[simp] theorem modThread_fresh : (modThread s c n l ft).fresh = s.fresh := rfl
@[simp] theorem modThread_flitSeq : (modThread s c n l ft).flitSeq = s.flitSeq := rfl
@[simp] theorem modThread_unanswered : (modThread s c n l ft).unanswered = s.unanswered := rfl
@[simp] theorem modThread_refusing : (modThread s c n l ft).refusing = s.refusing := rfl
@[simp] theorem modThread_stamp : (modThread s c n l ft).stamp = s.stamp := rfl
@[simp] theorem modThread_now : (modThread s c n l ft).now = s.now := rfl
@[simp] theorem modThread_iss : (modThread s c n l ft).iss = s.iss := rfl

@[simp] theorem modQuarter_mem : (modQuarter s c q fq).mem = s.mem := rfl
@[simp] theorem modQuarter_seals : (modQuarter s c q fq).seals = s.seals := rfl
@[simp] theorem modQuarter_poison : (modQuarter s c q fq).poison = s.poison := rfl
@[simp] theorem modQuarter_hbmBad : (modQuarter s c q fq).hbmBad = s.hbmBad := rfl
@[simp] theorem modQuarter_badPages : (modQuarter s c q fq).badPages = s.badPages := rfl
@[simp] theorem modQuarter_metPages : (modQuarter s c q fq).metPages = s.metPages := rfl
@[simp] theorem modQuarter_consumed : (modQuarter s c q fq).consumed = s.consumed := rfl
@[simp] theorem modQuarter_journal : (modQuarter s c q fq).journal = s.journal := rfl
@[simp] theorem modQuarter_torn : (modQuarter s c q fq).torn = s.torn := rfl
@[simp] theorem modQuarter_tornMtx : (modQuarter s c q fq).tornMtx = s.tornMtx := rfl
@[simp] theorem modQuarter_lines : (modQuarter s c q fq).lines = s.lines := rfl
@[simp] theorem modQuarter_shadows : (modQuarter s c q fq).shadows = s.shadows := rfl
@[simp] theorem modQuarter_stores : (modQuarter s c q fq).stores = s.stores := rfl
@[simp] theorem modQuarter_ctxtab : (modQuarter s c q fq).ctxtab = s.ctxtab := rfl
@[simp] theorem modQuarter_keysel : (modQuarter s c q fq).keysel = s.keysel := rfl
@[simp] theorem modQuarter_keys : (modQuarter s c q fq).keys = s.keys := rfl
@[simp] theorem modQuarter_descs : (modQuarter s c q fq).descs = s.descs := rfl
@[simp] theorem modQuarter_ended : (modQuarter s c q fq).ended = s.ended := rfl
@[simp] theorem modQuarter_racechk : (modQuarter s c q fq).racechk = s.racechk := rfl
@[simp] theorem modQuarter_wpa : (modQuarter s c q fq).wpa = s.wpa := rfl
@[simp] theorem modQuarter_wpc : (modQuarter s c q fq).wpc = s.wpc := rfl
@[simp] theorem modQuarter_courtTlb : (modQuarter s c q fq).courtTlb = s.courtTlb := rfl
@[simp] theorem modQuarter_courtCode : (modQuarter s c q fq).courtCode = s.courtCode := rfl
@[simp] theorem modQuarter_courtQ : (modQuarter s c q fq).courtQ = s.courtQ := rfl
@[simp] theorem modQuarter_walkers : (modQuarter s c q fq).walkers = s.walkers := rfl
@[simp] theorem modQuarter_walkNext : (modQuarter s c q fq).walkNext = s.walkNext := rfl
@[simp] theorem modQuarter_walked : (modQuarter s c q fq).walked = s.walked := rfl
@[simp] theorem modQuarter_walkCache : (modQuarter s c q fq).walkCache = s.walkCache := rfl
@[simp] theorem modQuarter_netTlb : (modQuarter s c q fq).netTlb = s.netTlb := rfl
@[simp] theorem modQuarter_counters : (modQuarter s c q fq).counters = s.counters := rfl
@[simp] theorem modQuarter_queues : (modQuarter s c q fq).queues = s.queues := rfl
@[simp] theorem modQuarter_window : (modQuarter s c q fq).window = s.window := rfl
@[simp] theorem modQuarter_streams : (modQuarter s c q fq).streams = s.streams := rfl
@[simp] theorem modQuarter_aged : (modQuarter s c q fq).aged = s.aged := rfl
@[simp] theorem modQuarter_placedAt : (modQuarter s c q fq).placedAt = s.placedAt := rfl
@[simp] theorem modQuarter_launches : (modQuarter s c q fq).launches = s.launches := rfl
@[simp] theorem modQuarter_childSeq : (modQuarter s c q fq).childSeq = s.childSeq := rfl
@[simp] theorem modQuarter_teams : (modQuarter s c q fq).teams = s.teams := rfl
@[simp] theorem modQuarter_wgs : (modQuarter s c q fq).wgs = s.wgs := rfl
@[simp] theorem modQuarter_saved : (modQuarter s c q fq).saved = s.saved := rfl
@[simp] theorem modQuarter_units : (modQuarter s c q fq).units = s.units := rfl
@[simp] theorem modQuarter_host : (modQuarter s c q fq).host = s.host := rfl
@[simp] theorem modQuarter_qps : (modQuarter s c q fq).qps = s.qps := rfl
@[simp] theorem modQuarter_memKeys : (modQuarter s c q fq).memKeys = s.memKeys := rfl
@[simp] theorem modQuarter_netWait : (modQuarter s c q fq).netWait = s.netWait := rfl
@[simp] theorem modQuarter_netOut : (modQuarter s c q fq).netOut = s.netOut := rfl
@[simp] theorem modQuarter_netHeld : (modQuarter s c q fq).netHeld = s.netHeld := rfl
@[simp] theorem modQuarter_replay : (modQuarter s c q fq).replay = s.replay := rfl
@[simp] theorem modQuarter_agenda : (modQuarter s c q fq).agenda = s.agenda := rfl
@[simp] theorem modQuarter_fresh : (modQuarter s c q fq).fresh = s.fresh := rfl
@[simp] theorem modQuarter_flitSeq : (modQuarter s c q fq).flitSeq = s.flitSeq := rfl
@[simp] theorem modQuarter_unanswered : (modQuarter s c q fq).unanswered = s.unanswered := rfl
@[simp] theorem modQuarter_refusing : (modQuarter s c q fq).refusing = s.refusing := rfl
@[simp] theorem modQuarter_stamp : (modQuarter s c q fq).stamp = s.stamp := rfl
@[simp] theorem modQuarter_now : (modQuarter s c q fq).now = s.now := rfl
@[simp] theorem modQuarter_iss : (modQuarter s c q fq).iss = s.iss := rfl

@[simp] theorem modWg_cores : (modWg s n fw).cores = s.cores := rfl
@[simp] theorem modWg_mem : (modWg s n fw).mem = s.mem := rfl
@[simp] theorem modWg_seals : (modWg s n fw).seals = s.seals := rfl
@[simp] theorem modWg_poison : (modWg s n fw).poison = s.poison := rfl
@[simp] theorem modWg_hbmBad : (modWg s n fw).hbmBad = s.hbmBad := rfl
@[simp] theorem modWg_badPages : (modWg s n fw).badPages = s.badPages := rfl
@[simp] theorem modWg_metPages : (modWg s n fw).metPages = s.metPages := rfl
@[simp] theorem modWg_consumed : (modWg s n fw).consumed = s.consumed := rfl
@[simp] theorem modWg_journal : (modWg s n fw).journal = s.journal := rfl
@[simp] theorem modWg_torn : (modWg s n fw).torn = s.torn := rfl
@[simp] theorem modWg_tornMtx : (modWg s n fw).tornMtx = s.tornMtx := rfl
@[simp] theorem modWg_lines : (modWg s n fw).lines = s.lines := rfl
@[simp] theorem modWg_shadows : (modWg s n fw).shadows = s.shadows := rfl
@[simp] theorem modWg_stores : (modWg s n fw).stores = s.stores := rfl
@[simp] theorem modWg_ctxtab : (modWg s n fw).ctxtab = s.ctxtab := rfl
@[simp] theorem modWg_keysel : (modWg s n fw).keysel = s.keysel := rfl
@[simp] theorem modWg_keys : (modWg s n fw).keys = s.keys := rfl
@[simp] theorem modWg_descs : (modWg s n fw).descs = s.descs := rfl
@[simp] theorem modWg_ended : (modWg s n fw).ended = s.ended := rfl
@[simp] theorem modWg_racechk : (modWg s n fw).racechk = s.racechk := rfl
@[simp] theorem modWg_wpa : (modWg s n fw).wpa = s.wpa := rfl
@[simp] theorem modWg_wpc : (modWg s n fw).wpc = s.wpc := rfl
@[simp] theorem modWg_courtTlb : (modWg s n fw).courtTlb = s.courtTlb := rfl
@[simp] theorem modWg_courtCode : (modWg s n fw).courtCode = s.courtCode := rfl
@[simp] theorem modWg_courtQ : (modWg s n fw).courtQ = s.courtQ := rfl
@[simp] theorem modWg_walkers : (modWg s n fw).walkers = s.walkers := rfl
@[simp] theorem modWg_walkNext : (modWg s n fw).walkNext = s.walkNext := rfl
@[simp] theorem modWg_walked : (modWg s n fw).walked = s.walked := rfl
@[simp] theorem modWg_walkCache : (modWg s n fw).walkCache = s.walkCache := rfl
@[simp] theorem modWg_netTlb : (modWg s n fw).netTlb = s.netTlb := rfl
@[simp] theorem modWg_counters : (modWg s n fw).counters = s.counters := rfl
@[simp] theorem modWg_queues : (modWg s n fw).queues = s.queues := rfl
@[simp] theorem modWg_window : (modWg s n fw).window = s.window := rfl
@[simp] theorem modWg_streams : (modWg s n fw).streams = s.streams := rfl
@[simp] theorem modWg_aged : (modWg s n fw).aged = s.aged := rfl
@[simp] theorem modWg_placedAt : (modWg s n fw).placedAt = s.placedAt := rfl
@[simp] theorem modWg_launches : (modWg s n fw).launches = s.launches := rfl
@[simp] theorem modWg_childSeq : (modWg s n fw).childSeq = s.childSeq := rfl
@[simp] theorem modWg_teams : (modWg s n fw).teams = s.teams := rfl
@[simp] theorem modWg_saved : (modWg s n fw).saved = s.saved := rfl
@[simp] theorem modWg_units : (modWg s n fw).units = s.units := rfl
@[simp] theorem modWg_host : (modWg s n fw).host = s.host := rfl
@[simp] theorem modWg_qps : (modWg s n fw).qps = s.qps := rfl
@[simp] theorem modWg_memKeys : (modWg s n fw).memKeys = s.memKeys := rfl
@[simp] theorem modWg_netWait : (modWg s n fw).netWait = s.netWait := rfl
@[simp] theorem modWg_netOut : (modWg s n fw).netOut = s.netOut := rfl
@[simp] theorem modWg_netHeld : (modWg s n fw).netHeld = s.netHeld := rfl
@[simp] theorem modWg_replay : (modWg s n fw).replay = s.replay := rfl
@[simp] theorem modWg_agenda : (modWg s n fw).agenda = s.agenda := rfl
@[simp] theorem modWg_fresh : (modWg s n fw).fresh = s.fresh := rfl
@[simp] theorem modWg_flitSeq : (modWg s n fw).flitSeq = s.flitSeq := rfl
@[simp] theorem modWg_unanswered : (modWg s n fw).unanswered = s.unanswered := rfl
@[simp] theorem modWg_refusing : (modWg s n fw).refusing = s.refusing := rfl
@[simp] theorem modWg_stamp : (modWg s n fw).stamp = s.stamp := rfl
@[simp] theorem modWg_now : (modWg s n fw).now = s.now := rfl
@[simp] theorem modWg_iss : (modWg s n fw).iss = s.iss := rfl

end

end Sys2Proof.Laws
end

