-- ==== Sys2Proof/Laws/Perform.lean ====
section
/-!
SUPPORT. What `perform` does with an instruction whose operands can be read and whose lanes all answer: it completes on
its whole path.
-/

namespace Sys2Proof.Laws
open Sys2Proof.Machine

/-! ## Sources -/

theorem readLane_ok {s : State} {sh : Shape} {rs : List Rd} {l : Nat}
    (h : (∀ p ∈ withPos rs, latchCheck s l p.1 p.2 = none ∧ deadCheck s l p.2 = none) ∧
      destCheck s sh.dst sh.words = none) :
    readLane (begun s) sh.dst sh.words rs l = .ok (laneVals s rs l) := by
  have h1 : (withPos rs).findSome? (fun p => latchCheck (begun s) l p.1 p.2) = none :=
    List.findSome?_eq_none_iff.2 (fun p hp => (h.1 p hp).1)
  have h2 : (withPos rs).findSome? (fun p => deadCheck (begun s) l p.2) = none :=
    List.findSome?_eq_none_iff.2 (fun p hp => (h.1 p hp).2)
  have h3 : destCheck (begun s) sh.dst sh.words = none := h.2
  simp only [readLane, h1, h2, h3]
  rfl

/-- The value that a table made from a list by a function gives for a member of the list. -/
theorem find?_map_pair {β : Type} (ls : List Nat) (g : Nat → β) {l : Nat} (h : l ∈ ls) :
    ((ls.map (fun l => (l, g l))).find? (fun e => decide (e.1 = l))).map Prod.snd = some (g l) := by
  induction ls with
  | nil => simp at h
  | cons a r ih =>
    simp only [List.map_cons, List.find?_cons]
    by_cases ha : a = l
    · subst ha; simp
    · simp only [ha, decide_false]
      exact ih ((List.mem_cons.1 h).resolve_left (fun e => ha e.symm))

/-! ## Lanes in turn -/

theorem answer_some {α : Type} {a : Act α} {s t : State} {o : α} :
    answer a s = some (t, o) ↔ a s = (.ok o, t) := by
  unfold answer
  constructor
  · intro h
    split at h
    · rename_i heq; obtain ⟨rfl, rfl⟩ := Prod.mk.inj (Option.some.inj h); exact heq
    · cases h
  · intro h; rw [h]

theorem runLanes_inTurn (f : Nat → Act Out) (ls : List Nat) (s s1 : State) (outs : List (Nat × Out))
    (acc : List (Nat × Except Halt Out)) (h : inTurn (fun t l => answer (f l) t) s ls = some (s1, outs)) :
    ls.foldl (fun r l => let x := (f l) r.1; (x.2, r.2 ++ [(l, x.1)])) (s, acc) =
      (s1, acc ++ outs.map (fun e => (e.1, .ok e.2))) := by
  induction ls generalizing s acc outs with
  | nil => simp only [inTurn, Option.some.injEq, Prod.mk.injEq] at h; obtain ⟨rfl, rfl⟩ := h; simp
  | cons l r ih =>
    simp only [inTurn] at h
    split at h
    · cases h
    · rename_i s2 o heq
      rw [answer_some] at heq
      simp only [Option.map_eq_some_iff] at h
      obtain ⟨⟨s3, outs'⟩, h1, h2⟩ := h
      simp only [Prod.mk.injEq] at h2
      obtain ⟨rfl, rfl⟩ := h2
      have hl : (f l) s = (.ok o, s2) := heq
      simp only [List.foldl_cons, hl]
      rw [ih s2 outs' _ h1]
      simp

theorem inTurn_congr {β : Type} (f g : State → Nat → Option (State × β)) (ls : List Nat) (s : State)
    (h : ∀ t, ∀ l ∈ ls, f t l = g t l) : inTurn f s ls = inTurn g s ls := by
  induction ls generalizing s with
  | nil => rfl
  | cons l r ih =>
    simp only [inTurn, h s l (List.mem_cons_self)]
    split
    · rfl
    · rw [ih _ (fun t k hk => h t k (List.mem_cons_of_mem _ hk))]

theorem runLanes_answers (f : Nat → Act Out) (ls : List Nat) (s s1 : State) (outs : List (Nat × Out))
    (h : inTurn (fun t l => answer (f l) t) s ls = some (s1, outs)) :
    runLanes s ls f = (s1, outs.map (fun e => (e.1, .ok e.2))) :=
  runLanes_inTurn f ls s s1 outs [] h

theorem runLanes_congr (f g : Nat → Act Out) (ls : List Nat) (s : State) (h : ∀ l ∈ ls, f l = g l) :
    runLanes s ls f = runLanes s ls g := by
  unfold runLanes
  refine List.foldl_ext _ _ _ (fun r l hl => ?_)
  rw [h l hl]

/-- Lanes that change nothing answer each by itself. -/
theorem inTurn_pure {β : Type} (g : Nat → β) (ls : List Nat) (s : State) :
    inTurn (fun t l => some (t, g l)) s ls = some (s, ls.map (fun l => (l, g l))) := by
  induction ls with
  | nil => rfl
  | cons l r ih => simp [inTurn, ih]

/-! ## Completion -/

/-- An instruction whose operands can be read and whose active lanes answer one after another, each to go on at once,
completes. -/
theorem performOn_completes (s s1 : State) (sh : Shape) (rs : List Rd) (f : Nat → List Nat → Act Out)
    (outs : List (Nat × Out)) (hr : Readable s sh rs)
    (ht : inTurn (fun t l => answer (f l (laneVals s (readsOf sh.first rs l) l)) t) (begun s) (act s sh) = some (s1, outs))
    (hp : ∀ e ∈ outs, e.2.stay = none ∧ e.2.after = none) :
    performOn s sh rs f = completed s sh rs s1 outs := by
  have hw : loadWait (begun s) sh.dst sh.words rs = none := hr.1
  have hrun := runLanes_answers (fun l => f l (laneVals s (readsOf sh.first rs l) l)) (act s sh) (begun s) s1 outs ht
  have hw' : waitsOf (outs.map (fun e => (e.1, .ok e.2))) = [] := by
    simp [waitsOf, List.filterMap_map]
  have hs : stalls (outs.map (fun e => (e.1, .ok e.2))) = false := by
    simp [stalls]
  have htr : trapsOf (outs.map (fun e => (e.1, .ok e.2))) = [] := by
    simp [trapsOf, List.filterMap_map]
  have hou : outsOf (outs.map (fun e => (e.1, .ok e.2))) = outs := by
    simp [outsOf, List.filterMap_map]
  have hst : outs.filterMap (fun e => e.2.stay.map (fun w => (e.1, w))) = [] := by
    rw [List.filterMap_eq_nil_iff]; intro e he; simp [(hp e he).1]
  have hdn : outs.filter (fun e => e.2.stay.isNone) = outs := by
    rw [List.filter_eq_self]; intro e he; simp [(hp e he).1]
  have hla : outs.filterMap (fun e => e.2.after.map (fun t => (e.1, t))) = [] := by
    rw [List.filterMap_eq_nil_iff]; intro e he; simp [(hp e he).2]
  unfold performOn
  dsimp only
  rw [hw]
  dsimp only
  rw [show activeLanes (begun s) sh.head.guard = act s sh from rfl,
    runLanes_congr _ (fun l => f l (laneVals s (readsOf sh.first rs l) l)) _ _ (fun l hl => by
      rw [find?_map_pair _ _ hl, readLane_ok (hr.2 l hl)]), hrun]
  simp only [hs, hw', htr, hou, hst, hdn, hla, groupTraps, List.length_nil, Nat.lt_irrefl, decide_false,
    Bool.and_false, Bool.false_and, if_false, Bool.false_eq_true, List.isEmpty_nil, Bool.not_true]
  simp only [parkGroups, containAll, List.foldl_nil, List.map_nil, List.isEmpty_nil, Bool.not_true, Bool.and_false,
    if_false, Bool.false_eq_true, List.any_nil, List.contains_nil, Bool.not_false, Bool.and_true, List.filter_true]
  rfl

/-- An instruction that only computes completes. -/
theorem performOn_plainly (s : State) (sh : Shape) (rs : List Rd) (f : Nat → List Nat → Out) (hr : Readable s sh rs)
    (h1 : sh.first = none)
    (hp : ∀ l ∈ act s sh, (f l (laneVals s rs l)).stay = none ∧ (f l (laneVals s rs l)).after = none) :
    performOn s sh rs (fun l v => pure (f l v)) = plainly s sh rs f := by
  refine performOn_completes s (begun s) sh rs _ _ hr ?_ ?_
  · rw [h1]
    exact inTurn_pure (fun l => f l (laneVals s rs l)) _ _
  · intro e he
    obtain ⟨l, hl, rfl⟩ := List.mem_map.1 he
    exact hp l hl

end Sys2Proof.Laws
end

