-- ==== Sys2Proof/Laws/Record.lean ====
section
/-!
SUPPORT. What the record of a workgroup gives back of a thread's state (R244, log entry 30): the words of a state and of a wait
name it.
-/

namespace Sys2Proof.Laws

open Sys2Proof.Machine

/-- The words of a wait give it back. -/
theorem waitOf_words (w : Wait) : waitOf w.words.1 w.words.2 = w := by
  cases w <;> simp [Wait.words, waitOf]

/-- The words of a state give it back. -/
theorem stateFrom_words (t : TState) :
    stateFrom t.words.1 t.words.2.1 t.words.2.2.1 t.words.2.2.2 = t := by
  cases t with
  | hudl id key d next =>
    cases d with
    | none =>
      simp only [TState.words, stateFrom, BitVec.ofNat_toNat, BitVec.setWidth_eq, if_true, TState.hudl.injEq, and_true]
      constructor <;> (apply BitVec.eq_of_toNat_eq; simp only [BitVec.toNat_ofNat]; omega)
    | some x =>
      simp only [TState.words, stateFrom, BitVec.ofNat_toNat, BitVec.setWidth_eq, TState.hudl.injEq, and_true]
      refine ⟨?_, ?_, ?_⟩
      · apply BitVec.eq_of_toNat_eq; simp only [BitVec.toNat_ofNat]; omega
      · apply BitVec.eq_of_toNat_eq; simp only [BitVec.toNat_ofNat]; omega
      · have h : ¬ (1 + x.toNat = 0) := by omega
        exact (if_neg h).trans (by rw [Nat.add_sub_cancel_left]; simp)
  | trapping c d op =>
    simp only [TState.words, stateFrom, BitVec.ofNat_toNat, BitVec.setWidth_eq, TState.trapping.injEq, true_and]
    constructor
    · apply BitVec.eq_of_toNat_eq; simp only [BitVec.toNat_ofNat]; omega
    · omega
  | wait w => cases w <;> simp [TState.words, Wait.words, stateFrom, waitOf]
  | _ => simp [TState.words, stateFrom]

end Sys2Proof.Laws
end

