-- ==== Sys2Proof/Tests/Slice0.lean ====
section
/-!
SUPPORT. Tests: ill-formed terms that the checks refuse, words written out from the encoding tables, single steps of small states,
and for each statement with hypotheses a state and operands that meet them.
-/

namespace Sys2Proof.Tests
open Sys2Proof Sys2Proof.Machine Sys2Proof.Claims

/-! ## Helpers -/

/-- A head without a guard or controls, the same with a guard on p0, and a safe point with an empty mask. -/
def plain : Head := { guard := .always, eor := false, sp := none, stall := 0, yld := false }
def onP0 : Head := { plain with guard := .p false 0 }

def v (n : BitVec 8) : Src := .v n .none false
def s (n : BitVec 6) : Src := .s n false

/-! ## Ill-formed terms are refused -/

theorem test_wf_accepts : (Instr.iadd plain (.v 4) (v 2) (s 6) .n64 false).wf = true := by decide
theorem test_wf_pair_odd : (Instr.iadd plain (.v 5) (v 2) (v 4) .n64 false).check = some .register := by decide
theorem test_wf_source_pair_odd : (Instr.iadd plain (.v 4) (v 3) (v 4) .n64 false).check = some .register := by decide
theorem test_wf_s_pair_odd : (Instr.mov plain (.v 4) (s 3) .w64).check = some .register := by decide
theorem test_wf_group : (Instr.qpk plain (.v 4) (v 2) (v 4) (v 9) .e4m3 .b32).check = some .register := by decide
theorem test_wf_group_not_s : (Instr.keyld plain (s 4)).check = some .selector := by decide
theorem test_wf_group_not_zero : (Instr.keyld plain .zero).check = some .selector := by decide
theorem test_wf_unguarded : (Instr.bar onP0 1).check = some .modifier := by decide
theorem test_wf_narrow : (Instr.bscl plain (.v 4) (v 2) .bf16).check = some .modifier := by decide
theorem test_wf_logic_float : (Instr.redx plain (.v 4) (v 2) .xor .f32).check = some .modifier := by decide
theorem test_wf_scan_float : (Instr.scan plain (.v 4) (v 2) (v 3) .xadd .f32).check = some .modifier := by decide
theorem test_wf_load_order :
    (Instr.ld plain (.v 4) (.v 2 false) 0 .w32 (.marked .rel .dev) .none).check = some .modifier := by decide
theorem test_wf_load_not_s : (Instr.ld plain (.s 4) (.v 2 false) 0 .w32 .plain .none).check = some .selector := by decide
theorem test_wf_base_odd : (Instr.ld plain (.v 4) (.v 3 false) 0 .w32 .plain .none).check = some .register := by decide
theorem test_wf_store_order :
    (Instr.st plain (.v 2 false) 0 (.v 4 false) .w32 (.marked .acq .dev) .none).check = some .modifier := by decide
theorem test_wf_store_width :
    (Instr.st plain (.v 2 false) 0 (.v 4 false) .i8 .plain .none).check = some .modifier := by decide
theorem test_wf_store_data_odd :
    (Instr.st plain (.v 2 false) 0 (.v 5 false) .w64 .plain .none).check = some .register := by decide
theorem test_wf_fence : (Instr.fence plain .rlx .dev).check = some .modifier := by decide
theorem test_wf_huddle : (Instr.hudl plain (.v 4) (v 2) 0).check = some .selector := by decide
theorem test_wf_barn : (Instr.barn plain .zero (v 2)).check = some .selector := by decide
theorem test_wf_racechk : (Instr.mtsr plain (v 2) .racechk).check = some .sreg := by decide
theorem test_wf_exact : (Instr.cvtf plain (.v 4) (v 2) .f64f32 (.dir .rz)).check = some .modifier := by decide

/-! ## Words of the spec's worked cases (R304, R338, R377, R404 and the programs) -/

theorem test_decode_iadd :
    decodeTableWord 96 0x000A0400A030000E82C00008 =
      some (.iadd { plain with guard := .p false 2, eor := true } (.v 5) (.v 6 .none true) (.v 7 (.rot 1) false) .i32 false) := by
  decide
theorem test_decode_ffma :
    decodeTableWord 96 0x40DC20018020000A40830041 =
      some (.ffma { plain with stall := 2 } (.v 12) (v 4) (.v 5 (.bc 0) false) (s 6) .rz) := by decide
theorem test_decode_cpy :
    decodeTableWord 96 0xC0020030003000A000000040 =
      some (.cpy { onP0 with eor := true } { sa := v 6, eoff := 0x40 } 5 none) := by decide
theorem test_decode_cpy_guarded :
    decodeTableWord 96 0xC0020030003000B200000040 =
      some (.cpy { onP0 with eor := true } { sa := v 6, eoff := 0x40 } 5 (some 2)) := by decide
theorem test_decode_wtag : decodeTableWord 96 0xC21C00300C00004000000000 = some (.wtag plain 2) := by decide
theorem test_decode_mma :
    decodeTableWord 96 0xD01C003008500070000000C0 = some (.mma plain { sa := s 10, eoff := 0xC0 } 3 (some 0)) := by decide
theorem test_decode_lnch :
    decodeTableWord 96 0xEC1C0002C850000000000000 = some (.lnch plain (.v 22) { sa := s 10, eoff := 0 }) := by decide
theorem test_decode_npost :
    decodeTableWord 96 0xD80000300850000000000000 = some (.npost onP0 { sa := s 10, eoff := 0 }) := by decide
theorem test_decode_meet : decodeTableWord 96 0xE15C00300C00040005000000 = some (.meet plain 5) := by decide
theorem test_decode_bra : decodeTableWord 96 0xE00000300C00000000000003 = some (.bra onP0 3 none) := by decide
/-- A mask word is no instruction: detail 0x07 (R315). -/
theorem test_decode_mask : decodeWords 0xFFC00000000000000080C040 0 = .error .mask := by decide
/-- The safe point of the worked case of R316: FADD with SP = 1 and its mask word. -/
theorem test_decode_safe_point :
    decode (bytesOf 12 (0x100 * 2 ^ 86 + 7 * 2 ^ 82 + 2 ^ 80 + 8 * 2 ^ 61 + 0x900 * 2 ^ 43 + 0xA00 * 2 ^ 25 + 0x18000 * 2 ^ 7 + 0x40) ++
        bytesOf 12 0xFFC000000000000001804000) =
      .ok (.fadd { plain with sp := some { vlive := 6, slive := 1, alive := 0, tags := false, guards := false } } (.v 8) (v 9) (v 10)
        (.dir .rn), []) := by decide

/-! ## Words written out field by field (R296, R305, R306, R312), one of each other family -/

/-- A word of the fields that stand at given bit positions. -/
def fields (fs : List (Nat × Nat)) : Nat := (fs.map (fun f => f.2 * 2 ^ f.1)).sum

/-- MOVI.n32 v4, 1000. -/
theorem test_decode_movi :
    decodeTableWord 96 (fields [(86, 0x0C0), (82, 7), (61, 4), (43, 0x18000), (35, 0), (0, 1000)]) =
      some (.movi plain (.v 4) 1000 .n32) := by decide
/-- SHFL.lead.g32 v4, v2, 1, zero: selector 0x201 is the literal 1. -/
theorem test_decode_shfl :
    decodeTableWord 96 (fields [(86, 0x200), (82, 7), (61, 4), (43, 0x200), (25, 0x20100), (7, 0x18000), (0, 5 * 8 + 3)]) =
      some (.shfl plain (.v 4) (v 2) (.imm 1) .zero .lead 5) := by decide
theorem test_decode_pmov :
    decodeTableWord 96 (fields [(86, 0x244), (82, 7), (61, 4), (43, 0x18000), (25, 0x18000), (7, 0x18000)]) =
      some (.pmov plain (.read (.v 4))) := by decide
/-- LD.n32.acq.dev v4, [v2:v3 + 16] with hint none. -/
theorem test_decode_ld :
    decodeTableWord 96 (fields [(86, 0x280), (82, 7), (61, 4), (51, 2), (41, 0x180), (38, 4), (35, 2), (32, 3), (0, 16)]) =
      some (.ld plain (.v 4) (.v 2 false) 16 .w32 (.marked .acq .dev) .none) := by decide
/-- ST.n64 [v2:v3 - 8], v4:v5: the offset is signed. -/
theorem test_decode_st :
    decodeTableWord 96 (fields [(86, 0x281), (82, 7), (61, 0x180), (51, 2), (41, 4), (38, 5), (0, 2 ^ 30 - 8)]) =
      some (.st plain (.v 2 false) (-8) (.v 4 false) .w64 .plain .none) := by decide
theorem test_decode_atom :
    decodeTableWord 96 (fields [(86, 0x2A0), (82, 7), (61, 4), (51, 2), (41, 6), (38, 4), (35, 1), (32, 3)]) =
      some (.atomAdd plain (.v 4) (.v 2 false) 0 (.v 6 false) .w32 .rlx .dev .none) := by decide
theorem test_decode_bar :
    decodeTableWord 96 (fields [(86, 0x388), (82, 7), (61, 0x180), (43, 0x18000), (25, 0x18000), (7, 0x18000), (0, 9)]) =
      some (.bar plain 9) := by decide
theorem test_decode_svc :
    decodeTableWord 96 (fields [(86, 0x3A1), (82, 7), (61, 0x180), (43, 0x600), (25, 0x18000), (7, 0x18000)]) =
      some (.svc plain (v 6)) := by decide
/-- MFSR v4, FPCTL: register 0x004 in [42:31]. -/
theorem test_decode_mfsr :
    decodeTableWord 96 (fields [(86, 0x3E0), (82, 7), (61, 4), (43, 0x18000), (31, 4)]) = some (.mfsr plain (.v 4) .fpctl) := by
  decide
theorem test_decode_nop :
    decodeTableWord 96 (fields [(86, 0x39A), (82, 7), (61, 0x180), (43, 0x18000), (25, 0x18000), (7, 0x18000)]) =
      some (.nop plain) := by decide

/-! ## Small states -/

/-- A thread that stands Ready at its code's start. -/
def thr : Thread :=
  { pc := 0, mr := 0xFFFFFFFF, csp := 0, pred := 0, fpctl := 0, fpstat := 0, age := 0, region := [], depth := 0, home := 192, tidx := 0,
    st := .ready, handler := none, cbase := 0, pend52 := false, pend71 := none, pendSince := 0, held := false, yielded := false,
    stopMask := none, kept := [], resume := 0, due := [], pass := none, cmpst := none, escOk := false, group := 0, park := none }

/-- Its workgroup: one warp of one thread in slot 0 of core 0, in context 1, with 8 v registers. -/
def wg : Wg := { Wg.empty with hm := 1, nthreads := 1, regc := 1, slots := [0] }

/-- The context's descriptor, and one page of it at 0x1000 in physical page 0x10000. -/
def desc : Desc := { Desc.invalid with v := true }
def leaf : TlbEntry := { hm := 1, va := 1, log := 12, pa := 0x10000, sk := false, mt := false, w := true, x := true, d := true }

/-- A slot with one thread, an s register s6 = 5, a pair s2:s3 = 0x1000, and a v register v2 = 7 that is uniform. -/
def slot (t : Thread) : Slot :=
  { Slot.empty with
    wg := some 192, threads := [(0, t)], sregs := [(2, 0x1000), (3, 0), (6, 5)], vmap := [(2, { form := .uniform, rel := 0 })],
    cells := [(2, 7)] }

/-- The seals of the context's descriptor in memory, and of some sectors of its page. -/
def seals (ns : List Nat) : Tab Seal := (List.range 16).map (fun i => (16 + i, Seal.device)) ++ ns.map (fun n => (n, .key 5))

/-- That warp's path about to issue; the same with another thread; and a path of the umpire. -/
def warpOf (t : Thread) : State :=
  { State.reset with
    cores := [(0, { Core.reset with slots := [(0, slot t)], pageMap := (0, 0x00040800) :: Core.reset.pageMap, tlb := [leaf] })], wgs := [(192, wg)], descs := [(1, desc)], keys := [(0, 5)], seals := seals [0x1001],
    iss := { core := 0, quarter := 0, slot := 0, lanes := 1, pc := 0 } }
def warp : State := warpOf thr
def umpire : State :=
  { State.reset with
    cores := [(0, { Core.reset with slots := [(16, { slot thr with wg := none })] })],
    iss := { core := 0, quarter := 0, slot := 16, lanes := 1, pc := 0 } }

theorem rd_iff {s : State} {sh : Shape} {rs : List Rd} : Readable s sh rs ↔ (loadWait s sh.dst sh.words rs = none ∧
    ∀ l ∈ act s sh, (∀ p ∈ withPos (readsOf sh.first rs l), latchCheck s l p.1 p.2 = none ∧ deadCheck s l p.2 = none) ∧
      destCheck s sh.dst sh.words = none) := Iff.rfl


/-! ## Single steps -/

/-- The state after an instruction. -/
def after (i : Instr) (s : State) : State := match exec i s with | .next t => t | _ => s

/-- R330: a 32-bit sum wraps: 5 + 0xFFFF_FFFF is 4; with `.sat` it stays at the largest value of `.n32`. -/
theorem test_iadd_wraps : vWord (after (.iaddI plain (.v 4) (Tests.s 6) 0xFFFFFFFF .n32 false) warp) 0 0 4 0 = 4 := by rfl
theorem test_iadd_saturates :
    vWord (after (.iaddI plain (.v 4) (Tests.s 6) 0xFFFFFFFF .n32 true) warp) 0 0 4 0 = 0xFFFFFFFF := by rfl
/-- R333: a shift by the width or more gives 0. -/
theorem test_shl_wide : vWord (after (.shlI plain (.v 4) (Tests.s 6) 32 .n32) warp) 0 0 4 0 = 0 := by rfl
/-- R122: 5 - 7 with the source that is also the destination. -/
theorem test_isub_same : vWord (after (.isub plain (.v 2) (Tests.s 6) (v 2) .i32 false) warp) 0 0 2 0 = 0xFFFFFFFE := by rfl
/-- R338: 1.0 + 1.0 is 2.0 in FP32. -/
theorem test_fadd :
    vWord (after (.faddI plain (.v 4) (v 2) 0x3F800000 .rn)
      (after (.movi plain (.v 2) 0x3F800000 .n32) warp)) 0 0 4 0 = 0x40000000 := by rfl
/-- R133, R337: a comparison pushes its result: 5 < 7. -/
theorem test_icmp_pushes : (threadAt (after (.icmp plain .discard (Tests.s 6) (v 2) .i32 .lt) warp) 0 0 0).map Thread.pred = some 1 := by
  rfl
/-- R403: a taken branch goes to PC + OFF; R172: a meeting at PC + MOFF. -/
theorem test_bra : (threadAt (after (.bra plain 3 (some 5)) warp) 0 0 0).map (fun t => (t.pc, t.mr)) = some (3, 5) := by rfl
/-- A guard that fails: the lane goes to the next word. -/
theorem test_bra_unguarded : (threadAt (after (.bra onP0 3 none) warp) 0 0 0).map Thread.pc = some 1 := by rfl
/-- R367: a store puts its bytes at the place that the page gives, low byte first. -/
theorem test_st : readByte (after (.st plain (.s 2 false) 16 (.v 2 false) .w32 .plain .none) warp).mem 0x10010 = 7 := by rfl
/-- R65: a misaligned load parks its lane at its own PC, and R311: a privileged instruction does. -/
theorem test_misaligned : (threadAt (after (.ld plain (.v 4) (.s 2 false) 2 .w32 .plain .none) warp) 0 0 0).map Thread.st =
    some (.parked 0) := by rfl
theorem test_privileged : (Tab.get? (coreAt (after (.eret plain .discard .zero) warp) 0).dugout 0).map
    (fun d => (d.cause, d.detail, d.pc)) = some (0x02, 0x00, 0) := by rfl
/-- R423: MTSR HMARK in the umpire's slot. -/
theorem test_hmark : (coreAt (after (.mtsr plain (v 2) .hmark) umpire) 0).hmark = 7 := by rfl

/-! ## States and operands that meet the hypotheses of the statements -/

theorem warp_alone : Alone warp := by unfold Alone Untraced Unreplayed Unsignalled; decide
theorem rows_of {s : State} (h0 : (slotAt s 0 0).vmap = [(2, { form := .uniform, rel := 0 })])
    (h1 : Tab.ordered (coreAt s 0).pageMap = true) (h2 : ceiling s 0 0 = 8)
    (h3 : ∀ r < firstRow s 0 0 + ceiling s 0 0, (pageWith (coreAt s 0) (firstSlot (wgAt s (slotWg s 0 0))) 1 (r / 128)).isSome = true) :
    RowsApart s 0 0 := by
  have h : ∀ e ∈ (slotAt s 0 0).vmap, e = (2, { form := .uniform, rel := 0 }) := fun e he => List.mem_singleton.1 (h0 ▸ he)
  refine ⟨by rw [h0]; rfl, h1, ?_, ?_, fun _ => h3⟩
  · intro e he; obtain rfl := h e he; rw [h2]; exact ⟨by decide, trivial⟩
  · intro e he d hd r h1 h2; obtain rfl := h e he; cases h1

theorem warp_rows : RowsApart warp 0 0 := rows_of rfl rfl rfl (by decide)

theorem test_integer_met : ∃ s i p, integerRule s i = some p ∧ Readable s p.sh p.rs ∧ act s p.sh = [0] := by
  refine ⟨warp, .iadd plain (.v 4) (Tests.s 6) (.imm 1) .n32 false, _, rfl, ?_, by decide⟩
  rw [rd_iff]; decide
theorem test_float_met : ∃ s i p, floatRule s i = some p ∧ Readable s p.sh p.rs ∧ p.quiet s ∧ act s p.sh = [0] := by
  refine ⟨warp, .fadd plain (.v 4) (Tests.s 6) (v 2) (.dir .rn), _, rfl, ?_, ?_, by decide⟩
  · rw [rd_iff]; decide
  · unfold Floating.quiet; decide
theorem test_lane_met : ∃ s i p, laneRule s i = some p ∧ Readable s p.sh p.rs ∧ act s p.sh = [0] := by
  refine ⟨warp, .shfl plain (.v 4) (v 2) (.imm 1) .zero .from 5, _, rfl, ?_, by decide⟩
  rw [rd_iff]; decide
theorem test_change_met : ∃ s i p, changeRule s i = some p ∧ Readable s p.sh p.rs ∧ act s p.sh = [0] := by
  refine ⟨warp, .pdrop plain 1, _, rfl, ?_, by decide⟩
  rw [rd_iff]; decide
theorem test_load_met : ∃ s t i p outs, memoryRule s i = some p ∧ Readable s p.sh p.rs ∧ p.turns s = some (t, outs) ∧ act s p.sh = [0] := by
  refine ⟨warp, ?_, .ld plain (.v 4) (.s 2 false) 16 .w32 .plain .none, _, ?_, rfl, ?_, ?_, by decide⟩
  rotate_left 3
  · rfl
  · rw [rd_iff]; decide
theorem test_store_met : ∃ s t i p outs, memoryRule s i = some p ∧ Readable s p.sh p.rs ∧ p.turns s = some (t, outs) ∧ act s p.sh = [0] := by
  refine ⟨warp, ?_, .st plain (.s 2 false) 16 (.v 2 false) .w32 .plain .none, _, ?_, rfl, ?_, ?_, by decide⟩
  rotate_left 3
  · rfl
  · rw [rd_iff]; decide

theorem test_engine_met : ∃ s t i p outs, engineRule s i = some p ∧ Readable s p.sh p.rs ∧ p.turns s = some (t, outs) ∧ act s p.sh = [0] := by
  refine ⟨warp, ?_, .trdy plain (.v 4) .zero, _, ?_, rfl, ?_, ?_, by decide⟩
  rotate_left 3
  · rfl
  · rw [rd_iff]; decide
theorem test_control_met : ∃ s t i p outs, controlRule s i = some p ∧ Readable s p.does.sh p.does.rs ∧ p.does.turns s = some (t, outs) ∧
    act s p.does.sh = [0] := by
  refine ⟨warp, ?_, .bra plain 3 (some 5), _, ?_, rfl, ?_, ?_, by decide⟩
  rotate_left 3
  · rfl
  · rw [rd_iff]; decide
theorem test_register_met : ∃ s t i p outs, registerRule s i = some p ∧ (p.2 = true → s.iss.slot = 16) ∧ Readable s p.1.sh p.1.rs ∧
    p.1.turns s = some (t, outs) ∧ act s p.1.sh = [0] := by
  refine ⟨warp, ?_, .mtsr plain (v 2) .fpctl, _, ?_, rfl, by decide, ?_, ?_, by decide⟩
  rotate_left 3
  · rfl
  · rw [rd_iff]; decide
theorem test_umpire_register_met : ∃ s t i p outs, registerRule s i = some p ∧ p.2 = true ∧ (p.2 = true → s.iss.slot = 16) ∧
    Readable s p.1.sh p.1.rs ∧ p.1.turns s = some (t, outs) ∧ act s p.1.sh = [0] := by
  refine ⟨umpire, ?_, .mtsr plain (v 2) .hmark, _, ?_, rfl, rfl, by decide, ?_, ?_, by decide⟩
  rotate_left 3
  · rfl
  · rw [rd_iff]; decide
theorem test_privileged_met : ∃ s t i p outs, umpireRule s i = some p ∧ s.iss.slot = 16 ∧ Readable s p.does.sh p.does.rs ∧
    p.does.turns s = some (t, outs) ∧ act s p.does.sh = [0] := by
  refine ⟨umpire, ?_, .tlbiCtx plain (.imm 1), _, ?_, rfl, rfl, ?_, ?_, by decide⟩
  rotate_left 3
  · rfl
  · rw [rd_iff]; decide
theorem test_call_met : ∃ s t i p c d outs, trapRule i = some (p, c, d) ∧ Readable s p.sh p.rs ∧ MayPark s ∧ act s p.sh ≠ [] ∧
    p.turns s = some (t, outs) := by
  refine ⟨warp, ?_, .bkpt plain, _, _, _, ?_, rfl, ?_, ?_, by decide, ?_⟩
  rotate_left 4
  · rfl
  · rw [rd_iff]; decide
  · unfold MayPark; decide
theorem test_svc_met : ∃ s t i p c d outs, trapRule i = some (p, c, d) ∧ Readable s p.sh p.rs ∧ MayPark s ∧ act s p.sh ≠ [] ∧
    p.turns s = some (t, outs) := by
  refine ⟨warp, ?_, .svc plain (.imm 7), _, _, _, ?_, rfl, ?_, ?_, by decide, ?_⟩
  rotate_left 4
  · rfl
  · rw [rd_iff]; decide
  · unfold MayPark; decide
theorem test_svcq_met : ∃ s t i p c d outs, trapRule i = some (p, c, d) ∧ Readable s p.sh p.rs ∧ MayPark s ∧ act s p.sh ≠ [] ∧
    p.turns s = some (t, outs) := by
  refine ⟨warp, ?_, .svcq plain, _, _, _, ?_, rfl, ?_, ?_, by decide, ?_⟩
  rotate_left 4
  · rfl
  · rw [rd_iff]; decide
  · unfold MayPark; decide
/-- A copy that the queue holds, and a TLBI that the host asks for in the first entry of its ring, at address 0. -/
def copying : State :=
  { warp with
    cores := warp.cores.map (fun e => (e.1, { e.2 with
      copyQ := [(0, { wg := 192, hm := 1, form := .cpy, block := [], blkAddr := 0, p := 0, st := .queued, g := none, tag := 0, seq := 0,
                      staged := 0, consumed := 0, ahead := [], exts := [], miss := none, snap := false, uses := [], why := (0, 0),
                      orig := { slot := 0, pc := 0, cbase := 0, top := 0 } })] })) }
def asked : State :=
  { warp with
    mem := [(0x1000000000004, 4), (0x1000000000007, 0x86)]
    host := { warp.host with itail := 1, ibase := 0 } }
theorem test_engine_event_met : ∃ t, engineEvent copying (.copyStart 0 0) = some t := ⟨_, rfl⟩
theorem test_entry_met : ∃ t, ringEvent asked .contextTlbiRequest = some t := ⟨_, rfl⟩
theorem test_issue_event_met : ∃ t, issueEvent warp (.runSelect 0 0) = some t := ⟨_, rfl⟩
theorem test_system_event_met : ∃ t, systemEvent warp (.saveForce 0) = some t := ⟨_, rfl⟩
theorem test_host_event_met : ∃ t, hostEvent warp (.renew 0) = some t := ⟨_, rfl⟩
theorem test_ring_event_met : ∃ t, ringEvent warp .hostServiceRestart = some t := ⟨_, rfl⟩
theorem test_net_event_met : ∃ s t, netEvent s (.netPacketReceive ⟨0, 28, 0, 0, 1, false, 0, 0, 1, 0, 0, 0, 0, []⟩) = some t :=
  ⟨{ warp with host := { warp.host with portst := [(28, .ethernet)] } }, _, rfl⟩

theorem test_privilege_met : needsUmpire (.eret plain .discard .zero) = true ∧ MayPark warp := by unfold MayPark; decide
theorem test_keyld_met : umpire.iss.slot = 16 ∧ fromFirmware umpire = false := by decide
theorem test_umpire_bad_source_met : ∃ s i p l, computing s i = some p ∧ s.iss.slot = 16 ∧
    loadWait s p.sh.dst p.sh.words p.rs = none ∧ l ∈ act s p.sh ∧ (badRead s p.sh p.rs l).isSome = true := by
  exact ⟨umpire, .mov plain (.v 4) (v 3) .w32, _, 0, rfl, by decide, by decide, by decide, by decide⟩
theorem test_bad_source_met : ∃ s i p c d, computing s i = some p ∧ MayPark s ∧ loadWait s p.sh.dst p.sh.words p.rs = none ∧
    act s p.sh ≠ [] ∧ ∀ l ∈ act s p.sh, badRead s p.sh p.rs l = some (c, d) := by
  refine ⟨warp, .mov plain (.v 4) (v 3) .w32, _, 0x04, 0x01, rfl, ?_, by decide, by decide, by decide⟩
  unfold MayPark; decide
/-- The boundary of the ceiling: v7 is the last register of a warp with REGC 1, and v8 lies above it. -/
theorem test_ceiling_met : badRead warp (aluShape plain 0x038 (.v 4) 1) [rdI (v 7) 1] 0 = some (0x04, 0x01) ∧
    badRead warp (aluShape plain 0x038 (.v 4) 1) [rdI (v 8) 1] 0 = some (0x04, 0x03) := by decide
theorem test_latch_met : badRead warp (aluShape plain 0x038 (.v 4) 1) [rdI (.latch 1 .none) 1] 0 = some (0x03, 0x01) := by decide
theorem one_lane {n : Nat} {P : Nat → Prop} {ls : List Nat} (h : ls = [n]) (hp : P n) : ∀ l ∈ ls, P l := by
  subst h; intro l hl; rw [List.mem_singleton.1 hl]; exact hp

theorem test_misaligned_load_met : ∃ s i p r, memoryRule s i = some p ∧ loadReach i = some r ∧ escapes i = false ∧ Readable s p.sh p.rs ∧
    MayPark s ∧ act s p.sh ≠ [] ∧ (∀ l ∈ act s p.sh, ∃ x xs, r l (laneVals s (readsOf p.sh.first p.rs l) l) (begun s) = x :: xs ∧
      x.va.toNat % x.n ≠ 0 ∧ (isContext (hmIn s) = true → (descOf s (hmIn s)).v = true ∧ canonical x.va (descOf s (hmIn s)).l5 = true)) ∧ Alone s := by
  refine ⟨warp, .ld plain (.v 4) (.s 2 false) 2 .w32 .plain .none, _, _, rfl, rfl, rfl, ?_, ?_, by decide, ?_, ?_⟩
  · rw [rd_iff]; decide
  · unfold MayPark; decide
  · exact one_lane (n := 0) (by decide) ⟨_, _, rfl, by decide, fun _ => by decide⟩
  · unfold Alone Untraced Unreplayed Unsignalled; decide
theorem test_misaligned_store_met : ∃ s i p r, memoryRule s i = some p ∧ globalReach s i = some r ∧ (∀ l, rollbackWg s (homeIn s l) = false) ∧
    Readable s p.sh p.rs ∧ MayPark s ∧ act s p.sh ≠ [] ∧
    (∀ l ∈ act s p.sh, ∃ x xs, r l (laneVals s (readsOf p.sh.first p.rs l) l) (begun s) = x :: xs ∧
      x.va.toNat % x.n ≠ 0 ∧ (isContext (hmIn s) = true → (descOf s (hmIn s)).v = true ∧ canonical x.va (descOf s (hmIn s)).l5 = true)) := by
  refine ⟨warp, .atomAdd plain (.v 4) (.s 2 false) 2 (.v 2 false) .w32 .rlx .dev .none, _, _, rfl, rfl, ?_, ?_, ?_, by decide, ?_⟩
  · intro l; unfold rollbackWg launchWord
    rw [show Tab.get? warp.launches (wgAt warp (homeIn warp l)).launch = none from by
      rw [show warp.launches = [] from rfl]; rfl]
    decide
  · rw [rd_iff]; decide
  · unfold MayPark; decide
  · exact one_lane (n := 0) (by decide) ⟨_, _, rfl, by decide, fun _ => by decide⟩
/-- Offset 2 of a workgroup's scratchpad of one page, by a base of 0xF000_0000. -/
def spadWarp : State :=
  { warp with
    wgs := [(192, { wg with spg := 1 })]
    cores := warp.cores.map (fun e => (e.1, { e.2 with slots := [(0, { slot thr with sregs := [(2, 0xF0000000), (3, 0), (6, 5)] })],
                                                       pageMap := (0, 0x00040800) :: (1, 0x00041000) :: Core.reset.pageMap })) }
theorem test_misaligned_spad_met : ∃ s i p r, memoryRule s i = some p ∧ spadReach s i = some r ∧ escapes i = false ∧ Readable s p.sh p.rs ∧
    MayPark s ∧ act s p.sh ≠ [] ∧ (∀ l ∈ act s p.sh, ∃ x xs, r l (laneVals s (readsOf p.sh.first p.rs l) l) (begun s) = x :: xs ∧
      x.va.toNat % x.n ≠ 0 ∧ SpadFits s l x.va x.n) := by
  refine ⟨spadWarp, .sts plain (.s 2 false) 2 (.v 2 false) .w32 .plain, _, _, rfl, rfl, rfl, ?_, ?_, by decide, ?_⟩
  · rw [rd_iff]; decide
  · unfold MayPark; decide
  · exact one_lane (n := 0) (by decide) ⟨_, _, rfl, by decide, by unfold SpadFits; decide⟩
theorem test_float_trap_met : ∃ s i p c, floatRule s i = some p ∧ Readable s p.sh p.rs ∧ MayPark s ∧ act s p.sh ≠ [] ∧
    ∀ l ∈ act s p.sh, p.trap s l = some c := by
  refine ⟨warpOf { thr with fpctl := 2 }, .frcp plain (.v 4) .zero .rn, _, 0x21, rfl, ?_, ?_, by decide, by decide⟩
  · rw [rd_iff]; decide
  · unfold MayPark; decide
theorem test_dugout_free : dugoutFree (coreAt warp 0) = some 0 := by decide
theorem test_selected : (coreAt warp 0).dgSel.toNat = 0 ∧ (pageAddrs [0x1000, 0x1008, 0x3000]).length ≤ 32 := by decide
theorem test_replay_met : ∃ s d th, entryAt s 0 0 = some d ∧ d.cause ≠ 0x70 ∧ d.cause ≠ 0x60 ∧ d.cause ≠ 0x61 ∧ 0 ∈ lanesOf d.lanes ∧
    threadAt s 0 d.slot 0 = some th ∧ th.pc ≠ th.mr :=
  ⟨parkGroup warp 0 0 [0] { cause := 0x12, detail := 0 } 0 0 [] (fun _ => []), _, _, rfl, by decide, by decide, by decide, by decide, rfl, by decide⟩
theorem test_record_met : (0 : Nat) < 32 ∧ ([] : List DWord).length ≤ 32 ∧ (63 : Nat) < 64 := by decide
theorem test_frame_met : ∃ s t i p, computing s i = some p ∧ Undisturbed s i ∧ Readable s p.sh p.rs ∧ Alone s ∧
    RowsApart s s.iss.core s.iss.slot ∧ p.agrees s ∧ act s p.sh = [0] ∧ exec i s = .next t := by
  refine ⟨warp, _, .iadd plain (.v 7) (Tests.s 6) (.imm 1) .n32 false, _, rfl, ?_, ?_, warp_alone, warp_rows, ?_, by decide, rfl⟩
  · intro p h; cases h
  · rw [rd_iff]; decide
  · intro _ l hl k hk
    have h : l = 0 ∧ k = 0 := by
      have : act warp (aluShape plain 0x000 (.v 7) 1) = [0] := by decide
      exact ⟨List.mem_singleton.1 (this ▸ hl), List.mem_singleton.1 (this ▸ hk)⟩
    obtain ⟨rfl, rfl⟩ := h; rfl
theorem test_frame_scalar_met : ∃ t p, computing warp (.mov plain (.s 6) (.imm 5) .w32) = some p ∧ p.sh.dst = .s 6 ∧
    exec (.mov plain (.s 6) (.imm 5) .w32) warp = .next t := ⟨_, _, rfl, rfl, rfl⟩

theorem test_store_frame_met : ∃ s t u i p r outs, memoryRule s i = some p ∧ globalReach s i = some r ∧ Readable s p.sh p.rs ∧ Alone s ∧
    p.turns s = some (u, outs) ∧ exec i s = .next t ∧ LeftAlone s p r 0x10014 := by
  refine ⟨warp, _, ?_, .st plain (.s 2 false) 16 (.v 2 false) .w32 .plain .none, _, _, ?_, rfl, rfl, ?_, warp_alone, ?_, rfl, ?_⟩
  rotate_left 3
  · rfl
  · refine ⟨by decide, ?_⟩
    intro e he x hx u pl h
    have h0 : e = (0, begun warp) := List.mem_singleton.1 he
    subst h0
    have hx0 := List.mem_singleton.1 hx
    subst hx0
    have h1 := Option.some.inj ((show accessAt (begun warp) 0 0x1010 4 false true false = some (_, _) from rfl).symm.trans h)
    obtain ⟨rfl, rfl⟩ := Prod.mk.inj h1
    refine ⟨by decide, ?_⟩
    intro _
    exact ⟨by decide, fun _ _ => by decide⟩
  · rw [rd_iff]; decide
theorem test_load_frame_met : ∃ s t u i p r outs, memoryRule s i = some p ∧ loadReach i = some r ∧ Readable s p.sh p.rs ∧ Alone s ∧
    p.turns s = some (u, outs) ∧ exec i s = .next t ∧ LeftAlone s p r 0x10014 := by
  refine ⟨warp, _, ?_, .ld plain (.v 4) (.s 2 false) 16 .w32 .plain .none, _, _, ?_, rfl, rfl, ?_, warp_alone, ?_, rfl, ?_⟩
  rotate_left 3
  · rfl
  · refine ⟨by decide, ?_⟩
    intro e he x hx u pl h
    have h0 : e = (0, begun warp) := List.mem_singleton.1 he
    subst h0
    have hx0 := List.mem_singleton.1 hx
    subst hx0
    have h1 := Option.some.inj ((show accessAt (begun warp) 0 0x1010 4 true false false = some (_, _) from rfl).symm.trans h)
    obtain ⟨rfl, rfl⟩ := Prod.mk.inj h1
    exact ⟨by decide, fun hw => absurd hw (by decide)⟩
  · rw [rd_iff]; decide
set_option maxRecDepth 100000 in
theorem test_spad_frame_met : ∃ s t u i p r outs, memoryRule s i = some p ∧ spadReach s i = some r ∧ Readable s p.sh p.rs ∧ Alone s ∧
    p.turns s = some (u, outs) ∧ exec i s = .next t ∧ SpadAlone s p r 0 0x4008 := by
  refine ⟨spadWarp, _, ?_, .sts plain (.s 2 false) 4 (.v 2 false) .w32 .plain, _, _, ?_, rfl, rfl, ?_, ?_, ?_, rfl, ?_⟩
  rotate_left 4
  · rfl
  · refine ⟨by decide, ?_⟩
    intro e he x hx h o b _ hp hb _
    have h0 : e = (0, begun spadWarp) := List.mem_singleton.1 he
    subst h0
    have hx0 := List.mem_singleton.1 hx
    subst hx0
    have h1 := Option.some.inj ((show spadPlace (begun spadWarp) 0 0xF0000004 4 = some (192, 4) from rfl).symm.trans hp)
    obtain ⟨rfl, rfl⟩ := Prod.mk.inj h1
    have h2 : b = 0x4004 := (Option.some.inj ((show spadAt (begun spadWarp) 192 4 = some 0x4004 from rfl).symm.trans hb)).symm
    subst h2
    decide
  · rw [rd_iff]; decide
  · unfold Alone Untraced Unreplayed Unsignalled; decide
theorem test_sector_met : (15 % 16 + [(1 : Byte)].length ≤ 16) ∧ [(1 : Byte)] ≠ [] ∧ locked warp 15 = false := by decide
set_option maxRecDepth 100000 in
/-- The three forms that a write finds: v4 is absent, v2 is uniform, and v4 is full once a lane alone has written it. -/
theorem test_forms_met : Tab.get? (slotAt warp 0 0).vmap 4 = none ∧
    Tab.get? (slotAt warp 0 0).vmap 2 = some { form := .uniform, rel := 0 } ∧
    Tab.get? (slotAt (writeV warp 0 0 4 1 false (fun _ => 9)) 0 0).vmap 4 = some { form := .full 4, rel := 0 } := ⟨by decide, by decide, rfl⟩
theorem test_apart_met : RowsApart warp 0 0 ∧ 7 < ceiling warp 0 0 := ⟨warp_rows, by decide⟩
theorem test_uniform_met : srcUniform warp (rdI (v 2) 1) = true ∧
    homeOf warp warp.iss.core warp.iss.slot 0 = slotWg warp warp.iss.core warp.iss.slot := by decide
theorem test_release_met : Tab.ordered (slotAt warp 0 0).vmap = true ∧
    Tab.get? (slotAt warp 0 0).vmap 2 = some { form := .uniform, rel := 0 } ∧
    ((0 : Word) ||| 1) &&& liveLanes (slotAt warp 0 0) = liveLanes (slotAt warp 0 0) ∧
    ((0 : Word) ||| 2) &&& liveLanes (slotAt warp 0 0) ≠ liveLanes (slotAt warp 0 0) := by decide
theorem test_latch_there : (quarterAt warp 0 0).latches[3]? = some Latch.empty := by decide

/-- A context with a handler, whose save area lies in a page that the core's TLB holds. -/
def handling : State :=
  { warp with
    descs := [(1, { desc with sigbase := 64, savebase := 0 })]
    cores := warp.cores.map (fun e => (e.1, { e.2 with tlb := [{ leaf with va := 9 }] })) }
set_option maxRecDepth 100000 in
theorem test_signal_met : ∃ th, threadAt handling 0 0 0 = some th ∧ th.handler = none ∧ (descOf handling 1).sigbase ≠ 0 ∧
    (ctxWrite handling 0 1 (frameAt handling wg 0) (wordsBytes (frameWords handling 0 0 0 th 0x52 0 0 0 true 0))).2 = true ∧
    RowsApart (leavePark (ctxWrite handling 0 1 (frameAt handling wg 0) (wordsBytes (frameWords handling 0 0 0 th 0x52 0 0 0 true 0))).1 0 0 0) 0 0 ∧
    6 ≤ ceiling handling 0 0 :=
  ⟨thr, rfl, rfl, by decide, rfl, rows_of rfl rfl rfl (by decide), by decide⟩

/-- The two lines of the frame: the core holds their page, and they lie in local HBM. -/
def frameBytes : List Byte := wordsBytes (frameWords handling 0 0 0 thr 0x52 0 0 0 true 0)
set_option maxRecDepth 100000 in
theorem test_frame_lines_met : ∃ p q,
    let a := frameAt handling wg 0
    let v := writePlace handling .home 1 p false (frameBytes.take 64)
    a.toNat % 64 = 0 ∧ a.toNat + 128 ≤ 2 ^ 64 ∧ place handling 0 1 a .write = (handling, .ok p) ∧
    place v 0 1 (BitVec.ofNat 64 (a.toNat + 64)) .write = (v, .ok q) ∧ isLocal p.home = true ∧ isLocal q.home = true ∧
    p.home % 64 = 0 ∧ q.home % 64 = 0 ∧ p.home ≠ q.home ∧
    ∀ b < 64, locked handling (p.home + b) = false ∧ locked handling (q.home + b) = false :=
  ⟨_, _, by decide, by decide, rfl, rfl, by decide, by decide, by decide, by decide, by decide, by decide⟩

/-- A frame whose SVM names v2 and not v4, in sectors under the context's key. -/
def returning : State := { handling with mem := [(0x1003C, 1)], seals := seals ((List.range 8).map (0x1000 + ·)) }
set_option maxRecDepth 100000 in
theorem test_svm_met : ∃ u bs, ctxRead returning 0 1 (frameAt returning wg 0) 128 = (u, some bs) ∧
    (BitVec.ofNat 64 (natOf ((bs.drop 56).take 8))).getLsbD 32 = true ∧
    (BitVec.ofNat 64 (natOf ((bs.drop 56).take 8))).getLsbD 33 = false ∧ RowsApart u 0 0 ∧ 6 ≤ ceiling u 0 0 :=
  ⟨_, _, rfl, rfl, rfl, rows_of rfl rfl rfl (by decide), by decide⟩

set_option maxRecDepth 100000 in
theorem test_sigret_met : ∃ th u bs, threadAt handling 0 0 0 = some th ∧
    ctxRead handling 0 (wgAt handling th.home).hm (frameAt handling wg 0) 128 = (u, some bs) := ⟨thr, _, _, rfl, rfl⟩

theorem test_choice_met : slotReady umpire 0 16 = true ∧ (quarterAt umpire 0 0).prevUmpire = false ∧
    ∃ s, (quarterAt s 0 0).prevUmpire = true ∧ [0, 1, 2, 3].filter (slotReady s 0) ≠ [] :=
  ⟨by decide, by decide, { warp with cores := warp.cores.map (fun e => (e.1, { e.2 with quarters := [(0, { Quarter.reset with prevUmpire := true })] })) },
    by decide, by decide⟩
theorem test_choice_exception_met : ∃ s, (quarterAt s 0 0).prevUmpire = true ∧ slotReady s 0 16 = true ∧
    [0, 1, 2, 3].filter (slotReady s 0) ≠ [] :=
  ⟨{ warp with
      cores := warp.cores.map (fun e => (e.1, { e.2 with
        slots := [(0, slot thr), (16, { slot thr with wg := none })], quarters := [(0, { Quarter.reset with prevUmpire := true })] })) },
    by decide, by decide, by decide⟩
theorem test_hmark_met : umpire.iss.slot = 16 := by decide
/-- The registers' scopes: a thread, its workgroup, a dugout with room, and a workgroup in the slot that SEL names. -/
theorem test_scopes_met : (threadAt warp warp.iss.core warp.iss.slot 0).isSome = true ∧
    (Tab.get? warp.wgs (homeIn warp 0)).isSome = true ∧ (coreAt warp warp.iss.core).dugout.length ≤ 32 ∧
    (slotAt warp warp.iss.core 0).wg = some 192 ∧ Tab.get? warp.wgs 192 = some wg ∧ (slotAt warp warp.iss.core 16).wg = none := by decide
/-- A well-formed descriptor of context 1 at 0x100, and one with a bit in its reserved word at 0x38. -/
theorem test_descriptor_met : descWellFormed (fun i => devWord warp (0 + 256 * 1 + 8 * i)) = true ∧
    poisonIn warp (0 + 256 * 1) 256 = none ∧
    descWellFormed (fun i => devWord { warp with mem := [(0x138, 1)] } (0 + 256 * 1 + 8 * i)) = false := by decide
theorem test_context_met : isContext 1 = true ∧ (0 : Nat) < 1 ∧ meets leaf 1 1 = true := by decide
theorem test_queue_met : (255 : Nat) < 256 := by decide

theorem test_reserved_met : ∃ s t, ReservedZero s ∧ step s = .next t := by
  refine ⟨{ State.reset with agenda := [.ev .streamAgeing] }, _, ⟨fun _ => ?_, fun _ n => ?_, fun _ n => ?_, fun n => ?_⟩, rfl⟩
  · show (0 : DWord) &&& _ = 0; decide
  · show (0 : DWord) &&& _ = 0; decide
  · show (0 : Half) &&& _ = 0; decide
  · show (0 : Word) &&& _ = 0; decide
theorem test_canonical_met : ∃ s t, Memory.wf s.mem = true ∧ step s = .next t :=
  ⟨{ warp with agenda := [.ev .streamAgeing] }, _, by decide, rfl⟩
theorem test_event_met : ({ warp with agenda := [.ev .streamAgeing] } : State).agenda = .ev .streamAgeing :: [] ∧
    isEvent .streamAgeing = true := ⟨rfl, by decide⟩
theorem test_encode_met : (Instr.iadd plain (.v 4) (v 2) (Tests.s 6) .n64 false).wf = true ∧
    (Instr.iadd plain (.v 4) (v 2) (Tests.s 6) .n64 false).form.isSome = true := by decide
theorem test_decoded_met : ∃ i r, decode (bytesOf 12 0xE15C00300C00040005000000) = .ok (i, r) := ⟨_, _, rfl⟩
set_option maxRecDepth 100000 in
theorem test_step_met : ∃ s c q r run l ls th i rest, s.agenda = .issue c q :: r ∧
    (let s1 := { tick s with agenda := r }
     (quarterAt s1 c.val q.val).frozen = none ∧ clockStopped s1 = false ∧ (quarterAt s1 c.val q.val).run = some run ∧
     snapping s1 (slotWg s1 c.val run.slot) = false ∧
     runLanesNow s1 c.val run = l :: ls ∧ threadAt s1 c.val run.slot l = some th ∧
     let s2 := { s1 with iss := { core := c.val, quarter := q.val, slot := run.slot, lanes := maskOf (l :: ls), pc := th.pc } }
     let f := fetchInstr s2 c.val (slotHm s2 c.val run.slot) th.cbase th.pc
     f.2.trap = none ∧ f.2.stall = false ∧ f.2.missing = [] ∧ decode f.2.bytes = .ok (i, rest)) := by
  refine ⟨State.reset.withFetchWord 96 (fields [(86, 0x39A), (82, 7), (61, 0x180), (43, 0x18000), (25, 0x18000), (7, 0x18000)]),
    0, 0, [], _, _, _, _, _, _, rfl, rfl, rfl, rfl, rfl, rfl, rfl, rfl, rfl, rfl, rfl⟩
/-- A path whose next word is all zeros: no IADD, since its unused source C does not hold 0x18000 (R304). -/
def stuck : State :=
  { warpOf { thr with cbase := 0x1000 } with
    cores := (warpOf { thr with cbase := 0x1000 }).cores.map (fun e => (e.1, { e.2 with
      quarters := [(0, { Quarter.reset with run := some { slot := 0, lanes := 1, count := 0, start := 0, taken := 0 } })], icache := [{ line := 0x400, hm := 1, key := some 0 }] }))
    seals := seals [0x1000, 0x1001], agenda := [.issue 0 0] }
set_option maxRecDepth 100000 in
theorem test_illegal_met : ∃ s c q r run l ls th e, s.agenda = .issue c q :: r ∧
    (let s1 := { tick s with agenda := r }
     (quarterAt s1 c.val q.val).frozen = none ∧ clockStopped s1 = false ∧ (quarterAt s1 c.val q.val).run = some run ∧
     snapping s1 (slotWg s1 c.val run.slot) = false ∧
     runLanesNow s1 c.val run = l :: ls ∧ threadAt s1 c.val run.slot l = some th ∧
     let s2 := { s1 with iss := { core := c.val, quarter := q.val, slot := run.slot, lanes := maskOf (l :: ls), pc := th.pc } }
     let f := fetchInstr s2 c.val (slotHm s2 c.val run.slot) th.cbase th.pc
     f.2.trap = none ∧ f.2.stall = false ∧ f.2.missing = [] ∧ decode f.2.bytes = .error e ∧ f.1.iss.slot ≠ 16 ∧ (coreAt f.1 f.1.iss.core).dugout.length < 32) := by
  refine ⟨stuck, 0, 0, [], _, _, _, _, .reserved, rfl, rfl, rfl, rfl, rfl, rfl, rfl, rfl, rfl, rfl, rfl, by decide, by decide⟩
/-- The bytes of a thread's record give its registers back (R244, log entry 30). -/
theorem test_thread_record :
    let t := { thr with pc := 0x1230, mr := 7, pred := 5, region := [9, 3], depth := 2, st := .sleeping 77 }
    let bs := (threadNums t).flatMap numBytes
    (takeThread (numsFrom bs.length bs)).1 { t with pc := 0, mr := 0, pred := 0, region := [0, 0], depth := 0, st := .ready } = t := by
  decide
end Sys2Proof.Tests
end

section
/-! SUPPORT. What every step keeps, in one walk over the functions of the step: the reserved bits zero (O53), and with
them memory's canonical form (log entry 3). `Keeps s₀ s` says that `s` has both wherever `s₀` had them, and each function
of the model that makes a state has one lemma `Keeps.<function>`: what it makes of a kept state is kept. The lemmas compose
as the functions do, so a proof repeats its function's body: `h.dropParks.freePages`, a branch at a time. -/

namespace Sys2Proof.Laws
open Sys2Proof.Machine Sys2Proof.Claims

/-! ### Tables -/

section
variable {α : Type}

theorem get?_filter_key (t : Tab α) (p : Nat → Bool) (k : Nat) :
    Tab.get? (t.filter (fun e => p e.1)) k = if p k then Tab.get? t k else none := by
  induction t with
  | nil => simp
  | cons e r ih =>
    obtain ⟨i, y⟩ := e
    rw [List.filter_cons]
    by_cases he : i = k
    · subst he
      by_cases hp : p i = true
      · simp [hp, get?_cons]
      · simp [hp, ih]
    · by_cases hp : p i = true
      · simp [hp, get?_cons, he, ih]
      · simp [hp, get?_cons, he, ih]

theorem getD_filter_key (t : Tab α) (p : Nat → Bool) (k : Nat) (d : α) :
    Tab.getD (t.filter (fun e => p e.1)) k d = if p k then Tab.getD t k d else d := by
  simp only [Tab.getD, get?_filter_key]
  split_ifs
  · rfl
  · rfl

/-- What holds of the default and is kept by the change of every entry stays true of what a key reads. -/
theorem getD_map_snd {t : Tab α} {f : α → α} {k : Nat} {d : α} {P : α → Prop} (hd : P d) (hf : ∀ x, P x → P (f x))
    (h : P (Tab.getD t k d)) : P (Tab.getD (t.map (fun e => (e.1, f e.2))) k d) := by
  induction t with
  | nil => exact hd
  | cons e r ih =>
    obtain ⟨i, y⟩ := e
    simp only [List.map_cons, Tab.getD, get?_cons] at h ih ⊢
    by_cases he : i = k
    · rw [if_pos he] at h ⊢
      exact hf _ h
    · rw [if_neg he] at h ⊢
      exact ih h

end

/-! ### The words with reserved bits -/

theorem ownerWord_reserved (hm : Hm) : (0x8000 ||| hm.setWidth 16 : BitVec 16) &&& 0xBFFF = 0x8000 ||| hm.setWidth 16 := by
  ext i hi
  interval_cases i <;> simp

theorem watchWord_clear {x : Word} {p : Prop} {_ : Decidable p} (hx : x &&& 0xFFFFE007 = x) :
    (if p then x &&& 0xFFFFFFFE else x) &&& 0xFFFFE007 = if p then x &&& 0xFFFFFFFE else x := by
  split_ifs
  · rw [BitVec.and_assoc, BitVec.and_comm 0xFFFFFFFE, ← BitVec.and_assoc, hx]
  · exact hx

theorem and_mask_idem {w : Nat} (x m : BitVec w) : x &&& m &&& m = x &&& m := by
  rw [BitVec.and_assoc, BitVec.and_self]

theorem wf_pieces {m : List Host.Cell} {ps : List (Nat × List Byte)} (h : Memory.wf m = true) :
    Memory.wf (ps.foldl (fun m x => writeBytes m x.1 x.2) m) = true := by
  induction ps generalizing m with
  | nil => exact h
  | cons p r ih => exact ih (wf_writeBytes _ _ h)

/-! ### A core -/

/-- The reserved bits of a core's TRCCTL, counter configurations and tile owners are zero. -/
def CoreZero (k : Core) : Prop :=
  k.trcctl &&& 0x000FFFFFFFFFFFFE = k.trcctl ∧
    (∀ n, Tab.getD k.acfg n 0 &&& 0xFFFFFFFC000000FF = Tab.getD k.acfg n 0) ∧
    ∀ n, Tab.getD k.accown n 0 &&& 0xBFFF = Tab.getD k.accown n 0

theorem reservedZero_iff {s : State} : ReservedZero s ↔
    (∀ c, CoreZero (coreAt s c)) ∧ ∀ n, Tab.getD s.wpc n 0 &&& 0xFFFFE007 = Tab.getD s.wpc n 0 := by
  constructor
  · rintro ⟨ht, hc, ho, hw⟩
    exact ⟨fun c => ⟨ht c, hc c, ho c⟩, hw⟩
  · rintro ⟨hk, hw⟩
    exact ⟨fun c => (hk c).1, fun c => (hk c).2.1, fun c => (hk c).2.2, hw⟩

theorem coreZero_reset : CoreZero Core.reset :=
  ⟨by decide, fun _ => BitVec.zero_and, fun _ => BitVec.zero_and⟩

namespace CoreZero
variable {α : Type} {k : Core}

/-- A core whose tile owners changed, each to a word without the reserved bit. -/
theorem owners {pool cleanPool pageMap} {t : Tab (BitVec 16)} (hk : CoreZero k)
    (ht : ∀ n, Tab.getD k.accown n 0 &&& 0xBFFF = Tab.getD k.accown n 0 → Tab.getD t n 0 &&& 0xBFFF = Tab.getD t n 0) :
    CoreZero { k with pool := pool, cleanPool := cleanPool, pageMap := pageMap, accown := t } := by
  obtain ⟨h1, h2, h3⟩ := hk
  exact ⟨h1, h2, fun n => ht n (h3 n)⟩

theorem filterOwners {pool cleanPool pageMap} {p : Nat → Bool} (hk : CoreZero k) :
    CoreZero { k with
      pool := pool, cleanPool := cleanPool, pageMap := pageMap, accown := k.accown.filter (fun e => p e.1) } :=
  hk.owners fun n hn => by
    rw [getD_filter_key]
    split_ifs
    · exact hn
    · rfl

theorem dropOwner {pool cleanPool} {ts : Nat} (hk : CoreZero k) :
    CoreZero { k with pool := pool, cleanPool := cleanPool, accown := Tab.del k.accown ts } :=
  hk.owners fun n hn => by
    rw [getD_del]
    split_ifs
    · rfl
    · exact hn

theorem setOwner {ts : Nat} {x : BitVec 16} (hk : CoreZero k) (hx : x &&& 0xBFFF = x) :
    CoreZero { k with accown := Tab.set k.accown ts x } :=
  hk.owners fun n hn => by
    rw [getD_set]
    split_ifs
    · exact hx
    · exact hn

theorem setConfig {n : Nat} {x : DWord} (hk : CoreZero k) :
    CoreZero { k with acfg := Tab.set k.acfg n (x &&& 0xFFFFFFFC000000FF) } := by
  obtain ⟨h1, h2, h3⟩ := hk
  refine ⟨h1, fun m => ?_, h3⟩
  rw [getD_set]
  split_ifs
  · exact and_mask_idem _ _
  · exact h2 m

theorem configs {acnt} {l : List Nat} {f : Nat → DWord} (hk : CoreZero k) :
    CoreZero { k with acfg := l.map (fun i => (i, f i &&& 0xFFFFFFFC000000FF)), acnt := acnt } := by
  obtain ⟨h1, -, h3⟩ := hk
  refine ⟨h1, fun n => ?_, h3⟩
  induction l with
  | nil => exact BitVec.zero_and
  | cons i r ih =>
    simp only [List.map_cons, Tab.getD, get?_cons] at ih ⊢
    split_ifs
    · exact and_mask_idem _ _
    · exact ih

theorem setTrcctl {x : DWord} {trcOff} {trcDrop} {slots} (hk : CoreZero k) :
    CoreZero { k with
      trcctl := x &&& 0x000FFFFFFFFFFFFE, trcOff := trcOff, trcDrop := trcDrop, slots := slots } :=
  ⟨and_mask_idem _ _, hk.2⟩

theorem ite {p : Prop} {_ : Decidable p} {k' : Core} (hk : CoreZero k) (hk' : CoreZero k') :
    CoreZero (if p then k else k') := by
  split
  · exact hk
  · exact hk'

theorem foldl {f : Core → α → Core} {l : List α} (hk : CoreZero k) (hf : ∀ k x, CoreZero k → CoreZero (f k x)) :
    CoreZero (l.foldl f k) := by
  induction l generalizing k with
  | nil => exact hk
  | cons x r ih => exact ih (hf k x hk)

theorem setPoolWord {i : Nat} {x : Word} (hk : CoreZero k) : CoreZero (setPoolWord k i x) := hk

theorem setPoolBytes {a : Nat} {bs : List Byte} (hk : CoreZero k) : CoreZero (setPoolBytes k a bs) := by
  induction bs generalizing k a with
  | nil => exact hk
  | cons b r ih => exact ih (k := setPoolByte k a b) hk

theorem writeMap {p : Nat} {x : Word} (hk : CoreZero k) : CoreZero (writeMap k p x) := hk

theorem cleanUnit {bank : Bool} {u : MemUnit} (hk : CoreZero k) : CoreZero (cleanUnit k bank u) := by
  unfold Machine.cleanUnit
  exact .ite hk hk

theorem pinLine {g ln : Nat} (hk : CoreZero k) : CoreZero (pinLine k g ln).1 := by
  unfold Machine.pinLine
  split_ifs
  · exact hk
  · exact hk
  · exact hk

end CoreZero

/-! ### A state -/

/-- What a change of the state keeps: the reserved bits zero, and memory canonical, each where it was so before. -/
structure Keeps (s₀ s : State) : Prop where
  reserved : ReservedZero s₀ → ReservedZero s
  canonical : Memory.wf s₀.mem = true → Memory.wf s.mem = true

namespace Keeps
variable {α β : Type} {s₀ s t : State}

theorem refl (s : State) : Keeps s s := ⟨id, id⟩

/-- A change of cores and of memory that keeps each of them. -/
theorem change (h : Keeps s₀ s) (hc : (∀ c, CoreZero (coreAt s c)) → ∀ c, CoreZero (coreAt t c))
    (hw : t.wpc = s.wpc) (hm : Memory.wf s₀.mem = true → Memory.wf t.mem = true) : Keeps s₀ t := by
  refine ⟨fun h0 => ?_, hm⟩
  obtain ⟨hk, hn⟩ := reservedZero_iff.1 (h.reserved h0)
  exact reservedZero_iff.2 ⟨hc hk, hw ▸ hn⟩

/-- A change of neither cores, nor watchpoints, nor memory. -/
theorem update (h : Keeps s₀ s)
    {seals} {poison} {hbmBad} {badPages} {metPages} {consumed} {journal} {torn} {tornMtx} {lines} {shadows} {stores}
    {ctxtab} {keysel} {keys} {descs} {ended} {racechk} {wpa} {courtTlb} {courtCode} {courtQ} {walkers} {walkNext}
    {walked} {walkCache} {netTlb} {counters} {queues} {window} {streams} {aged} {placedAt} {launches} {childSeq}
    {teams} {wgs} {saved} {units} {host} {qps} {memKeys} {netWait} {netOut} {netHeld} {replay} {agenda} {fresh}
    {flitSeq} {unanswered} {refusing} {stamp} {now} {iss} :
    Keeps s₀ { s with
      seals := seals, poison := poison, hbmBad := hbmBad, badPages := badPages, metPages := metPages
      consumed := consumed, journal := journal, torn := torn, tornMtx := tornMtx, lines := lines, shadows := shadows
      stores := stores, ctxtab := ctxtab, keysel := keysel, keys := keys, descs := descs, ended := ended
      racechk := racechk, wpa := wpa, courtTlb := courtTlb, courtCode := courtCode, courtQ := courtQ
      walkers := walkers, walkNext := walkNext, walked := walked, walkCache := walkCache, netTlb := netTlb
      counters := counters, queues := queues, window := window, streams := streams, aged := aged
      placedAt := placedAt, launches := launches, childSeq := childSeq, teams := teams, wgs := wgs, saved := saved
      units := units, host := host, qps := qps, memKeys := memKeys, netWait := netWait, netOut := netOut
      netHeld := netHeld, replay := replay, agenda := agenda, fresh := fresh, flitSeq := flitSeq
      unanswered := unanswered, refusing := refusing, stamp := stamp, now := now, iss := iss } :=
  h.change id rfl h.canonical

/-- A change of memory and of what frames it. -/
theorem memory (h : Keeps s₀ s) (hm : Memory.wf s.mem = true → Memory.wf t.mem = true)
    (hc : t.cores = s.cores := by rfl) (hw : t.wpc = s.wpc := by rfl) : Keeps s₀ t :=
  h.change (by unfold coreAt; rw [hc]; exact id) hw fun h0 => hm (h.canonical h0)

/-- A change to a memory that is canonical where the first state's is. -/
theorem memoryOf (h : Keeps s₀ s) (hm : Memory.wf s₀.mem = true → Memory.wf t.mem = true)
    (hc : t.cores = s.cores := by rfl) (hw : t.wpc = s.wpc := by rfl) : Keeps s₀ t :=
  h.change (by unfold coreAt; rw [hc]; exact id) hw hm

theorem setCore {c : Nat} {k : Core} (h : Keeps s₀ s) (hk : CoreZero (coreAt s c) → CoreZero k) :
    Keeps s₀ (setCore s c k) := by
  refine h.change (fun h0 d => ?_) rfl h.canonical
  simp only [coreAt, Machine.setCore, getD_set]
  split_ifs
  · exact hk (h0 c)
  · exact h0 d

theorem modCore {c : Nat} {f : Core → Core} (h : Keeps s₀ s)
    (hf : ∀ k, CoreZero k → CoreZero (f k) := by exact fun _ hk => hk) : Keeps s₀ (modCore s c f) :=
  h.setCore (hf _)

theorem mapCores {f : Core → Core} (h : Keeps s₀ s)
    (hf : ∀ k, CoreZero k → CoreZero (f k) := by exact fun _ hk => hk) : Keeps s₀ (mapCores s f) :=
  h.change (fun h0 c => getD_map_snd coreZero_reset hf (h0 c)) rfl h.canonical

theorem watchpoints {t : Tab Word} (h : Keeps s₀ s)
    (ht : ∀ n, Tab.getD s.wpc n 0 &&& 0xFFFFE007 = Tab.getD s.wpc n 0 → Tab.getD t n 0 &&& 0xFFFFE007 = Tab.getD t n 0) :
    Keeps s₀ { s with wpc := t } := by
  refine ⟨fun h0 => ?_, h.canonical⟩
  obtain ⟨hk, hn⟩ := reservedZero_iff.1 (h.reserved h0)
  exact reservedZero_iff.2 ⟨hk, fun n => ht n (hn n)⟩

theorem setWatchpoint {n : Nat} {x : Word} (h : Keeps s₀ s) :
    Keeps s₀ { s with wpc := Tab.set s.wpc n (x &&& 0xFFFFE007) } :=
  h.watchpoints fun m hm => by
    rw [getD_set]
    split_ifs
    · exact and_mask_idem _ _
    · exact hm

theorem of_eq {p : State × α} {x : α} (h : Keeps s₀ p.1) (e : p = (t, x)) : Keeps s₀ t := by
  subst e
  exact h

theorem ite {p : Prop} {_ : Decidable p} (hs : Keeps s₀ s) (ht : Keeps s₀ t) : Keeps s₀ (if p then s else t) := by
  split
  · exact hs
  · exact ht

theorem iteFst {p : Prop} {_ : Decidable p} {x y : State × α} (hx : Keeps s₀ x.1) (hy : Keeps s₀ y.1) :
    Keeps s₀ (if p then x else y).1 := by
  split
  · exact hx
  · exact hy

theorem iteSnd {p : Prop} {_ : Decidable p} {x y : α × State} (hx : Keeps s₀ x.2) (hy : Keeps s₀ y.2) :
    Keeps s₀ (if p then x else y).2 := by
  split
  · exact hx
  · exact hy

theorem foldl {f : State → α → State} {l : List α} (h : Keeps s₀ s) (hf : ∀ t x, Keeps s₀ t → Keeps s₀ (f t x)) :
    Keeps s₀ (l.foldl f s) := by
  induction l generalizing s with
  | nil => exact h
  | cons x r ih => exact ih (hf s x h)

theorem foldlFst {f : State × β → α → State × β} {l : List α} {p : State × β} (h : Keeps s₀ p.1)
    (hf : ∀ p x, Keeps s₀ p.1 → Keeps s₀ (f p x).1) : Keeps s₀ (l.foldl f p).1 := by
  induction l generalizing p with
  | nil => exact h
  | cons x r ih => exact ih (hf p x h)

end Keeps

/-! ### A lane's action, and an outcome -/

section
variable {α β : Type} {s₀ s : State}

/-- A lane's action that keeps what `Keeps` names, from every state that has it. -/
def ActKeeps (s₀ : State) (a : Act α) : Prop := ∀ s, Keeps s₀ s → Keeps s₀ (a s).2

namespace ActKeeps
variable {a b : Act α} {f : α → Act β}

theorem pure {x : α} : ActKeeps s₀ (pure x) := fun _ h => h

theorem throw {e : Halt} : ActKeeps s₀ (throw e : Act α) := fun _ h => h

theorem set (h : Keeps s₀ s) : ActKeeps s₀ (set s : Act PUnit) := fun _ _ => h

theorem get {f : State → Act β} (hf : ∀ s, Keeps s₀ s → ActKeeps s₀ (f s)) : ActKeeps s₀ (get >>= f) :=
  fun s h => hf s h s h

theorem bind (ha : ActKeeps s₀ a) (hf : ∀ x, ActKeeps s₀ (f x)) : ActKeeps s₀ (a >>= f) := by
  intro s h
  have h1 := ha s h
  show Keeps s₀ (ExceptT.bindCont f (a s).1 (a s).2).2
  cases (a s).1 with
  | ok x => exact hf x _ h1
  | error e => exact h1

theorem ite {p : Prop} {_ : Decidable p} (ha : ActKeeps s₀ a) (hb : ActKeeps s₀ b) :
    ActKeeps s₀ (if p then a else b) := by
  split
  · exact ha
  · exact hb

end ActKeeps

/-- An outcome whose next state, where it has one, keeps what `Keeps` names. -/
def OutKeeps (s₀ : State) (o : Host.Outcome State Fault Refusal) : Prop := ∀ t, o = .next t → Keeps s₀ t

namespace OutKeeps
variable {o o' : Host.Outcome State Fault Refusal}

theorem next (h : Keeps s₀ s) : OutKeeps s₀ (.next s) := by
  rintro t ⟨⟩
  exact h

theorem fault {f : Fault} : OutKeeps s₀ (.fault f) := by
  rintro t ⟨⟩

theorem refused {r : Refusal} : OutKeeps s₀ (.refused r) := by
  rintro t ⟨⟩

theorem ite {p : Prop} {_ : Decidable p} (ho : OutKeeps s₀ o) (ho' : OutKeeps s₀ o') :
    OutKeeps s₀ (if p then o else o') := by
  split
  · exact ho
  · exact ho'

end OutKeeps
end

/-! ### The functions of the step

The proofs are elaborated one after another: side by side, the threads of so many take all memory. -/

section
set_option Elab.async false

/-! ### What `Machine/Mem` keeps -/

section
variable {s₀ s : State}

theorem Keeps.writeInSector {key : Option (BitVec 128)} {a : Nat} {bs : List Byte} (h : Keeps s₀ s) :
    Keeps s₀ (writeInSector s key a bs) :=
  .ite h (h.memory fun hm => wf_writeBytes _ _ (by
    split_ifs
    · exact hm
    · exact wf_writeBytes _ _ hm))

end

/-! ### What `Machine/Lines` keeps -/

section
variable {s₀ s : State} {a c e ln n pa u : Nat} {hm : Hm} {bs data : List Byte} {d : Door}
    {key kidx : Option (BitVec 13)} {uncached : Bool} {secs : BitVec 4} {mask : DWord}

theorem Keeps.countUnit (h : Keeps s₀ s) : Keeps s₀ (countUnit s u e n) := h.update

theorem Keeps.countSlice (h : Keeps s₀ s) : Keeps s₀ (countSlice s ln e n) := h.countUnit

theorem Keeps.countStack (h : Keeps s₀ s) : Keeps s₀ (countStack s ln e n) := h.countUnit.ite h

theorem Keeps.recallBut {keep : Option Nat} (h : Keeps s₀ s) : Keeps s₀ (recallBut s keep ln) := by
  unfold Machine.recallBut
  dsimp only
  split
  · exact h
  · exact h.update.ite (h.update.countSlice.foldl fun _ _ h1 => h1.modCore)

theorem Keeps.countFlits (h : Keeps s₀ s) : Keeps s₀ (countFlits s u) := by
  unfold Machine.countFlits
  dsimp only
  exact .update (h.countUnit.countUnit.ite h.countUnit.countUnit.countUnit)

theorem Keeps.hostLink (h : Keeps s₀ s) : Keeps s₀ (hostLink s) := h.countFlits

theorem Keeps.sendUatin {op : UatinOp} {size : Nat} (h : Keeps s₀ s) :
    Keeps s₀ (sendUatin s hm op a size mask data) :=
  h.ite (.update h.countFlits)

theorem Keeps.fetchHome (h : Keeps s₀ s) : Keeps s₀ (fetchHome s hm a n) :=
  h.sendUatin.ite (h.hostLink.ite h.countStack)

theorem Keeps.storeHome (h : Keeps s₀ s) : Keeps s₀ (storeHome s hm ln mask data) :=
  h.sendUatin.ite (h.hostLink.ite h.countStack)

theorem Keeps.askRead (h : Keeps s₀ s) : Keeps s₀ (askRead s hm uncached a n) := h.fetchHome.ite h.fetchHome

theorem Keeps.refuseNext (h : Keeps s₀ s) : Keeps s₀ (refuseNext s) := h.update

theorem Keeps.changeRemote {a : BitVec 52} {x : Byte} (h : Keeps s₀ s) : Keeps s₀ (changeRemote s a x) :=
  .ite (h.memory fun hm => wf_writeByte _ _ hm) h

theorem Keeps.writeBackLine (h : Keeps s₀ s) : Keeps s₀ (writeBackLine s ln) := by
  unfold Machine.writeBackLine
  split
  · exact h
  · exact .ite h (.update (.foldl (.memory (.storeHome h.countSlice) fun hm => wf_landed hm _ _)
      fun _ _ h1 => h1.modCore))

theorem Keeps.surface (h : Keeps s₀ s) : Keeps s₀ (surface s ln secs) := h.ite h.update

theorem Keeps.dropCode {gone : CodeLine → Bool} (h : Keeps s₀ s) : Keeps s₀ (dropCode s gone) := by
  unfold Machine.dropCode
  dsimp only
  exact .update h.mapCores

theorem Keeps.dropICache (h : Keeps s₀ s) : Keeps s₀ (dropICache s ln) := by
  unfold Machine.dropICache
  dsimp only
  exact .update h.mapCores

theorem Keeps.forgetLine (h : Keeps s₀ s) : Keeps s₀ (forgetLine s ln) := .surface (.update h.dropICache)

theorem Keeps.dropLine (h : Keeps s₀ s) : Keeps s₀ (dropLine s ln) := h.recallBut.writeBackLine.forgetLine

theorem Keeps.makeRoom (h : Keeps s₀ s) : Keeps s₀ (makeRoom s ln) := h.ite h.update.dropLine

theorem Keeps.openLine (h : Keeps s₀ s) : Keeps s₀ (openLine s hm key a) := by
  unfold Machine.openLine
  dsimp only
  refine .ite ?_ (.update (.makeRoom ?_))
  · split
    · exact h.ite h.dropLine
    · exact h
  · split
    · exact h.ite h.dropLine
    · exact h

theorem Keeps.fillLine (h : Keeps s₀ s) : Keeps s₀ (fillLine s hm key a n) := by
  unfold Machine.fillLine
  dsimp only
  split
  · exact h.openLine
  · exact h.openLine.countSlice.countSlice.ite (.update (h.openLine.countSlice.countSlice.countStack.ite
      h.openLine.countSlice.countSlice.fetchHome))

theorem Keeps.dirtyLine (h : Keeps s₀ s) : Keeps s₀ (dirtyLine s hm a bs) := h.update

theorem Keeps.acquireRemote (h : Keeps s₀ s) : Keeps s₀ (acquireRemote s hm) := h.foldl fun _ _ h1 => h1.dropLine

theorem Keeps.releaseRemote (h : Keeps s₀ s) : Keeps s₀ (releaseRemote s hm) := by
  unfold Machine.releaseRemote
  dsimp only
  exact .update (h.foldl fun _ _ h1 => h1.writeBackLine)

theorem Keeps.settleStores {p : Hm → Bool} (h : Keeps s₀ s) : Keeps s₀ (settleStores s p) := by
  unfold Machine.settleStores
  dsimp only
  exact .update (h.foldl fun _ _ h1 => h1.writeBackLine)

theorem Keeps.unpoisonDirty {d : BitVec 64} (h : Keeps s₀ s) : Keeps s₀ (unpoisonDirty s ln d) := h.update

theorem Keeps.discardSectors (h : Keeps s₀ s) : Keeps s₀ (discardSectors s ln secs) := by
  unfold Machine.discardSectors
  split
  · exact h
  · extract_lets d s1 s2 free
    have h2 : Keeps s₀ s2 := .surface (.update h.unpoisonDirty)
    clear_value s2
    have hw (a : Nat) (bs : List Byte) (h0 : Memory.wf s₀.mem = true) : Memory.wf (writeBytes s.mem a bs) = true :=
      wf_writeBytes _ _ (h.canonical h0)
    exact .ite h2 (.ite (h2.memoryOf (hw _ _)) (h2.memoryOf (hw _ _)))

theorem Keeps.discardLine (h : Keeps s₀ s) : Keeps s₀ (discardLine s ln) := h.recallBut.discardSectors.forgetLine

theorem Keeps.l1Evict (h : Keeps s₀ s) : Keeps s₀ (l1Evict s c ln) := by
  unfold Machine.l1Evict
  dsimp only
  exact .update h.modCore

theorem Keeps.l1Discard (h : Keeps s₀ s) : Keeps s₀ (l1Discard s c hm) :=
  h.foldl fun _ _ h1 => h1.l1Evict.discardSectors

theorem Keeps.l1Put {hint : Hint} {dirty : BitVec 4} (h : Keeps s₀ s) :
    Keeps s₀ (l1Put s c hm key hint ln secs dirty) := by
  unfold Machine.l1Put
  dsimp only
  refine .ite (.update h.modCore) ?_
  split
  · exact .l1Evict (.update h.modCore)
  · exact .update h.modCore

theorem Keeps.cacheRead (h : Keeps s₀ s) : Keeps s₀ (cacheRead s d hm key a n) := by
  unfold Machine.cacheRead
  dsimp only
  split
  · exact h.fillLine.ite ((h.ite h.fillLine).ite (h.ite h.fillLine).l1Put)
  · exact .update h.fillLine
  · exact h.fillLine
  · exact h.fillLine

theorem Keeps.cacheWrite (h : Keeps s₀ s) : Keeps s₀ (cacheWrite s d hm key a bs) := by
  unfold Machine.cacheWrite
  dsimp only
  refine h.openLine.dirtyLine.ite ?_
  split
  · exact (h.openLine.ite h.fillLine).recallBut.dirtyLine.ite (h.openLine.ite h.fillLine).recallBut.dirtyLine.l1Put
  · exact (h.openLine.ite h.fillLine).recallBut.dirtyLine

theorem Keeps.fillCodeLine {x : CodeLine} (h : Keeps s₀ s) : Keeps s₀ (fillCodeLine s c x) :=
  (h.ite h.fillLine).ite (.modCore (.update (h.ite h.fillLine)))

theorem Keeps.fillCode {ls : List CodeLine} (h : Keeps s₀ s) : Keeps s₀ (fillCode s c ls) :=
  h.foldl fun _ _ h1 => h1.fillCodeLine

theorem Keeps.askHome (h : Keeps s₀ s) : Keeps s₀ (askHome s d hm a n) := by
  unfold Machine.askHome
  dsimp only
  split
  · exact h.dropLine.sendUatin.ite h.dropLine.fetchHome
  · exact h.dropLine.fetchHome

theorem Keeps.tellHome (h : Keeps s₀ s) : Keeps s₀ (tellHome s d hm a bs) := by
  unfold Machine.tellHome
  dsimp only
  split
  · exact h.dropLine.ite h.dropLine.storeHome
  · exact h.dropLine.storeHome

theorem Keeps.readHere (h : Keeps s₀ s) : Keeps s₀ (readHere s d a n) := h.update

theorem Keeps.readNewest {hs : List Nat} (h : Keeps s₀ s) : Keeps s₀ (readNewest s hs a n) := h.update

theorem Keeps.writeOver (h : Keeps s₀ s) : Keeps s₀ (writeOver s a n) := h.update

theorem Keeps.homeRead {key : Option (BitVec 128)} (h : Keeps s₀ s) :
    Keeps s₀ (homeRead s d hm kidx key uncached a n).2 := by
  unfold Machine.homeRead
  dsimp only
  refine (h.readHere.askHome.ite h.readHere.cacheRead).iteSnd ?_
  split <;> exact h.readHere.askHome.ite h.readHere.cacheRead

theorem Keeps.clearPoison (h : Keeps s₀ s) : Keeps s₀ (clearPoison s a bs) := h.update

theorem Keeps.homeWriteOpen {key : Option (BitVec 128)} (h : Keeps s₀ s) :
    Keeps s₀ (homeWriteOpen s d hm kidx key uncached a bs) := by
  unfold Machine.homeWriteOpen
  extract_lets s1 s2 s3
  have h2 : Keeps s₀ s2 := .ite h.dropICache.tellHome h.dropICache.cacheWrite
  clear_value s2
  exact .ite (h2.foldl fun _ _ h3 => h3.writeInSector)
    (.ite h2.clearPoison (h2.clearPoison.memory fun hm => wf_writeBytes _ _ hm))

theorem Keeps.homeWrite {key : Option (BitVec 128)} (h : Keeps s₀ s) :
    Keeps s₀ (homeWrite s d hm kidx key uncached a bs) :=
  (h.writeOver.foldl fun _ _ h1 => h1.homeWriteOpen).ite h.writeOver.homeWriteOpen

theorem Keeps.devSector (h : Keeps s₀ s) : Keeps s₀ (devSector s a bs) := by
  unfold Machine.devSector
  dsimp only
  exact .update h.writeInSector

theorem Keeps.ownTraffic (h : Keeps s₀ s) : Keeps s₀ (ownTraffic s a n e) :=
  (h.foldl fun _ _ h1 => h1.hostLink).ite (h.foldl fun _ _ h1 => h1.countStack)

theorem Keeps.devWrite (h : Keeps s₀ s) : Keeps s₀ (devWrite s pa bs) := by
  unfold Machine.devWrite
  split
  · exact .ite (h.writeOver.dropICache.ownTraffic.foldl fun _ _ h1 => h1.devSector)
      (h.writeOver.dropICache.ownTraffic.memory fun hm => wf_writeBytes _ _ hm)
  · exact h

theorem Keeps.devPatch (h : Keeps s₀ s) : Keeps s₀ (devPatch s pa bs) := by
  unfold Machine.devPatch
  split
  · exact h.ownTraffic.ite (h.ownTraffic.memory fun hm => wf_writeBytes _ _ hm)
  · exact h

end

/-! ### What `Machine/Xlate` keeps -/

section
variable {s₀ s : State} {hm : Hm} {va : DWord} {kind : AccKind} {c n : Nat} {w : Waiter}

theorem Keeps.consumeOwn {pa : Nat} (h : Keeps s₀ s) : Keeps s₀ (consumeOwn s pa n) := by
  unfold Machine.consumeOwn
  dsimp only
  refine .update ?_
  split
  · exact h.ownTraffic
  · exact h

theorem Keeps.holdDesc (h : Keeps s₀ s) : Keeps s₀ (holdDesc s hm) := h.update.consumeOwn.ite h

theorem Keeps.refreshDesc (h : Keeps s₀ s) : Keeps s₀ (refreshDesc s hm) := h.update.holdDesc

theorem Keeps.readDescHere (h : Keeps s₀ s) : Keeps s₀ (readDescHere s hm) := h.consumeOwn.ite h

theorem Keeps.walkFrom {skv : Bool} {a : Nat} (h : Keeps s₀ s) : Keeps s₀ (walkFrom s hm va skv kind n a).1 := by
  induction n generalizing s a with
  | zero => exact h
  | succ n ih =>
    unfold Machine.walkFrom
    extract_lets at_ s1 pte next
    have h1 : Keeps s₀ s1 := by
      unfold s1
      split
      · exact h.ownTraffic
      · exact h
    clear_value s1 at_
    refine .iteFst h (.iteFst h1 (.iteFst h1 (.iteFst h1 (.iteFst (.iteFst h1 (ih (.update h1))) ?_))))
    split
    · exact h1
    · exact .iteFst h1 (.ite h1 h1.devPatch)

theorem Keeps.walk (h : Keeps s₀ s) : Keeps s₀ (walk s hm va kind).1 :=
  h.holdDesc.iteFst (h.holdDesc.iteFst h.holdDesc.walkFrom)

theorem Keeps.queueMiss {ct : Nat} (h : Keeps s₀ s) : Keeps s₀ (queueMiss s ct hm va kind w).1 :=
  h.update.iteFst (h.update.iteFst (h.update.iteFst h))

theorem Keeps.clearWalked (h : Keeps s₀ s) : Keeps s₀ (clearWalked s w) := h.update

theorem Keeps.fillTlbs {e : TlbEntry} (h : Keeps s₀ s) : Keeps s₀ (fillTlbs s c e) := by
  unfold Machine.fillTlbs
  dsimp only
  exact .update h.modCore

theorem Keeps.xlate (h : Keeps s₀ s) : Keeps s₀ (xlate s c hm va kind).1 := by
  unfold Machine.xlate
  dsimp only
  refine h.holdDesc.iteFst (h.holdDesc.iteFst ?_)
  split
  · exact h.holdDesc
  · split
    · exact h.holdDesc.fillTlbs
    · split
      · exact h.holdDesc.walk.of_eq ‹_›
      · exact (h.holdDesc.walk.of_eq ‹_›).fillTlbs

theorem Keeps.place (h : Keeps s₀ s) : Keeps s₀ (place s c hm va kind).1 := by
  unfold Machine.place
  refine h.xlate.iteFst ?_
  split <;> exact h

theorem Keeps.pathPlace (h : Keeps s₀ s) : Keeps s₀ (pathPlace s c hm va kind).1 := by
  unfold Machine.pathPlace
  split
  · exact h
  · exact h.place

theorem Keeps.tlbInvalidate {hms : Hm → Bool} {gone : TlbEntry → Bool} {ptr : WalkPtr → Bool} (h : Keeps s₀ s) :
    Keeps s₀ (tlbInvalidate s hms gone ptr) := by
  unfold Machine.tlbInvalidate
  dsimp only
  exact .update h.settleStores.mapCores

end

/-! ### What `Machine/Ops` keeps -/

section
variable {s₀ s : State} {c e hd l n q r row v : Nat} {hm : Hm} {va : DWord} {bs : List Byte} {a info x : Word}
    {sc : Scope} {o : AccOrd} {p : Place} {α : Type} {f : Nat → Word} {d : Door} {atm checked uncached wr : Bool}
    {ls : List Nat} {kind : AccKind} {t : Option Nat} {hint : Hint}

theorem Keeps.modSlot {f : Slot → Slot} (h : Keeps s₀ s) : Keeps s₀ (modSlot s c n f) := h.modCore

theorem Keeps.modThread {f : Thread → Thread} (h : Keeps s₀ s) : Keeps s₀ (modThread s c n l f) := h.modSlot

theorem Keeps.modQuarter {f : Quarter → Quarter} (h : Keeps s₀ s) : Keeps s₀ (modQuarter s c q f) := h.modCore

theorem Keeps.modWg {f : Wg → Wg} (h : Keeps s₀ s) : Keeps s₀ (modWg s hd f) := h.update

theorem Keeps.spadWrite {o : Nat} (h : Keeps s₀ s) : Keeps s₀ (spadWrite s hd o bs) := by
  unfold Machine.spadWrite
  split
  · exact h.modCore fun _ hk => hk.setPoolBytes
  · exact h

theorem Keeps.setRowWord (h : Keeps s₀ s) : Keeps s₀ (setRowWord s c n row l x) := by
  unfold Machine.setRowWord
  refine .ite h.modCore ?_
  split
  · exact h.modCore
  · exact h

theorem Keeps.setRow (h : Keeps s₀ s) : Keeps s₀ (setRow s c n row ls f) := h.foldl fun _ _ h1 => h1.setRowWord

theorem Keeps.setVmap {m : Option VMap} (h : Keeps s₀ s) : Keeps s₀ (setVmap s c n v m) := h.modSlot

theorem Keeps.setCell {x : Option Word} (h : Keeps s₀ s) : Keeps s₀ (setCell s c n v x) := h.modSlot

theorem Keeps.newRow {rel : Word} (h : Keeps s₀ s) : Keeps s₀ (newRow s c n v rel f) := h.setVmap.setCell.setRow

theorem Keeps.writeV {uni : Bool} (h : Keeps s₀ s) : Keeps s₀ (writeV s c n v a uni f) := by
  unfold Machine.writeV
  dsimp only
  split
  · exact h.setVmap.setCell.ite h.newRow
  · exact h.setVmap.setCell.ite h.newRow
  · exact h.setVmap.setRow

theorem Keeps.freeV (h : Keeps s₀ s) : Keeps s₀ (freeV s c n v) := h.setVmap.setCell

theorem Keeps.sweepRel (h : Keeps s₀ s) : Keeps s₀ (sweepRel s c n) := h.foldl fun _ _ h1 => h1.freeV

theorem Keeps.releaseV (h : Keeps s₀ s) : Keeps s₀ (releaseV s c n v a) := h.modSlot.sweepRel

theorem Keeps.writeS (h : Keeps s₀ s) : Keeps s₀ (writeS s c n r x) := h.modSlot

theorem Keeps.freeS (h : Keeps s₀ s) : Keeps s₀ (freeS s c n r) := h.modSlot

theorem Keeps.writeLatch {i : Nat} {res : List (Nat × DWord)} (h : Keeps s₀ s) : Keeps s₀ (writeLatch s c q i res) :=
  h.modQuarter

theorem Keeps.loseLatches (h : Keeps s₀ s) : Keeps s₀ (loseLatches s c q) := h.modQuarter

theorem Keeps.closeRun (h : Keeps s₀ s) : Keeps s₀ (closeRun s c q) := by
  unfold Machine.closeRun
  dsimp only
  split
  · exact h
  · exact h.loseLatches.modQuarter

theorem Keeps.dropRuns {p : Nat → Bool} (h : Keeps s₀ s) : Keeps s₀ (dropRuns s c p) :=
  h.foldl fun _ _ h1 => h1.closeRun.ite h1

theorem Keeps.bumpEvent (h : Keeps s₀ s) : Keeps s₀ (bumpEvent s c e n) := h.modCore

theorem Keeps.creditEvent {top : Half} (h : Keeps s₀ s) : Keeps s₀ (creditEvent s c hm top e n) := h.modCore

theorem Keeps.countAt {k : Nat} (h : Keeps s₀ s) : Keeps s₀ (countAt s c n l e k) := h.bumpEvent.creditEvent

theorem Keeps.countBy (h : Keeps s₀ s) : Keeps s₀ (countBy s l e n) := h.countAt

theorem Keeps.askTeam {t : Nat} {a : Asker} (h : Keeps s₀ s) : Keeps s₀ (askTeam s t a) := h.update

theorem Keeps.count (h : Keeps s₀ s) : Keeps s₀ (count s e n) := h.countBy

theorem Keeps.countMisses (h : Keeps s₀ s) : Keeps s₀ (countMisses s l c hm va kind) := h.ite (h.countBy.ite h)

theorem ActKeeps.setState (h : Keeps s₀ s) : ActKeeps s₀ (setState s) := .set h

theorem ActKeeps.raise {cause detail : Byte} : ActKeeps s₀ (raise cause detail : Act α) := .throw

theorem ActKeeps.raiseAt {o : Outcome} {a : DWord} : ActKeeps s₀ (raiseAt o a info : Act α) := .throw

theorem ActKeeps.raiseWalk {o : Outcome} : ActKeeps s₀ (raiseWalk o hm va info : Act α) := .get fun _ _ => .throw

theorem ActKeeps.waitFor {w : Wait} : ActKeeps s₀ (waitFor w : Act α) := .throw

theorem Keeps.recordWrite {a : Nat} (h : Keeps s₀ s) : Keeps s₀ (recordWrite s hd a n) := h.update.ite h

theorem Keeps.showStores (h : Keeps s₀ s) : Keeps s₀ (showStores s hd) := h.update

theorem Keeps.seeStores (h : Keeps s₀ s) : Keeps s₀ (seeStores s hd) := h.modWg

theorem Keeps.countRelease (h : Keeps s₀ s) : Keeps s₀ (countRelease s hd) := by
  unfold Machine.countRelease
  exact h.modCore

theorem Keeps.bumpRelease (h : Keeps s₀ s) : Keeps s₀ (bumpRelease s hd) := h.showStores.countRelease

theorem Keeps.orderWork {o : MOrder} (h : Keeps s₀ s) : Keeps s₀ (orderWork s hd o sc) := by
  unfold Machine.orderWork
  extract_lets hm s1 s2 s3
  have h1 : Keeps s₀ s1 := .ite h.releaseRemote h
  have h2 : Keeps s₀ s2 := .ite h1.acquireRemote h1
  have h3 : Keeps s₀ s3 := .ite h2.seeStores h2
  exact .ite h3.bumpRelease h3

theorem Keeps.releaseFlag (h : Keeps s₀ s) : Keeps s₀ (releaseFlag s hd sc) := (h.releaseRemote.ite h).countRelease

theorem Keeps.ordWork {a : AccOrd} (h : Keeps s₀ s) : Keeps s₀ (ordWork s hd a) := by
  unfold Machine.ordWork
  split
  · exact h
  · exact h.orderWork

theorem ActKeeps.order {o : MOrder} : ActKeeps s₀ (order hd o sc) :=
  .get (fun _ h1 => .ite (.bind .throw (fun _ => .setState h1.orderWork)) (.setState h1.orderWork))

theorem ActKeeps.ordAcc : ActKeeps s₀ (ordAcc hd o) :=
  .get (fun _ h1 => .ite (.bind .throw (fun _ => .setState h1.ordWork)) (.setState h1.ordWork))

theorem ActKeeps.stallOn : ActKeeps s₀ (stallOn va kind) := .get (fun _ _ => .ite .throw .pure)

theorem ActKeeps.checkGlobal {rd : Bool} : ActKeeps s₀ (checkGlobal l va n rd wr checked atm) := by
  unfold Machine.checkGlobal
  dsimp only
  refine .get (fun _ h1 => .ite .raiseAt (.ite .raiseAt (.ite .raiseAt
      (.bind .stallOn (fun _ => .bind (.set h1.countMisses.pathPlace) (fun _ => ?_))))))
  split
  · exact .raiseWalk
  · split
    · exact .raiseAt
    · exact .ite .raiseAt .pure

theorem ActKeeps.consume {req : Option (BitVec 4 × List Byte)} : ActKeeps s₀ (consume p va n info req) := by
  unfold Machine.consume
  dsimp only
  refine .get (fun _ h1 => ?_)
  split
  · exact .throw
  · refine .bind (.set ?_) (fun _ => .raiseAt)
    split
    · exact h1.sendUatin
    · exact h1.askRead
  · refine .bind (.set ?_) (fun _ => .throw)
    split
    · exact h1.sendUatin
    · exact h1.askRead
  · exact .ite .throw .pure

theorem Keeps.readPlace (h : Keeps s₀ s) : Keeps s₀ (readPlace s d hm p uncached n).2 := h.homeRead

theorem Keeps.writePlace (h : Keeps s₀ s) : Keeps s₀ (writePlace s d hm p uncached bs) := h.homeWrite

theorem Keeps.notePending {a : Nat} {old before : List Byte} {done : Bool} (h : Keeps s₀ s) :
    Keeps s₀ (notePending s hd t hm a old before bs done) :=
  h.update

theorem Keeps.readPast {a : Nat} {all : Bool} (h : Keeps s₀ s) :
    Keeps s₀ (readPast s hd t hm a bs all).2 :=
  h.iteSnd h.update

theorem Keeps.endReplay {status : Byte} (h : Keeps s₀ s) : Keeps s₀ (endReplay s hd status) := by
  unfold Machine.endReplay
  split
  · exact h.update.ite h
  · exact h

theorem Keeps.replayWrite {a : Nat} (h : Keeps s₀ s) : Keeps s₀ (replayWrite s hd a) := h.ite h.endReplay

theorem Keeps.countL1 (h : Keeps s₀ s) : Keeps s₀ (countL1 s l hm p n) := h.ite h.countBy

theorem ActKeeps.loadGlobal : ActKeeps s₀ (loadGlobal l va n o hint) :=
  .bind .checkGlobal (fun _ => .bind .consume (fun _ => .get (fun _ _ => .bind .ordAcc
      (fun _ => .get (fun _ h2 => .bind (.set h2.countL1.readPlace.readPast) (fun _ => .pure))))))

theorem Keeps.performWrite (h : Keeps s₀ s) : Keeps s₀ (performWrite s l d p uncached checked bs) :=
  (h.writePlace.recordWrite.ite h.writePlace).replayWrite.notePending

theorem Keeps.afterStore {a : AccOrd} (h : Keeps s₀ s) : Keeps s₀ (afterStore s hd a) := by
  unfold Machine.afterStore
  split
  · exact h.showStores
  · exact h

theorem ActKeeps.storeGlobal {x : Nat} : ActKeeps s₀ (storeGlobal l va n x o hint) :=
  .bind .checkGlobal (fun _ => .get (fun _ _ => .ite .waitFor (.bind .ordAcc
      (fun _ => .get (fun _ h2 => .set h2.countL1.performWrite.afterStore)))))

theorem ActKeeps.atomicGlobal {o : MOrder} {req : BitVec 4 × List Byte} {f : Nat → Option Nat} :
    ActKeeps s₀ (atomicGlobal l va n o sc req f) := by
  unfold Machine.atomicGlobal
  dsimp only
  refine .bind .checkGlobal (fun _ => .bind .consume (fun _ => .get
      (fun _ h1 => .ite .waitFor (.bind .order (fun _ => .get (fun _ h2 => ?_))))))
  split
  · exact .bind (.set h2.readPlace.readNewest.performWrite) (fun _ => .pure)
  · exact .bind (.set h2.readPlace.readNewest) (fun _ => .pure)

theorem ActKeeps.checkSpad : ActKeeps s₀ (checkSpad l a n wr atm) :=
  .get (fun _ _ => .ite .raiseAt (.ite .raiseAt (.ite .raiseAt (.ite .raiseAt .pure))))

theorem ActKeeps.loadSpad : ActKeeps s₀ (loadSpad l a n o) :=
  .bind .checkSpad (fun _ => .get (fun _ _ => .bind .ordAcc (fun _ => .get (fun _ _ => .pure))))

theorem ActKeeps.storeSpad {x : Nat} : ActKeeps s₀ (storeSpad l a n x o) :=
  .bind .checkSpad (fun _ => .get (fun _ _ => .bind .ordAcc (fun _ => .get (fun _ h2 => .set h2.spadWrite))))

theorem ActKeeps.atomicSpad {o : MOrder} {f : Nat → Option Nat} : ActKeeps s₀ (atomicSpad l a n o sc f) := by
  unfold Machine.atomicSpad
  dsimp only
  refine .bind .checkSpad (fun _ => .get (fun _ h1 => .bind .order (fun _ => .get (fun _ h2 => ?_))))
  split
  · exact .bind (.set h2.spadWrite) (fun _ => .pure)
  · exact .bind (.set h2) (fun _ => .pure)

theorem Keeps.noteFault {kind : Nat} (h : Keeps s₀ s) : Keeps s₀ (noteFault s c kind n) := by
  unfold Machine.noteFault
  dsimp only
  exact .update h.modCore

theorem Keeps.umpSpadWrite {o : Nat} (h : Keeps s₀ s) : Keeps s₀ (umpSpadWrite s c o bs) := by
  unfold Machine.umpSpadWrite
  split
  · exact h.modCore fun _ hk => hk.setPoolBytes
  · exact h

theorem Keeps.parkGroup {t : TrapInfo} {pc : Word} {op : Nat} {addrs : List DWord} {kept : Nat → Tab DWord}
    (h : Keeps s₀ s) :
    Keeps s₀ (parkGroup s c n ls t pc op addrs kept) := by
  unfold Machine.parkGroup
  dsimp only
  split
  · exact h
  · exact h.update.modCore.umpSpadWrite.foldl fun _ _ h1 => h1.modThread

theorem Keeps.freeEntry (h : Keeps s₀ s) : Keeps s₀ (freeEntry s c e) := h.modCore

end

/-! ### What `Machine/Release` keeps -/

section
variable {s₀ s : State} {hm : Hm} {c hd i n q t team ts : Nat} {reason : Byte} {va : DWord} {v : Saved}
    {lid pc : Word} {b : Blame} {bs : List Byte} {w : Wg} {why : Nat → Blame}

theorem Keeps.drainOut (h : Keeps s₀ s) : Keeps s₀ (drainOut s n) := by
  induction n generalizing s with
  | zero => exact h
  | succ n ih =>
    unfold Machine.drainOut
    split
    · exact h
    · exact .ite (ih (.update (.memory h.releaseRemote.hostLink fun hm => wf_writeBytes _ _ hm))) h

theorem Keeps.post {type core : Nat} {payload : List DWord} (h : Keeps s₀ s) :
    Keeps s₀ (post s type core hm payload) :=
  h.update.drainOut

theorem Keeps.report {kind carrier out loc : Nat} {addr : Nat} {gen : Nat} (h : Keeps s₀ s) :
    Keeps s₀ (report s kind carrier out loc hm addr lid team gen pc) :=
  h.post

theorem Keeps.killReport (h : Keeps s₀ s) : Keeps s₀ (killReport s hm lid team reason b) := h.post

theorem Keeps.teamAnswer {reason op status : Nat} (h : Keeps s₀ s) :
    Keeps s₀ (teamAnswer s hm lid team reason op status) :=
  h.post

theorem Keeps.walkMetPoison {o : Outcome} (h : Keeps s₀ s) : Keeps s₀ (walkMetPoison s hm va o) := h.update

theorem Keeps.ctxWriteLine (h : Keeps s₀ s) : Keeps s₀ (ctxWriteLine s c hm va bs).1 := by
  unfold Machine.ctxWriteLine
  split
  · exact (h.place.of_eq ‹_›).walkMetPoison
  · exact (h.place.of_eq ‹_›).writePlace

theorem Keeps.ctxWrite (h : Keeps s₀ s) : Keeps s₀ (ctxWrite s c hm va bs).1 :=
  h.foldlFst fun _ _ h1 => h1.ctxWriteLine.iteFst h1

theorem Keeps.ctxReadLine (h : Keeps s₀ s) : Keeps s₀ (ctxReadLine s c hm va n).1 := by
  unfold Machine.ctxReadLine
  have h1 : Keeps s₀ (Machine.place s c hm va .read).1 := h.place
  split
  next h2 => exact (h1.of_eq h2).walkMetPoison
  next h2 => exact .iteFst (.update (h1.of_eq h2)) (.iteFst (h1.of_eq h2).askRead (h1.of_eq h2).readPlace)

theorem Keeps.ctxRead (h : Keeps s₀ s) : Keeps s₀ (ctxRead s c hm va n).1 := by
  unfold Machine.ctxRead
  refine h.foldlFst fun _ _ h1 => ?_
  split
  · exact h1
  · split <;> exact h1.ctxReadLine.of_eq ‹_›

/-- The read of a context's memory as a function of which only what it keeps is known: a proof about a caller that
matches its answer leaves the kernel nothing to evaluate. -/
theorem Keeps.exists_ctxRead (s₀ : State) : ∃ read, @Machine.ctxRead = read ∧
    ∀ {s c hm va n}, Keeps s₀ s → Keeps s₀ (read s c hm va n).1 :=
  ⟨_, rfl, .ctxRead⟩

/-- The write of a context's memory, likewise. -/
theorem Keeps.exists_ctxWrite (s₀ : State) : ∃ write, @Machine.ctxWrite = write ∧
    ∀ {s c hm va bs}, Keeps s₀ s → Keeps s₀ (write s c hm va bs).1 :=
  ⟨_, rfl, .ctxWrite⟩

theorem Keeps.dropWaiters {gone : Waiter → Bool} (h : Keeps s₀ s) : Keeps s₀ (dropWaiters s gone) := h.update

theorem Keeps.dropCommands (h : Keeps s₀ s) : Keeps s₀ (dropCommands s hd) := by
  unfold Machine.dropCommands
  exact h.dropWaiters.modCore

theorem Keeps.clearTile (h : Keeps s₀ s) : Keeps s₀ (clearTile s c ts) := h.modCore fun _ hk => hk.dropOwner

theorem Keeps.unreside (h : Keeps s₀ s) : Keeps s₀ (unreside s c ts) := h.update

theorem Keeps.advanceCounter (h : Keeps s₀ s) : Keeps s₀ (advanceCounter s n) := h.update

theorem Keeps.setCanc (h : Keeps s₀ s) : Keeps s₀ (setCanc s n) := h.update

theorem Keeps.modLaunch {f : Launch → Launch} (h : Keeps s₀ s) : Keeps s₀ (modLaunch s i f) := h.update

theorem Keeps.tidyQueue (h : Keeps s₀ s) : Keeps s₀ (tidyQueue s q) := h.update

theorem Keeps.tallyChild {f : Half → Half} (h : Keeps s₀ s) : Keeps s₀ (tallyChild s hd f) := by
  unfold Machine.tallyChild
  dsimp only
  exact .update h.modWg

theorem Keeps.childDone {parent : Option Nat} (h : Keeps s₀ s) : Keeps s₀ (childDone s parent) := by
  unfold Machine.childDone
  split
  · exact h.tallyChild
  · exact h

theorem Keeps.completeLaunch (h : Keeps s₀ s) : Keeps s₀ (completeLaunch s i) := by
  unfold Machine.completeLaunch
  dsimp only
  split
  · exact h
  · exact ((h.update.ite h.update.tidyQueue).ite ((h.update.ite h.update.tidyQueue).releaseRemote.foldl fun _ _ h1 =>
      h1.advanceCounter).childDone).ite h

theorem Keeps.spillTile {g : WgImage} (h : Keeps s₀ s) : Keeps s₀ (spillTile s c ts g t).1 :=
  h.ctxWrite.unreside.clearTile

theorem Keeps.abandonCall (h : Keeps s₀ s) : Keeps s₀ (abandonCall s w t) := by
  obtain ⟨read, eR, hR⟩ := Keeps.exists_ctxRead s₀
  obtain ⟨write, eW, hW⟩ := Keeps.exists_ctxWrite s₀
  generalize hF : @Machine.abandonCall = F
  delta Machine.abandonCall at hF
  rw [eR, eW] at hF
  subst hF
  beta_reduce
  extract_lets a
  split
  next h1 => exact hW ((hR h).of_eq h1)
  next h1 => exact (hR h).of_eq h1

theorem Keeps.abandonCalls (h : Keeps s₀ s) : Keeps s₀ (abandonCalls s w) := h.foldl fun _ _ h1 => h1.abandonCall

theorem Keeps.abandonSaved (h : Keeps s₀ s) : Keeps s₀ (abandonSaved s v) := h.foldl fun _ _ h1 => h1.abandonCalls

theorem Keeps.unkeepPage {p : Nat} (h : Keeps s₀ s) : Keeps s₀ (unkeepPage s c p) := h.update

theorem Keeps.scrubSaved {kill : State → Saved → State} (h : Keeps s₀ s)
    (hf : ∀ t x, Keeps s₀ t → Keeps s₀ (kill t x)) :
    Keeps s₀ (scrubSaved kill s v) := by
  unfold Machine.scrubSaved
  refine .foldl (.foldl (h.foldl fun _ _ h1 => h1.clearTile) fun _ p h1 => h1.foldl fun _ i h2 => ?_)
    fun _ p h1 => h1.modCore fun _ hk => hk.filterOwners (p := fun n => n / 4 != p.2)
  dsimp only
  split
  · exact .ite h2.spillTile (hf _ _ h2.spillTile)
  · exact h2

theorem Keeps.killSavedBy {fuel : Nat} (h : Keeps s₀ s) : Keeps s₀ (killSavedBy fuel s v reason) := by
  induction fuel generalizing s v reason with
  | zero =>
    exact ((Keeps.scrubSaved (.abandonSaved (.update h)) fun _ _ h1 => h1).killReport.foldl
      fun _ _ h1 => h1.teamAnswer).completeLaunch
  | succ n ih =>
    exact ((Keeps.scrubSaved (.abandonSaved (.update h)) fun _ _ h1 => ih h1).killReport.foldl
      fun _ _ h1 => h1.teamAnswer).completeLaunch

theorem Keeps.killSaved (h : Keeps s₀ s) : Keeps s₀ (killSaved s v reason) := h.killSavedBy

theorem Keeps.settleTile (h : Keeps s₀ s) : Keeps s₀ (settleTile s c ts) := by
  unfold Machine.settleTile
  dsimp only
  split
  · refine h.spillTile.ite (.clearTile ?_)
    split
    · exact h.spillTile.killSaved
    · exact h.spillTile
  · exact h.clearTile

theorem Keeps.freePages (h : Keeps s₀ s) : Keeps s₀ (freePages s hd) :=
  (h.foldl fun _ _ h1 => h1.settleTile).modCore fun _ hk => hk.filterOwners (p := fun n => !List.contains _ (n / 4))

theorem Keeps.dropParks (h : Keeps s₀ s) : Keeps s₀ (dropParks s hd) := by
  unfold Machine.dropParks
  exact h.modCore

theorem Keeps.releaseWg (h : Keeps s₀ s) : Keeps s₀ (releaseWg s hd) := by
  unfold Machine.releaseWg
  split
  · exact h
  · exact .update (.modCore h.dropCommands.dropParks.freePages.dropRuns)

theorem Keeps.tidyTeam (h : Keeps s₀ s) : Keeps s₀ (tidyTeam s t) := by
  unfold Machine.tidyTeam
  dsimp only
  split
  · exact h
  · exact ((h.update.foldl fun _ _ h1 => h1.teamAnswer).modLaunch.ite
      (h.update.foldl fun _ _ h1 => h1.teamAnswer)).completeLaunch.ite h

theorem Keeps.retireWg (h : Keeps s₀ s) : Keeps s₀ (retireWg s hd) :=
  h.ite (h.foldl fun _ _ h1 => h1.releaseWg.tidyTeam)

theorem Keeps.tearCommands (h : Keeps s₀ s) : Keeps s₀ (tearCommands s hd) := h.update

theorem Keeps.killWg (h : Keeps s₀ s) : Keeps s₀ (killWg s hd) := by
  unfold Machine.killWg
  dsimp only
  split
  · exact h
  · exact (h.abandonCalls.tearCommands.dropCommands.dropParks.modWg.foldl fun _ _ h1 => h1.modThread).retireWg

theorem Keeps.killTeam {relaunch : Bool} (h : Keeps s₀ s) : Keeps s₀ (killTeam s t reason relaunch b) := by
  unfold Machine.killTeam
  dsimp only
  split
  · exact h
  · refine h.ite (.completeLaunch (.update (.foldl (.update (.ite (.modLaunch ?_) ?_)) fun _ _ h1 => h1.killWg)))
    · split
      · exact h.killReport.foldl fun _ _ h1 => h1.teamAnswer
      · exact h.killReport
    · split
      · exact h.killReport.foldl fun _ _ h1 => h1.teamAnswer
      · exact h.killReport

theorem Keeps.killLaunch (h : Keeps s₀ s) : Keeps s₀ (killLaunch s i reason why) :=
  (h.foldl fun _ _ h1 => h1.killTeam).foldl fun _ _ h1 => h1.killSaved

theorem Keeps.cancelLaunch (h : Keeps s₀ s) : Keeps s₀ (cancelLaunch s i) := by
  unfold Machine.cancelLaunch
  split
  · exact h
  · extract_lets waits s1 s2 s3
    have h2 : Keeps s₀ s2 := .ite (h.modLaunch.foldl fun _ _ h1 => h1.setCanc) h.modLaunch
    have h3 : Keeps s₀ s3 := .ite h2 h2.tidyQueue
    exact h3.killLaunch.completeLaunch

theorem Keeps.cancelSweep (h : Keeps s₀ s) : Keeps s₀ (cancelSweep s n) := by
  induction n generalizing s with
  | zero => exact h
  | succ n ih =>
    unfold Machine.cancelSweep
    split
    · exact ih h.cancelLaunch
    · exact h

theorem Keeps.cancelCounter (h : Keeps s₀ s) : Keeps s₀ (cancelCounter s n) := h.setCanc.cancelSweep

theorem Keeps.rejectLaunch (h : Keeps s₀ s) : Keeps s₀ (rejectLaunch s i) := by
  unfold Machine.rejectLaunch
  dsimp only
  split
  · exact h
  · split
    · exact (h.modLaunch.childDone.ite h.modLaunch.tidyQueue).completeLaunch.cancelCounter.ite
        (h.modLaunch.childDone.ite h.modLaunch.tidyQueue).completeLaunch
    · exact (h.modLaunch.childDone.ite h.modLaunch.tidyQueue).completeLaunch

theorem Keeps.closePair (h : Keeps s₀ s) : Keeps s₀ (closePair s q) :=
  .update (h.mapCores (f := fun k => { k with netFaults := k.netFaults.filter (fun f => f.2.toNat != q) }))

theorem Keeps.endContextFor (h : Keeps s₀ s) : Keeps s₀ (endContextFor s hm why) := by
  unfold Machine.endContextFor
  extract_lets mine s1 left s2 s3 lines s4 s5 s6
  have h2 : Keeps s₀ s2 := .foldl (h.foldl fun _ _ h1 => h1.killLaunch) fun _ e h1 =>
    .completeLaunch (.ite (h1.modLaunch.foldl fun _ _ h2 => h2.setCanc).childDone
      (h1.modLaunch.foldl fun _ _ h2 => h2.setCanc).tidyQueue)
  have h6 : Keeps s₀ s6 := (((h2.cancelSweep.foldl fun _ _ h3 => h3.discardLine).dropCode.foldl
    fun _ _ h3 => h3.l1Discard).foldl fun _ _ h3 => h3.closePair)
  clear_value s6
  exact .ite h (.update (h6.mapCores (f := fun k => { k with
    copyQ := k.copyQ.filter (fun c => c.2.form == .cpyp || c.2.hm != hm)
    mtxQ := k.mtxQ.filter (fun c => c.2.hm != hm) })))

theorem Keeps.endContext (h : Keeps s₀ s) : Keeps s₀ (endContext s hm) := h.endContextFor

theorem Keeps.contain {c : Option Nat} {a : Nat} {sk : Bool} {teams : List Nat} {carrier : Byte} (h : Keeps s₀ s) :
    Keeps s₀ (contain s c a sk hm teams carrier pc) := by
  unfold Machine.contain
  dsimp only
  split
  · exact ((h.ite (h.foldl fun _ _ h1 => h1.killTeam)).foldl fun _ _ h1 => h1.endContextFor).report
  · exact (h.fillLine.foldl fun _ _ h1 => h1.killTeam).report.ite h.endContextFor.report

theorem Keeps.startNinal (h : Keeps s₀ s) : Keeps s₀ (startNinal s c) := by
  unfold Machine.startNinal
  exact h.update.dropRuns.modCore

end

/-! ### What `Machine/Trace` keeps -/

section
variable {s₀ s : State} {c n : Nat} {lanes pc : Word}

theorem Keeps.traceUnit {off : Nat} {u : DWord × DWord} (h : Keeps s₀ s) : Keeps s₀ (traceUnit s c off u) :=
  h.devWrite

theorem Keeps.traceRecord {us : List (DWord × DWord)} (h : Keeps s₀ s) : Keeps s₀ (traceRecord s c us) :=
  (h.foldl fun _ _ h1 => h1.traceUnit).modCore.ite h.modCore

theorem Keeps.syncRecord {rb : Bool} (h : Keeps s₀ s) : Keeps s₀ (syncRecord s c n lanes pc rb) := h.traceRecord

theorem Keeps.causal {ck : Nat} {object value : DWord} (h : Keeps s₀ s) : Keeps s₀ (causal s ck object value) :=
  h.traceRecord.ite h

theorem Keeps.syncAtRun (h : Keeps s₀ s) : Keeps s₀ (syncAtRun s c n lanes pc) := h.modSlot.syncRecord.ite h

theorem Keeps.runRecord {r : Run} {endc : Nat} (h : Keeps s₀ s) : Keeps s₀ (runRecord s c r endc) :=
  (h.traceRecord.ite h.traceRecord.modSlot).ite h

end

/-! ### What `Machine/Service` keeps -/

section
variable {s₀ s : State} {c l n : Nat} {hm : Hm} {va : DWord} {cid : Word} {res : List Word}

theorem Keeps.leaveEntry {e : Nat} {lanes : Word} (h : Keeps s₀ s) : Keeps s₀ (leaveEntry s c e lanes) := by
  refine h.modCore fun k hk => ?_
  split
  · exact hk
  · exact .ite hk hk

theorem Keeps.leavePark (h : Keeps s₀ s) : Keeps s₀ (leavePark s c n l) := by
  unfold Machine.leavePark
  split
  · exact h.leaveEntry
  · exact h.modThread

theorem Keeps.releaseLane {regs : List Nat} (h : Keeps s₀ s) : Keeps s₀ (releaseLane s c n l regs) :=
  h.foldl fun _ _ h1 => h1.freeS.ite h1.releaseV

theorem Keeps.meetings (h : Keeps s₀ s) : Keeps s₀ (meetings s c n) := h.modSlot

theorem Keeps.completeCall (h : Keeps s₀ s) : Keeps s₀ (completeCall s c n l res) := by
  obtain ⟨read, eR, hR⟩ := Keeps.exists_ctxRead s₀
  obtain ⟨write, eW, hW⟩ := Keeps.exists_ctxWrite s₀
  generalize hF : @Machine.completeCall = F
  delta Machine.completeCall at hF
  rw [eR, eW] at hF
  subst hF
  beta_reduce
  split
  · exact h
  · extract_lets w a s1 r s2 s3 s4 s5 s6
    have hr : Keeps s₀ r.1 := hR (hW h)
    have h2 : Keeps s₀ s2 := by
      unfold s2
      split
      · exact hW hr
      · exact hr
    exact (h2.leavePark.releaseLane.foldl fun _ _ h3 => h3.writeV).modThread.acquireRemote.seeStores.meetings

theorem Keeps.writeJournal {i : Nat} (h : Keeps s₀ s) : Keeps s₀ (writeJournal s hm i) := h.update.devWrite

theorem Keeps.markCall {f : CallSt → CallSt} (h : Keeps s₀ s) : Keeps s₀ (markCall s hm va cid f) := by
  unfold Machine.markCall
  dsimp only
  refine .update ?_
  split
  · exact h.writeJournal
  · exact h

theorem Keeps.recordCall (h : Keeps s₀ s) : Keeps s₀ (recordCall s hm va cid) := h.ite (.update h.writeJournal)

theorem Keeps.doneCall (h : Keeps s₀ s) : Keeps s₀ (doneCall s hm va cid res) := h.recordCall.markCall

theorem Keeps.orphanCall (h : Keeps s₀ s) : Keeps s₀ (orphanCall s hm va cid) := h.markCall

theorem Keeps.restartCall (h : Keeps s₀ s) : Keeps s₀ (restartCall s c n l) := by
  unfold Machine.restartCall
  dsimp only
  split
  · exact h
  · exact h.orphanCall.completeCall

theorem Keeps.restartNinal (h : Keeps s₀ s) : Keeps s₀ (restartNinal s c) :=
  h.ite (h.update.clearWalked.startNinal.foldl fun _ _ h1 => h1.restartCall).post

theorem Keeps.deliverSignal {cause detail : Byte} {addr info : DWord} {async : Bool} {pc : Word} (h : Keeps s₀ s) :
    Keeps s₀ (deliverSignal s c n l cause detail addr info async pc) := by
  unfold Machine.deliverSignal
  dsimp only
  split
  · exact h
  · exact h.killTeam.ite (h.killTeam.ite (h.ctxWrite.killTeam.ite
      h.ctxWrite.leavePark.writeV.writeV.writeV.modThread.meetings))

theorem Keeps.keepArrival {t : Thread} (h : Keeps s₀ s) : Keeps s₀ (keepArrival s n t) := by
  unfold Machine.keepArrival
  dsimp only
  split
  · exact h.modWg
  · exact h.modWg
  · exact h

theorem Keeps.deliverPending (h : Keeps s₀ s) : Keeps s₀ (deliverPending s c n l) := by
  unfold Machine.deliverPending
  split
  · exact h
  · refine h.ite (h.keepArrival.modThread.deliverSignal.ite ?_)
    split
    · exact h.keepArrival.modThread.deliverSignal
    · exact h

theorem Keeps.returnSignal {frame : DWord} (h : Keeps s₀ s) : Keeps s₀ (returnSignal s c n l frame).1 := by
  unfold Machine.returnSignal
  split
  · exact h
  · dsimp only
    split
    next h1 => exact h.ctxRead.of_eq h1
    next h1 =>
      have h1 := h.ctxRead.of_eq h1
      exact .modThread (.ite (.writeV (.ite (.writeV (.ite h1.writeV h1.releaseV))
          (.releaseV (.ite h1.writeV h1.releaseV))))
        (.releaseV (.ite (.writeV (.ite h1.writeV h1.releaseV)) (.releaseV (.ite h1.writeV h1.releaseV)))))

end

/-! ### What `Machine/Issue` keeps -/

section
variable {s₀ s : State} {sh : Shape} {rs : List Rd} {c l q x : Nat} {lanes ls : List Nat}
    {f : Nat → List Nat → Act Out} {r : Run} {w : Wait} {uni : Bool} {done : List (Nat × Out)} {s0 : State} {hm : Hm}
    {t : TrapInfo}

theorem Keeps.digestRun (h : Keeps s₀ s) : Keeps s₀ (digestRun s c r) := by
  unfold Machine.digestRun
  dsimp only
  split
  · exact h
  · exact h.update.ite h

theorem Keeps.finishRun {endc : Nat} (h : Keeps s₀ s) : Keeps s₀ (finishRun s c q endc) := by
  unfold Machine.finishRun
  split
  · exact h
  · exact h.clearWalked.runRecord.digestRun.closeRun

theorem Keeps.storeLatches {ls : List Latch} (h : Keeps s₀ s) : Keeps s₀ (storeLatches s c r ls) := h.modSlot

theorem Keeps.keepLatches (h : Keeps s₀ s) : Keeps s₀ (keepLatches s c q) := by
  unfold Machine.keepLatches
  dsimp only
  split
  · exact h
  · exact (h.storeLatches.ite h).finishRun

theorem Keeps.splitRun {n : Nat} (h : Keeps s₀ s) : Keeps s₀ (splitRun s c n l) := by
  unfold Machine.splitRun
  refine h.foldl fun _ _ h1 => ?_
  split
  · exact h1.finishRun.ite h1
  · exact h1

theorem Keeps.runLanes {f : Nat → Act Out} (h : Keeps s₀ s) (hf : ∀ x, ActKeeps s₀ (f x)) :
    Keeps s₀ (runLanes s ls f).1 :=
  Keeps.foldlFst (p := (s, [])) h fun _ x h1 => hf x _ h1

theorem Keeps.breakRun {ws : Nat → Wait} (h : Keeps s₀ s) : Keeps s₀ (breakRun s ws) :=
  (h.count.foldl fun _ _ h1 => h1.modThread).finishRun

theorem Keeps.begun (h : Keeps s₀ s) : Keeps s₀ (begun s) := h.update

theorem Keeps.requestWait (h : Keeps s₀ s) : Keeps s₀ (requestWait s l w) := by
  unfold Machine.requestWait
  split
  · split
    · exact h.ite h.update
    · exact h
  · exact h.askTeam
  · exact h

theorem Keeps.writeResult (h : Keeps s₀ s) : Keeps s₀ (writeResult s sh uni done) := by
  unfold Machine.writeResult
  dsimp only
  refine h.ite ?_
  split
  · exact h.foldl fun _ _ h1 => h1.writeV
  · exact h.foldl fun _ _ h1 => h1.writeS
  · exact h
  · exact h

theorem Keeps.releaseReads (h : Keeps s₀ s) : Keeps s₀ (releaseReads s rs lanes) :=
  h.ite ((h.foldl fun _ _ h1 => h1.releaseV).foldl fun _ _ h1 => h1.freeS)

theorem Keeps.commitLanes (h : Keeps s₀ s) : Keeps s₀ (commitLanes s sh rs uni lanes done) := by
  unfold Machine.commitLanes
  dsimp only
  refine .foldl (.ite (.modSlot ?_) ?_) fun _ _ h1 => h1.modThread
  · split
    · exact h.releaseReads.writeResult.ite (h.releaseReads.writeResult.writeLatch.modSlot.ite
        h.releaseReads.writeResult.writeLatch)
    · exact h.releaseReads.writeResult
  · split
    · exact h.releaseReads.writeResult.ite (h.releaseReads.writeResult.writeLatch.modSlot.ite
        h.releaseReads.writeResult.writeLatch)
    · exact h.releaseReads.writeResult

theorem Keeps.afterInstr {trapped stayed ended taken : Bool} (h : Keeps s₀ s) :
    Keeps s₀ (afterInstr s sh trapped stayed ended taken) := by
  unfold Machine.afterInstr
  extract_lets i waiting s1 joined s2 ts live waits one
  have h2 : Keeps s₀ s2 := h.clearWalked.meetings.modSlot
  clear_value s2
  split
  · exact h2
  · extract_lets r s3 other
    have h3 : Keeps s₀ s3 := h2.modQuarter
    clear_value s3
    exact .ite h3.finishRun (.ite h3.finishRun (.ite h3.count.finishRun (.ite (.ite h3.finishRun h3.keepLatches)
      (.ite h3.count.finishRun (.ite h3.finishRun (.ite h3.count.finishRun (.ite h3.finishRun (.ite h3.finishRun
        (.ite h3.finishRun h3)))))))))

theorem Keeps.stopLanes (h : Keeps s₀ s) : Keeps s₀ (stopLanes s sh lanes) := h.foldl fun _ _ h1 => h1.modThread

theorem Keeps.parkGroups {gs : List (TrapInfo × List (Nat × TrapInfo))} {pc : Nat → Word} (h : Keeps s₀ s) :
    Keeps s₀ (parkGroups s s0 sh rs gs pc) :=
  h.foldl fun _ _ h1 => ((h1.countBy.countBy.ite h1.countBy).countBy.ite
      (h1.countBy.countBy.ite h1.countBy)).parkGroup.foldl fun _ _ h2 => h2.modThread

theorem Keeps.containAll {ts : List (Nat × TrapInfo)} (h : Keeps s₀ s) : Keeps s₀ (containAll s hm ts) := by
  unfold Machine.containAll
  dsimp only
  refine h.foldl fun _ _ h1 => ?_
  split
  · exact h1.contain
  · exact h1

theorem Keeps.containFetch (h : Keeps s₀ s) : Keeps s₀ (containFetch s hm ls t) := by
  unfold Machine.containFetch
  dsimp only
  split
  · exact h.contain
  · exact h

theorem Keeps.stallPath {ms : List (Nat × MissAt)} (h : Keeps s₀ s) : Keeps s₀ (stallPath s ms) :=
  h.modQuarter.foldl fun _ _ h1 => h1.queueMiss.ite h1.queueMiss.countBy.countBy

theorem Keeps.countIssue (h : Keeps s₀ s) : Keeps s₀ (countIssue s0 s rs) := by
  unfold Machine.countIssue
  dsimp only
  split
  · exact h.count
  · exact h.count.count

theorem Keeps.performOn (h : Keeps s₀ s) (hf : ∀ x y, ActKeeps s₀ (f x y)) : Keeps s₀ (performOn s sh rs f) := by
  unfold Machine.performOn
  extract_lets i s1 path act reads r waits traps outs stay done lates gs gl need stays lanes uni s2 s3 s4 s5 s6 s7 s8
      s9
  have h1 : Keeps s₀ s1 := h.begun
  have hr : Keeps s₀ r.1 := h1.runLanes fun l => by
    split
    · exact hf _ _
    · exact .ite .pure .throw
    · exact .pure
  have h2 : Keeps s₀ s2 := .ite hr hr.countIssue
  have h7 : Keeps s₀ s7 :=
    (h2.commitLanes.foldl fun _ _ h3 => h3.modThread).parkGroups.parkGroups.stopLanes
  have h9 : Keeps s₀ s9 := .afterInstr (.ite (h7.foldl fun _ _ h8 => h8.deliverPending) h7)
  clear_value s1 s9 r waits
  split
  · exact h1.breakRun
  · refine .ite h1.stallPath ?_
    split
    · exact (h1.foldl fun _ _ h2 => h2.requestWait).breakRun
    · exact .ite hr.countIssue.restartNinal.containAll (.ite h1.count.breakRun h9.containAll)

theorem Keeps.perform (h : Keeps s₀ s) (hf : ∀ x y, ActKeeps s₀ (f x y)) : OutKeeps s₀ (perform s sh rs f) :=
  .next (h.performOn (fun _ _ => hf _ _))

theorem Keeps.trapPath (h : Keeps s₀ s) : Keeps s₀ (trapPath s sh t) :=
  h.restartNinal.containFetch.ite (h.count.breakRun.ite h.parkGroups.afterInstr.containFetch)

theorem Keeps.privileged (h : Keeps s₀ s) (hf : ∀ x y, ActKeeps s₀ (f x y)) : OutKeeps s₀ (privileged s sh rs f) :=
  .ite (h.perform (fun _ _ => hf _ _)) (.next h.begun.trapPath)

theorem ActKeeps.takeEntryFor {room : State → Bool} {take : State → State} (hf : ∀ t, Keeps s₀ t → Keeps s₀ (take t))
    :
    ActKeeps s₀ (takeEntryFor room w take) :=
  .get (fun _ h1 => .ite (.bind (.setState (hf _ h1)) (fun _ => .pure))
      (.bind (.setState h1.update) (fun _ => .pure)))

theorem ActKeeps.replayLog {e : Nat × LogRec} : ActKeeps s₀ (replayLog l e) :=
  .get (fun _ h1 => .bind (.setState h1.update) (fun _ => .pure))

theorem ActKeeps.appendLog {o : Out} : ActKeeps s₀ (appendLog l o) := .get (fun _ h1 => .setState h1.update)

theorem ActKeeps.escape {a : Act Out} (hf : ActKeeps s₀ a) : ActKeeps s₀ (escape l a) := by
  unfold Machine.escape
  dsimp only
  refine .get (fun _ h1 => .ite ?_ hf)
  split
  · exact .replayLog
  · exact .ite (.bind hf (fun _ => .bind .appendLog (fun _ => .pure))) .waitFor

theorem ActKeeps.result : ActKeeps s₀ (result x) := .pure

theorem ActKeeps.resultPush {b : Bool} : ActKeeps s₀ (resultPush x b) := .pure

end

/-! ### What `Machine/Barrier` keeps -/

section
variable {s₀ s : State} {a b c hd l t : Nat}

theorem Keeps.leaveWait {n : Nat} {next : Word} (h : Keeps s₀ s) : Keeps s₀ (leaveWait s c n l next) :=
  h.releaseLane.modThread

theorem Keeps.leaveAll {ws : List (Nat × Nat × Word)} (h : Keeps s₀ s) : Keeps s₀ (leaveAll s c ws) :=
  (h.foldl fun _ _ h1 => h1.leaveWait).foldl fun _ _ h1 => h1.meetings

theorem Keeps.trapWaiters {ws : List (Nat × Nat)} {cause detail : Byte} {op : Nat} (h : Keeps s₀ s) :
    Keeps s₀ (trapWaiters s c ws cause detail op) := by
  unfold Machine.trapWaiters
  dsimp only
  refine h.foldl fun _ _ h1 => ?_
  split
  · exact h1
  · exact h1
  · exact h1.restartNinal.ite ((h1.foldl fun _ _ h2 => h2.modThread).ite
      (h1.foldl fun _ _ h2 => h2.modThread).countAt.parkGroup)

theorem Keeps.keepDue {rs : List Rd} {waiting : TState → Bool} (h : Keeps s₀ s) : Keeps s₀ (keepDue s rs waiting) :=
  h.foldl fun _ _ h1 => h1.modThread

theorem Keeps.closeBar (h : Keeps s₀ s) : Keeps s₀ (closeBar s hd b) := h.modWg

theorem Keeps.completeBar (h : Keeps s₀ s) : Keeps s₀ (completeBar s hd b) :=
  h.ite ((h.closeBar.leaveAll.ite h).ite (h.closeBar.ite (h.closeBar.leaveAll.ite h)))

theorem Keeps.sweepBars (h : Keeps s₀ s) : Keeps s₀ (sweepBars s hd) :=
  (h.foldl fun _ _ h1 => h1.trapWaiters).foldl fun _ _ h1 => h1.completeBar

theorem Keeps.arriveBar (h : Keeps s₀ s) : Keeps s₀ (arriveBar s b) := by
  unfold Machine.arriveBar
  dsimp only
  split
  · exact h.foldl fun _ _ h1 => h1.modWg
  · exact (h.foldl fun _ _ h1 => h1.modWg).modWg.modWg

theorem Keeps.execBar {hd : Head} {b : BitVec 4} (h : Keeps s₀ s) : OutKeeps s₀ (execBar hd b s) :=
  .next (((h.performOn (fun _ _ => .pure)).arriveBar.foldl fun _ _ h1 => h1.sweepBars).ite
      (h.performOn (fun _ _ => .pure)))

theorem Keeps.setNamed {m : Option Named} (h : Keeps s₀ s) : Keeps s₀ (setNamed s hd a m) := h.modWg

theorem ActKeeps.arriveNamed {a : Word} {x : Nat} : ActKeeps s₀ (arriveNamed l a x) := by
  unfold Machine.arriveNamed
  dsimp only
  refine .get (fun _ h1 => .ite .raiseAt (.ite .raiseAt (.ite .raise ?_)))
  split
  · exact .ite .raise (.ite (.setState h1.setNamed) (.setState h1.setNamed))
  · exact .ite .raise (.ite .pure (.setState h1.setNamed))

theorem Keeps.settleNamed {mine : List Nat} (h : Keeps s₀ s) : Keeps s₀ (settleNamed s hd a mine) := h.ite h.leaveAll

theorem Keeps.sweepNamed (h : Keeps s₀ s) : Keeps s₀ (sweepNamed s hd) :=
  h.foldl fun _ _ h1 => (h1.trapWaiters.setNamed.ite h1.trapWaiters).ite h1

theorem Keeps.execBarn {hd : Head} {a x : Src} (h : Keeps s₀ s) : OutKeeps s₀ (execBarn hd a x s) :=
  .next (((h.performOn (fun _ _ => .bind .arriveNamed (fun _ => .pure))).keepDue.foldl fun _ _ h1 =>
      h1.settleNamed).foldl fun _ _ h1 => h1.sweepNamed)

theorem Keeps.perCore {ws : List (Nat × Nat × Nat × Nat × Word)} {f : State → Nat → List (Nat × Nat × Word) → State}
    (h : Keeps s₀ s) (hf : ∀ t x y, Keeps s₀ t → Keeps s₀ (f t x y)) :
    Keeps s₀ (perCore ws f s) :=
  h.foldl fun _ _ h1 => hf _ _ _ h1

theorem Keeps.completeTbar (h : Keeps s₀ s) : Keeps s₀ (completeTbar s t b) :=
  h.ite (((h.foldl fun _ _ h1 => h1.showStores.modWg).perCore (fun _ _ _ h1 => h1.leaveAll)).ite h)

theorem Keeps.sweepTeam (h : Keeps s₀ s) : Keeps s₀ (sweepTeam s t) :=
  (h.foldl fun _ _ h1 => h1.perCore (fun _ _ _ h2 => h2.trapWaiters)).foldl fun _ _ h1 => h1.completeTbar

theorem Keeps.execTbar {hd : Head} {b : BitVec 2} (h : Keeps s₀ s) : OutKeeps s₀ (execTbar hd b s) :=
  .next ((h.performOn (fun _ _ => .get (fun _ h1 => .bind (.setState h1.orderWork) (fun _ => .pure)))).foldl fun _ _
      h1 => h1.sweepTeam)

theorem Keeps.sweepBarriers (h : Keeps s₀ s) : Keeps s₀ (sweepBarriers s hd) := by
  unfold Machine.sweepBarriers
  exact h.sweepBars.sweepNamed.sweepTeam

end

/-! ### What `Machine/Fetch` keeps -/

section
variable {s₀ s : State} {c : Nat} {hm : Hm} {va : DWord} {f : Fetched}

theorem Keeps.fetchPiece {n : Nat} (h : Keeps s₀ s) : Keeps s₀ (fetchPiece s c hm va n f).1 := by
  unfold Machine.fetchPiece
  dsimp only
  refine h.iteFst (h.iteFst ?_)
  split
  · exact h.countMisses.pathPlace.of_eq ‹_›
  · split
    · exact h.countMisses.pathPlace.of_eq ‹_›
    · exact (h.countMisses.pathPlace.of_eq ‹_›).askRead
    · exact (h.countMisses.pathPlace.of_eq ‹_›).askRead
    · exact (h.countMisses.pathPlace.of_eq ‹_›).iteFst ((h.countMisses.pathPlace.of_eq
        ‹_›).readNewest.readPlace.iteFst (h.countMisses.pathPlace.of_eq ‹_›).readNewest)

theorem Keeps.fetchWord (h : Keeps s₀ s) : Keeps s₀ (fetchWord s c hm va f).1 :=
  h.fetchPiece.iteFst h.fetchPiece.fetchPiece

theorem Keeps.fetchInstr {cbase : DWord} {pc : Word} (h : Keeps s₀ s) : Keeps s₀ (fetchInstr s c hm cbase pc).1 :=
  h.fetchWord.fetchWord.iteFst h.fetchWord

end

/-! ### What `Machine/Integer` keeps -/

section
variable {s₀ s : State} {hd : Head} {d : Dst} {a b c : Src} {t : ITy} {w : Wd} {imm : Word} {sat : Bool}
    {op words : Nat} {rs : List Rd} {f : List Nat → Nat} {k : BitVec 3} {cond : ICond}

theorem Keeps.alu (h : Keeps s₀ s) : OutKeeps s₀ (alu s hd op d words rs f) := h.perform (fun _ _ => .result)

theorem Keeps.aluImm {a : Rd} {b : Nat} (h : Keeps s₀ s) : OutKeeps s₀ (aluImm s hd op d words a b f) := h.alu

theorem Keeps.execIadd (h : Keeps s₀ s) : OutKeeps s₀ (execIadd hd d a b t sat s) := h.alu

theorem Keeps.execIsub (h : Keeps s₀ s) : OutKeeps s₀ (execIsub hd d a b t sat s) := h.alu

theorem Keeps.execImul (h : Keeps s₀ s) : OutKeeps s₀ (execImul hd d a b t sat s) := h.alu

theorem Keeps.execImulh (h : Keeps s₀ s) : OutKeeps s₀ (execImulh hd d a b t s) := h.alu

theorem Keeps.execImad (h : Keeps s₀ s) : OutKeeps s₀ (execImad hd d a b c t sat s) := h.alu

theorem Keeps.execImadw {signed : Bool} (h : Keeps s₀ s) : OutKeeps s₀ (execImadw hd d a b c signed sat s) := h.alu

theorem Keeps.execImin (h : Keeps s₀ s) : OutKeeps s₀ (execImin hd d a b t s) := h.alu

theorem Keeps.execImax (h : Keeps s₀ s) : OutKeeps s₀ (execImax hd d a b t s) := h.alu

theorem Keeps.execIabs (h : Keeps s₀ s) : OutKeeps s₀ (execIabs hd d a w sat s) := h.alu

theorem Keeps.execIneg (h : Keeps s₀ s) : OutKeeps s₀ (execIneg hd d a t sat s) := h.alu

theorem Keeps.execIsad (h : Keeps s₀ s) : OutKeeps s₀ (execIsad hd d a b c t sat s) := h.alu

theorem Keeps.execAnd (h : Keeps s₀ s) : OutKeeps s₀ (execAnd hd d a b w s) := h.alu

theorem Keeps.execOr (h : Keeps s₀ s) : OutKeeps s₀ (execOr hd d a b w s) := h.alu

theorem Keeps.execXor (h : Keeps s₀ s) : OutKeeps s₀ (execXor hd d a b w s) := h.alu

theorem Keeps.execNot (h : Keeps s₀ s) : OutKeeps s₀ (execNot hd d a w s) := h.alu

theorem Keeps.execAndn (h : Keeps s₀ s) : OutKeeps s₀ (execAndn hd d a b w s) := h.alu

theorem Keeps.execShl (h : Keeps s₀ s) : OutKeeps s₀ (execShl hd d a b t s) := h.alu

theorem Keeps.execShr (h : Keeps s₀ s) : OutKeeps s₀ (execShr hd d a b t s) := h.alu

theorem Keeps.execSar (h : Keeps s₀ s) : OutKeeps s₀ (execSar hd d a b t s) := h.alu

theorem Keeps.execRotl (h : Keeps s₀ s) : OutKeeps s₀ (execRotl hd d a b t s) := h.alu

theorem Keeps.execBfx (h : Keeps s₀ s) : OutKeeps s₀ (execBfx hd d a b t s) := h.alu

theorem Keeps.execBfi (h : Keeps s₀ s) : OutKeeps s₀ (execBfi hd d a b c t s) := h.alu

theorem Keeps.execBrev (h : Keeps s₀ s) : OutKeeps s₀ (execBrev hd d a w s) := h.alu

theorem Keeps.execPopc (h : Keeps s₀ s) : OutKeeps s₀ (execPopc hd d a w s) := h.alu

theorem Keeps.execClz (h : Keeps s₀ s) : OutKeeps s₀ (execClz hd d a w s) := h.alu

theorem Keeps.execCtz (h : Keeps s₀ s) : OutKeeps s₀ (execCtz hd d a w s) := h.alu

theorem Keeps.execLea (h : Keeps s₀ s) : OutKeeps s₀ (execLea hd d a b c t k s) := h.alu

theorem Keeps.execMov (h : Keeps s₀ s) : OutKeeps s₀ (execMov hd d a w s) := h.alu

theorem Keeps.execSel {p : Fin 7} (h : Keeps s₀ s) : OutKeeps s₀ (execSel hd d a b w p s) :=
  h.perform (fun _ _ => .result)

theorem Keeps.aluTest {f : List Nat → Bool} (h : Keeps s₀ s) : OutKeeps s₀ (aluTest s hd op d rs f) :=
  h.perform (fun _ _ => .resultPush)

theorem Keeps.execIcmp (h : Keeps s₀ s) : OutKeeps s₀ (execIcmp hd d a b t cond s) := h.aluTest

theorem Keeps.execIaddI (h : Keeps s₀ s) : OutKeeps s₀ (execIaddI hd d a imm t sat s) := h.aluImm

theorem Keeps.execIsubI (h : Keeps s₀ s) : OutKeeps s₀ (execIsubI hd d a imm t sat s) := h.aluImm

theorem Keeps.execImulI (h : Keeps s₀ s) : OutKeeps s₀ (execImulI hd d a imm t sat s) := h.aluImm

theorem Keeps.execIminI (h : Keeps s₀ s) : OutKeeps s₀ (execIminI hd d a imm t s) := h.aluImm

theorem Keeps.execImaxI (h : Keeps s₀ s) : OutKeeps s₀ (execImaxI hd d a imm t s) := h.aluImm

theorem Keeps.execAndI (h : Keeps s₀ s) : OutKeeps s₀ (execAndI hd d a imm w s) := h.aluImm

theorem Keeps.execOrI (h : Keeps s₀ s) : OutKeeps s₀ (execOrI hd d a imm w s) := h.aluImm

theorem Keeps.execXorI (h : Keeps s₀ s) : OutKeeps s₀ (execXorI hd d a imm w s) := h.aluImm

theorem Keeps.execAndnI (h : Keeps s₀ s) : OutKeeps s₀ (execAndnI hd d a imm w s) := h.aluImm

theorem Keeps.execShlI (h : Keeps s₀ s) : OutKeeps s₀ (execShlI hd d a imm t s) := h.aluImm

theorem Keeps.execShrI (h : Keeps s₀ s) : OutKeeps s₀ (execShrI hd d a imm t s) := h.aluImm

theorem Keeps.execSarI (h : Keeps s₀ s) : OutKeeps s₀ (execSarI hd d a imm t s) := h.aluImm

theorem Keeps.execRotlI (h : Keeps s₀ s) : OutKeeps s₀ (execRotlI hd d a imm t s) := h.aluImm

theorem Keeps.execLeaI (h : Keeps s₀ s) : OutKeeps s₀ (execLeaI hd d a imm t k s) := h.alu

theorem Keeps.execIcmpI (h : Keeps s₀ s) : OutKeeps s₀ (execIcmpI hd d a imm t cond s) := h.aluTest

theorem Keeps.execMovi (h : Keeps s₀ s) : OutKeeps s₀ (execMovi hd d imm t s) := h.alu

end

/-! ### What `Machine/Float` keeps -/

section
variable {s₀ s : State} {hd : Head} {d : Dst} {a b c : Src} {m : DirMode} {nan : Bool} {imm : Word} {r : Rnd}
    {t : HTy} {op : Nat} {cond : FCond} {rs : List Rd}

theorem ActKeeps.fpLane {l : Nat} {r : FRes} {push : Bool} : ActKeeps s₀ (fpLane l r push) := by
  unfold Machine.fpLane
  refine .get (fun _ h1 => ?_)
  split
  · exact .raise
  · exact .pure

theorem ActKeeps.fpPath {r : FRes} : ActKeeps s₀ (fpPath hd r) := by
  unfold Machine.fpPath
  refine .get (fun _ h1 => ?_)
  split
  · exact .raise
  · exact .pure

theorem Keeps.fpu {words latch : Nat} {f : List Nat → FRes} (h : Keeps s₀ s) :
    OutKeeps s₀ (fpu s hd op d words latch rs f) :=
  h.perform (fun _ _ => .fpLane)

theorem Keeps.fpTest {f : List Nat → Bool × Bool} (h : Keeps s₀ s) : OutKeeps s₀ (fpTest s hd op d rs f) :=
  h.perform (fun _ _ => .fpLane)

theorem Keeps.execFadd (h : Keeps s₀ s) : OutKeeps s₀ (execFadd hd d a b r s) := h.fpu

theorem Keeps.execFsub (h : Keeps s₀ s) : OutKeeps s₀ (execFsub hd d a b r s) := h.fpu

theorem Keeps.execFmul (h : Keeps s₀ s) : OutKeeps s₀ (execFmul hd d a b r s) := h.fpu

theorem Keeps.execFfma (h : Keeps s₀ s) : OutKeeps s₀ (execFfma hd d a b c m s) := h.fpu

theorem Keeps.execFmin (h : Keeps s₀ s) : OutKeeps s₀ (execFmin hd d a b nan s) := h.fpu

theorem Keeps.execFmax (h : Keeps s₀ s) : OutKeeps s₀ (execFmax hd d a b nan s) := h.fpu

theorem Keeps.execFcmp (h : Keeps s₀ s) : OutKeeps s₀ (execFcmp hd d a b cond s) := h.fpTest

theorem Keeps.execFclass {t : FTy} (h : Keeps s₀ s) : OutKeeps s₀ (execFclass hd d a t s) := h.fpu

theorem Keeps.execFrnd (h : Keeps s₀ s) : OutKeeps s₀ (execFrnd hd d a m s) := h.fpu

theorem Keeps.sfu {g : SFun} (h : Keeps s₀ s) : OutKeeps s₀ (sfu s hd op d a g m) := h.fpu

theorem Keeps.execFrcp (h : Keeps s₀ s) : OutKeeps s₀ (execFrcp hd d a m s) := h.sfu

theorem Keeps.execFrsq (h : Keeps s₀ s) : OutKeeps s₀ (execFrsq hd d a m s) := h.sfu

theorem Keeps.execFsqrt (h : Keeps s₀ s) : OutKeeps s₀ (execFsqrt hd d a m s) := h.sfu

theorem Keeps.execFex2 (h : Keeps s₀ s) : OutKeeps s₀ (execFex2 hd d a s) := h.sfu

theorem Keeps.execFlg2 (h : Keeps s₀ s) : OutKeeps s₀ (execFlg2 hd d a s) := h.sfu

theorem Keeps.execFsin (h : Keeps s₀ s) : OutKeeps s₀ (execFsin hd d a s) := h.sfu

theorem Keeps.execFcos (h : Keeps s₀ s) : OutKeeps s₀ (execFcos hd d a s) := h.sfu

theorem Keeps.execFtanh (h : Keeps s₀ s) : OutKeeps s₀ (execFtanh hd d a s) := h.sfu

theorem Keeps.execFsig (h : Keeps s₀ s) : OutKeeps s₀ (execFsig hd d a s) := h.sfu

theorem Keeps.execHadd2 (h : Keeps s₀ s) : OutKeeps s₀ (execHadd2 hd d a b t r s) := h.fpu

theorem Keeps.execHmul2 (h : Keeps s₀ s) : OutKeeps s₀ (execHmul2 hd d a b t r s) := h.fpu

theorem Keeps.execHfma2 (h : Keeps s₀ s) : OutKeeps s₀ (execHfma2 hd d a b c t m s) := h.fpu

theorem Keeps.execHmax2 (h : Keeps s₀ s) : OutKeeps s₀ (execHmax2 hd d a b t nan s) := h.fpu

theorem Keeps.execHmin2 (h : Keeps s₀ s) : OutKeeps s₀ (execHmin2 hd d a b t nan s) := h.fpu

theorem Keeps.execDadd (h : Keeps s₀ s) : OutKeeps s₀ (execDadd hd d a b m s) := h.fpu

theorem Keeps.execDmul (h : Keeps s₀ s) : OutKeeps s₀ (execDmul hd d a b m s) := h.fpu

theorem Keeps.execDfma (h : Keeps s₀ s) : OutKeeps s₀ (execDfma hd d a b c m s) := h.fpu

theorem Keeps.execDcmp (h : Keeps s₀ s) : OutKeeps s₀ (execDcmp hd d a b cond s) := h.fpTest

theorem Keeps.execDmin (h : Keeps s₀ s) : OutKeeps s₀ (execDmin hd d a b nan s) := h.fpu

theorem Keeps.execDmax (h : Keeps s₀ s) : OutKeeps s₀ (execDmax hd d a b nan s) := h.fpu

theorem Keeps.execFaddI (h : Keeps s₀ s) : OutKeeps s₀ (execFaddI hd d a imm m s) := h.fpu

theorem Keeps.execFsubI (h : Keeps s₀ s) : OutKeeps s₀ (execFsubI hd d a imm m s) := h.fpu

theorem Keeps.execFmulI (h : Keeps s₀ s) : OutKeeps s₀ (execFmulI hd d a imm m s) := h.fpu

theorem Keeps.execFminI (h : Keeps s₀ s) : OutKeeps s₀ (execFminI hd d a imm nan s) := h.fpu

theorem Keeps.execFmaxI (h : Keeps s₀ s) : OutKeeps s₀ (execFmaxI hd d a imm nan s) := h.fpu

theorem Keeps.execFcmpI (h : Keeps s₀ s) : OutKeeps s₀ (execFcmpI hd d a imm cond s) := h.fpTest

end

/-! ### What `Machine/Narrow` keeps -/

section
variable {s₀ s : State}

theorem Keeps.amaxUpdate {hd n : Nat} {v : FVal} (h : Keeps s₀ s) : Keeps s₀ (amaxUpdate s hd n v) := h.modWg

end

/-! ### What `Machine/Convert` keeps -/

section
variable {s₀ s : State} {hd : Head} {a b c : Src} {d : Dst} {r : Rnd} {f : Fmt} {n : Blk}

theorem Keeps.execCvtf {code : CvtF} (h : Keeps s₀ s) : OutKeeps s₀ (execCvtf hd d a code r s) := h.fpu

theorem Keeps.execCvti {code : CvtI} (h : Keeps s₀ s) : OutKeeps s₀ (execCvti hd d a code r s) := h.fpu

theorem Keeps.execCvtn {code : CvtN} (h : Keeps s₀ s) : OutKeeps s₀ (execCvtn hd d a code r s) := h.fpu

theorem Keeps.execBscl (h : Keeps s₀ s) : OutKeeps s₀ (execBscl hd d a f s) := h.fpu

theorem Keeps.execQpk (h : Keeps s₀ s) : OutKeeps s₀ (execQpk hd d a b c f n s) :=
  h.perform (fun _ _ => .get (fun _ _ => .pure))

theorem Keeps.execQupk {hi : Bool} (h : Keeps s₀ s) : OutKeeps s₀ (execQupk hd d a c f n hi s) :=
  h.perform (fun _ _ => .get (fun _ _ => .fpLane))

theorem Keeps.execAmax {n : BitVec 4} {src : AmaxSrc} (h : Keeps s₀ s) : OutKeeps s₀ (execAmax hd a n src s) :=
  h.perform (fun _ _ => .get (fun _ h1 => .bind (.setState (h1.foldl fun _ _ h2 => h2.amaxUpdate))
      (fun _ => .result)))

theorem Keeps.execCbrg {out : CbrgOut} (h : Keeps s₀ s) : OutKeeps s₀ (execCbrg hd d a b out s) := by
  unfold Machine.execCbrg
  dsimp only
  refine h.perform (fun _ _ => ?_)
  split <;> exact .result

end

/-! ### What `Machine/Lanes` keeps -/

section
variable {s₀ s : State} {hd : Head} {d : Dst} {a b : Src} {p : Fin 7} {inv neg : Bool} {t : RTy}

theorem Keeps.execShfl {c : Src} {mode : ShflMode} {g : Fin 6} (h : Keeps s₀ s) :
    OutKeeps s₀ (execShfl hd d a b c mode g s) :=
  h.perform (fun _ _ => .get (fun _ _ => .resultPush))

theorem Keeps.execVote {test : VoteTest} (h : Keeps s₀ s) : OutKeeps s₀ (execVote hd d test p neg s) :=
  h.perform (fun _ _ => .get (fun _ _ => .resultPush))

theorem Keeps.execBallot (h : Keeps s₀ s) : OutKeeps s₀ (execBallot hd d p neg s) :=
  h.perform (fun _ _ => .get (fun _ _ => .result))

theorem Keeps.execRedx {op : ROp} (h : Keeps s₀ s) : OutKeeps s₀ (execRedx hd d a op t s) :=
  h.perform (fun _ _ => .get (fun _ _ => .fpPath))

theorem Keeps.execScan {op : SOp} (h : Keeps s₀ s) : OutKeeps s₀ (execScan hd d a b op t s) :=
  h.perform (fun _ _ => .get (fun _ _ => .fpPath))

theorem Keeps.execMatchLanes {w : Wd} (h : Keeps s₀ s) : OutKeeps s₀ (execMatchLanes hd d a w s) :=
  h.perform (fun _ _ => .get (fun _ _ => .resultPush))

theorem Keeps.execElect {cand : Option (Fin 7)} {hi : Bool} (h : Keeps s₀ s) :
    OutKeeps s₀ (execElect hd d cand hi s) :=
  h.perform (fun _ _ => .get (fun _ _ => .resultPush))

theorem Keeps.modPred {l : Nat} {f : BitVec 8 → BitVec 8} (h : Keeps s₀ s) : Keeps s₀ (modPred s l f) := h.modThread

theorem Keeps.execPsh (h : Keeps s₀ s) : OutKeeps s₀ (execPsh hd a inv s) := h.perform (fun _ _ => .resultPush)

theorem Keeps.execPdup (h : Keeps s₀ s) : OutKeeps s₀ (execPdup hd p s) :=
  h.perform (fun _ _ => .get (fun _ _ => .resultPush))

theorem Keeps.execPlog {op : PlogOp} {rep : Bool} (h : Keeps s₀ s) : OutKeeps s₀ (execPlog hd op p rep inv s) :=
  h.perform (fun _ _ => .get (fun _ h1 => .ite (.bind (.setState h1.modPred) (fun _ => .result)) .resultPush))

theorem Keeps.execPdrop {n : Fin 7} (h : Keeps s₀ s) : OutKeeps s₀ (execPdrop hd n s) :=
  h.perform (fun _ _ => .get (fun _ h1 => .bind (.setState h1.modPred) (fun _ => .result)))

theorem Keeps.execPswp {p : Fin 6} (h : Keeps s₀ s) : OutKeeps s₀ (execPswp hd p s) :=
  h.perform (fun _ _ => .get (fun _ h1 => .bind (.setState h1.modPred) (fun _ => .result)))

theorem Keeps.execPmov {op : PmovOp} (h : Keeps s₀ s) : OutKeeps s₀ (execPmov hd op s) := by
  unfold Machine.execPmov
  split
  · exact h.perform (fun _ _ => .get (fun _ h1 => .result))
  · exact h.perform (fun _ _ => .get (fun _ h1 => .bind (.setState h1.modPred) (fun _ => .result)))

end

/-! ### What `Machine/Memory` keeps -/

section
variable {s₀ s : State} {hd : Head} {off : BitVec 30} {b : Base} {w : MWidth} {x : Data} {o : MOrder} {sc : Scope}
    {d : Dst} {hint x' : Hint} {c l op : Nat} {va : DWord} {f : AtomOp} {spad : Bool} {hm : Hm} {n : Fin 7}

theorem Keeps.execLd {o : AccOrd} (h : Keeps s₀ s) : OutKeeps s₀ (execLd hd d b off w o hint s) :=
  h.perform (fun _ _ => .bind .loadGlobal (fun _ => .result))

theorem Keeps.execSt {o : AccOrd} (h : Keeps s₀ s) : OutKeeps s₀ (execSt hd b off x w o hint s) :=
  h.perform (fun _ _ => .ite (.escape (.bind .storeGlobal (fun _ => .result)))
      (.bind .storeGlobal (fun _ => .result)))

theorem Keeps.execLds {o : AccOrd} (h : Keeps s₀ s) : OutKeeps s₀ (execLds hd d b off w o s) :=
  h.perform (fun _ _ => .bind .loadSpad (fun _ => .result))

theorem Keeps.execSts {o : AccOrd} (h : Keeps s₀ s) : OutKeeps s₀ (execSts hd b off x w o s) :=
  h.perform (fun _ _ => .ite (.escape (.bind .storeSpad (fun _ => .result))) (.bind .storeSpad (fun _ => .result)))

theorem Keeps.prefetchLine (h : Keeps s₀ s) : Keeps s₀ (prefetchLine s l c hm hint va) := by
  unfold Machine.prefetchLine
  split
  · exact (h.countMisses.pathPlace.of_eq ‹_›).ite (h.countMisses.pathPlace.of_eq ‹_›).cacheRead
  · exact h.countMisses.pathPlace.of_eq ‹_›

theorem ActKeeps.stallLines {vas : List DWord} {kind : AccKind} : ActKeeps s₀ (stallLines vas kind) := by
  unfold Machine.stallLines
  refine .get (fun _ h1 => ?_)
  split
  · exact .stallOn
  · exact .pure

theorem Keeps.execPref (h : Keeps s₀ s) : OutKeeps s₀ (execPref hd b off n hint s) :=
  h.perform (fun _ _ => .get (fun _ h1 => .bind .stallLines (fun _ => .bind
      (.setState (h1.foldl fun _ _ h2 => h2.prefetchLine)) (fun _ => .result))))

theorem Keeps.prefetchCode (h : Keeps s₀ s) : Keeps s₀ (prefetchCode s l c hm va) := by
  unfold Machine.prefetchCode
  split
  · exact (h.countMisses.pathPlace.of_eq ‹_›).ite (h.countMisses.pathPlace.of_eq ‹_›).fillCode
  · exact h.countMisses.pathPlace.of_eq ‹_›

theorem Keeps.execIpref (h : Keeps s₀ s) : OutKeeps s₀ (execIpref hd off n s) :=
  h.perform (fun _ _ => .get (fun _ h1 => .ite (.bind .stallLines
      (fun _ => .bind (.setState (h1.foldl fun _ _ h2 => h2.prefetchCode)) (fun _ => .result))) .result))

theorem Keeps.cctlOn {f : State → Place → State} (h : Keeps s₀ s) (hf : ∀ t x, Keeps s₀ t → Keeps s₀ (f t x)) :
    Keeps s₀ (cctlOn s l va f) := by
  unfold Machine.cctlOn
  dsimp only
  split
  · exact hf _ _ (h.countMisses.pathPlace.of_eq ‹_›)
  · exact h.countMisses.pathPlace.of_eq ‹_›

theorem Keeps.cctlLine {a : Nat} {drop : Bool} (h : Keeps s₀ s) : Keeps s₀ (cctlLine s a drop) :=
  ((h.dropLine.ite h.writeBackLine).ite h).ite ((h.writeBackLine.l1Evict.ite h.writeBackLine).ite h)

theorem Keeps.execCctlCln (h : Keeps s₀ s) : OutKeeps s₀ (execCctlCln hd b off s) :=
  h.perform (fun _ _ => .get (fun _ h1 => .bind .stallOn (fun _ => .bind
      (.setState (h1.cctlOn (fun _ _ h2 => h2.cctlLine))) (fun _ => .result))))

theorem Keeps.execCctlInv (h : Keeps s₀ s) : OutKeeps s₀ (execCctlInv hd b off s) :=
  h.perform (fun _ _ => .get (fun _ h1 => .bind .stallOn (fun _ => .bind
      (.setState (h1.cctlOn (fun _ _ h2 => h2.cctlLine))) (fun _ => .result))))

theorem Keeps.execCctlPin (h : Keeps s₀ s) : OutKeeps s₀ (execCctlPin hd d b off s) := by
  refine h.perform fun _ _ => .get fun _ h1 => .bind .stallOn fun _ => ?_
  dsimp only
  split
  next h2 =>
    have h2 := h1.countMisses.pathPlace.of_eq h2
    exact .ite (.bind (.setState h2) fun _ => .resultPush)
      (.bind (.setState (h2.setCore fun hk => hk.pinLine)) fun _ => .resultPush)
  next h2 => exact .bind (.setState (h1.countMisses.pathPlace.of_eq h2)) fun _ => .resultPush

theorem Keeps.execCctlUnpin (h : Keeps s₀ s) : OutKeeps s₀ (execCctlUnpin hd b off s) :=
  h.perform (fun _ _ => .get (fun _ h1 => .bind .stallOn (fun _ => .bind
      (.setState (h1.cctlOn (fun _ _ h2 => h2.modCore))) (fun _ => .result))))

theorem Keeps.execFence (h : Keeps s₀ s) : OutKeeps s₀ (execFence hd o sc s) :=
  h.perform (fun _ _ => .ite (.escape (.get (fun _ _ => .bind .order (fun _ => .result))))
      (.get (fun _ _ => .bind .order (fun _ => .result))))

theorem Keeps.atom (h : Keeps s₀ s) : OutKeeps s₀ (atom s hd op d b off x w o sc f) :=
  h.perform (fun _ _ => .escape (.bind .atomicGlobal (fun _ => .result)))

theorem Keeps.atoms (h : Keeps s₀ s) : OutKeeps s₀ (atoms s hd op d b off x w o sc f) :=
  h.perform (fun _ _ => .escape (.bind .atomicSpad (fun _ => .result)))

theorem Keeps.red (h : Keeps s₀ s) : OutKeeps s₀ (red s hd op b off x w o sc f) :=
  h.perform (fun _ _ => .escape (.bind .atomicGlobal (fun _ => .result)))

theorem Keeps.execAtomAdd (h : Keeps s₀ s) : OutKeeps s₀ (execAtomAdd hd d b off x w o sc x' s) := h.atom

theorem Keeps.execAtomMin (h : Keeps s₀ s) : OutKeeps s₀ (execAtomMin hd d b off x w o sc x' s) := h.atom

theorem Keeps.execAtomMax (h : Keeps s₀ s) : OutKeeps s₀ (execAtomMax hd d b off x w o sc x' s) := h.atom

theorem Keeps.execAtomAnd (h : Keeps s₀ s) : OutKeeps s₀ (execAtomAnd hd d b off x w o sc x' s) := h.atom

theorem Keeps.execAtomOr (h : Keeps s₀ s) : OutKeeps s₀ (execAtomOr hd d b off x w o sc x' s) := h.atom

theorem Keeps.execAtomXor (h : Keeps s₀ s) : OutKeeps s₀ (execAtomXor hd d b off x w o sc x' s) := h.atom

theorem Keeps.execAtomExch (h : Keeps s₀ s) : OutKeeps s₀ (execAtomExch hd d b off x w o sc x' s) := h.atom

theorem Keeps.execAtomCas (h : Keeps s₀ s) : OutKeeps s₀ (execAtomCas hd d b off x w o sc x' s) := h.atom

theorem Keeps.execAtomAddcl (h : Keeps s₀ s) : OutKeeps s₀ (execAtomAddcl hd d b off x w o sc x' s) := h.atom

theorem Keeps.execAtomSubcl (h : Keeps s₀ s) : OutKeeps s₀ (execAtomSubcl hd d b off x w o sc x' s) := h.atom

theorem Keeps.execAtomFadd (h : Keeps s₀ s) : OutKeeps s₀ (execAtomFadd hd d b off x w o sc x' s) := h.atom

theorem Keeps.execAtomFmin (h : Keeps s₀ s) : OutKeeps s₀ (execAtomFmin hd d b off x w o sc x' s) := h.atom

theorem Keeps.execAtomFmax (h : Keeps s₀ s) : OutKeeps s₀ (execAtomFmax hd d b off x w o sc x' s) := h.atom

theorem Keeps.execAtomMinU (h : Keeps s₀ s) : OutKeeps s₀ (execAtomMinU hd d b off x w o sc x' s) := h.atom

theorem Keeps.execAtomMaxU (h : Keeps s₀ s) : OutKeeps s₀ (execAtomMaxU hd d b off x w o sc x' s) := h.atom

theorem Keeps.execAtomsAdd (h : Keeps s₀ s) : OutKeeps s₀ (execAtomsAdd hd d b off x w o sc s) := h.atoms

theorem Keeps.execAtomsMin (h : Keeps s₀ s) : OutKeeps s₀ (execAtomsMin hd d b off x w o sc s) := h.atoms

theorem Keeps.execAtomsMax (h : Keeps s₀ s) : OutKeeps s₀ (execAtomsMax hd d b off x w o sc s) := h.atoms

theorem Keeps.execAtomsAnd (h : Keeps s₀ s) : OutKeeps s₀ (execAtomsAnd hd d b off x w o sc s) := h.atoms

theorem Keeps.execAtomsOr (h : Keeps s₀ s) : OutKeeps s₀ (execAtomsOr hd d b off x w o sc s) := h.atoms

theorem Keeps.execAtomsXor (h : Keeps s₀ s) : OutKeeps s₀ (execAtomsXor hd d b off x w o sc s) := h.atoms

theorem Keeps.execAtomsExch (h : Keeps s₀ s) : OutKeeps s₀ (execAtomsExch hd d b off x w o sc s) := h.atoms

theorem Keeps.execAtomsCas (h : Keeps s₀ s) : OutKeeps s₀ (execAtomsCas hd d b off x w o sc s) := h.atoms

theorem Keeps.execAtomsAddcl (h : Keeps s₀ s) : OutKeeps s₀ (execAtomsAddcl hd d b off x w o sc s) := h.atoms

theorem Keeps.execAtomsSubcl (h : Keeps s₀ s) : OutKeeps s₀ (execAtomsSubcl hd d b off x w o sc s) := h.atoms

theorem Keeps.execAtomsFadd (h : Keeps s₀ s) : OutKeeps s₀ (execAtomsFadd hd d b off x w o sc s) := h.atoms

theorem Keeps.execAtomsFmin (h : Keeps s₀ s) : OutKeeps s₀ (execAtomsFmin hd d b off x w o sc s) := h.atoms

theorem Keeps.execAtomsFmax (h : Keeps s₀ s) : OutKeeps s₀ (execAtomsFmax hd d b off x w o sc s) := h.atoms

theorem Keeps.execAtomsMinU (h : Keeps s₀ s) : OutKeeps s₀ (execAtomsMinU hd d b off x w o sc s) := h.atoms

theorem Keeps.execAtomsMaxU (h : Keeps s₀ s) : OutKeeps s₀ (execAtomsMaxU hd d b off x w o sc s) := h.atoms

theorem Keeps.execRedAdd (h : Keeps s₀ s) : OutKeeps s₀ (execRedAdd hd b off x w o sc x' s) := h.red

theorem Keeps.execRedMin (h : Keeps s₀ s) : OutKeeps s₀ (execRedMin hd b off x w o sc x' s) := h.red

theorem Keeps.execRedMax (h : Keeps s₀ s) : OutKeeps s₀ (execRedMax hd b off x w o sc x' s) := h.red

theorem Keeps.execRedAnd (h : Keeps s₀ s) : OutKeeps s₀ (execRedAnd hd b off x w o sc x' s) := h.red

theorem Keeps.execRedOr (h : Keeps s₀ s) : OutKeeps s₀ (execRedOr hd b off x w o sc x' s) := h.red

theorem Keeps.execRedXor (h : Keeps s₀ s) : OutKeeps s₀ (execRedXor hd b off x w o sc x' s) := h.red

theorem Keeps.execRedAddcl (h : Keeps s₀ s) : OutKeeps s₀ (execRedAddcl hd b off x w o sc x' s) := h.red

theorem Keeps.execRedSubcl (h : Keeps s₀ s) : OutKeeps s₀ (execRedSubcl hd b off x w o sc x' s) := h.red

theorem Keeps.execRedFadd (h : Keeps s₀ s) : OutKeeps s₀ (execRedFadd hd b off x w o sc x' s) := h.red

theorem Keeps.execRedFmin (h : Keeps s₀ s) : OutKeeps s₀ (execRedFmin hd b off x w o sc x' s) := h.red

theorem Keeps.execRedFmax (h : Keeps s₀ s) : OutKeeps s₀ (execRedFmax hd b off x w o sc x' s) := h.red

theorem Keeps.execRedMinU (h : Keeps s₀ s) : OutKeeps s₀ (execRedMinU hd b off x w o sc x' s) := h.red

theorem Keeps.execRedMaxU (h : Keeps s₀ s) : OutKeeps s₀ (execRedMaxU hd b off x w o sc x' s) := h.red

theorem ActKeeps.cmpstPointer {ls : List Nat} {l0 base : Nat} {n : Nat} {o : AccOrd} :
    ActKeeps s₀ (cmpstPointer ls l0 base off n o spad) :=
  .ite (.bind .atomicSpad (fun _ => .get (fun _ h1 => .setState (h1.foldl fun _ _ h2 => h2.modThread))))
      (.bind .atomicGlobal (fun _ => .get (fun _ h1 => .setState (h1.foldl fun _ _ h2 => h2.modThread))))

theorem ActKeeps.cmpstWrite {p : CmpstPark} {n x : Nat} {o : AccOrd} : ActKeeps s₀ (cmpstWrite l p n x o spad) :=
  .ite (.bind .storeSpad (fun _ => .result)) (.bind .storeGlobal (fun _ => .result))

theorem Keeps.execCmpst {o : AccOrd} (h : Keeps s₀ s) : OutKeeps s₀ (execCmpst hd d b off x w o spad s) := by
  unfold Machine.execCmpst
  dsimp only
  refine h.perform (fun _ _ => .escape (.get (fun _ h1 => ?_)))
  split
  · exact .cmpstWrite
  · refine .bind .cmpstPointer (fun _ => .get (fun _ h2 => ?_))
    split
    · exact .cmpstWrite
    · exact .result

end

/-! ### What `Machine/Engine` keeps -/

section
variable {s₀ s : State} {c hd n t : Nat} {hm : Hm} {top : Half} {va : DWord} {bs : List Byte} {hint : Hint}

theorem ActKeeps.failing {o : Option Outcome} : ActKeeps s₀ (failing o) := by
  unfold Machine.failing
  split
  · exact .raise
  · exact .pure

theorem ActKeeps.blockAt {l : Nat} {e : EBlock} {v align : Nat} : ActKeeps s₀ (blockAt l e v n align) :=
  .get (fun _ _ => .ite .raiseAt (.ite .raiseAt (.ite .raiseAt .pure)))

theorem Keeps.modTag {f : Tag → Tag} (h : Keeps s₀ s) : Keeps s₀ (modTag s hd t f) := h.modWg

theorem Keeps.tagIssue {pc : Word} (h : Keeps s₀ s) : Keeps s₀ (tagIssue s hd t pc) := h.modTag

theorem Keeps.tagEnd {e : CmdEnd} (h : Keeps s₀ s) : Keeps s₀ (tagEnd s hd t e) := h.modTag

theorem Keeps.resvSweep (h : Keeps s₀ s) : Keeps s₀ (resvSweep s c) := h.modCore

theorem Keeps.resvWritten {uses : List Nat} (h : Keeps s₀ s) : Keeps s₀ (resvWritten s c hd uses t) := h.modCore

theorem Keeps.acquireTags {ts : List Nat} (h : Keeps s₀ s) : Keeps s₀ (acquireTags s hd ts) := h.modCore

theorem Keeps.setBuf {a : Nat} (h : Keeps s₀ s) : Keeps s₀ (setBuf s c a bs) := h.modCore

theorem Keeps.engRelease {sc : Scope} {x : Bool × Nat × Nat} {f : Origin} (h : Keeps s₀ s) :
    Keeps s₀ (engRelease s hd sc x f) := by
  unfold Machine.engRelease
  dsimp only
  refine h.releaseFlag.ite ?_
  split
  · exact h.update
  · exact .update h.releaseFlag

theorem Keeps.engPlace {kind : AccKind} (h : Keeps s₀ s) : Keeps s₀ (engPlace s c hm top va kind).1 := by
  unfold Machine.engPlace
  dsimp only
  refine .iteFst ?_ (h.holdDesc.iteFst (h.holdDesc.iteFst ?_))
  · split <;> exact h
  · split
    · exact h.holdDesc
    · split
      · exact h.holdDesc.fillTlbs.bumpEvent.creditEvent
      · exact h.holdDesc

theorem Keeps.engCount {p : Place} (h : Keeps s₀ s) : Keeps s₀ (engCount s c hm top p n) :=
  h.ite h.bumpEvent.creditEvent

theorem Keeps.engRead (h : Keeps s₀ s) : Keeps s₀ (engRead s c hd hm top hint va n).1 := by
  unfold Machine.engRead
  dsimp only
  split
  · exact h.engPlace.of_eq ‹_›
  · split
    · exact h.engPlace.of_eq ‹_›
    · exact (h.engPlace.of_eq ‹_›).askRead
    · exact (h.engPlace.of_eq ‹_›).askRead
    · exact (h.engPlace.of_eq ‹_›).iteFst (h.engPlace.of_eq ‹_›).engCount.readPlace.readPast

theorem Keeps.engWrite (h : Keeps s₀ s) : Keeps s₀ (engWrite s c hd hm top hint va bs).1 := by
  unfold Machine.engWrite
  split
  next h1 => exact h.engPlace.of_eq h1
  next h1 =>
    have h1 := h.engPlace.of_eq h1
    refine .iteFst ?_ h1.engCount.writePlace.recordWrite.replayWrite.notePending
    dsimp only
    exact h1.requestWait

end

/-! ### What `Machine/Copy` keeps -/

section
variable {s₀ s : State} {c l n o : Nat} {t : BitVec 6} {e : CopyCmd} {g : Option (BitVec 4)} {hd : Head}
    {f : CopyForm} {b : List DWord} {uses : List Nat} {hm : Hm} {top : Half} {hint : Hint} {x : Loc}

theorem Keeps.enqueueCopy {hd : Nat} (h : Keeps s₀ s) : Keeps s₀ (enqueueCopy s l hd f b o t g uses) := by
  unfold Machine.enqueueCopy
  dsimp only
  refine .tagIssue ?_
  split
  · exact h.update.modCore.modWg
  · exact h.update.modCore.orderWork.ite h.update.modCore

theorem ActKeeps.takeCopy {hd : Nat} : ActKeeps s₀ (takeCopy l hd f b o t g uses) :=
  .takeEntryFor (fun _ h1 => h1.enqueueCopy)

theorem ActKeeps.copyLane {e : EBlock} {v : Nat} : ActKeeps s₀ (copyLane s f e t g l v) := by
  unfold Machine.copyLane
  refine .bind .blockAt (fun _ => ?_)
  split
  refine .bind .failing (fun _ => ?_)
  split
  · exact .raiseAt
  · exact .bind .failing (fun _ => .takeCopy)

theorem Keeps.copyInstr {op : Nat} {e : EBlock} (h : Keeps s₀ s) : OutKeeps s₀ (copyInstr s hd op f e t g) :=
  h.perform (fun _ _ => .copyLane)

theorem Keeps.execCpy {e : EBlock} (h : Keeps s₀ s) : OutKeeps s₀ (execCpy hd e t g s) := h.copyInstr

theorem Keeps.execCpys {e : EBlock} (h : Keeps s₀ s) : OutKeeps s₀ (execCpys hd e t g s) := h.copyInstr

theorem Keeps.execCpyx {e : EBlock} (h : Keeps s₀ s) : OutKeeps s₀ (execCpyx hd e t g s) := h.copyInstr

theorem Keeps.execStrm {e : EBlock} (h : Keeps s₀ s) : OutKeeps s₀ (execStrm hd e t g s) :=
  h.perform (fun _ _ => .bind .blockAt (fun _ => .get (fun _ _ => .bind .failing (fun _ => .takeCopy))))

theorem Keeps.execScnt {x : Src} (h : Keeps s₀ s) : OutKeeps s₀ (execScnt hd x t s) := by
  unfold Machine.execScnt
  dsimp only
  refine h.perform (fun _ _ => .get (fun _ h1 => ?_))
  split
  · exact .raise
  · exact .ite .raise (.bind (.setState h1.modCore) (fun _ => .result))

theorem Keeps.readLoc {hd : Nat} (h : Keeps s₀ s) : Keeps s₀ (readLoc s c hd hm top hint x).1 := by
  unfold Machine.readLoc
  split
  · exact h.engRead
  · exact h
  · exact h
  · exact h
  · exact h
  · exact h

theorem Keeps.writeLoc {hd : Nat} {bs : List Byte} (h : Keeps s₀ s) :
    Keeps s₀ (writeLoc s c hd hm top hint x bs).1 := by
  cases x with
  | glob va => exact h.engWrite
  | spad hd o => exact h.spadWrite
  | buf a => exact h.setBuf
  | pool a => exact h.modCore fun _ hk => .ite hk hk.setPoolBytes
  | zero => exact h
  | nowhere => exact h

theorem Keeps.moveSector {j : Nat} (h : Keeps s₀ s) : Keeps s₀ (moveSector s c e j).1 := by
  unfold Machine.moveSector
  refine .iteFst h ?_
  obtain ⟨a, d⟩ := sectorLocs s e j
  dsimp only
  split
  next h1 => exact h.readLoc.of_eq h1
  next h1 => exact (h.readLoc.of_eq h1).writeLoc

theorem Keeps.modCopy {f : CopyCmd → CopyCmd} (h : Keeps s₀ s) : Keeps s₀ (modCopy s c n f) := h.modCore

theorem Keeps.cpypOutcome {o : Outcome} (h : Keeps s₀ s) : Keeps s₀ (cpypOutcome s e o) := h.spadWrite.ite h

theorem Keeps.endCopy {x : CmdEnd} (h : Keeps s₀ s) : Keeps s₀ (endCopy s c n x) := by
  unfold Machine.endCopy
  dsimp only
  split
  · exact h
  · exact (h.ite h.resvWritten).cpypOutcome.modCore.dropWaiters.tagEnd.resvSweep

theorem Keeps.stopCopy {o : Outcome} {va : DWord} {kind : AccKind} (h : Keeps s₀ s) :
    Keeps s₀ (stopCopy s c n o va kind) := by
  unfold Machine.stopCopy
  dsimp only
  split
  · exact h
  · exact h.endCopy.ite h.modCopy.umpSpadWrite.modCore.noteFault

theorem Keeps.copyStop {x : EngStop} (h : Keeps s₀ s) : Keeps s₀ (copyStop s c n e x) := by
  unfold Machine.copyStop
  dsimp only
  split
  · exact (h.queueMiss.modCopy.foldl fun _ _ h1 => h1.bumpEvent.creditEvent).ite h
  · exact h.stopCopy
  · exact h.endCopy.contain
  · exact h.endCopy
  · exact h

theorem Keeps.copyRelease (h : Keeps s₀ s) : Keeps s₀ (copyRelease s e) := h.engRelease.ite h

theorem Keeps.askSnapshot {hd : Nat} {o : Origin} (h : Keeps s₀ s) : Keeps s₀ (askSnapshot s hd o) := h.askTeam

theorem Keeps.readExtent (h : Keeps s₀ s) : Keeps s₀ (readExtent s c n e) := by
  unfold Machine.readExtent
  dsimp only
  split
  · exact (h.engRead.of_eq ‹_›).copyStop
  · exact (h.engRead.of_eq ‹_›).endCopy.ite ((h.engRead.of_eq ‹_›).endCopy.ite (h.engRead.of_eq ‹_›).modCopy)

theorem Keeps.blockDone (h : Keeps s₀ s) : Keeps s₀ (blockDone s c n e) := by
  unfold Machine.blockDone
  dsimp only
  split
  · exact (h.engWrite.of_eq ‹_›).copyStop
  · exact (h.copyRelease.showStores.ite h.copyRelease).engWrite.modCopy.endCopy.ite
      (h.copyRelease.showStores.ite h.copyRelease).engWrite.modCopy

theorem Keeps.copyDone (h : Keeps s₀ s) : Keeps s₀ (copyDone s c n e) := h.copyRelease.endCopy

theorem Keeps.copyFull (h : Keeps s₀ s) : Keeps s₀ (copyFull s c n e) :=
  h.ite (h.askSnapshot.ite (h.blockDone.ite h.copyDone))

theorem Keeps.copySector (h : Keeps s₀ s) : Keeps s₀ (copySector s c n e) := by
  unfold Machine.copySector
  dsimp only
  split
  · exact (h.moveSector.of_eq ‹_›).copyStop
  · refine .ite ?_ (h.moveSector.of_eq ‹_›).modCopy.bumpEvent.creditEvent
    split
    · exact (h.moveSector.of_eq ‹_›).modCopy.bumpEvent.creditEvent.copyFull
    · exact (h.moveSector.of_eq ‹_›).modCopy.bumpEvent.creditEvent

theorem Keeps.execCopySectorDone {c : Fin 192} {n : Fin 64} (h : Keeps s₀ s) :
    OutKeeps s₀ (execCopySectorDone c n s) := by
  unfold Machine.execCopySectorDone
  refine .next ?_
  split
  · exact h
  · exact h.ite (h.ite (h.copyFull.ite (h.readExtent.ite h.copySector)))

theorem Keeps.execCopyStart {c : Fin 192} {n : Fin 64} (h : Keeps s₀ s) : OutKeeps s₀ (execCopyStart c n s) := by
  unfold Machine.execCopyStart
  refine .next ?_
  split
  · exact h
  · exact h.modCopy.ite h

end

/-! ### What `Machine/Tags` keeps -/

section
variable {s₀ s : State} {hd : Head} {a : Src} {d : Dst} {t : Nat}

theorem ActKeeps.stoppedTrap {α : Type} {x : Nat × Nat × Byte × Byte} : ActKeeps s₀ (stoppedTrap t x : Act α) :=
  .throw

theorem ActKeeps.endWait {hd : Nat} {seen : List Nat} {o : Out} (h : Keeps s₀ s) :
    ActKeeps s₀ (endWait s hd t seen o) := by
  unfold Machine.endWait
  split
  · exact .ite .pure .raise
  · exact .bind (.setState h.acquireTags) (fun _ => .pure)

theorem Keeps.execWtag {t : BitVec 6} (h : Keeps s₀ s) : OutKeeps s₀ (execWtag hd t s) := by
  unfold Machine.execWtag
  dsimp only
  refine h.perform (fun _ _ => .get (fun _ h1 => ?_))
  split
  · exact .raise
  · split
    · exact .stoppedTrap
    · exact .ite .pure .waitFor
  · exact .ite .pure (.endWait h1)

theorem Keeps.execWany (h : Keeps s₀ s) : OutKeeps s₀ (execWany hd d a s) := by
  unfold Machine.execWany
  dsimp only
  refine h.perform (fun _ _ => .get (fun _ h1 => ?_))
  split
  · exact .raise
  · exact .stoppedTrap
  · exact .ite .pure .waitFor
  · exact .ite .pure (.endWait h1)

theorem Keeps.execTffr (h : Keeps s₀ s) : OutKeeps s₀ (execTffr hd d a s) :=
  h.perform (fun _ _ => .get (fun _ _ => .resultPush))

theorem Keeps.execTrdy (h : Keeps s₀ s) : OutKeeps s₀ (execTrdy hd d a s) :=
  h.perform (fun _ _ => .get (fun _ h1 => .ite (.bind (.setState h1.acquireTags) (fun _ => .resultPush))
      .resultPush))

theorem Keeps.execTclr {t : BitVec 6} (h : Keeps s₀ s) : OutKeeps s₀ (execTclr hd t s) :=
  h.perform (fun _ _ => .get (fun _ h1 => .ite .raise (.bind (.setState h1.modTag) (fun _ => .result))))

theorem Keeps.reserve {hd n b : Nat} (h : Keeps s₀ s) : Keeps s₀ (reserve s hd n b).1 := by
  unfold Machine.reserve
  dsimp only
  refine h.iteFst (h.iteFst ?_)
  split
  · exact h
  · exact h.modCore.modWg

theorem Keeps.execRsv {b : Src} (h : Keeps s₀ s) : OutKeeps s₀ (execRsv hd d a b s) :=
  h.perform (fun _ _ => .ite .raise (.get (fun _ h1 => .bind (.setState h1.reserve) (fun _ => .resultPush))))

theorem ActKeeps.namedResv {l x : Nat} : ActKeeps s₀ (namedResv l x) := by
  unfold Machine.namedResv
  dsimp only
  refine .get (fun _ h1 => ?_)
  split
  · exact .pure
  · exact .raise

theorem Keeps.releaseResv {hd : Nat} {r : Resv} (h : Keeps s₀ s) : Keeps s₀ (releaseResv s hd r) :=
  h.modCore.resvSweep

theorem Keeps.execRls (h : Keeps s₀ s) : OutKeeps s₀ (execRls hd a s) :=
  h.perform (fun _ _ => .bind .namedResv (fun _ => .get (fun _ h1 => .bind (.setState h1.releaseResv)
      (fun _ => .result))))

theorem Keeps.execRrec (h : Keeps s₀ s) : OutKeeps s₀ (execRrec hd d a s) :=
  h.perform (fun _ _ => .bind .namedResv (fun _ => .result))

end

/-! ### What `Machine/Matrix` keeps -/

section
variable {s₀ s : State} {hd : Head} {g n : BitVec 4} {e : EBlock} {t : BitVec 6} {l v : Nat} {a : MtxArgs}
    {commit : Bool}

theorem Keeps.claimTile {hd t : Nat} (h : Keeps s₀ s) : Keeps s₀ (claimTile s hd t) :=
  h.modCore fun _ hk => .ite hk (hk.setOwner (ownerWord_reserved _))

theorem Keeps.enqueueMtx {hd : Nat} (h : Keeps s₀ s) : Keeps s₀ (enqueueMtx s l hd a) := by
  unfold Machine.enqueueMtx
  dsimp only
  split
  · refine .tagIssue ?_
    split
    · exact h.update.modCore.claimTile.claimTile.modWg
    · exact h.update.modCore.claimTile.claimTile
  · split
    · exact h.update.modCore.claimTile.claimTile.modWg
    · exact h.update.modCore.claimTile.claimTile

theorem ActKeeps.takeMtx {hd : Nat} : ActKeeps s₀ (takeMtx l hd a) := .takeEntryFor (fun _ h1 => h1.enqueueMtx)

theorem ActKeeps.mmaLane {solder : Bool} {g : Option (BitVec 4)} : ActKeeps s₀ (mmaLane solder e t g l v) :=
  .bind .blockAt (fun _ => .get (fun _ _ => .bind .failing (fun _ => .ite .raiseAt
      (.bind .failing (fun _ => .takeMtx)))))

theorem Keeps.execMma {g : Option (BitVec 4)} (h : Keeps s₀ s) : OutKeeps s₀ (execMma hd e t g s) :=
  h.perform (fun _ _ => .mmaLane)

theorem Keeps.execMmas {g : Option (BitVec 4)} (h : Keeps s₀ s) : OutKeeps s₀ (execMmas hd e t g s) :=
  h.perform (fun _ _ => .mmaLane)

theorem ActKeeps.tileLane {op : MtxOp} : ActKeeps s₀ (tileLane op e t n l v) :=
  .get (fun _ _ => .ite .raiseAt (.ite .raiseAt (.bind .failing (fun _ => .takeMtx))))

theorem Keeps.execAld (h : Keeps s₀ s) : OutKeeps s₀ (execAld hd e t n s) := h.perform (fun _ _ => .tileLane)

theorem Keeps.execAst (h : Keeps s₀ s) : OutKeeps s₀ (execAst hd e t n s) := h.perform (fun _ _ => .tileLane)

theorem Keeps.dirtyTiles {hd : Nat} (h : Keeps s₀ s) : Keeps s₀ (dirtyTiles s hd) := by
  unfold Machine.dirtyTiles
  exact h.modCore

theorem Keeps.onceInstr {op : Nat} {m : MtxOp} {check : Nat → Option Outcome} {after : Wg → Wg} (h : Keeps s₀ s) :
    OutKeeps s₀ (onceInstr s hd op m n check after) :=
  h.perform (fun _ _ => .bind .failing (fun _ => .ite (.ite (.get
      (fun _ h1 => .bind (.setState h1.enqueueMtx.modWg.dirtyTiles) (fun _ => .result))) .result) .pure))

theorem Keeps.execAclr (h : Keeps s₀ s) : OutKeeps s₀ (execAclr hd n s) := h.onceInstr

theorem Keeps.execAcmt (h : Keeps s₀ s) : OutKeeps s₀ (execAcmt hd n s) := h.onceInstr

theorem Keeps.execAdsc (h : Keeps s₀ s) : OutKeeps s₀ (execAdsc hd n s) := h.onceInstr

theorem Keeps.unhold {hd : Nat} {e : Nat × CopyCmd} (h : Keeps s₀ s) : Keeps s₀ (unhold s hd e) :=
  h.modCopy.orderWork.ite h.modCopy

theorem Keeps.resolveGuard {hd : Nat} (h : Keeps s₀ s) : Keeps s₀ (resolveGuard s hd g commit) :=
  h.ite ((h.foldl fun _ _ h1 => h1.unhold).ite (h.foldl fun _ _ h1 => h1.endCopy)).modWg.dirtyTiles

theorem Keeps.gres (h : Keeps s₀ s) : OutKeeps s₀ (gres s hd g commit) :=
  h.perform (fun _ _ => .get (fun _ h1 => .bind (.setState h1.resolveGuard) (fun _ => .result)))

theorem Keeps.execGresCmt (h : Keeps s₀ s) : OutKeeps s₀ (execGresCmt hd g s) := h.gres

theorem Keeps.execGresDsc (h : Keeps s₀ s) : OutKeeps s₀ (execGresDsc hd g s) := h.gres

end

/-! ### What `Machine/Drain` keeps -/

section
variable {s₀ s : State} {c hd n t : Nat} {e : MtxCmd}

theorem Keeps.setTile {i : Nat} {xs : List Word} (h : Keeps s₀ s) : Keeps s₀ (setTile s hd t i xs) := by
  unfold Machine.setTile
  exact h.modCore fun _ hk => hk.foldl fun _ _ hk => hk.setPoolWord

theorem Keeps.setFlags {x : Nat} (h : Keeps s₀ s) : Keeps s₀ (setFlags s hd t x) := h.modWg

theorem Keeps.zeroTile (h : Keeps s₀ s) : Keeps s₀ (zeroTile s hd t) := h.setTile.setFlags

theorem Keeps.copyTile {fr dst : Nat} (h : Keeps s₀ s) : Keeps s₀ (copyTile s hd fr dst) :=
  h.setTile.setFlags.ite h.modWg

theorem Keeps.execMdrn {hd : Head} {e : EBlock} {t : BitVec 6} (h : Keeps s₀ s) :
    OutKeeps s₀ (execMdrn hd e t s) := by
  unfold Machine.execMdrn
  refine h.perform (fun _ _ => .bind .blockAt (fun _ => ?_))
  split
  refine .get (fun _ h1 => .bind .failing (fun _ => ?_))
  split
  · exact .raiseAt
  · exact .bind .failing (fun _ => .takeMtx)

theorem Keeps.modMtx {f : MtxCmd → MtxCmd} (h : Keeps s₀ s) : Keeps s₀ (modMtx s c n f) := h.modCore

theorem Keeps.endMtx {x : CmdEnd} (h : Keeps s₀ s) : Keeps s₀ (endMtx s c n x) := by
  unfold Machine.endMtx
  dsimp only
  split
  · exact h
  · refine .resvSweep ?_
    split
    · exact h.modCore.dropWaiters.tagEnd
    · exact h.modCore.dropWaiters

theorem Keeps.stopMtx {o : Outcome} {va : DWord} {kind : AccKind} (h : Keeps s₀ s) :
    Keeps s₀ (stopMtx s c n o va kind) := by
  unfold Machine.stopMtx
  dsimp only
  split
  · exact h
  · exact h.modMtx.umpSpadWrite.modCore.noteFault

theorem Keeps.mtxStop {x : EngStop} (h : Keeps s₀ s) : Keeps s₀ (mtxStop s c n e x) := by
  unfold Machine.mtxStop
  dsimp only
  split
  · exact (h.queueMiss.modMtx.foldl fun _ _ h1 => h1.bumpEvent.creditEvent).ite h
  · exact h.stopMtx
  · exact h.endMtx.contain
  · exact h.endMtx
  · exact h

theorem Keeps.mtxSector {j : Nat} (h : Keeps s₀ s) : Keeps s₀ (mtxSector s c e j).1 := by
  unfold Machine.mtxSector
  dsimp only
  split
  · split
    · exact h.readLoc.of_eq ‹_›
    · exact (h.readLoc.of_eq ‹_›).setTile
  · exact h.writeLoc
  · split
    · exact h
    · exact h.writeLoc

theorem Keeps.drainEnd (h : Keeps s₀ s) : Keeps s₀ (drainEnd s e) :=
  ((h.foldl fun _ _ h1 => h1.amaxUpdate).ite h).spadWrite.engRelease.ite
      ((h.foldl fun _ _ h1 => h1.amaxUpdate).ite h).spadWrite

theorem Keeps.mtxFull (h : Keeps s₀ s) : Keeps s₀ (mtxFull s c n e) := by
  unfold Machine.mtxFull
  dsimp only
  split
  · exact h.ite (h.askSnapshot.ite h.bumpEvent.creditEvent.drainEnd.endMtx)
  · exact h.setFlags.endMtx
  · exact h.endMtx

theorem Keeps.execDrainSectorDone {c : Fin 192} {n : Fin 32} (h : Keeps s₀ s) :
    OutKeeps s₀ (execDrainSectorDone c n s) := by
  unfold Machine.execDrainSectorDone
  dsimp only
  refine .next ?_
  split
  · exact h
  · refine h.ite (h.mtxFull.ite ?_)
    split
    · exact (h.mtxSector.of_eq ‹_›).mtxStop
    · refine .ite ?_ (h.mtxSector.of_eq ‹_›).modMtx
      split
      · exact (h.mtxSector.of_eq ‹_›).modMtx.mtxFull
      · exact (h.mtxSector.of_eq ‹_›).modMtx

theorem Keeps.mmaBegin (h : Keeps s₀ s) : Keeps s₀ (mmaBegin s c n e) := by
  unfold Machine.mmaBegin
  dsimp only
  refine h.ite (.ite (.endMtx ?_) (.ite (.endMtx ?_) (.modMtx (.ite ?_ (.zeroTile ?_)))))
  · split
    · exact h.acquireTags.copyTile.modMtx
    · exact h.acquireTags
  · split
    · exact h.acquireTags.copyTile.modMtx
    · exact h.acquireTags
  · split
    · exact h.acquireTags.copyTile.modMtx
    · exact h.acquireTags
  · split
    · exact h.acquireTags.copyTile.modMtx
    · exact h.acquireTags

theorem Keeps.execMmaStart {c : Fin 192} {n : Fin 32} (h : Keeps s₀ s) : OutKeeps s₀ (execMmaStart c n s) := by
  unfold Machine.execMmaStart
  refine .next ?_
  split
  · exact h
  · refine h.ite ?_
    split
    · exact h.mmaBegin
    · exact h.mmaBegin
    · exact h.zeroTile.endMtx
    · exact h.endMtx
    · exact h.endMtx
    · exact h.modMtx
    · exact h.modMtx
    · exact h.modMtx

theorem Keeps.execMmaStep {c : Fin 192} {n : Fin 32} (h : Keeps s₀ s) : OutKeeps s₀ (execMmaStep c n s) := by
  unfold Machine.execMmaStep
  dsimp only
  refine .next ?_
  split
  · exact h
  · exact h.ite (h.setTile.setFlags.bumpEvent.creditEvent.modMtx.endMtx.ite
      h.setTile.setFlags.bumpEvent.creditEvent.modMtx)

end

/-! ### What `Machine/Network` keeps -/

section
variable {s₀ s : State} {id n q : Nat} {hm : Hm} {va : DWord} {p : QP} {k : NetPacket}
    {find : State → Hm → DWord → AccKind → State × Except NetStop Place} {x : NetStep} {kind : AccKind} {hd : Head}
    {f : QP → QP} {bs : List Byte} {o : Outcome} {d : Dst} {a : Src}

theorem Keeps.modQp (h : Keeps s₀ s) : Keeps s₀ (modQp s q f) := h.update

theorem Keeps.netXlate (h : Keeps s₀ s) : Keeps s₀ (netXlate s hm va kind).1 := by
  unfold Machine.netXlate
  dsimp only
  refine h.holdDesc.iteFst (h.holdDesc.iteFst ?_)
  split
  · exact h.holdDesc
  · split
    · exact h.holdDesc.walk.of_eq ‹_›
    · exact (h.holdDesc.walk.of_eq ‹_›).update

theorem Keeps.netLook (h : Keeps s₀ s) : Keeps s₀ (netLook s hm va kind).1 := by
  unfold Machine.netLook
  split <;> exact h.netXlate.of_eq ‹_›

theorem Keeps.netPlace (h : Keeps s₀ s) : Keeps s₀ (netPlace s hm va kind).1 := by
  unfold Machine.netPlace
  refine .iteFst h.holdDesc.queueMiss ?_
  extract_lets s'
  split
  · exact .update h.holdDesc
  · exact .netLook (.update h.holdDesc)

theorem Keeps.netReadLine (h : Keeps s₀ s) (hf : ∀ t x y z, Keeps s₀ t → Keeps s₀ (find t x y z).1) :
    Keeps s₀ (netReadLine find s hm va n).1 := by
  unfold Machine.netReadLine
  dsimp only
  split
  · exact (hf _ _ _ _ h).of_eq ‹_›
  · split
    · exact (hf _ _ _ _ h).of_eq ‹_›
    · exact ((hf _ _ _ _ h).of_eq ‹_›).askRead
    · exact ((hf _ _ _ _ h).of_eq ‹_›).askRead
    · exact ((hf _ _ _ _ h).of_eq ‹_›).iteFst ((hf _ _ _ _ h).of_eq ‹_›).readPlace

theorem Keeps.netReadBy (h : Keeps s₀ s) (hf : ∀ t x y z, Keeps s₀ t → Keeps s₀ (find t x y z).1) :
    Keeps s₀ (netReadBy find s hm va n).1 := by
  unfold Machine.netReadBy
  refine h.foldlFst fun _ _ h1 => ?_
  split
  · exact h1
  · split <;> exact (h1.netReadLine (fun _ _ _ _ h2 => hf _ _ _ _ h2)).of_eq ‹_›

theorem Keeps.netRead (h : Keeps s₀ s) : Keeps s₀ (netRead s hm va n).1 := h.netReadBy (fun _ _ _ _ h1 => h1.netPlace)

theorem Keeps.netWriteBy (h : Keeps s₀ s) (hf : ∀ t x y z, Keeps s₀ t → Keeps s₀ (find t x y z).1) :
    Keeps s₀ (netWriteBy find s hm va bs).1 := by
  unfold Machine.netWriteBy
  refine h.foldlFst fun _ _ h1 => ?_
  split
  · exact h1
  · split
    · exact ((hf _ _ _ _ h1).of_eq ‹_›).writePlace
    · exact (hf _ _ _ _ h1).of_eq ‹_›

theorem Keeps.netWrite (h : Keeps s₀ s) : Keeps s₀ (netWrite s hm va bs).1 :=
  h.netWriteBy (fun _ _ _ _ h1 => h1.netPlace)

theorem Keeps.netAddBy (h : Keeps s₀ s) (hf : ∀ t x y z, Keeps s₀ t → Keeps s₀ (find t x y z).1) :
    Keeps s₀ (netAddBy find s hm va).1 := by
  unfold Machine.netAddBy
  dsimp only
  refine h.iteFst ?_
  split
  · exact (hf _ _ _ _ h.releaseRemote).of_eq ‹_›
  · split
    · exact (hf _ _ _ _ h.releaseRemote).of_eq ‹_›
    · exact ((hf _ _ _ _ h.releaseRemote).of_eq ‹_›).sendUatin
    · exact ((hf _ _ _ _ h.releaseRemote).of_eq ‹_›).sendUatin
    · exact ((hf _ _ _ _ h.releaseRemote).of_eq ‹_›).iteFst ((hf _ _ _ _ h.releaseRemote).of_eq
        ‹_›).readPlace.writePlace

theorem Keeps.netAdd (h : Keeps s₀ s) : Keeps s₀ (netAdd s hm va).1 := h.netAddBy (fun _ _ _ _ h1 => h1.netPlace)

theorem Keeps.postNetFault {x : NetWait} (h : Keeps s₀ s) : Keeps s₀ (postNetFault s x) := by
  unfold Machine.postNetFault
  dsimp only
  split
  · exact h.update
  · exact h.umpSpadWrite.modCore.noteFault

theorem Keeps.freeNetRecord {c : Nat} (h : Keeps s₀ s) : Keeps s₀ (freeNetRecord s c n) := by
  unfold Machine.freeNetRecord
  dsimp only
  split
  · exact h.modCore
  · exact .postNetFault (.update h.modCore)

theorem Keeps.setTodo (h : Keeps s₀ s) : Keeps s₀ (setTodo s q f) := by
  unfold Machine.setTodo
  dsimp only
  split
  · exact h
  · exact .ite (.foldl (.update h.modQp) fun _ _ h1 => h1.freeNetRecord) h.modQp

theorem Keeps.reportPair (h : Keeps s₀ s) : Keeps s₀ (reportPair s q hm va) := h.post

theorem Keeps.errPair (h : Keeps s₀ s) : Keeps s₀ (errPair s q va) := by
  unfold Machine.errPair
  split
  · exact h
  · exact h.ite h.modQp.reportPair

theorem Keeps.endReq {x : Byte} (h : Keeps s₀ s) : Keeps s₀ (endReq s q id x) := h.setTodo

theorem Keeps.breakChain {core : Nat} (h : Keeps s₀ s) : Keeps s₀ (breakChain s q core va) := h.modQp.errPair

theorem Keeps.stepFails (h : Keeps s₀ s) : Keeps s₀ (stepFails s q) := by
  unfold Machine.stepFails
  dsimp only
  split
  · exact h
  · split
    · exact h.modQp
    · exact h.modQp.endReq.ite (h.modQp.breakChain.ite h.modQp.errPair)

theorem Keeps.stopPair (h : Keeps s₀ s) : Keeps s₀ (stopPair s q p x o va) := h.modQp.postNetFault

theorem Keeps.netConsume {a : Place} (h : Keeps s₀ s) : Keeps s₀ (netConsume s hm a) := h.contain

theorem Keeps.netStop {e : NetStop} (h : Keeps s₀ s) : Keeps s₀ (netStop s q p x e) := by
  unfold Machine.netStop
  split
  · split
    · exact h.contain.stepFails
    · exact h.stopPair
  · exact h.netConsume.stepFails
  · exact h

theorem Keeps.stepDone {next : List NetStep} (h : Keeps s₀ s) : Keeps s₀ (stepDone s q next) := h.modQp

theorem Keeps.doTake (h : Keeps s₀ s) : Keeps s₀ (doTake s q p) := by
  unfold Machine.doTake
  refine h.stepDone.ite ?_
  split
  · exact h.stepDone
  · split
    · exact (h.netRead.of_eq ‹_›).netStop
    · exact (h.netRead.of_eq ‹_›).stepDone.breakChain.ite (h.netRead.of_eq ‹_›).stepDone

theorem Keeps.doRead (h : Keeps s₀ s) : Keeps s₀ (doRead s q p va) := by
  unfold Machine.doRead
  dsimp only
  split
  · exact (h.netRead.of_eq ‹_›).netStop
  · exact (h.netRead.of_eq ‹_›).modQp.stepDone.modQp.ite (h.netRead.of_eq ‹_›).modQp.stepDone.modQp

theorem Keeps.readPiece {r : NetReq} {i : Nat} (h : Keeps s₀ s) : Keeps s₀ (readPiece s p r i).1 := h.netRead

theorem Keeps.doSend (h : Keeps s₀ s) : Keeps s₀ (doSend s q p id) := by
  unfold Machine.doSend
  dsimp only
  split
  · exact h.stepDone
  · split
    · exact (h.readPiece.of_eq ‹_›).netStop
    · exact .stepDone (.countUnit (.update (h.readPiece.of_eq ‹_›).modQp))

theorem Keeps.doResend {n : Word} (h : Keeps s₀ s) : Keeps s₀ (doResend s q p n) := by
  unfold Machine.doResend
  dsimp only
  split
  · exact h.stepDone
  · split
    · exact h.stepDone
    · refine h.stepDone.ite ?_
      split
      · exact (h.readPiece.of_eq ‹_›).netStop
      · exact .stepDone (.countUnit (.countUnit (.update (h.readPiece.of_eq ‹_›).modQp)))

theorem Keeps.stepWriteBy (h : Keeps s₀ s) (hf : ∀ t x y z, Keeps s₀ t → Keeps s₀ (find t x y z).1) :
    Keeps s₀ (stepWriteBy find s hm x).1 := by
  unfold Machine.stepWriteBy
  split
  · exact h.netWriteBy (fun _ _ _ _ h1 => hf _ _ _ _ h1)
  · exact h.netWriteBy (fun _ _ _ _ h1 => hf _ _ _ _ h1)
  · exact h.netWriteBy (fun _ _ _ _ h1 => hf _ _ _ _ h1)
  · exact h.netAddBy (fun _ _ _ _ h1 => hf _ _ _ _ h1)
  · split <;> exact (h.netReadBy (fun _ _ _ _ h1 => hf _ _ _ _ h1)).of_eq ‹_›
  · exact h
  · exact h
  · exact h
  · exact h

theorem Keeps.stepWrite (h : Keeps s₀ s) : Keeps s₀ (stepWrite s hm x).1 :=
  h.stepWriteBy (fun _ _ _ _ h1 => h1.netPlace)

theorem Keeps.netStep (h : Keeps s₀ s) : Keeps s₀ (netStep s q p x) := by
  unfold Machine.netStep
  split
  · exact h.doTake
  · exact h.doRead
  · exact h.doSend
  · exact h.doResend
  · split
    · exact (h.stepWrite.of_eq ‹_›).netStop
    · exact (h.stepWrite.of_eq ‹_›).stepDone
  · split
    · exact (h.stepWrite.of_eq ‹_›).netStop
    · exact (h.stepWrite.of_eq ‹_›).stepDone
  · split
    · exact (h.stepWrite.of_eq ‹_›).netStop
    · exact (h.stepWrite.of_eq ‹_›).stepDone
  · split
    · exact (h.stepWrite.of_eq ‹_›).netStop
    · exact (h.stepWrite.of_eq ‹_›).stepDone
  · split
    · exact (h.stepWrite.of_eq ‹_›).netStop
    · exact (h.stepWrite.of_eq ‹_›).stepDone

theorem Keeps.netRun (h : Keeps s₀ s) : Keeps s₀ (netRun s q n) := by
  induction n generalizing s with
  | zero => exact h
  | succ n ih =>
    unfold Machine.netRun
    split
    · exact h
    · refine .ite h ?_
      split
      · exact ih h.netStep
      · split
        · exact ih h.modQp
        · exact h

theorem Keeps.execNetTakeRequest {q : BitVec 12} (h : Keeps s₀ s) : OutKeeps s₀ (execNetTakeRequest q s) := by
  unfold Machine.execNetTakeRequest
  dsimp only
  refine .next ?_
  split
  · exact h
  · exact (h.modQp.ite h.modQp.modQp).netRun

theorem Keeps.again {k : NetPkt} (h : Keeps s₀ s) : Keeps s₀ (again s q k) := h.endReq.ite h.modQp

theorem Keeps.completeReqs (h : Keeps s₀ s) : Keeps s₀ (completeReqs s q) := by
  unfold Machine.completeReqs
  split
  · exact h
  · exact h.foldl fun _ _ h1 => h1.endReq

theorem Keeps.execNetAckReceive {q : BitVec 12} {cack : Word} {bmap : DWord} (h : Keeps s₀ s) :
    OutKeeps s₀ (execNetAckReceive q cack bmap s) := by
  unfold Machine.execNetAckReceive
  dsimp only
  refine .next ?_
  split
  · exact h
  · exact (h.modQp.modQp.foldl fun _ _ h1 => h1.again).completeReqs.netRun

theorem Keeps.execNetRetransmitTimeout {q : BitVec 12} {n : Word} (h : Keeps s₀ s) :
    OutKeeps s₀ (execNetRetransmitTimeout q n s) := by
  unfold Machine.execNetRetransmitTimeout
  dsimp only
  refine .next ?_
  split
  · exact h
  · exact h.again.netRun.ite h

theorem Keeps.execNetRefusalReceive {q : BitVec 12} {n : Word} (h : Keeps s₀ s) :
    OutKeeps s₀ (execNetRefusalReceive q n s) := by
  unfold Machine.execNetRefusalReceive
  dsimp only
  refine .next ?_
  split
  · exact h
  · exact h.endReq.netRun

theorem Keeps.sendAck (h : Keeps s₀ s) : Keeps s₀ (sendAck s q) := by
  unfold Machine.sendAck
  split
  · exact h.update
  · exact h

theorem Keeps.walkConsumed (h : Keeps s₀ s) : Keeps s₀ (walkConsumed s hm o va) := by
  unfold Machine.walkConsumed
  split
  · exact h.contain
  · exact h

theorem Keeps.messageBase (h : Keeps s₀ s) : Keeps s₀ (messageBase s q p k).1 := by
  unfold Machine.messageBase
  refine h.iteFst ?_
  split
  · exact h
  · refine h.iteFst ?_
    split
    · exact (h.netRead.of_eq ‹_›).netConsume
    · exact (h.netRead.of_eq ‹_›).modQp.walkConsumed
    · exact h.netRead.of_eq ‹_›
    · exact (h.netRead.of_eq ‹_›).iteFst (h.netRead.of_eq ‹_›).modQp

theorem Keeps.scramble {l : List (DWord × Nat)} (h : Keeps s₀ s) : Keeps s₀ (scramble s hm l) :=
  h.foldl fun _ _ h1 => .update h1.netWrite

theorem Keeps.refusePacket {more : List (DWord × Nat)} (h : Keeps s₀ s) : Keeps s₀ (refusePacket s q p k more) :=
  .sendAck (.update h.scramble.modQp)

theorem Keeps.holdPacket (h : Keeps s₀ s) : Keeps s₀ (holdPacket s q p k) := h.update.modQp

theorem Keeps.placePacket (h : Keeps s₀ s) : Keeps s₀ (placePacket s q p k) := by
  unfold Machine.placePacket
  extract_lets old last answer
  have ha {t : State} : Keeps s₀ t → Keeps s₀ (answer t).1 := fun ht => .iteFst ht.netAdd ht
  clear_value last answer
  split
  next h1 => exact (h.messageBase.of_eq h1).refusePacket
  next h1 => exact (h.messageBase.of_eq h1).holdPacket
  next h1 =>
    have h1 := h.messageBase.of_eq h1
    extract_lets va
    split
    next h2 => exact (h1.netWrite.of_eq h2).holdPacket
    next h2 => exact (h1.netWrite.of_eq h2).refusePacket.walkConsumed
    next h2 => exact (h1.netWrite.of_eq h2).refusePacket
    next h2 =>
      have h2 := h1.netWrite.of_eq h2
      split
      next h3 => exact ((ha h2).of_eq h3).holdPacket
      next h3 =>
        have k3 := (ha h2).of_eq h3
        extract_lets s4 s5 s6
        have h4 : Keeps s₀ s4 := by
          unfold s4
          split
          · exact k3.netConsume
          · exact k3.walkConsumed
          · exact k3
        exact (Keeps.ite h4.scramble h4).modQp.sendAck

theorem Keeps.takePacket (h : Keeps s₀ s) : Keeps s₀ (takePacket s k) := by
  unfold Machine.takePacket
  split
  · exact h.update
  · exact h.sendAck.ite h.placePacket

theorem Keeps.netWake (h : Keeps s₀ s) : Keeps s₀ (netWake s) :=
  .foldl (.update (h.foldl fun _ _ h1 => h1.netRun)) fun _ _ h1 => h1.takePacket

theorem Keeps.execNetPacketReceive (h : Keeps s₀ s) : OutKeeps s₀ (execNetPacketReceive k s) :=
  .next (h.countUnit.takePacket.ite h)

theorem Keeps.execNpost {e : EBlock} (h : Keeps s₀ s) : OutKeeps s₀ (execNpost hd e s) := by
  refine h.perform fun _ _ => .escape (.bind .blockAt fun b => ?_)
  obtain ⟨w, x, b⟩ := b
  refine .get fun _ h1 => ?_
  dsimp only
  split
  · exact .raise
  · refine .ite .raise (.ite .raise (.get fun _ h2 => .bind .order fun _ => .get fun _ h3 =>
      .bind (.setState ?_) fun _ => .result))
    split
    · exact h3.endReplay.modQp.causal
    · exact h3.endReplay.modQp

theorem Keeps.execNwait {b : Src} (h : Keeps s₀ s) : OutKeeps s₀ (execNwait hd d a b s) :=
  h.perform (fun _ _ => .bind .checkGlobal (fun _ => .ite .raise
      (.bind .consume (fun _ => .get (fun _ h1 => .ite .waitFor
      (.bind (.setState h1.readPlace.readNewest.orderWork.causal) (fun _ => .result)))))))

theorem Keeps.cancelPosted {vs : List (DWord × Nat)} (h : Keeps s₀ s) : Keeps s₀ (cancelPosted s q vs) := h.setTodo

theorem Keeps.readChain (h : Keeps s₀ s) : Keeps s₀ (readChain s q) := by
  unfold Machine.readChain
  dsimp only
  split
  · exact h
  · refine h.ite ?_
    split
    · exact h
    · exact h.breakChain.netRun
    · exact h.modQp.netRun

theorem Keeps.execNcanc (h : Keeps s₀ s) : OutKeeps s₀ (execNcanc hd d a s) := by
  unfold Machine.execNcanc
  dsimp only
  refine h.perform (fun _ _ => .get (fun _ h1 => ?_))
  split
  · exact .raise
  · exact .ite .raise (.ite (.bind (.setState h1.cancelPosted.netRun) (fun _ => .result)) .waitFor)

theorem Keeps.execNwaitPoll {c : Fin 192} {n : Fin 17} {l : Fin 32} (h : Keeps s₀ s) :
    OutKeeps s₀ (execNwaitPoll c n l s) := by
  unfold Machine.execNwaitPoll
  refine .next ?_
  split
  · exact h
  · split
    · exact h.modSlot
    · exact h

end

/-! ### What `Machine/Huddle` keeps -/

section
variable {s₀ s : State} {c n : Nat} {ns : List Nat} {ts : List (Nat × Nat × Thread)} {hd : Head} {id : BitVec 7}
    {hops : List Hop}

theorem Keeps.sweepHuddle (h : Keeps s₀ s) : Keeps s₀ (sweepHuddle s c n) := h.trapWaiters.trapWaiters.ite h

theorem Keeps.execHudl {d : Dst} {k : Src} (h : Keeps s₀ s) : OutKeeps s₀ (execHudl hd d k id s) := by
  unfold Machine.execHudl
  dsimp only
  refine .next (.sweepHuddle (.keepDue (h.performOn (fun _ _ => ?_))))
  split
  · exact .ite (.bind .raise (fun _ => .pure)) .pure
  · exact .pure

theorem Keeps.execHudlHome (h : Keeps s₀ s) : OutKeeps s₀ (execHudlHome hd s) :=
  .next (h.performOn (fun _ _ => .ite .raise .pure)).sweepHuddle

theorem Keeps.moveRegs {s0 : State} (h : Keeps s₀ s) : Keeps s₀ (moveRegs s0 s c n hops) :=
  h.foldl fun _ _ h1 => h1.newRow.ite h1

theorem Keeps.moveThreads {change : Hop → Thread → Thread} {sregs : Nat → Option (Tab Word)} (h : Keeps s₀ s) :
    Keeps s₀ (moveThreads s c ns hops change sregs) :=
  (h.foldl fun _ _ h1 => h1.modSlot).foldl fun _ _ h1 => h1.modSlot.moveRegs

theorem Keeps.releaseDue (h : Keeps s₀ s) : Keeps s₀ (releaseDue s c ts) := h.foldl fun _ _ h1 => h1.releaseLane

theorem Keeps.moveHuddle (h : Keeps s₀ s) : Keeps s₀ (moveHuddle s c ns id) := by
  unfold Machine.moveHuddle
  dsimp only
  refine .foldl (.foldl (.moveThreads (.ite (.foldl (.update h.releaseDue) fun _ _ h1 => h1.modSlot.modWg)
      h.releaseDue)) fun _ _ h1 => ?_) fun _ _ h1 => h1.meetings
  split
  · split
    · exact h1.writeS
    · exact h1
  · exact h1

theorem Keeps.moveHome (h : Keeps s₀ s) : Keeps s₀ (moveHome s c ns) :=
  (h.moveThreads.foldl fun _ _ h1 => h1.modSlot.modWg).foldl fun _ _ h1 => h1.meetings

theorem Keeps.countMove (h : Keeps s₀ s) : Keeps s₀ (countMove s c ts) := by
  unfold Machine.countMove
  split
  · exact h
  · exact h.bumpEvent.creditEvent

theorem Keeps.askMoves (h : Keeps s₀ s) : Keeps s₀ (askMoves s ts) := h.foldl fun _ _ h1 => h1.askTeam

theorem Keeps.execHuddleMove {c : Fin 192} {n : Fin 16} (h : Keeps s₀ s) : OutKeeps s₀ (execHuddleMove c n s) := by
  unfold Machine.execHuddleMove
  dsimp only
  refine .next (h.ite ?_)
  split
  · exact h.askMoves.ite h.countMove.moveHuddle
  · exact h.askMoves.ite h.countMove.moveHome
  · exact h

end

/-! ### What `Machine/Launch` keeps -/

section
variable {s₀ s : State} {hd : Head} {d : Dst} {a : Src}

theorem ActKeeps.ownCounter {n : Nat} : ActKeeps s₀ (ownCounter n) := by
  unfold Machine.ownCounter
  refine .get (fun _ h1 => ?_)
  split
  · exact .pure
  · exact .raise

theorem Keeps.execGctr (h : Keeps s₀ s) : OutKeeps s₀ (execGctr hd d a s) :=
  h.perform (fun _ _ => .bind .ownCounter (fun _ => .get (fun _ h1 => .bind (.setState h1.orderWork)
      (fun _ => .bind .ownCounter (fun _ => .result)))))

theorem Keeps.execCncl (h : Keeps s₀ s) : OutKeeps s₀ (execCncl hd a s) :=
  .next (h.performOn (fun _ _ => .bind .ownCounter (fun _ => .get
      (fun _ h1 => .bind (.setState h1.setCanc) (fun _ => .pure))))).cancelSweep

theorem Keeps.createChild {hd : Nat} {b : List DWord} (h : Keeps s₀ s) : Keeps s₀ (createChild s hd b) :=
  h.update.tallyChild.causal

theorem Keeps.execLnch {e : EBlock} (h : Keeps s₀ s) : OutKeeps s₀ (execLnch hd d e s) :=
  h.perform (fun _ _ => .escape (.bind .blockAt (fun _ => .get (fun _ h1 => .bind .failing
      (fun _ => .bind (.setState h1.endReplay.orderWork) (fun _ => .ite .resultPush
      (.bind (.setState h1.endReplay.orderWork.createChild) (fun _ => .resultPush))))))))

theorem Keeps.execLwait (h : Keeps s₀ s) : OutKeeps s₀ (execLwait hd s) :=
  h.perform (fun _ _ => .get (fun _ h1 => .ite .waitFor (.bind (.setState h1.orderWork) (fun _ => .pure))))

end

/-! ### What `Machine/Save` keeps -/

section
variable {s₀ s : State} {c hd t : Nat} {k : StopKind} {hm : Hm} {p : Stop}

theorem Keeps.modThreadsOf {f : Thread → Thread} (h : Keeps s₀ s) : Keeps s₀ (modThreadsOf s hd f) :=
  h.foldl fun _ _ h1 => h1.modThread

theorem Keeps.modTeam {f : Team → Team} (h : Keeps s₀ s) : Keeps s₀ (modTeam s t f) := h.update

theorem Keeps.holdWaits (h : Keeps s₀ s) : Keeps s₀ (holdWaits s hd) := h.foldl fun _ _ h1 => h1.ite h1.modThread

theorem Keeps.requestStop {host : Bool} (h : Keeps s₀ s) : Keeps s₀ (requestStop s t k host) :=
  (h.foldl fun _ _ h1 => h1.modTeam).foldl fun _ _ h1 => h1.holdWaits

theorem Keeps.spreadStop (h : Keeps s₀ s) : Keeps s₀ (spreadStop s t) := by
  unfold Machine.spreadStop
  dsimp only
  split
  · exact h
  · exact ((h.foldl fun _ _ h1 => h1.modTeam).foldl fun _ _ h1 => h1.modTeam).foldl fun _ _ h1 => h1.holdWaits

theorem Keeps.stopRuns (h : Keeps s₀ s) : Keeps s₀ (stopRuns s hd) := h.foldl fun _ _ h1 => h1.keepLatches

theorem Keeps.forceStop (h : Keeps s₀ s) : Keeps s₀ (forceStop s t) :=
  ((h.foldl fun _ _ h1 => h1.stopRuns).foldl fun _ _ h1 => h1.ite h1.modThreadsOf).foldl fun _ _ h1 => h1.modTeam

theorem Keeps.forceDue {kind : StopKind → Bool} (h : Keeps s₀ s) : Keeps s₀ (forceDue s t kind) := by
  unfold Machine.forceDue
  split
  · exact h.forceStop.ite h
  · exact h

theorem Keeps.execSaveForce (h : Keeps s₀ s) : OutKeeps s₀ (execSaveForce t s) := .next h.forceDue

theorem Keeps.execDebugStopForce (h : Keeps s₀ s) : OutKeeps s₀ (execDebugStopForce t s) := .next h.forceDue

theorem Keeps.letGo {hs : List Nat} (h : Keeps s₀ s) : Keeps s₀ (letGo s hs) := h.foldl fun _ _ h1 => h1.modThreadsOf

theorem Keeps.writeParts {base : DWord} {ps : List (Nat × List Byte)} (h : Keeps s₀ s) :
    Keeps s₀ (writeParts s c hm base ps).1 :=
  h.foldlFst fun _ _ h1 => h1.ctxWrite.iteFst h1

theorem Keeps.writeState {g : WgImage} (h : Keeps s₀ s) : Keeps s₀ (writeState s c g).1 := h.writeParts

theorem Keeps.retainPages (h : Keeps s₀ s) : Keeps s₀ (retainPages s hd) := by
  unfold Machine.retainPages
  exact h.modCore

theorem Keeps.writeRecord (h : Keeps s₀ s) : Keeps s₀ (writeRecord s hd k).1 := by
  unfold Machine.writeRecord
  dsimp only
  split
  · exact h.writeState.of_eq ‹_›
  · exact (h.writeState.of_eq ‹_›).writeParts

theorem Keeps.leaveCore (h : Keeps s₀ s) : Keeps s₀ (leaveCore s k hd) :=
  (h.bumpRelease.retainPages.ite h.bumpRelease).releaseWg

theorem Keeps.savedAnswer {m : Team} (h : Keeps s₀ s) : Keeps s₀ (savedAnswer s m p) :=
  h.foldl fun _ _ h1 => h1.teamAnswer

theorem Keeps.saveGroup {ts : List (Nat × Team × Stop)} (h : Keeps s₀ s) : Keeps s₀ (saveGroup s ts) := by
  unfold Machine.saveGroup
  extract_lets r s1 s2 s3
  have hr : Keeps s₀ r.1 := Keeps.foldlFst (p := (s, [])) h fun p _ h1 =>
    Keeps.foldlFst (p := (p.1, true)) h1 fun _ _ h2 => .iteFst h2.writeRecord h2
  have h2 : Keeps s₀ s2 := .update hr
  have h3 : Keeps s₀ s3 := h2.foldl fun _ _ h1 => h1.foldl fun _ _ h1 => h1.leaveCore
  clear_value s3
  exact .ite (hr.foldl fun _ _ h1 => h1.killTeam) (h3.foldl fun _ _ h1 => .savedAnswer (.update h1))

theorem Keeps.debugReport {lid : Word} {team : Nat} {refused forced : Bool} (h : Keeps s₀ s) :
    Keeps s₀ (debugReport s hm lid team refused forced) :=
  h.post

theorem Keeps.haltTeam (h : Keeps s₀ s) : Keeps s₀ (haltTeam s t p) := h.modTeam.debugReport.ite h.modTeam

theorem Keeps.settleStop (h : Keeps s₀ s) : Keeps s₀ (settleStop s t) := by
  unfold Machine.settleStop
  dsimp only
  split
  · exact h.spreadStop
  · split
    · exact h.spreadStop
    · refine h.spreadStop.ite (.ite (h.spreadStop.foldl fun _ _ h1 => ?_) (h.spreadStop.saveGroup.ite h.spreadStop))
      split
      · exact h1.haltTeam
      · exact h1

end

/-! ### What `Machine/Restore` keeps -/

section
variable {s₀ s : State} {x : Seat} {c t ts : Nat} {m : Tab Nat} {hm : Hm} {rb : Bool} {bs : List Byte} {g : WgImage}
    {v : Saved}

theorem Keeps.ownTile (h : Keeps s₀ s) : Keeps s₀ (ownTile s c ts hm) :=
  h.modCore fun _ hk => hk.setOwner (ownerWord_reserved hm)

theorem Keeps.accTile (h : Keeps s₀ s) : Keeps s₀ (accTile s c hm ts) := h.ite (h.settleTile.ite h.clearTile).ownTile

theorem Keeps.takePage {own : Nat} {x : Nat × Nat × Nat} (h : Keeps s₀ s) : Keeps s₀ (takePage s c hm own x) := by
  unfold Machine.takePage
  extract_lets p s1 s2
  have h1 : Keeps s₀ s1 := h.unkeepPage
  have h2 : Keeps s₀ s2 := .ite (h1.foldl fun _ _ h3 => h3.accTile) (.ite (h1.foldl fun _ _ h3 => h3.settleTile) h1)
  exact h2.modCore fun k hk => CoreZero.ite (k := _) hk hk

theorem Keeps.takePages {hd : Nat} {mine : Tab Nat} (h : Keeps s₀ s) : Keeps s₀ (takePages s hd mine) :=
  h.foldl fun _ _ h1 => h1.takePage

theorem Keeps.fillSlot {regs : List Byte} {e : Nat × Slot} (h : Keeps s₀ s) :
    Keeps s₀ (fillSlot s x m regs rb e) := by
  unfold Machine.fillSlot
  dsimp only
  refine h.modSlot.foldl fun _ _ h1 => ?_
  split
  · exact h1.setRow
  · exact h1

theorem Keeps.fillSpad {pages : List (List Byte)} (h : Keeps s₀ s) : Keeps s₀ (fillSpad s x pages) := by
  refine h.foldl fun t p h1 => ?_
  split
  · exact h1.modCore fun _ hk => hk.setPoolBytes
  · exact h1

theorem Keeps.fillTile (h : Keeps s₀ s) : Keeps s₀ (fillTile s x t bs) :=
  ((h.settleTile.ite h).modCore fun _ hk => hk.setPoolBytes).ownTile

theorem Keeps.fillResv {r : Resv} (h : Keeps s₀ s) : Keeps s₀ (fillResv s x r bs) := by
  unfold Machine.fillResv
  exact h.modCore

theorem Keeps.fillCopy {e : CopyCmd × List DWord} (h : Keeps s₀ s) : Keeps s₀ (fillCopy s x m e) :=
  h.update.modCore.umpSpadWrite.modCore.noteFault.ite h.update.modCore

theorem Keeps.fillMtx {e : MtxCmd × List DWord} (h : Keeps s₀ s) : Keeps s₀ (fillMtx s x m e) :=
  h.update.modCore.umpSpadWrite.modCore.noteFault.ite h.update.modCore

theorem Keeps.fillLoose (h : Keeps s₀ s) : Keeps s₀ (fillLoose s x t) := .fillTile (.update h.modWg)

theorem Keeps.fillSeat {p : Parts} (h : Keeps s₀ s) : Keeps s₀ (fillSeat s x m p rb) := by
  unfold Machine.fillSeat
  extract_lets s1 s2 s3 s4 s5 s6
  have h1 : Keeps s₀ s1 := h.foldl fun _ _ h1 => h1.fillSlot
  have h3 : Keeps s₀ s3 := h1.fillSpad.foldl fun _ _ h2 => h2.fillTile
  have h4 : Keeps s₀ s4 := h3.foldl fun _ _ h2 => h2.fillLoose
  have h5 : Keeps s₀ s5 := h4.foldl fun _ _ h2 => h2.fillResv
  have h6 : Keeps s₀ s6 := h5.foldl fun _ _ h2 => h2.fillCopy
  exact h6.foldl fun _ _ h2 => h2.fillMtx

theorem Keeps.readUnits {base : DWord} {n : Nat} {l : List Nat} (h : Keeps s₀ s) :
    Keeps s₀ (readUnits s c hm base n l).1 := by
  induction l generalizing s with
  | nil => exact h
  | cons o r ih =>
    rw [Machine.readUnits]
    split
    next h1 => exact h.ctxRead.of_eq h1
    next h1 =>
      split
      next h2 => exact (ih (h.ctxRead.of_eq h1)).of_eq h2
      next h2 => exact (ih (h.ctxRead.of_eq h1)).of_eq h2

theorem Keeps.readState {l : List Part} (h : Keeps s₀ s) : Keeps s₀ (readState s c g l).1 := by
  induction l generalizing s g with
  | nil => exact h
  | cons p r ih =>
    rw [Machine.readState]
    split
    next h1 => exact h.ctxRead.of_eq h1
    next h1 => exact ih (h.ctxRead.of_eq h1)

theorem Keeps.readParts {held : Tab (List Byte)} (h : Keeps s₀ s) : Keeps s₀ (readParts s c g held).1 := by
  unfold Machine.readParts
  split
  · exact h.readState.of_eq ‹_›
  · split <;> exact (h.readState.of_eq ‹_›).readUnits.of_eq ‹_›

theorem Keeps.freeRetained {p : Nat} (h : Keeps s₀ s) : Keeps s₀ (freeRetained s c p) :=
  .ite (.modCore (h.foldl fun _ _ h1 => h1.settleTile)) h

theorem Keeps.spillAway (h : Keeps s₀ s) : Keeps s₀ (spillAway s x).1 :=
  ((h.foldlFst fun _ _ h1 => h1.spillTile.iteFst h1).foldl fun _ _ h1 => h1.freeRetained).iteFst
      (h.foldlFst fun _ _ h1 => h1.spillTile.iteFst h1)

theorem Keeps.takeSeat (h : Keeps s₀ s) : Keeps s₀ (takeSeat s x m) :=
  .takePages (.foldl (.update (h.foldl fun _ _ h1 => h1.clearTile).modCore) fun _ _ h1 => h1.modSlot)

theorem Keeps.readSeats {l : List Seat} (h : Keeps s₀ s) : Keeps s₀ (readSeats s l).1 := by
  induction l generalizing s with
  | nil => exact h
  | cons x r ih =>
    rw [Machine.readSeats]
    split
    next h1 => exact h.spillAway.of_eq h1
    next h1 =>
      have h1 := h.spillAway.of_eq h1
      split
      next h2 => exact h1.readParts.of_eq h2
      next h2 =>
        split
        next h3 => exact (ih (h1.readParts.of_eq h2)).of_eq h3
        next h3 => exact (ih (h1.readParts.of_eq h2)).of_eq h3

theorem Keeps.restoreAnswer {status : Nat} (h : Keeps s₀ s) : Keeps s₀ (restoreAnswer s v status) :=
  h.foldl fun _ _ h1 => h1.teamAnswer

theorem Keeps.relog {xs : List Seat} (h : Keeps s₀ s) : Keeps s₀ (relog s xs v) := h.modTeam

theorem Keeps.restoreGroup {vs : List Saved} {cores : List Nat} (h : Keeps s₀ s) :
    Keeps s₀ (restoreGroup s vs cores) := by
  unfold Machine.restoreGroup
  split
  · exact h.foldl fun _ _ h1 => h1.killSaved
  · extract_lets xs m
    split
    next h1 =>
      have h1 := h.readSeats.of_eq h1
      exact .ite h1.endContext (h1.foldl fun _ _ h2 => h2.killSaved)
    next h1 =>
      have h1 := h.readSeats.of_eq h1
      extract_lets bad s1 s2 s3 s4 s5
      have h2 : Keeps s₀ s2 := .update (h1.foldl fun _ _ h2 => h2.refreshDesc)
      have h4 : Keeps s₀ s4 := (h2.foldl fun _ _ h3 => h3.takeSeat).foldl fun _ _ h3 => h3.fillSeat
      have h5 : Keeps s₀ s5 := h4.foldl fun _ _ h3 => h3.foldl fun _ _ h3 => h3.modThreadsOf
      clear_value s5
      exact .ite (h1.foldl fun _ _ h2 => h2.killSaved) (h5.foldl fun _ _ h3 => h3.relog.restoreAnswer)

end

/-! ### What `Machine/Place` keeps -/

section
variable {s₀ s : State} {hd i n st t : Nat} {l : Launch}

theorem Keeps.queueError {q code slot : Nat} (h : Keeps s₀ s) : Keeps s₀ (queueError s q code slot) := h.update

theorem Keeps.modStream {f : Stream → Stream} (h : Keeps s₀ s) : Keeps s₀ (modStream s st f) := h.update

theorem Keeps.startRegs {w : Wg} (h : Keeps s₀ s) : Keeps s₀ (startRegs s w i n) := h.newRow.newRow

theorem Keeps.placeWg {k core : Nat} (h : Keeps s₀ s) : Keeps s₀ (placeWg s i l t n k core hd) :=
  (h.update.foldl fun _ _ h1 => h1.modSlot).takePages.foldl fun _ _ h1 => h1.startRegs

theorem Keeps.clearMailboxes (h : Keeps s₀ s) : Keeps s₀ (clearMailboxes s hd) :=
  h.foldl fun _ _ h1 => .update h1.ctxWrite

theorem Keeps.placeFresh {cores : List Nat} (h : Keeps s₀ s) : Keeps s₀ (placeFresh s i l n cores) :=
  .modLaunch (.foldl (.foldl (.update h.refreshDesc.acquireRemote) fun _ _ h1 => h1.placeWg) fun _ _ h1 =>
      h1.clearMailboxes)

theorem Keeps.retirePlaced (h : Keeps s₀ s) : Keeps s₀ (retirePlaced s i) := by
  unfold Machine.retirePlaced
  dsimp only
  split
  · exact h
  · exact (h.modLaunch.ite h.modLaunch.tidyQueue).ite h

theorem Keeps.placeNext {x : Next} (h : Keeps s₀ s) : Keeps s₀ (placeNext s st i l x) := by
  unfold Machine.placeNext
  extract_lets r
  have hr : Keeps s₀ r.1 := by
    unfold r
    split
    · exact h.restoreGroup
    · exact h.placeFresh.retirePlaced
  clear_value r
  exact .ite (.modStream (.update hr)) hr

theorem Keeps.rejectHead {i : Nat} {l : Launch} {t : State} (h : Keeps s₀ s)
    (e : rejectHead s i l = some t) : Keeps s₀ t := by
  unfold Machine.rejectHead at e
  extract_lets s1 at e
  have h1 : Keeps s₀ s1 := h.readDescHere
  clear_value s1
  split_ifs at e
  · cases e
    exact h1.rejectLaunch
  · obtain ⟨c, -, rfl⟩ := Option.map_eq_some_iff.1 e
    exact h1.queueError.rejectLaunch

theorem Keeps.decideNext {held : Option Nat} {l : List Cand} (h : Keeps s₀ s) : Keeps s₀ (decideNext s held l) := by
  induction l with
  | nil => exact h
  | cons x r ih =>
    unfold Machine.decideNext
    split
    · exact ih
    · split
      next h1 => exact Keeps.rejectHead h h1
      next =>
        split
        · exact .ite h h.placeNext
        · exact ih

theorem Keeps.noteStreams (h : Keeps s₀ s) : Keeps s₀ (noteStreams s) := h.foldl fun _ _ h1 => h1.update

theorem Keeps.ageStream (h : Keeps s₀ s) : Keeps s₀ (ageStream s st) := by
  unfold Machine.ageStream
  dsimp only
  refine .modStream ?_
  split
  · refine .ite ?_ h
    split
    · exact h.requestStop
    · exact h
  · exact h

theorem Keeps.ageAll (h : Keeps s₀ s) : Keeps s₀ (ageAll s) := by
  unfold Machine.ageAll
  dsimp only
  exact .update (h.foldl fun _ _ h1 => h1.ageStream)

theorem Keeps.ageMany (h : Keeps s₀ s) : Keeps s₀ (ageMany n s) := by
  induction n generalizing s with
  | zero => exact h
  | succ n ih => exact ih h.ageAll

theorem Keeps.ageDue (h : Keeps s₀ s) : Keeps s₀ (ageDue s) := h.ageMany

theorem Keeps.execPlaceTeam (h : Keeps s₀ s) : OutKeeps s₀ (execPlaceTeam s) := .next (h.ite h.ageDue.decideNext)

theorem Keeps.execStreamAgeing (h : Keeps s₀ s) : OutKeeps s₀ (execStreamAgeing s) := .next (h.ite h.ageAll)

theorem Keeps.execPageZeroingDone (h : Keeps s₀ s) : OutKeeps s₀ (execPageZeroingDone t s) :=
  .next (h.foldl fun _ _ h1 => h1.modWg.modCore)

end

/-! ### What `Machine/Contain` keeps -/

section
variable {s₀ s : State} {a b c carrier hd i loc n sec t unit : Nat} {g hs : List Nat} {who : Option Asker}
    {s0 : State} {pc : Word} {v : Saved} {clock : Bool}

theorem Keeps.writeBank (h : Keeps s₀ s) : Keeps s₀ (writeBank s hd).1 := by
  unfold Machine.writeBank
  extract_lets w bank base us
  clear_value us base
  split
  next h1 => exact h.writeState.of_eq h1
  next h1 =>
    refine Keeps.foldlFst (p := (_, true)) (h.writeState.of_eq h1) fun q u h2 => .iteFst ?_ h2
    exact Keeps.iteFst (x := (_, true)) (h2.ctxWrite.modCore fun _ hk => hk.cleanUnit) h2.ctxWrite

theorem Keeps.writeCommit {gen : Nat} (h : Keeps s₀ s) : Keeps s₀ (writeCommit s hd gen).1 := h.ctxWrite

theorem Keeps.releaseReady (h : Keeps s₀ s) : Keeps s₀ (releaseReady s hd) := h.modCore

theorem Keeps.openEscapes (h : Keeps s₀ s) : Keeps s₀ (openEscapes s hs) :=
  h.foldl fun _ _ h1 => (h1.foldl fun _ _ h2 => h2.modThread).releaseReady

theorem Keeps.countGroup {e : Nat} (h : Keeps s₀ s) : Keeps s₀ (countGroup s hs e who) := by
  unfold Machine.countGroup
  dsimp only
  refine h.foldl fun _ _ h1 => ?_
  split
  · exact h1.bumpEvent.creditEvent
  · exact h1.bumpEvent

theorem Keeps.voidBanks (h : Keeps s₀ s) : Keeps s₀ (voidBanks s hd) := by
  unfold Machine.voidBanks
  dsimp only
  split
  · exact h
  · exact (h.ite h.ctxWrite).ite (h.ite h.ctxWrite).ctxWrite

theorem Keeps.abandonSnapshot (h : Keeps s₀ s) : Keeps s₀ (abandonSnapshot s g hs) :=
  ((h.foldl fun _ _ h1 => h1.voidBanks).foldl fun _ _ h1 => h1.modTeam.report).openEscapes

theorem Keeps.commitTeam (h : Keeps s₀ s) : Keeps s₀ (commitTeam s0 s t) := h.modTeam

theorem Keeps.unkeep (h : Keeps s₀ s) : Keeps s₀ (unkeep s hd) := h.modCore.resvSweep

theorem Keeps.execSnapshotCommit (h : Keeps s₀ s) : OutKeeps s₀ (execSnapshotCommit t s) := by
  unfold Machine.execSnapshotCommit
  extract_lets g hs writing rolling moving r r2 s1
  have hr : Keeps s₀ r.1 := Keeps.foldlFst (p := (s, true)) h fun _ _ h1 => .iteFst h1.writeBank h1
  have hr2 : Keeps s₀ r2.1 := hr.foldlFst fun _ _ h1 => .iteFst h1.writeCommit h1
  clear_value r2
  have h1 : Keeps s₀ s1 := (hr2.foldl fun _ _ h1 => h1.unkeep).openEscapes
  exact .next (.ite h (.ite hr2.abandonSnapshot (h1.foldl fun _ _ h2 => h2.commitTeam).countGroup))

theorem Keeps.startRollback (h : Keeps s₀ s) : Keeps s₀ (startRollback s t who) :=
  ((h.foldl fun _ _ h1 => h1.stopRuns).foldl fun _ _ h1 => h1.modThreadsOf).foldl fun _ _ h1 => h1.modTeam

theorem Keeps.clearWork (h : Keeps s₀ s) : Keeps s₀ (clearWork s hd) :=
  .foldl (.modCore h.dropCommands.dropParks) fun _ _ h1 => h1.modSlot

theorem Keeps.rollWg {x : Seat} {m : Tab Nat} {p : Parts} (h : Keeps s₀ s) : Keeps s₀ (rollWg s x m p) :=
  .foldl (.modThreadsOf (.fillSeat (.update h.clearWork))) fun _ _ h1 => h1.modSlot

theorem Keeps.readBanks {l : List Seat} (h : Keeps s₀ s) : Keeps s₀ (readBanks s l).1 := by
  induction l generalizing s with
  | nil => exact h
  | cons x r ih =>
    rw [Machine.readBanks]
    split
    next h1 => exact h.readParts.of_eq h1
    next h1 =>
      split
      next h2 => exact (ih (h.readParts.of_eq h1)).of_eq h2
      next h2 => exact (ih (h.readParts.of_eq h1)).of_eq h2

theorem Keeps.replaceGroup (h : Keeps s₀ s) : Keeps s₀ (replaceGroup s g) := by
  unfold Machine.replaceGroup
  dsimp only
  refine .update ((h.update.foldl fun _ _ h1 => h1.releaseWg).foldl fun _ _ h1 => ?_)
  split
  · split
    · exact h1.haltTeam.ite h1.savedAnswer
    · exact h1
  · exact h1

theorem Keeps.rollBack (h : Keeps s₀ s) : Keeps s₀ (rollBack s g) := by
  unfold Machine.rollBack
  dsimp only
  refine h.countGroup.replaceGroup.ite ?_
  split
  · exact (h.countGroup.readBanks.of_eq ‹_›).endContext.ite (h.countGroup.readBanks.of_eq ‹_›).killTeam
  · refine (((h.countGroup.readBanks.of_eq ‹_›).foldl fun _ _ h1 => h1.rollWg).foldl fun _ _ h1 => h1.modTeam).foldl
      fun _ _ h1 => h1.modThreadsOf.ite ?_
    split
    · exact h1.modThreadsOf
    · exact h1

theorem Keeps.execRollback (h : Keeps s₀ s) : OutKeeps s₀ (execRollback t s) := .next (h.rollBack.ite h)

theorem Keeps.teamReport {kind out : Nat} (h : Keeps s₀ s) : Keeps s₀ (teamReport s0 s t kind carrier out loc pc) :=
  h.report

theorem Keeps.teamError (h : Keeps s₀ s) : Keeps s₀ (teamError s t carrier loc) :=
  h.endContext.teamReport.ite (h.startRollback.teamReport.ite (h.killTeam.teamReport.ite h.endContext.teamReport))

theorem Keeps.assayOutcome (h : Keeps s₀ s) : Keeps s₀ (assayOutcome s t unit loc pc who) := by
  unfold Machine.assayOutcome
  dsimp only
  refine h.startRollback.teamReport.ite (h.killTeam.teamReport.ite ?_)
  split
  · exact h.killTeam.teamReport.cancelCounter
  · exact h.killTeam.teamReport

theorem Keeps.noteMismatch (h : Keeps s₀ s) : Keeps s₀ (noteMismatch s c) := h.bumpEvent.modCore

theorem Keeps.mismatchInstr {hd : Head} {bs : List Byte} (h : Keeps s₀ s) : Keeps s₀ (mismatchInstr s c unit hd bs) :=
  h.ite ((h.noteMismatch.performOn (fun _ _ => .raise)).report.ite
      ((h.noteMismatch.performOn (fun _ _ => .raise)).foldl fun _ _ h1 => h1.assayOutcome))

theorem Keeps.mismatchRun {q : Nat} (h : Keeps s₀ s) : Keeps s₀ (mismatchRun s c q unit) := by
  unfold Machine.mismatchRun
  dsimp only
  split
  · exact h
  · split
    · exact h
    · refine h.ite ?_
      split
      · split
        · exact h.update.fetchInstr.mismatchInstr
        · exact h
      · exact h

theorem Keeps.mismatchCommand {wg : Option (Nat × Origin)} (h : Keeps s₀ s) :
    Keeps s₀ (mismatchCommand s c wg unit) := by
  unfold Machine.mismatchCommand
  dsimp only
  split
  · exact h
  · exact h.noteMismatch.restartNinal.report.ite h.noteMismatch.assayOutcome

theorem Keeps.mismatchMove (h : Keeps s₀ s) : Keeps s₀ (mismatchMove s c n unit) :=
  (h.noteMismatch.foldl fun _ _ h1 => h1.assayOutcome).ite h

theorem Keeps.mismatch (h : Keeps s₀ s) : Keeps s₀ (mismatch s c b unit) :=
  h.mismatchRun.ite (h.mismatchCommand.ite (h.mismatchCommand.ite h.mismatchMove))

theorem Keeps.poisonSector (h : Keeps s₀ s) : Keeps s₀ (poisonSector s sec) := h.update

theorem Keeps.badHbm (h : Keeps s₀ s) : Keeps s₀ (badHbm s sec) :=
  (h.update.ite h.poisonSector).ite (h.ite (h.update.ite h.poisonSector).report)

theorem Keeps.surfaceSector {code : Nat} (h : Keeps s₀ s) : Keeps s₀ (surfaceSector s code sec) :=
  h.update.poisonSector.ite h

theorem Keeps.l1DropSector (h : Keeps s₀ s) : Keeps s₀ (l1DropSector s c sec) := h.modCore

theorem Keeps.cleanSector (h : Keeps s₀ s) : Keeps s₀ (cleanSector s sec b) := by
  unfold Machine.cleanSector
  dsimp only
  refine .ite (.report (.update h.modCore)) ?_
  split
  · refine .ite ?_ (h.ite (.report (.surfaceSector (.update (h.foldl fun _ _ h1 => h1.l1DropSector)))))
    split
    · exact h.ite h.l1DropSector.report
    · exact h
  · exact h

theorem Keeps.dirtySector (h : Keeps s₀ s) : Keeps s₀ (dirtySector s sec b) := by
  unfold Machine.dirtySector
  dsimp only
  refine .ite ?_ ?_
  · split
    · exact h.poisonSector.report.ite h
    · exact h
  · split
    · exact h.poisonSector.report.ite h
    · exact h

theorem Keeps.dropTlb (h : Keeps s₀ s) : Keeps s₀ (dropTlb s a b) := by
  unfold Machine.dropTlb
  dsimp only
  refine .ite ?_ (.ite ?_ (.ite ?_ ?_))
  · split
    · exact h.modCore.report
    · exact h.modCore
  · split
    · exact h.update.report
    · exact h.update
  · split
    · exact h.update.report
    · exact h.update
  · split
    · exact h.update.report
    · exact h.update

theorem Keeps.badDirectory {ln : Nat} (h : Keeps s₀ s) : Keeps s₀ (badDirectory s ln) := by
  unfold Machine.badDirectory
  dsimp only
  split
  · exact h
  · exact ((h.foldl fun _ _ h1 => h1.poisonSector).endContext.ite
      (.update (h.foldl fun _ _ h1 => h1.poisonSector).endContext)).report

theorem Keeps.umpireError (h : Keeps s₀ s) : Keeps s₀ (umpireError s c) := h.restartNinal.report

theorem Keeps.rollSaved (h : Keeps s₀ s) : Keeps s₀ (rollSaved s v) := by
  unfold Machine.rollSaved
  dsimp only
  exact .update (h.scrubSaved (fun _ _ h1 => h1.killSaved))

theorem Keeps.savedError (h : Keeps s₀ s) : Keeps s₀ (savedError s v c) := by
  unfold Machine.savedError
  dsimp only
  split
  · exact h
  · exact ((h.foldl fun _ _ h1 => h1.rollSaved).ite (h.modLaunch.killSaved.ite h.endContext)).report

theorem Keeps.badPage {p : Nat} (h : Keeps s₀ s) : Keeps s₀ (badPage s c p) := by
  unfold Machine.badPage
  dsimp only
  refine h.umpireError.ite (h.report.ite (.ite ?_ ?_))
  · split
    · exact h.savedError
    · exact h.report
  · split
    · exact h.teamError
    · exact h.report

theorem Keeps.ownedEntry {hm : Option Hm} (h : Keeps s₀ s) : Keeps s₀ (ownedEntry s hm carrier loc) := by
  unfold Machine.ownedEntry
  split
  · exact h.endContext.report
  · exact h

theorem Keeps.badKey (h : Keeps s₀ s) : Keeps s₀ (badKey s i) :=
  .report (.update (h.foldl fun _ _ h1 => h1.endContext))

theorem Keeps.badRecord (h : Keeps s₀ s) : Keeps s₀ (badRecord s i) := by
  unfold Machine.badRecord
  dsimp only
  split
  · exact h
  · exact h.ite h.modLaunch.tidyQueue.completeLaunch.report

theorem Keeps.badCounter (h : Keeps s₀ s) : Keeps s₀ (badCounter s n) := by
  unfold Machine.badCounter
  dsimp only
  split
  · exact h
  · exact (h.endContext.ite h).setCanc.report

theorem Keeps.resetUnit (h : Keeps s₀ s) : Keeps s₀ (resetUnit s clock) := h.update.report

theorem Keeps.execErrorDiscovery {k : Carrier} (h : Keeps s₀ s) : OutKeeps s₀ (execErrorDiscovery k a b s) := by
  unfold Machine.execErrorDiscovery
  refine .next ?_
  split
  · exact h.cleanSector
  · exact h.dirtySector
  · exact h.badHbm
  · exact h.dropTlb
  · exact h.badDirectory
  · exact h.badPage.ite h.update
  · split
    · exact h.teamError
    · exact h.report
  · split
    · exact h.umpireError.ite h.teamError
    · exact h
  · exact h.ownedEntry
  · exact h.ownedEntry
  · exact h.badKey
  · exact h.badRecord
  · exact h.badCounter
  · exact h.umpireError
  · split
    · exact h.umpireError.ite h.teamError
    · exact h
  · exact h.bumpEvent.ite (h.countUnit.ite h)
  · exact h.resetUnit
  · exact h.resetUnit
  · exact h.mismatch

theorem Keeps.execHbmScrub {bad : Bool} (h : Keeps s₀ s) : OutKeeps s₀ (execHbmScrub sec bad s) :=
  .next (h.badHbm.ite h)

theorem Keeps.fabricBack (h : Keeps s₀ s) : Keeps s₀ (fabricBack s) :=
  (h.netWake.foldl fun _ _ h1 => h1.completeLaunch).drainOut

theorem Keeps.execUnitResetDone (h : Keeps s₀ s) : OutKeeps s₀ (execUnitResetDone clock s) :=
  .next h.update.fabricBack

theorem Keeps.execCoreFence {c : Fin 192} (h : Keeps s₀ s) : OutKeeps s₀ (execCoreFence c s) :=
  .next (h.ite (h.modCore.foldl fun _ _ h1 => h1.requestStop).report)

end

/-! ### What `Machine/Signals` keeps -/

section
variable {s₀ s : State} {hd : Head} {a b : Src} {c : Fin 192} {l : Fin 32}

theorem Keeps.mapPath {f : Thread → Thread} (h : Keeps s₀ s) : Keeps s₀ (mapPath s f) :=
  h.foldl fun _ _ h1 => h1.modThread

theorem Keeps.execYieldRun (h : Keeps s₀ s) : OutKeeps s₀ (execYieldRun hd s) :=
  .next (h.performOn (fun _ _ => .pure)).mapPath.finishRun

theorem Keeps.execSleep (h : Keeps s₀ s) : OutKeeps s₀ (execSleep hd a s) :=
  .next (h.performOn (fun _ _ => .get (fun _ _ => .ite .pure .pure))).finishRun

theorem Keeps.execNop (h : Keeps s₀ s) : OutKeeps s₀ (execNop hd s) := h.perform (fun _ _ => .pure)

theorem Keeps.execSleepExpiry {n : Fin 17} (h : Keeps s₀ s) : OutKeeps s₀ (execSleepExpiry c n l s) := by
  unfold Machine.execSleepExpiry
  refine .next ?_
  split
  · exact h
  · split
    · exact h.ite h.modSlot.meetings
    · exact h

theorem Keeps.sendSignal {hd : Nat} {code : Byte} {to_ : Thread → Bool} (h : Keeps s₀ s) :
    Keeps s₀ (sendSignal s hd code to_) :=
  h.foldl fun _ _ h1 => h1.modThread.ite h1

theorem Keeps.execTrapSelf (h : Keeps s₀ s) : OutKeeps s₀ (execTrapSelf hd b s) :=
  h.perform (fun _ _ => .get (fun _ h1 => .bind (.setState h1.modThread) (fun _ => .pure)))

theorem Keeps.execTrapOne (h : Keeps s₀ s) : OutKeeps s₀ (execTrapOne hd a b s) :=
  h.perform (fun _ _ => .get (fun _ h1 => .bind (.setState h1.sendSignal) (fun _ => .pure)))

theorem Keeps.execTrapWgrp (h : Keeps s₀ s) : OutKeeps s₀ (execTrapWgrp hd b s) :=
  h.perform (fun _ _ => .get (fun _ h1 => .bind (.setState h1.sendSignal) (fun _ => .pure)))

theorem Keeps.execTrapTgrp (h : Keeps s₀ s) : OutKeeps s₀ (execTrapTgrp hd b s) :=
  h.perform (fun _ _ => .get (fun _ h1 => .bind (.setState (h1.foldl fun _ _ h2 => h2.sendSignal)) (fun _ => .pure)))

theorem Keeps.execAsyncSignalForce {n : Fin 16} (h : Keeps s₀ s) : OutKeeps s₀ (execAsyncSignalForce c n l s) := by
  unfold Machine.execAsyncSignalForce
  refine .next ?_
  split
  · exact h
  · exact h.splitRun.deliverPending.ite h

theorem ActKeeps.mailboxPlace {l : Nat} {kind : AccKind} {n : Nat} : ActKeeps s₀ (mailboxPlace l kind n) := by
  unfold Machine.mailboxPlace
  dsimp only
  refine .get (fun _ h1 => .bind .stallOn (fun _ => .bind (.setState h1.pathPlace) (fun _ => ?_)))
  split
  · exact .raiseWalk
  · exact .pure

theorem ActKeeps.readMailbox {l : Nat} : ActKeeps s₀ (readMailbox l) :=
  .bind .mailboxPlace (fun _ => .bind .consume (fun _ => .get (fun _ h1 => .bind (.setState h1.readPlace.readNewest)
      (fun _ => .pure))))

theorem ActKeeps.writeMailbox {p : Place} {bs : List Byte} : ActKeeps s₀ (writeMailbox p bs) :=
  .get (fun _ h1 => .setState h1.writePlace)

theorem Keeps.execSvc (h : Keeps s₀ s) : OutKeeps s₀ (execSvc hd a s) :=
  h.perform (fun _ _ => .bind (.escape (.bind .readMailbox (fun _ => .bind .mailboxPlace
      (fun _ => .get (fun _ _ => .bind .order (fun _ => .get (fun _ h2 => .bind (.setState h2.endReplay)
      (fun _ => .get (fun _ _ => .bind .writeMailbox (fun _ => .pure)))))))))) (fun _ => .raise))

theorem Keeps.execSvcq (h : Keeps s₀ s) : OutKeeps s₀ (execSvcq hd s) :=
  h.perform (fun _ _ => .bind .readMailbox (fun _ => .bind .mailboxPlace
      (fun _ => .bind .writeMailbox (fun _ => .raise))))

theorem Keeps.execSigret (h : Keeps s₀ s) : OutKeeps s₀ (execSigret hd s) := by
  unfold Machine.execSigret
  dsimp only
  refine h.perform (fun _ _ => .get (fun _ h1 => ?_))
  split
  · exact .raise
  · refine .bind .stallOn (fun _ => ?_)
    split
    · exact .bind (.setState (h1.pathPlace.of_eq ‹_›)) (fun _ => .raiseWalk)
    · exact .bind (.setState (h1.pathPlace.of_eq ‹_›)) (fun _ => .bind .consume
        (fun _ => .bind (.setState (h1.pathPlace.of_eq ‹_›).readNewest.returnSignal.modThread) (fun _ => .pure)))

end

/-! ### What `Machine/Sched` keeps -/

section
variable {s₀ s : State} {n : Nat} {c : Fin 192} {q : Fin 4} {w : Fin 64}

theorem Keeps.wake {c : Nat} (h : Keeps s₀ s) : Keeps s₀ (wake s c n) := by
  unfold Machine.wake
  exact h.modSlot

theorem Keeps.beginRun {c q : Nat} {ps : List Path} {p : Path} (h : Keeps s₀ s) : Keeps s₀ (beginRun s c q n ps p) :=
  .syncAtRun (.count (.update h.modSlot.modQuarter))

theorem Keeps.execRunSelect (h : Keeps s₀ s) : OutKeeps s₀ (execRunSelect c q s) := by
  unfold Machine.execRunSelect
  dsimp only
  refine .next (h.ite ?_)
  split
  · exact h
  · split
    · exact h.wake
    · exact h.wake.beginRun

theorem Keeps.execFetchReturn (h : Keeps s₀ s) : OutKeeps s₀ (execFetchReturn c q s) := by
  unfold Machine.execFetchReturn
  refine .next ?_
  split
  · exact h
  · exact h.fillCode.modQuarter

theorem Keeps.execLoadReturn {n : Fin 17} (h : Keeps s₀ s) : OutKeeps s₀ (execLoadReturn c n s) :=
  .next h.update.modSlot

theorem Keeps.storeLost {p : PendStore} {back : Bool} (h : Keeps s₀ s) : Keeps s₀ (storeLost s n p back) := by
  unfold Machine.storeLost
  extract_lets s1 s2
  have h1 : Keeps s₀ s1 := .dropLine (.update h)
  have h2 : Keeps s₀ s2 := h1.memory fun hm => by
    unfold s2
    split_ifs
    · exact wf_writeBytes _ _ hm
    · exact hm
  clear_value s2
  split
  · exact h2
  · exact h2.modThread

theorem Keeps.execStoreAck (h : Keeps s₀ s) : OutKeeps s₀ (execStoreAck n s) := by
  unfold Machine.execStoreAck
  dsimp only
  refine .next ?_
  split
  · exact h
  · exact h.ite (.ite (.storeLost (.update (h.writeBackLine.ite h))) (.update (h.writeBackLine.ite h)))

theorem Keeps.execRemoteStoreLost (h : Keeps s₀ s) : OutKeeps s₀ (execRemoteStoreLost n s) := by
  unfold Machine.execRemoteStoreLost
  refine .next ?_
  split
  · exact h
  · exact h.ite h.update.storeLost

theorem Keeps.execWalkStart (h : Keeps s₀ s) : OutKeeps s₀ (execWalkStart w s) := by
  unfold Machine.execWalkStart
  refine .next (h.ite ?_)
  split
  · exact h
  · exact h.update

theorem Keeps.walkServed {e : TlbEntry} {w : Waiter} (h : Keeps s₀ s) : Keeps s₀ (walkServed s e w) := by
  unfold Machine.walkServed
  split
  · exact h.fillTlbs.modCopy
  · exact h.fillTlbs.modMtx
  · exact h.fillTlbs
  · exact h.update

theorem Keeps.walkFailed {m : Miss} {o : Outcome} {w : Waiter} (h : Keeps s₀ s) : Keeps s₀ (walkFailed s m o w) := by
  unfold Machine.walkFailed
  dsimp only
  split
  · split
    · exact h
    · refine .ite ?_ h.stopCopy
      split
      · exact h.endCopy.contain
      · exact h.endCopy
  · split
    · exact h
    · refine .ite ?_ h.stopMtx
      split
      · exact h.endMtx.contain
      · exact h.endMtx
  · exact h.update
  · exact h.update

theorem Keeps.execWalkComplete (h : Keeps s₀ s) : OutKeeps s₀ (execWalkComplete w s) := by
  unfold Machine.execWalkComplete
  dsimp only
  refine .next ?_
  split
  · exact h
  · refine .netWake ?_
    split
    · exact (h.update.walk.of_eq ‹_›).foldl fun _ _ h1 => h1.walkFailed
    · exact (h.update.walk.of_eq ‹_›).update.foldl fun _ _ h1 => h1.walkServed

end

/-! ### What `Machine/Observe` keeps -/

section
variable {s₀ s : State}

theorem Keeps.addTotal {a v : Nat} (h : Keeps s₀ s) : Keeps s₀ (addTotal s a v) := h.consumeOwn.devWrite

theorem Keeps.clearCounter {u e : Nat} (h : Keeps s₀ s) : Keeps s₀ (clearCounter s u e) := by
  refine .ite (h.change (fun h0 c => ?_) rfl h.canonical) h.update
  have h1 := h0 c
  simp only [coreAt, Tab.getD, get?_adjust] at h1 ⊢
  split_ifs
  · cases hg : Tab.get? s.cores c with
    | none => exact coreZero_reset
    | some k =>
      rw [hg] at h1
      exact (h1 : CoreZero k)
  · exact h1

theorem Keeps.execCounterSweep (h : Keeps s₀ s) : OutKeeps s₀ (execCounterSweep s) :=
  .next (h.ite (.update (h.foldl fun _ _ h1 => h1.foldl fun _ _ h2 => h2.clearCounter.addTotal).addTotal))

theorem Keeps.execStallSample {c : Fin 192} (h : Keeps s₀ s) : OutKeeps s₀ (execStallSample c s) := by
  unfold Machine.execStallSample
  dsimp only
  refine .next (h.ite ?_)
  split
  · exact h
  · refine h.modCore.ite ?_
    split
    · exact h.modCore
    · exact h.modCore.traceRecord

end

/-! ### What `Machine/Power` keeps -/

section
variable {s₀ s : State} {pkgw : Half} {die hbm : Byte} {r : Reading}

theorem Keeps.noteReading (h : Keeps s₀ s) : Keeps s₀ (noteReading s r) := h.update

theorem Keeps.changeThrottle {cause new : Nat} (h : Keeps s₀ s) : Keeps s₀ (changeThrottle s r cause new) :=
  h.update.post

theorem Keeps.throttleDown (h : Keeps s₀ s) : Keeps s₀ (throttleDown s r) := by
  unfold Machine.throttleDown
  dsimp only
  refine h.noteReading.ite ((h.noteReading.changeThrottle.foldl fun _ _ h1 => h1.requestStop).ite
      (h.noteReading.ite (h.noteReading.changeThrottle.ite ?_)))
  split
  · exact h.noteReading
  · exact h.noteReading.changeThrottle

theorem Keeps.execThrottleStepDown (h : Keeps s₀ s) : OutKeeps s₀ (execThrottleStepDown pkgw hbm die s) :=
  .next h.throttleDown

theorem Keeps.execThrottleT3 (h : Keeps s₀ s) : OutKeeps s₀ (execThrottleT3 pkgw hbm die s) := .next h.throttleDown

theorem Keeps.execThrottleT4 (h : Keeps s₀ s) : OutKeeps s₀ (execThrottleT4 pkgw hbm die s) := .next h.throttleDown

theorem Keeps.execThrottleLeaveT4 (h : Keeps s₀ s) : OutKeeps s₀ (execThrottleLeaveT4 pkgw hbm die s) :=
  .next (h.noteReading.ite (.update h.noteReading.changeThrottle))

theorem Keeps.execThrottleStepUp (h : Keeps s₀ s) : OutKeeps s₀ (execThrottleStepUp pkgw hbm die s) :=
  .next (h.noteReading.ite h.noteReading.changeThrottle)

theorem Keeps.execTempRefresh (h : Keeps s₀ s) : OutKeeps s₀ (execTempRefresh pkgw hbm die s) :=
  .next (.update h.noteReading)

end

/-! ### What `Machine/Boot` keeps -/

section
variable {s₀ s : State} {port : Bit} {code n : Nat} {ok : Bool}

theorem Keeps.passLease (h : Keeps s₀ s) : Keeps s₀ (passLease s) := h.update

theorem Keeps.rewriteOutbound (h : Keeps s₀ s) : Keeps s₀ (rewriteOutbound s) := by
  refine h.foldl fun t i h1 => ?_
  dsimp only
  split
  · exact h1.hostLink.memory fun hm => wf_writeBytes _ _ hm
  · exact h1

theorem Keeps.underLease (h : Keeps s₀ s) : Keeps s₀ (underLease s) := h.passLease.rewriteOutbound.ite h

theorem Keeps.hostTurn (h : Keeps s₀ s) : Keeps s₀ (hostTurn s port) := h.underLease.countFlits

theorem Keeps.rejectWrite (h : Keeps s₀ s) : Keeps s₀ (rejectWrite s) := h.update

theorem Keeps.flashError (h : Keeps s₀ s) : Keeps s₀ (flashError s code) := h.update

theorem Keeps.flashCommand {program : Bool} (h : Keeps s₀ s) : Keeps s₀ (flashCommand s port program) :=
  h.rejectWrite.ite (h.flashError.ite (h.flashError.ite h.update))

theorem Keeps.execFlashErase (h : Keeps s₀ s) : OutKeeps s₀ (execFlashErase port s) := .next h.hostTurn.flashCommand

theorem Keeps.execFlashProgram (h : Keeps s₀ s) : OutKeeps s₀ (execFlashProgram port s) :=
  .next h.hostTurn.flashCommand

theorem Keeps.setPages {ps : List Nat} {x : FlashPage} (h : Keeps s₀ s) : Keeps s₀ (setPages s ps x) := h.update

theorem Keeps.flashEnd (h : Keeps s₀ s) : Keeps s₀ (flashEnd s) := h.update

theorem Keeps.execFlashEraseDone (h : Keeps s₀ s) : OutKeeps s₀ (execFlashEraseDone ok s) := by
  unfold Machine.execFlashEraseDone
  dsimp only
  refine .next ?_
  split
  · exact h
  · exact h.ite (h.flashEnd.setPages.ite (.flashError (.setPages (.update h.flashEnd))))

theorem Keeps.execFlashProgramDone (h : Keeps s₀ s) : OutKeeps s₀ (execFlashProgramDone ok s) := by
  unfold Machine.execFlashProgramDone
  dsimp only
  refine .next ?_
  split
  · exact h
  · exact h.ite (h.flashEnd.setPages.ite (.flashError (.setPages (.update h.flashEnd))))

theorem Keeps.freshDevice (h : Keeps s₀ s) : Keeps s₀ (freshDevice s) := by
  have h1 : Keeps s₀ (((s.lines.filter (fun e => isHost (64 * e.1))).map Prod.fst).foldl Machine.discardLine s) :=
    h.foldl fun _ _ h1 => h1.discardLine
  refine ⟨fun _ => reservedZero_iff.2 ⟨fun _ => coreZero_reset, fun _ => BitVec.zero_and⟩,
    fun h0 => wf_filter _ (h1.canonical h0)⟩

theorem Keeps.setReason {i : Nat} {bs : List Byte} (h : Keeps s₀ s) : Keeps s₀ (setReason s i bs) := h.update

theorem Keeps.enterStage (h : Keeps s₀ s) : Keeps s₀ (enterStage s n) := h.update

theorem Keeps.bootStage1 (h : Keeps s₀ s) : Keeps s₀ (bootStage1 s).1 :=
  h.update.enterStage.iteFst (h.update.enterStage.iteFst ((h.update.enterStage.setReason.foldl fun _ _ h1 => h1.ite
      h1.modCore).iteFst h.update.enterStage))

theorem Keeps.bootStages (h : Keeps s₀ s) : Keeps s₀ (bootStages s).1 := by
  unfold Machine.bootStages
  extract_lets s1 n image digest s2 s3 s4 k s5 log s6
  have h1 : Keeps s₀ s1 := h.enterStage
  have h4 : Keeps s₀ s4 := h.enterStage.devWrite.setReason.enterStage
  clear_value s1 n s4 k log digest image
  refine .iteFst h1 (.iteFst h4 ?_)
  exact .enterStage (.foldl (.update h4.enterStage) fun _ _ h1 => h1.startNinal)

theorem Keeps.startOnce (h : Keeps s₀ s) : Keeps s₀ (startOnce s).1 := by
  unfold Machine.startOnce
  split
  · exact h.freshDevice.bootStage1.of_eq ‹_›
  · exact (h.freshDevice.bootStage1.of_eq ‹_›).bootStages

theorem Keeps.stopMinimal (h : Keeps s₀ s) : Keeps s₀ (stopMinimal s code) := by
  unfold Machine.stopMinimal
  dsimp only
  exact .update h.setReason

theorem Keeps.countFail {f : StartFail} (h : Keeps s₀ s) : Keeps s₀ (countFail s f) := by
  unfold Machine.countFail
  dsimp only
  exact .update (h.setReason.setReason.setReason.ite h.setReason)

theorem Keeps.boot (h : Keeps s₀ s) : Keeps s₀ (boot n s) := by
  induction n generalizing s with
  | zero => exact h
  | succ n ih =>
    unfold Machine.boot
    split
    next h1 => exact h.startOnce.of_eq h1
    next h1 => exact .ite (h.startOnce.of_eq h1).stopMinimal (ih (h.startOnce.of_eq h1).countFail)

theorem Keeps.execDeviceReset (h : Keeps s₀ s) : OutKeeps s₀ (execDeviceReset s) := .next h.boot

theorem Keeps.execBootstOk (h : Keeps s₀ s) : OutKeeps s₀ (execBootstOk s) :=
  .next (h.ite (h.update.ite (.update h.update)))

theorem Keeps.execFirmwareTimeout (h : Keeps s₀ s) : OutKeeps s₀ (execFirmwareTimeout s) :=
  .next (h.ite (h.stopMinimal.ite h.countFail.boot))

theorem Keeps.execClearFails {x : Byte} (h : Keeps s₀ s) : OutKeeps s₀ (execClearFails port x s) :=
  .next ((h.hostTurn.rejectWrite.ite (h.hostTurn.ite (.boot (.update h.hostTurn)))).ite
      (h.hostTurn.ite h.hostTurn.rejectWrite))

end

/-! ### What `Machine/Control` keeps -/

section
variable {s₀ s : State} {hd : Head} {l : Nat} {join : Option (BitVec 16)} {off : BitVec 24} {a : Src}

theorem ActKeeps.pushFrame {ret : Word} : ActKeeps s₀ (pushFrame l ret) := by
  unfold Machine.pushFrame
  dsimp only
  refine .get (fun _ h1 => ?_)
  split
  · exact .pure
  · exact .ite .raiseAt (.ite .raiseAt (.bind .storeSpad (fun _ => .get (fun _ h2 => .setState h2.modThread))))

theorem ActKeeps.popFrame : ActKeeps s₀ (popFrame l) := by
  unfold Machine.popFrame
  dsimp only
  refine .get (fun _ h1 => ?_)
  split
  · exact .pure
  · exact .ite .raiseAt (.ite .raiseAt (.bind .loadSpad (fun _ => .get
      (fun _ h2 => .bind (.setState h2.modThread) (fun _ => .pure)))))

theorem ActKeeps.setMeeting : ActKeeps s₀ (setMeeting l join) := by
  unfold Machine.setMeeting
  dsimp only
  refine .get (fun _ h1 => ?_)
  split
  · exact .setState h1.modThread
  · exact .pure

theorem ActKeeps.goTo {pc : Word} : ActKeeps s₀ (goTo pc) := .pure

theorem Keeps.execBra (h : Keeps s₀ s) : OutKeeps s₀ (execBra hd off join s) :=
  h.perform (fun _ _ => .bind .setMeeting (fun _ => .goTo))

theorem Keeps.execBrx (h : Keeps s₀ s) : OutKeeps s₀ (execBrx hd a join s) :=
  h.perform (fun _ _ => .bind .setMeeting (fun _ => .goTo))

theorem Keeps.execCall (h : Keeps s₀ s) : OutKeeps s₀ (execCall hd off s) :=
  h.perform (fun _ _ => .bind .pushFrame (fun _ => .goTo))

theorem Keeps.execCallx (h : Keeps s₀ s) : OutKeeps s₀ (execCallx hd a s) :=
  h.perform (fun _ _ => .bind .pushFrame (fun _ => .goTo))

theorem Keeps.execRet (h : Keeps s₀ s) : OutKeeps s₀ (execRet hd s) :=
  h.perform (fun _ _ => .bind .popFrame (fun _ => .goTo))

theorem Keeps.execMeet {join : BitVec 16} (h : Keeps s₀ s) : OutKeeps s₀ (execMeet hd join s) :=
  h.perform (fun _ _ => .bind .setMeeting (fun _ => .pure))

theorem Keeps.afterExit {c n : Nat} (h : Keeps s₀ s) : Keeps s₀ (afterExit s c n) := h.modSlot.sweepRel.meetings

theorem Keeps.execExit (h : Keeps s₀ s) : OutKeeps s₀ (execExit hd s) :=
  .next (h.performOn (fun _ _ => .pure)).afterExit

end

/-! ### What `Machine/Debug` keeps -/

section
variable {s₀ s : State} {hd : Head}

theorem Keeps.execRge {id : BitVec 16} (h : Keeps s₀ s) : OutKeeps s₀ (execRge hd id s) :=
  h.perform (fun _ _ => .get (fun _ h1 => .bind (.setState h1.modThread) (fun _ => .pure)))

theorem Keeps.execRgl (h : Keeps s₀ s) : OutKeeps s₀ (execRgl hd s) :=
  h.perform (fun _ _ => .get (fun _ h1 => .bind (.setState (h1.countBy.ite h1).modThread) (fun _ => .pure)))

theorem Keeps.execBkpt (h : Keeps s₀ s) : OutKeeps s₀ (execBkpt hd s) :=
  h.perform (fun _ _ => .get (fun _ _ => .ite .pure .raise))

theorem Keeps.execSnap (h : Keeps s₀ s) : OutKeeps s₀ (execSnap hd s) :=
  h.perform (fun _ _ => .get (fun _ _ => .ite .waitFor .pure))

theorem Keeps.execTrmk {a : Src} (h : Keeps s₀ s) : OutKeeps s₀ (execTrmk hd a s) :=
  h.perform (fun _ _ => .get (fun _ h1 => .ite (.bind (.setState h1.causal) (fun _ => .pure)) .pure))

end

/-! ### What `Machine/Host` keeps -/

section
variable {s₀ s : State} {port : Bit} {x : DWord} {bs data : List Byte} {a n o off q slot : Nat} {write : Bool}

theorem Keeps.renewLease (h : Keeps s₀ s) : Keeps s₀ (renewLease s) := h.update

theorem Keeps.execRenew (h : Keeps s₀ s) : OutKeeps s₀ (execRenew port s) :=
  .next (h.hostTurn.renewLease.ite h.hostTurn.rejectWrite)

theorem Keeps.writeCounter {n : BitVec 12} (h : Keeps s₀ s) : Keeps s₀ (writeCounter s n x) := h.update

theorem Keeps.execLeaseExpiry (h : Keeps s₀ s) : OutKeeps s₀ (execLeaseExpiry s) := .next h.underLease

theorem Keeps.writeLease (h : Keeps s₀ s) : Keeps s₀ (writeLease s port x) := h.rejectWrite.ite h.update

theorem Keeps.writeFlash (h : Keeps s₀ s) : Keeps s₀ (writeFlash s port off x) :=
  h.rejectWrite.ite (((h.update.ite h).flashCommand.ite ((h.update.ite h).flashCommand.ite (h.update.ite h))).ite
      (h.update.ite h.update))

theorem Keeps.writeRing {i : Nat} (h : Keeps s₀ s) : Keeps s₀ (writeRing s i x) := h.update.drainOut

theorem Keeps.writeListed (h : Keeps s₀ s) : Keeps s₀ (writeListed s off x) :=
  h.update.ite (h.update.ite (h.writeRing.ite ((h.update.ite h).ite
      ((h.update.ite h).ite (h.update.ite (h.update.ite h))))))

theorem Keeps.writeRegister (h : Keeps s₀ s) : Keeps s₀ (writeRegister s port off x) :=
  (h.ite h.rejectWrite).ite ((h.update.boot.ite (h.ite h.rejectWrite)).ite
      (h.writeFlash.ite (h.ite (h.writeLease.ite (h.rejectWrite.ite h.writeListed)))))

theorem Keeps.execRegisterWrite {off : BitVec 20} (h : Keeps s₀ s) : OutKeeps s₀ (execRegisterWrite port off x s) :=
  .next h.hostTurn.writeRegister

theorem Keeps.execOutboundHeadAdvance {head : DWord} (h : Keeps s₀ s) :
    OutKeeps s₀ (execOutboundHeadAdvance port head s) :=
  .next h.hostTurn.writeRegister

theorem Keeps.commitRecord (h : Keeps s₀ s) : Keeps s₀ (commitRecord s q slot) := by
  unfold Machine.commitRecord
  dsimp only
  refine h.queueError.ite ?_
  split
  · exact h.update.tidyQueue.queueError.rejectLaunch
  · exact h.update.tidyQueue

theorem Keeps.launchCommit (h : Keeps s₀ s) : Keeps s₀ (launchCommit s port q slot x) :=
  h.ite (h.rejectWrite.ite h.update.commitRecord)

theorem Keeps.execLaunchCommit {q : BitVec 8} {slot : BitVec 4} (h : Keeps s₀ s) :
    OutKeeps s₀ (execLaunchCommit port q slot x s) :=
  .next h.hostTurn.launchCommit

theorem Keeps.setWindowByte {b : Byte} (h : Keeps s₀ s) : Keeps s₀ (setWindowByte s o b) := h.update

theorem Keeps.hostWriteLine {x : Nat} (h : Keeps s₀ s) : Keeps s₀ (hostWriteLine s x bs) := by
  unfold Machine.hostWriteLine
  dsimp only
  split
  · exact h
  · exact h.homeWrite

theorem Keeps.hostReadLine {x : Nat} (h : Keeps s₀ s) : Keeps s₀ (hostReadLine s x n).1 := by
  unfold Machine.hostReadLine
  dsimp only
  split
  · exact h
  · exact h.homeRead

theorem Keeps.writeWindow (h : Keeps s₀ s) : Keeps s₀ (writeWindow s port o bs) :=
  h.launchCommit.ite (h.foldl fun _ _ h1 => h1.setWindowByte.ite h1)

theorem Keeps.hostWrite (h : Keeps s₀ s) : Keeps s₀ (hostWrite s port a bs) :=
  (h.foldl fun _ _ h1 => h1.hostWriteLine).ite h.writeWindow

theorem Keeps.hostRead (h : Keeps s₀ s) : Keeps s₀ (hostRead s a n).1 := by
  unfold Machine.hostRead
  refine .iteFst ?_ h
  exact Keeps.foldlFst (p := (s, [], false)) h fun _ _ h1 => h1.hostReadLine

theorem Keeps.execHostMemoryAccess {a : BitVec 48} (h : Keeps s₀ s) :
    OutKeeps s₀ (execHostMemoryAccess port write a data s) :=
  .next (h.hostTurn.ite (h.hostTurn.hostWrite.ite (.update h.hostTurn.hostRead)))

theorem Keeps.hostOwnWrite (h : Keeps s₀ s) : Keeps s₀ (hostOwnWrite s a bs) := by
  unfold Machine.hostOwnWrite
  exact h.writeOver.dropLine.dropICache.memory fun hm => wf_writeBytes _ _ hm

theorem Keeps.execHostSnoop {a : BitVec 48} (h : Keeps s₀ s) : OutKeeps s₀ (execHostSnoop a write data s) :=
  .next (h.hostLink.foldl fun _ _ h1 => h1.hostOwnWrite.ite h1.writeBackLine)

theorem Keeps.execHostPortDown (h : Keeps s₀ s) : OutKeeps s₀ (execHostPortDown port s) :=
  .next (.update (h.foldl fun _ _ h1 => h1.discardLine))

end

/-! ### What `Machine/Fabric` keeps -/

section
variable {s₀ s : State} {hm : Hm} {r : UatinReq} {a n : Nat} {bs : List (Bool × Byte)} {p : Fin 36}

theorem Keeps.maskedWrite (h : Keeps s₀ s) : Keeps s₀ (maskedWrite s hm a bs) :=
  h.homeWrite.ite (h.foldl fun _ _ h1 => h1.homeWrite.ite h1)

theorem Keeps.maskedPieces (h : Keeps s₀ s) : Keeps s₀ (maskedPieces s hm a bs n) := by
  induction n generalizing s a bs with
  | zero => exact h
  | succ n ih => exact .ite h (ih h.maskedWrite)

theorem Keeps.uatinReply {data : List Byte} {poison refused : Bool} (h : Keeps s₀ s) :
    Keeps s₀ (uatinReply s r hm data poison refused) :=
  h.update

theorem Keeps.arrivePoison (h : Keeps s₀ s) : Keeps s₀ (arrivePoison r s) := h.ite h.update

theorem Keeps.serveUatin (h : Keeps s₀ s) : Keeps s₀ (serveUatin s r hm) := by
  unfold Machine.serveUatin
  dsimp only
  split
  · exact h.homeRead.uatinReply
  · exact h.maskedPieces.arrivePoison.uatinReply
  · split
    · exact h.uatinReply
    · refine h.uatinReply.ite (.uatinReply ?_)
      split
      · exact h.homeRead.homeWrite
      · exact h.homeRead

theorem Keeps.execUatinRequest (h : Keeps s₀ s) : OutKeeps s₀ (execUatinRequest r s) := by
  unfold Machine.execUatinRequest
  dsimp only
  refine .next (h.ite ?_)
  split
  · exact h.countFlits.holdDesc.serveUatin
  · exact h.countFlits.uatinReply

theorem Keeps.execUatinTimeout (h : Keeps s₀ s) : OutKeeps s₀ (execUatinTimeout n s) :=
  .ite h.execRemoteStoreLost (.next h.update)

theorem Keeps.execFlitReplay (h : Keeps s₀ s) : OutKeeps s₀ (execFlitReplay p s) := .next h.update.countUnit

theorem Keeps.execPortStateChange {st : PortMode} (h : Keeps s₀ s) : OutKeeps s₀ (execPortStateChange p st s) :=
  .next (h.ite h.update)

end

/-! ### What `Machine/System` keeps -/

section
variable {s₀ s : State} {hd : Head} {a b : Src} {c e n p q : Nat} {hm : Hm} {d : Dst} {rs : List Rd}

theorem ActKeeps.acted {b : Bool} : ActKeeps s₀ (acted b) := .resultPush

theorem Keeps.resumeThread {l : Nat} {cause : Byte} (h : Keeps s₀ s) : Keeps s₀ (resumeThread s c n l cause) := by
  unfold Machine.resumeThread
  dsimp only
  split
  · exact h
  · exact h.completeCall.ite h.modThread

theorem Keeps.replayLanes {d : DugEntry} (h : Keeps s₀ s) : Keeps s₀ (replayLanes s c d) :=
  (h.foldl fun _ _ h1 => h1.resumeThread).meetings

theorem Keeps.replayEntry (h : Keeps s₀ s) : Keeps s₀ (replayEntry s c e) := by
  unfold Machine.replayEntry
  split
  · exact h
  · exact h.replayLanes.freeEntry

theorem Keeps.execRply (h : Keeps s₀ s) : OutKeeps s₀ (execRply hd a s) :=
  h.privileged (fun _ _ => .get (fun _ h1 => .bind (.setState h1.replayEntry) (fun _ => .acted)))

theorem Keeps.signalLanes {d : DugEntry} (h : Keeps s₀ s) : Keeps s₀ (signalLanes s c d) :=
  h.foldl fun _ _ h1 => h1.deliverSignal

theorem Keeps.signalEntry (h : Keeps s₀ s) : Keeps s₀ (signalEntry s c e) := by
  unfold Machine.signalEntry
  split
  · exact h
  · exact h.signalLanes.freeEntry

theorem Keeps.execRplySig (h : Keeps s₀ s) : OutKeeps s₀ (execRplySig hd a s) := by
  unfold Machine.execRplySig
  refine h.privileged (fun _ _ => .get (fun _ h1 => ?_))
  split
  · exact .acted
  · exact .ite .acted (.bind (.setState h1.signalEntry) (fun _ => .acted))

theorem Keeps.execRplyDet (h : Keeps s₀ s) : OutKeeps s₀ (execRplyDet hd a b s) :=
  h.privileged (fun _ _ => .get (fun _ h1 => .ite .acted (.bind
      (.setState (h1.foldl fun _ _ h2 => h2.resumeThread).meetings) (fun _ => .acted))))

theorem Keeps.execPark (h : Keeps s₀ s) : OutKeeps s₀ (execPark hd a s) := by
  unfold Machine.execPark
  dsimp only
  refine h.privileged (fun _ _ => .get (fun _ h1 => ?_))
  split
  · exact .acted
  · exact .bind (.setState (h1.foldl fun _ _ h2 => h2.modThread).freeEntry) (fun _ => .acted)

theorem Keeps.execKill (h : Keeps s₀ s) : OutKeeps s₀ (execKill hd a b s) := by
  unfold Machine.execKill
  dsimp only
  refine h.privileged (fun _ _ => .get (fun _ h1 => ?_))
  split
  · exact .acted
  · exact .bind (.setState h1.killTeam) (fun _ => .acted)

theorem Keeps.tlbiContext (h : Keeps s₀ s) : Keeps s₀ (tlbiContext s hm) := h.ite (.update h.tlbInvalidate)

theorem Keeps.tlbiRange {lo : Nat} (h : Keeps s₀ s) : Keeps s₀ (tlbiRange s hm lo n) := h.ite h.tlbInvalidate

theorem Keeps.tlbiEvery (h : Keeps s₀ s) : Keeps s₀ (tlbiEvery s) := by
  unfold Machine.tlbiEvery
  dsimp only
  exact .update h.tlbInvalidate

theorem Keeps.tlbiOnce {f : State → List Nat → State} (h : Keeps s₀ s) (hf : ∀ t x, Keeps s₀ t → Keeps s₀ (f t x)) :
    OutKeeps s₀ (tlbiOnce s hd rs f) := by
  have hp : OutKeeps s₀ (Machine.privileged s (sysShape hd 0x3E6 .zero 0 false) rs (fun l v => do
      let s ← get
      if (activeLanes s hd.guard).headD l = l then setState (f s v)
      pure {})) :=
    h.privileged fun _ _ => .get fun _ h1 => .ite (.bind (.setState (hf _ _ h1)) fun _ => .pure) .pure
  unfold Machine.tlbiOnce
  extract_lets i
  split
  next h1 => exact .next (hp _ h1).finishRun
  next => exact hp

theorem Keeps.execTlbiCtx (h : Keeps s₀ s) : OutKeeps s₀ (execTlbiCtx hd a s) :=
  h.tlbiOnce (fun _ _ h1 => h1.tlbiContext)

theorem Keeps.execTlbiRng {c : Src} (h : Keeps s₀ s) : OutKeeps s₀ (execTlbiRng hd a b c s) :=
  h.tlbiOnce (fun _ _ h1 => h1.tlbiRange)

theorem Keeps.execTlbiAll (h : Keeps s₀ s) : OutKeeps s₀ (execTlbiAll hd s) := h.tlbiOnce (fun _ _ h1 => h1.tlbiEvery)

theorem Keeps.execPoolrdMap (h : Keeps s₀ s) : OutKeeps s₀ (execPoolrdMap hd d a s) :=
  h.privileged (fun _ _ => .get (fun _ _ => .resultPush))

theorem ActKeeps.readPool {off : Nat} : ActKeeps s₀ (readPool p off) :=
  .get (fun _ h1 => .ite (.bind (.setState h1.update) (fun _ => .resultPush)) .resultPush)

theorem Keeps.execPoolrdDat (h : Keeps s₀ s) : OutKeeps s₀ (execPoolrdDat hd d a b s) :=
  h.privileged (fun _ _ => .readPool)

theorem Keeps.disturbPage {runs : Bool} (h : Keeps s₀ s) : Keeps s₀ (disturbPage s c p runs) := h.update.modCore.ite h

theorem Keeps.execPoolwrMap (h : Keeps s₀ s) : OutKeeps s₀ (execPoolwrMap hd a b s) :=
  h.privileged fun _ _ => .get fun _ h1 => .bind (.setState (Keeps.disturbPage (h1.modCore fun _ hk => hk.writeMap)))
    fun _ => .pure

theorem Keeps.execPoolwrDat {c : Src} (h : Keeps s₀ s) : OutKeeps s₀ (execPoolwrDat hd a b c s) :=
  h.privileged fun _ _ => .get fun _ h1 => .bind
    (.setState (Keeps.disturbPage (h1.modCore fun _ hk => .ite hk hk.setPoolWord))) fun _ => .pure

theorem Keeps.execCpyp {e : EBlock} {t : BitVec 6} (h : Keeps s₀ s) : OutKeeps s₀ (execCpyp hd e t s) :=
  h.privileged (fun _ _ => .bind .blockAt (fun _ => .bind .failing
      (fun _ => .get (fun _ _ => .bind .failing (fun _ => .takeEntryFor (fun _ h2 => h2.enqueueCopy.modCopy))))))

theorem Keeps.answerCall {p : Place} {va : DWord} {cid : Nat} {res : List Word} (h : Keeps s₀ s) :
    Keeps s₀ (answerCall s c hm p va cid res).1 := by
  unfold Machine.answerCall
  extract_lets r x s1 s2 s3 y q s4
  have hr : Keeps s₀ r.2 := h.readPlace
  have h3 : Keeps s₀ s3 := hr.releaseRemote.writePlace.writePlace
  have h4 : Keeps s₀ s4 := .ite h3 h3.doneCall
  clear_value r s4 y
  refine .iteFst ?_ hr
  split
  · exact h4.completeCall
  · exact h4

theorem Keeps.execSvresp {c : Src} (h : Keeps s₀ s) : OutKeeps s₀ (execSvresp hd a b c s) :=
  h.privileged (fun _ _ => .bind .checkGlobal (fun _ => .bind .consume
      (fun _ => .get (fun _ h1 => .ite (.bind .throw (fun _ => .bind (.setState h1.answerCall) (fun _ => .acted)))
      (.bind (.setState h1.answerCall) (fun _ => .acted))))))

theorem Keeps.restartCopy (h : Keeps s₀ s) : Keeps s₀ (restartCopy s c n) := h.modCopy.modCore

theorem Keeps.restartMtx (h : Keeps s₀ s) : Keeps s₀ (restartMtx s c n) := h.modMtx.modCore

theorem Keeps.execErst (h : Keeps s₀ s) : OutKeeps s₀ (execErst hd a s) :=
  h.privileged (fun _ _ => .get (fun _ h1 => .ite (.bind (.setState h1.restartCopy) (fun _ => .acted)) .acted))

theorem Keeps.execErstMtx (h : Keeps s₀ s) : OutKeeps s₀ (execErstMtx hd a s) :=
  h.privileged (fun _ _ => .get (fun _ h1 => .ite (.bind (.setState h1.restartMtx) (fun _ => .acted)) .acted))

theorem Keeps.retryNet (h : Keeps s₀ s) : Keeps s₀ (retryNet s c n q) := h.freeNetRecord.modQp.netRun

theorem Keeps.failNet (h : Keeps s₀ s) : Keeps s₀ (failNet s c n q) := h.freeNetRecord.stepFails.netRun

theorem Keeps.execErstNet (h : Keeps s₀ s) : OutKeeps s₀ (execErstNet hd a s) := by
  unfold Machine.execErstNet
  refine h.privileged (fun _ _ => .get (fun _ h1 => ?_))
  split
  · exact .acted
  · exact .bind (.setState h1.retryNet) (fun _ => .acted)

theorem Keeps.execErstFail (h : Keeps s₀ s) : OutKeeps s₀ (execErstFail hd a b s) :=
  h.privileged (fun _ _ => .get (fun _ h1 => .ite (.bind (.setState h1.endCopy) (fun _ => .acted)) .acted))

theorem Keeps.execErstFailMtx (h : Keeps s₀ s) : OutKeeps s₀ (execErstFailMtx hd a b s) :=
  h.privileged (fun _ _ => .get (fun _ h1 => .ite (.bind (.setState h1.endMtx) (fun _ => .acted)) .acted))

theorem Keeps.execErstFailNet (h : Keeps s₀ s) : OutKeeps s₀ (execErstFailNet hd a b s) := by
  unfold Machine.execErstFailNet
  refine h.privileged (fun _ _ => .get (fun _ h1 => ?_))
  split
  · exact .acted
  · exact .bind (.setState h1.failNet) (fun _ => .acted)

theorem Keeps.changeKey {key : Option (BitVec 128)} (h : Keeps s₀ s) : Keeps s₀ (changeKey s key) := by
  unfold Machine.changeKey
  dsimp only
  exact .update (h.foldl fun _ _ h1 => h1.dropLine)

theorem Keeps.keyldOnce {f : List Nat → Option (BitVec 128)} (h : Keeps s₀ s) : OutKeeps s₀ (keyldOnce s hd rs f) :=
  .ite (.next h.begun.trapPath) (h.privileged (fun _ _ => .get (fun _ h1 => .ite
      (.bind (.setState h1.changeKey) (fun _ => .pure)) .pure)))

theorem Keeps.execKeyld (h : Keeps s₀ s) : OutKeeps s₀ (execKeyld hd a s) := h.keyldOnce

theorem Keeps.execKeyldClr (h : Keeps s₀ s) : OutKeeps s₀ (execKeyldClr hd s) := h.keyldOnce

theorem Keeps.execHmchk (h : Keeps s₀ s) : OutKeeps s₀ (execHmchk hd d a s) :=
  h.privileged (fun _ _ => .get (fun _ _ => .resultPush))

end

/-! ### What `Machine/Ninal` keeps -/

section
variable {s₀ s : State} {c l : Nat} {x : Option Nat × DugEntry} {d : DugEntry}

theorem Keeps.requestPage {p : PageReq} (h : Keeps s₀ s) : Keeps s₀ (requestPage s c p) := h.ite h.post.modCore

theorem Keeps.replayPark (h : Keeps s₀ s) : Keeps s₀ (replayPark s c x) := by
  unfold Machine.replayPark
  split
  · exact h.replayEntry
  · exact h.replayLanes

theorem Keeps.signalPark (h : Keeps s₀ s) : Keeps s₀ (signalPark s c x) := by
  unfold Machine.signalPark
  split
  · exact h.signalEntry
  · exact h.signalLanes

theorem Keeps.answerQuery {n : Nat} {hm : Hm} {va : DWord} {id : Word} (h : Keeps s₀ s) :
    Keeps s₀ (answerQuery s c n l hm va id) := by
  unfold Machine.answerQuery
  split
  · exact h.completeCall
  · exact h.completeCall
  · exact h.completeCall
  · exact h.markCall.completeCall

theorem Keeps.serveCall (h : Keeps s₀ s) : Keeps s₀ (serveCall s c d l) := by
  obtain ⟨read, eR, hR⟩ := Keeps.exists_ctxRead s₀
  generalize hF : @Machine.serveCall = F
  delta Machine.serveCall at hF
  rw [eR] at hF
  subst hF
  beta_reduce
  split
  · exact h
  · extract_lets w a
    split
    next h1 => exact (hR h).of_eq h1
    next h1 =>
      have h2 := (hR h).of_eq h1
      exact .ite h2.answerQuery (.ite (.ite h2 h2.completeCall) h2.recordCall.post)

theorem Keeps.serveCalls (h : Keeps s₀ s) : Keeps s₀ (serveCalls s c d) := h.foldl fun _ _ h1 => h1.serveCall

theorem Keeps.repairTiles (h : Keeps s₀ s) : Keeps s₀ (repairTiles s c x) :=
  (h.foldl fun _ _ h1 => h1.foldl fun _ _ h2 => h2.settleTile).replayPark

theorem Keeps.debugPark (h : Keeps s₀ s) : Keeps s₀ (debugPark s c x) := by
  unfold Machine.debugPark
  dsimp only
  refine h.readDescHere.signalPark.ite ?_
  split
  · exact h.readDescHere.ite h.readDescHere.requestStop
  · exact h.readDescHere

theorem Keeps.disposePark (h : Keeps s₀ s) : Keeps s₀ (disposePark s c x) := by
  unfold Machine.disposePark
  split
  · exact h.requestPage
  · exact h.repairTiles
  · exact h.serveCalls
  · exact h.debugPark
  · exact h.signalPark
  · exact h.replayPark.ite h

theorem Keeps.disposeItem {i : NinalItem} (h : Keeps s₀ s) : Keeps s₀ (disposeItem s c i) := by
  unfold Machine.disposeItem
  refine h.ite ?_
  split
  · exact h.disposePark
  · exact h.requestPage.ite h

theorem Keeps.ninalPass (h : Keeps s₀ s) : Keeps s₀ (ninalPass s c) := by
  unfold Machine.ninalPass
  dsimp only
  refine h.ite ?_
  split
  · exact h.modCore.modCore.disposeItem
  · exact h.modCore.foldl fun _ _ h1 => h1.disposeItem

theorem Keeps.execEret {hd : Head} {d : Dst} {a : Src} (h : Keeps s₀ s) : OutKeeps s₀ (execEret hd d a s) := by
  unfold Machine.execEret
  dsimp only
  refine h.privileged (fun _ _ => .ite ?_ .waitFor)
  split
  · exact .pure
  · exact .throw

end

/-! ### What `Machine/Requests` keeps -/

section
variable {s₀ s : State} {w : List DWord}

theorem Keeps.takeEntry {mine : List DWord → Bool} {f : State → List DWord → State} (h : Keeps s₀ s)
    (hf : ∀ t x, Keeps s₀ t → Keeps s₀ (f t x)) :
    Keeps s₀ (takeEntry s mine f) := by
  unfold Machine.takeEntry
  dsimp only
  split
  · exact h
  · exact h.ite (.ite (.update h.hostLink.acquireRemote) ((hf _ _ (.update h.hostLink.acquireRemote)).ite h))

theorem Keeps.serviceReply (h : Keeps s₀ s) : Keeps s₀ (serviceReply s w) := by
  unfold Machine.serviceReply
  dsimp only
  split
  · exact h.doneCall
  · exact h
  · exact h
  · split
    · exact h.place.of_eq ‹_›
    · exact (h.place.of_eq ‹_›).answerCall

theorem Keeps.execServiceReply (h : Keeps s₀ s) : OutKeeps s₀ (execServiceReply s) :=
  .next (h.takeEntry (fun _ _ h1 => h1.serviceReply))

theorem Keeps.restartSavedCall {w : Wg} {t : Nat} {q : Bool} (h : Keeps s₀ s) :
    Keeps s₀ (restartSavedCall s w t q) := by
  obtain ⟨read, eR, hR⟩ := Keeps.exists_ctxRead s₀
  generalize hF : @Machine.restartSavedCall = F
  delta Machine.restartSavedCall at hF
  rw [eR] at hF
  subst hF
  beta_reduce
  extract_lets a
  split
  next h1 => exact (hR h).of_eq h1
  next h1 =>
    have h2 := (hR h).of_eq h1
    exact .ite h2 h2.orphanCall.ctxWrite.ctxWrite

theorem Keeps.execHostServiceRestart (h : Keeps s₀ s) : OutKeeps s₀ (execHostServiceRestart s) := by
  unfold Machine.execHostServiceRestart
  dsimp only
  refine .next (h.ite (.foldl (h.foldl fun _ _ h1 => h1.foldl fun _ _ h2 => ?_) fun _ _ h1 => h1.foldl fun _ _ h2 =>
      h2.restartSavedCall))
  split
  · exact h2
  · exact h2.restartCall.ite h2

theorem Keeps.answerTeam {status : Nat} (h : Keeps s₀ s) : Keeps s₀ (answerTeam s w status) := h.teamAnswer

theorem Keeps.teamRequest (h : Keeps s₀ s) : Keeps s₀ (teamRequest s w) := by
  unfold Machine.teamRequest
  refine h.answerTeam.ite ?_
  split
  · exact h.answerTeam.ite (h.answerTeam.ite (h.killTeam.answerTeam.ite h.requestStop))
  · exact h.update.ite (h.killSaved.answerTeam.ite h.answerTeam)
  · exact h.answerTeam

theorem Keeps.execTeamSave (h : Keeps s₀ s) : OutKeeps s₀ (execTeamSave s) :=
  .next (h.takeEntry (fun _ _ h1 => h1.teamRequest))

theorem Keeps.execTeamSaveSpill (h : Keeps s₀ s) : OutKeeps s₀ (execTeamSaveSpill s) :=
  .next (h.takeEntry (fun _ _ h1 => h1.teamRequest))

theorem Keeps.execTeamRestore (h : Keeps s₀ s) : OutKeeps s₀ (execTeamRestore s) :=
  .next (h.takeEntry (fun _ _ h1 => h1.teamRequest))

theorem Keeps.execTeamKill (h : Keeps s₀ s) : OutKeeps s₀ (execTeamKill s) :=
  .next (h.takeEntry (fun _ _ h1 => h1.teamRequest))

theorem Keeps.resumeTeams {ts : List Nat} (h : Keeps s₀ s) : Keeps s₀ (resumeTeams s ts) :=
  (h.foldl fun _ _ h1 => h1.modTeam).letGo.foldl fun _ _ h1 => h1.foldl fun _ _ h2 => h2.replayPark

theorem Keeps.debugStop (h : Keeps s₀ s) : Keeps s₀ (debugStop s w) := by
  unfold Machine.debugStop
  dsimp only
  split
  · exact h.debugReport
  · refine h.readDescHere.debugReport.ite ?_
    split
    · exact h.readDescHere.debugReport.ite h.readDescHere.requestStop
    · exact h.readDescHere

theorem Keeps.execDebugStopRequest (h : Keeps s₀ s) : OutKeeps s₀ (execDebugStopRequest s) :=
  .next (h.takeEntry (fun _ _ h1 => h1.debugStop.ite h1))

theorem Keeps.execDebugResumeRequest (h : Keeps s₀ s) : OutKeeps s₀ (execDebugResumeRequest s) := by
  unfold Machine.execDebugResumeRequest
  refine .next (h.takeEntry (fun _ _ h1 => ?_))
  split
  · exact h1
  · exact h1.resumeTeams.ite h1

theorem Keeps.revoke {hm : Hm} (h : Keeps s₀ s) : Keeps s₀ (revoke s hm) := by
  unfold Machine.revoke
  extract_lets mine edited s1 s2
  have h2 : Keeps s₀ s2 := (h.foldl fun _ _ h1 => h1.killTeam).resumeTeams
  clear_value s2
  exact .update (h2.watchpoints fun n =>
    getD_map_snd (P := fun x : Word => x &&& 0xFFFFE007 = x)
      (f := fun x : Word => if x.extractLsb' 18 14 = hm then x &&& 0xFFFFFFFE else x)
      BitVec.zero_and (fun x hx => watchWord_clear hx))

theorem Keeps.execRevokeNotice (h : Keeps s₀ s) : OutKeeps s₀ (execRevokeNotice s) :=
  .next (h.takeEntry (fun _ _ h1 => h1.revoke))

theorem Keeps.execContextTlbiRequest (h : Keeps s₀ s) : OutKeeps s₀ (execContextTlbiRequest s) :=
  .next (h.takeEntry (fun _ _ h1 => h1.tlbiContext))

theorem Keeps.attest (h : Keeps s₀ s) : Keeps s₀ (attest s w) := (h.update.devWrite.ite h).post

theorem Keeps.execAttestationRequest (h : Keeps s₀ s) : OutKeeps s₀ (execAttestationRequest s) :=
  .next (h.takeEntry (fun _ _ h1 => h1.attest))

theorem Keeps.resolveEngine {c : Nat} {p : PageReq} {mapped : Bool} (h : Keeps s₀ s) :
    Keeps s₀ (resolveEngine s c p mapped) := by
  unfold Machine.resolveEngine
  refine (h.ite (h.restartCopy.ite h.endCopy)).ite ((h.ite (h.restartMtx.ite h.endMtx)).ite (.ite ?_ h))
  split
  · exact h.retryNet.ite h.failNet
  · exact h

theorem Keeps.pageReply (h : Keeps s₀ s) : Keeps s₀ (pageReply s w) := by
  unfold Machine.pageReply
  dsimp only
  split
  · exact h
  · exact h.ite (h.modCore.ite ((h.modCore.resolveEngine.foldl fun _ _ h1 => h1.replayPark).foldl fun _ _ h1 =>
      h1.replayPark.ite h1.signalPark))

theorem Keeps.execPageReply (h : Keeps s₀ s) : OutKeeps s₀ (execPageReply s) :=
  .next (h.takeEntry (fun _ _ h1 => h1.pageReply))

end

/-! ### What `Machine/Pairs` keeps -/

section
variable {s₀ s : State} {w : List DWord}

theorem Keeps.refuseQp (h : Keeps s₀ s) : Keeps s₀ (refuseQp s w) := h.post

theorem Keeps.lastWrite {hm : Hm} {x : NetStep} (h : Keeps s₀ s) : Keeps s₀ (lastWrite s hm x) := by
  unfold Machine.lastWrite
  split
  · exact ((h.stepWriteBy (fun _ _ _ _ h1 => h1.netLook)).of_eq ‹_›).netConsume
  · exact ((h.stepWriteBy (fun _ _ _ _ h1 => h1.netLook)).of_eq ‹_›).walkConsumed
  · split
    · split
      · exact ((((h.stepWriteBy (fun _ _ _ _ h1 => h1.netLook)).of_eq ‹_›).netReadBy
          (fun _ _ _ _ h1 => h1.netLook)).of_eq ‹_›).netWriteBy (fun _ _ _ _ h1 => h1.netLook)
      · exact (((h.stepWriteBy (fun _ _ _ _ h1 => h1.netLook)).of_eq ‹_›).netReadBy
          (fun _ _ _ _ h1 => h1.netLook)).of_eq ‹_›
    · exact (h.stepWriteBy (fun _ _ _ _ h1 => h1.netLook)).of_eq ‹_›
  · exact (h.stepWriteBy (fun _ _ _ _ h1 => h1.netLook)).of_eq ‹_›

theorem Keeps.closeByHost {q : Nat} (h : Keeps s₀ s) : Keeps s₀ (closeByHost s q) := by
  unfold Machine.closeByHost
  dsimp only
  split
  · exact h
  · exact ((h.cancelPosted.foldl fun _ _ h1 => h1.endReq).foldl fun _ _ h1 => h1.lastWrite).closePair

theorem Keeps.applyQp (h : Keeps s₀ s) : Keeps s₀ (applyQp s w) :=
  h.refuseQp.ite ((h.update.ite h.refuseQp).ite ((h.closeByHost.ite h.refuseQp).ite
      ((h.modQp.ite h.refuseQp).ite ((h.update.ite h.refuseQp).ite (h.update.ite h.refuseQp)))))

theorem Keeps.execQpOpen (h : Keeps s₀ s) : OutKeeps s₀ (execQpOpen s) :=
  .next (h.takeEntry (fun _ _ h1 => h1.applyQp))

theorem Keeps.execQpClose (h : Keeps s₀ s) : OutKeeps s₀ (execQpClose s) :=
  .next (h.takeEntry (fun _ _ h1 => h1.applyQp))

theorem Keeps.execSetReceiveRing (h : Keeps s₀ s) : OutKeeps s₀ (execSetReceiveRing s) :=
  .next (h.takeEntry (fun _ _ h1 => h1.applyQp))

theorem Keeps.execSetMemoryKey (h : Keeps s₀ s) : OutKeeps s₀ (execSetMemoryKey s) :=
  .next (h.takeEntry (fun _ _ h1 => h1.applyQp))

theorem Keeps.execClearMemoryKey (h : Keeps s₀ s) : OutKeeps s₀ (execClearMemoryKey s) :=
  .next (h.takeEntry (fun _ _ h1 => h1.applyQp))

end

/-! ### What `Machine/Replay` keeps -/

section
variable {s₀ s : State} {r : Replay}

theorem Keeps.modReplay {f : Replay → Replay} (h : Keeps s₀ s) : Keeps s₀ (modReplay s f) := h.update

theorem Keeps.setPass {cfg : List DWord} (h : Keeps s₀ s) : Keeps s₀ (setPass s cfg) :=
  h.foldl fun _ _ h1 => h1.modCore fun _ hk => hk.configs

theorem Keeps.beginReplay {w : List DWord} (h : Keeps s₀ s) : Keeps s₀ (beginReplay s w) := by
  unfold Machine.beginReplay
  dsimp only
  split
  · exact h
  · exact h.ite h.update.setPass

theorem Keeps.execKernelReplayRequest (h : Keeps s₀ s) : OutKeeps s₀ (execKernelReplayRequest s) :=
  .next (h.takeEntry (fun _ _ h1 => h1.beginReplay))

theorem Keeps.finishReplay (h : Keeps s₀ s) : Keeps s₀ (finishReplay s r) := h.update.devWrite.post.completeLaunch

theorem Keeps.storeCounts (h : Keeps s₀ s) : Keeps s₀ (storeCounts s r) := h.foldl fun _ _ h1 => h1.devWrite.modCore

theorem Keeps.restorePages (h : Keeps s₀ s) : Keeps s₀ (restorePages s r) :=
  .update (h.dropCode.foldl fun _ _ h1 => h1.ownTraffic.ownTraffic.memory fun hm => wf_pieces hm)

theorem Keeps.nextPass (h : Keeps s₀ s) : Keeps s₀ (nextPass s r) :=
  (h.foldl fun _ _ h1 => h1.dropLine).dropCode.restorePages.modLaunch.modReplay.setPass

theorem Keeps.execReplayPassEnd (h : Keeps s₀ s) : OutKeeps s₀ (execReplayPassEnd s) := by
  unfold Machine.execReplayPassEnd
  dsimp only
  refine .next ?_
  split
  · exact h
  · exact h.ite (h.storeCounts.finishReplay.ite (.ite (.finishReplay (.update h.storeCounts)) h.storeCounts.nextPass))

theorem Keeps.execPreImageCopied {page : Nat} (h : Keeps s₀ s) : OutKeeps s₀ (execPreImageCopied page s) := by
  unfold Machine.execPreImageCopied
  dsimp only
  refine .next ?_
  split
  · exact h
  · exact h.ite (h.modReplay.ite h.ownTraffic.devWrite.modReplay)

theorem Keeps.settleReplay (h : Keeps s₀ s) : Keeps s₀ (settleReplay s) := by
  unfold Machine.settleReplay
  dsimp only
  split
  · exact h
  · exact h.ite h.finishReplay

end

/-! ### What `Machine/SysReg` keeps -/

section
variable {s₀ s : State} {r : SReg} {hd : Head} {x : DWord} {a : Src}

theorem Keeps.writeDbgright {c : Nat} (h : Keeps s₀ s) : Keeps s₀ (writeDbgright s c x) := by
  unfold Machine.writeDbgright
  dsimp only
  split
  · exact h.modCore.modWg.ite h.modCore
  · exact h.modCore

theorem Keeps.writeReg {l : Nat} (h : Keeps s₀ s) : Keeps s₀ (writeReg s l r x) := by
  unfold Machine.writeReg
  extract_lets i hd lo s1
  cases r with
  | fpctl => exact h.modThread
  | fpstat => exact h.modThread
  | barmode => exact h.modWg
  | csp => exact h.modThread
  | amx n => exact h.modWg
  | dgqh => exact h.modCore
  | hmark => exact h.modCore
  | savebase => exact h.modCore
  | ctxtab => exact h.update
  | keysel => exact h.update
  | trcctl => exact h.modCore fun _ hk => hk.setTrcctl
  | dbgright => exact h.writeDbgright
  | racechk => exact .ite (.update (.update h)) h.update
  | wpa n => exact h.update
  | wpc n => exact h.setWatchpoint
  | acfg n => exact h.modCore fun _ hk => hk.setConfig
  | acnt n => exact h.modCore
  | accown n => exact h.modCore fun _ hk => hk.setOwner (and_mask_idem _ _)
  | _ => exact h

theorem Keeps.execMfsr {d : Dst} (h : Keeps s₀ s) : OutKeeps s₀ (execMfsr hd d r s) :=
  .ite (h.privileged (fun _ _ => .get (fun _ _ => .result))) (h.perform (fun _ _ => .get (fun _ _ => .result)))

theorem Keeps.execMtsr (h : Keeps s₀ s) : OutKeeps s₀ (execMtsr hd a r s) :=
  .ite (h.privileged (fun _ _ => .get (fun _ h1 => .bind (.setState h1.writeReg) (fun _ => .pure))))
      (h.perform (fun _ _ => .get (fun _ h1 => .bind (.setState h1.writeReg) (fun _ => .pure))))

theorem Keeps.execRacechkClr (h : Keeps s₀ s) : OutKeeps s₀ (execRacechkClr hd a s) :=
  h.privileged (fun _ _ => .get (fun _ h1 => .bind (.setState h1.writeReg) (fun _ => .pure)))

end

/-! ### What `Machine/Dispatch` keeps -/

section
variable {s₀ s : State}

theorem Keeps.exec {i : Instr} (h : Keeps s₀ s) : OutKeeps s₀ (exec i s) := by
  unfold Machine.exec
  split
  · exact h.execIadd
  · exact h.execIsub
  · exact h.execImul
  · exact h.execImulh
  · exact h.execImad
  · exact h.execImadw
  · exact h.execImin
  · exact h.execImax
  · exact h.execIabs
  · exact h.execIneg
  · exact h.execIsad
  · exact h.execAnd
  · exact h.execOr
  · exact h.execXor
  · exact h.execNot
  · exact h.execAndn
  · exact h.execShl
  · exact h.execShr
  · exact h.execSar
  · exact h.execRotl
  · exact h.execBfx
  · exact h.execBfi
  · exact h.execBrev
  · exact h.execPopc
  · exact h.execClz
  · exact h.execCtz
  · exact h.execLea
  · exact h.execMov
  · exact h.execSel
  · exact h.execIcmp
  · exact h.execIaddI
  · exact h.execIsubI
  · exact h.execImulI
  · exact h.execIminI
  · exact h.execImaxI
  · exact h.execAndI
  · exact h.execOrI
  · exact h.execXorI
  · exact h.execAndnI
  · exact h.execShlI
  · exact h.execShrI
  · exact h.execSarI
  · exact h.execRotlI
  · exact h.execLeaI
  · exact h.execIcmpI
  · exact h.execMovi
  · exact h.execFadd
  · exact h.execFsub
  · exact h.execFmul
  · exact h.execFfma
  · exact h.execFmin
  · exact h.execFmax
  · exact h.execFcmp
  · exact h.execFclass
  · exact h.execFrnd
  · exact h.execFrcp
  · exact h.execFrsq
  · exact h.execFsqrt
  · exact h.execFex2
  · exact h.execFlg2
  · exact h.execFsin
  · exact h.execFcos
  · exact h.execFtanh
  · exact h.execFsig
  · exact h.execHadd2
  · exact h.execHmul2
  · exact h.execHfma2
  · exact h.execHmax2
  · exact h.execHmin2
  · exact h.execDadd
  · exact h.execDmul
  · exact h.execDfma
  · exact h.execDcmp
  · exact h.execDmin
  · exact h.execDmax
  · exact h.execFaddI
  · exact h.execFsubI
  · exact h.execFmulI
  · exact h.execFminI
  · exact h.execFmaxI
  · exact h.execFcmpI
  · exact h.execCvtf
  · exact h.execCvti
  · exact h.execCvtn
  · exact h.execQpk
  · exact h.execQupk
  · exact h.execBscl
  · exact h.execAmax
  · exact h.execCbrg
  · exact h.execShfl
  · exact h.execVote
  · exact h.execBallot
  · exact h.execRedx
  · exact h.execScan
  · exact h.execMatchLanes
  · exact h.execElect
  · exact h.execPsh
  · exact h.execPdrop
  · exact h.execPdup
  · exact h.execPlog
  · exact h.execPmov
  · exact h.execPswp
  · exact h.execLd
  · exact h.execSt
  · exact h.execLds
  · exact h.execSts
  · exact h.execPref
  · exact h.execCctlCln
  · exact h.execCctlInv
  · exact h.execCctlPin
  · exact h.execCctlUnpin
  · exact h.execFence
  · exact h.execCmpst
  · exact h.execIpref
  · exact h.execAtomAdd
  · exact h.execAtomMin
  · exact h.execAtomMax
  · exact h.execAtomAnd
  · exact h.execAtomOr
  · exact h.execAtomXor
  · exact h.execAtomExch
  · exact h.execAtomCas
  · exact h.execAtomAddcl
  · exact h.execAtomSubcl
  · exact h.execAtomFadd
  · exact h.execAtomFmin
  · exact h.execAtomFmax
  · exact h.execAtomMinU
  · exact h.execAtomMaxU
  · exact h.execAtomsAdd
  · exact h.execAtomsMin
  · exact h.execAtomsMax
  · exact h.execAtomsAnd
  · exact h.execAtomsOr
  · exact h.execAtomsXor
  · exact h.execAtomsExch
  · exact h.execAtomsCas
  · exact h.execAtomsAddcl
  · exact h.execAtomsSubcl
  · exact h.execAtomsFadd
  · exact h.execAtomsFmin
  · exact h.execAtomsFmax
  · exact h.execAtomsMinU
  · exact h.execAtomsMaxU
  · exact h.execRedAdd
  · exact h.execRedMin
  · exact h.execRedMax
  · exact h.execRedAnd
  · exact h.execRedOr
  · exact h.execRedXor
  · exact h.execRedAddcl
  · exact h.execRedSubcl
  · exact h.execRedFadd
  · exact h.execRedFmin
  · exact h.execRedFmax
  · exact h.execRedMinU
  · exact h.execRedMaxU
  · exact h.execCpy
  · exact h.execCpys
  · exact h.execCpyx
  · exact h.execStrm
  · exact h.execScnt
  · exact h.execWtag
  · exact h.execWany
  · exact h.execTffr
  · exact h.execTclr
  · exact h.execTrdy
  · exact h.execGresCmt
  · exact h.execGresDsc
  · exact h.execRsv
  · exact h.execRls
  · exact h.execRrec
  · exact h.execMma
  · exact h.execMmas
  · exact h.execAclr
  · exact h.execAld
  · exact h.execAst
  · exact h.execMdrn
  · exact h.execAcmt
  · exact h.execAdsc
  · exact h.execNpost
  · exact h.execNwait
  · exact h.execNcanc
  · exact h.execBra
  · exact h.execBrx
  · exact h.execCall
  · exact h.execCallx
  · exact h.execRet
  · exact h.execMeet
  · exact h.execExit
  · exact h.execBar
  · exact h.execBarn
  · exact h.execTbar
  · exact h.execHudl
  · exact h.execHudlHome
  · exact h.execYieldRun
  · exact h.execSleep
  · exact h.execNop
  · exact h.execTrapSelf
  · exact h.execTrapOne
  · exact h.execTrapWgrp
  · exact h.execTrapTgrp
  · exact h.execSvc
  · exact h.execSvcq
  · exact h.execSigret
  · exact h.execLnch
  · exact h.execLwait
  · exact h.execGctr
  · exact h.execCncl
  · exact h.execRge
  · exact h.execRgl
  · exact h.execBkpt
  · exact h.execSnap
  · exact h.execTrmk
  · exact h.execMfsr
  · exact h.execMtsr
  · exact h.execRacechkClr
  · exact h.execEret
  · exact h.execRply
  · exact h.execRplySig
  · exact h.execRplyDet
  · exact h.execPark
  · exact h.execKill
  · exact h.execTlbiCtx
  · exact h.execTlbiRng
  · exact h.execTlbiAll
  · exact h.execPoolrdMap
  · exact h.execPoolrdDat
  · exact h.execPoolwrMap
  · exact h.execPoolwrDat
  · exact h.execCpyp
  · exact h.execSvresp
  · exact h.execErst
  · exact h.execErstMtx
  · exact h.execErstNet
  · exact h.execErstFail
  · exact h.execErstFailMtx
  · exact h.execErstFailNet
  · exact h.execKeyld
  · exact h.execKeyldClr
  · exact h.execHmchk
  · exact h.execRunSelect
  · exact h.execFetchReturn
  · exact h.execLoadReturn
  · exact h.execStoreAck
  · exact h.execRemoteStoreLost
  · exact h.execWalkStart
  · exact h.execWalkComplete
  · exact h.execCopyStart
  · exact h.execCopySectorDone
  · exact h.execMmaStart
  · exact h.execMmaStep
  · exact h.execDrainSectorDone
  · exact h.execHuddleMove
  · exact h.execSleepExpiry
  · exact h.execNwaitPoll
  · exact h.execSaveForce
  · exact h.execDebugStopForce
  · exact h.execAsyncSignalForce
  · exact h.execPlaceTeam
  · exact h.execStreamAgeing
  · exact h.execCounterSweep
  · exact h.execStallSample
  · exact h.execErrorDiscovery
  · exact h.execHbmScrub
  · exact h.execCoreFence
  · exact h.execSnapshotCommit
  · exact h.execRollback
  · exact h.execLaunchCommit
  · exact h.execRenew
  · exact h.execLeaseExpiry
  · exact h.execClearFails
  · exact h.execFlashErase
  · exact h.execFlashProgram
  · exact h.execFlashEraseDone
  · exact h.execFlashProgramDone
  · exact h.execRegisterWrite
  · exact h.execHostMemoryAccess
  · exact h.execHostSnoop
  · exact h.execDeviceReset
  · exact h.execBootstOk
  · exact h.execFirmwareTimeout
  · exact h.execServiceReply
  · exact h.execTeamSave
  · exact h.execTeamSaveSpill
  · exact h.execTeamRestore
  · exact h.execTeamKill
  · exact h.execDebugStopRequest
  · exact h.execDebugResumeRequest
  · exact h.execRevokeNotice
  · exact h.execKernelReplayRequest
  · exact h.execReplayPassEnd
  · exact h.execContextTlbiRequest
  · exact h.execQpOpen
  · exact h.execQpClose
  · exact h.execSetReceiveRing
  · exact h.execSetMemoryKey
  · exact h.execClearMemoryKey
  · exact h.execAttestationRequest
  · exact h.execPageReply
  · exact h.execUatinRequest
  · exact h.execUatinTimeout
  · exact h.execFlitReplay
  · exact h.execPortStateChange
  · exact h.execNetTakeRequest
  · exact h.execNetPacketReceive
  · exact h.execNetAckReceive
  · exact h.execNetRetransmitTimeout
  · exact h.execThrottleStepDown
  · exact h.execThrottleT3
  · exact h.execThrottleT4
  · exact h.execThrottleLeaveT4
  · exact h.execThrottleStepUp
  · exact h.execTempRefresh
  · exact h.execHostPortDown
  · exact h.execOutboundHeadAdvance
  · exact h.execUnitResetDone
  · exact h.execHostServiceRestart
  · exact h.execPageZeroingDone
  · exact h.execPreImageCopied
  · exact h.execNetRefusalReceive

end

/-! ### What `Machine/Settle` keeps -/

section
variable {s₀ s : State} {c hd : Nat}

theorem Keeps.settleExit (h : Keeps s₀ s) : Keeps s₀ (settleExit s hd) := h.ite (h.ite h.orderWork.modWg).retireWg

theorem Keeps.settleBarriers (h : Keeps s₀ s) : Keeps s₀ (settleBarriers s hd) := by
  unfold Machine.settleBarriers
  exact h.sweepBarriers.ite h

theorem Keeps.settleCalls (h : Keeps s₀ s) : Keeps s₀ (settleCalls s) :=
  h.foldl fun _ _ h1 => h1.foldl fun _ _ h2 => h2.completeCall

theorem Keeps.settleMeetings (h : Keeps s₀ s) : Keeps s₀ (settleMeetings s c) := h.foldl fun _ _ h1 => h1.meetings

theorem Keeps.settleTraps (h : Keeps s₀ s) : Keeps s₀ (settleTraps s c) :=
  h.foldl fun _ _ h1 => h1.foldl fun _ _ h2 => h2.trapWaiters

theorem Keeps.settleTorn (h : Keeps s₀ s) : Keeps s₀ (settleTorn s) := by
  unfold Machine.settleTorn
  dsimp only
  refine .foldl (.foldl (h.update.foldl fun _ _ h1 => h1.foldl fun _ _ h2 => .ite (h2.foldl fun _ _ h3 => ?_) h2) fun
      _ _ h1 => .ite (h1.foldl fun _ _ h2 => ?_) h1) fun _ _ h1 => h1.discardLine
  · split
    · exact .update h3.writePlace
    · exact h3
  · split
    · exact .update h2.writePlace
    · exact h2

theorem Keeps.settlePoison (h : Keeps s₀ s) : Keeps s₀ (settlePoison s) := h.update.foldl fun _ _ h1 => h1.contain

theorem Keeps.settlePages (h : Keeps s₀ s) : Keeps s₀ (settlePages s) := h.update.foldl fun _ _ h1 => h1.badPage

theorem Keeps.settleLog (h : Keeps s₀ s) : Keeps s₀ (settleLog s) := by
  unfold Machine.settleLog
  dsimp only
  refine h.foldl fun _ _ h1 => ?_
  split
  · exact h1
  · exact h1.ite (h1.foldl fun _ _ h2 => h2.update.ctxWrite).modTeam

theorem Keeps.settleChains (h : Keeps s₀ s) : Keeps s₀ (settleChains s) := h.foldl fun _ _ h1 => h1.readChain

theorem Keeps.settle (h : Keeps s₀ s) : Keeps s₀ (settle s) := by
  unfold Machine.settle
  extract_lets s1 s2 s3 s4 s5 s6 s7 s8 s9
  have h2 : Keeps s₀ s2 := h.settlePages.foldl fun _ _ h1 => h1.settleBarriers
  have h3 : Keeps s₀ s3 := h2.foldl fun _ _ h1 => h1.foldl fun _ _ h1 => h1.sweepHuddle
  have h4 : Keeps s₀ s4 := h3.foldl fun _ _ h1 => h1.settleTraps
  have h5 : Keeps s₀ s5 := h4.foldl fun _ _ h1 => h1.settleExit
  have h6 : Keeps s₀ s6 := h5.foldl fun _ _ h1 => h1.settleMeetings
  have h7 : Keeps s₀ s7 := h6.foldl fun _ _ h1 => h1.settleStop
  exact h7.settleCalls.settleChains.cancelSweep.settleLog.settleTorn.settlePoison.settleReplay.noteStreams

end

/-! ### What `Machine/Turn` keeps -/

section
variable {s₀ s : State} {ex : Instr → State → Host.Outcome State Fault Refusal} {c q : Nat}

theorem Keeps.tick (h : Keeps s₀ s) : Keeps s₀ (tick s) := h.update

theorem Keeps.issueOn {r : Run} {l : Nat} {ls : List Nat} {t : Thread} (h : Keeps s₀ s)
    (hf : ∀ x t, Keeps s₀ t → OutKeeps s₀ (ex x t)) :
    OutKeeps s₀ (issueOn ex s c q r l ls t) := by
  unfold Machine.issueOn
  dsimp only
  split
  · exact .next h.update.fetchInstr.trapPath
  · refine .ite (.next h.update.fetchInstr.stallPath) (.ite (.next h.update.fetchInstr.count.modQuarter) ?_)
    split
    · exact hf _ _ h.update.fetchInstr
    · exact .next h.update.fetchInstr.trapPath

theorem Keeps.issueStep (h : Keeps s₀ s) (hf : ∀ x t, Keeps s₀ t → OutKeeps s₀ (ex x t)) :
    OutKeeps s₀ (issueStep ex s c q) := by
  unfold Machine.issueStep
  dsimp only
  refine .ite (.next h) ?_
  split
  · exact .next h
  · refine .ite (.next h) ?_
    split
    · exact .next h.finishRun
    · split
      · exact h.issueOn (fun _ _ h1 => hf _ _ h1)
      · exact .next h

end

/-! ### What `Machine/Step` keeps -/

section
variable {s₀ s : State}

theorem OutKeeps.settled {o : Host.Outcome State Fault Refusal} (h : OutKeeps s₀ o) : OutKeeps s₀ (settled o) := by
  cases o with
  | next t =>
    have ht : Keeps s₀ t := h t rfl
    exact OutKeeps.next ht.settle
  | fault f => exact .fault
  | refused r => exact .refused

theorem Keeps.step (h : Keeps s₀ s) : OutKeeps s₀ (step s) := by
  have ha (r : List Action) : Keeps s₀ { Machine.tick s with agenda := r } := .update h.tick
  unfold Machine.step
  split
  · exact .settled (.issueStep (ha _) fun _ _ h1 => h1.exec)
  · exact .ite (.settled (.exec (ha _))) .fault
  · exact .settled (.next (.writeCounter (ha _)))
  · exact .settled (.next (.ninalPass (ha _)))
  · exact .settled (.next (.refuseNext (ha _)))
  · exact .settled (.next (.changeRemote (ha _)))
  · split
    · exact .settled (h.tick.issueStep fun _ _ h1 => h1.exec)
    · exact .ite (.settled h.tick.exec) (.next h.tick)
    · exact .settled (.next h.tick.writeCounter)
    · exact .settled (.next h.tick.ninalPass)
    · exact .settled (.next h.tick.refuseNext)
    · exact .settled (.next h.tick.changeRemote)

end
end

/-- Settles O53: the whole step keeps what each of its functions keeps. -/
theorem stepsKeepReservedBitsZero : Obligations.StepsKeepReservedBitsZero := by
  intro s t h e
  exact (Keeps.step (Keeps.refl s) t e).reserved h

end Sys2Proof.Laws
end

section
/-! SUPPORT. O44 has no premise that the returning thread is live, and fails without it. -/

namespace Sys2Proof.Laws
open Sys2Proof.Machine Sys2Proof.Claims

/-- A thread that has exited, in lane 0 of core 0's umpire. -/
def exitedThread : Thread :=
  { pc := 0, mr := 0, csp := 0, pred := 0, fpctl := 0, fpstat := 0, age := 0, region := [], depth := 0, home := 0
    tidx := 0, st := .exited, handler := none, cbase := 0, pend52 := false, pend71 := none, pendSince := 0, held := false,
    yielded := false, stopMask := none, kept := [], resume := 0, due := [], pass := none, cmpst := none, escOk := false,
    group := 0, park := none }

/-- Its core, and the frame at 0x10000: of v2, v4 and v5 its SVM names v2 alone. -/
def exitedState : State :=
  { State.reset with
    cores := [(0, { Core.reset with slots := [(16, { Slot.empty with threads := [(0, exitedThread)] })] })]
    mem := [(0x1003C, 1)], seals := (List.range 8).map (fun i => (0x1000 + i, Seal.device)) }

/-- The bytes of that frame: bit 32 of word 7 alone is set. -/
def exitedFrame : List Byte := List.replicate 60 0 ++ 1 :: List.replicate 67 0

/-- The core after the frame is read. -/
def exitedRead : State := (ctxRead exitedState 0 devHm 0x10000 128).1

theorem ctxRead_exitedState : ctxRead exitedState 0 devHm 0x10000 128 = (exitedRead, some exitedFrame) :=
  Prod.ext rfl (by decide +kernel)

theorem slotAt_exitedRead : slotAt exitedRead 0 16 = { Slot.empty with threads := [(0, exitedThread)] } := by
  rfl

theorem rowsApart_exitedRead : RowsApart exitedRead 0 16 := by
  have hv : (slotAt exitedRead 0 16).vmap = [] := by rw [slotAt_exitedRead]; rfl
  unfold RowsApart
  rw [hv]
  refine ⟨rfl, by decide +kernel, ?_, ?_, fun hn => absurd rfl hn⟩
  · intro e he
    cases he
  · intro e he
    cases he

/-- No lane of the slot holds a live thread, so the release of v4 frees v2 too. -/
theorem holdsV_returnSignal_exitedState : holdsV (returnSignal exitedState 0 16 0 0x10000).1 0 16 2 0 = false := by
  decide +kernel

/-- Refutes O44: where the thread has exited and no other lane is live, every release mask covers the live threads, and
the release of v4, which the frame does not name, frees v2, which it does (R123). -/
theorem not_signalReturnRestoresTheThread : ¬ Obligations.SignalReturnRestoresTheThread := by
  unfold Obligations.SignalReturnRestoresTheThread
  intro h
  obtain ⟨-, h1⟩ := h exitedState exitedRead 0 16 0 0x10000 exitedThread exitedFrame rfl ctxRead_exitedState
  obtain ⟨_, -, -, -, -, -, -, -, -, -, -, -, -, h2⟩ := h1 exitedThread (by unfold threadAt; rw [slotAt_exitedRead]; rfl)
  have h3 := h2 rowsApart_exitedRead (by decide) (by decide) _ List.mem_cons_self
  rw [if_pos (by decide)] at h3
  exact absurd h3.1 (by rw [holdsV_returnSignal_exitedState]; decide)

end Sys2Proof.Laws
end

section
/-! SUPPORT. Local HBM: its extent (O46), the registers that accesses go by (O41), and sectors under their keys (O32). -/

namespace Sys2Proof.Laws
open Sys2Proof.Machine Sys2Proof.Claims

/-- Settles O46, by the regions of `homeAddr`. -/
theorem localHbmEndsWhereTheRuleSays : Obligations.LocalHbmEndsWhereTheRuleSays := by
  unfold Obligations.LocalHbmEndsWhereTheRuleSays
  refine ⟨rfl, by decide, fun s pa a h hl => ?_, fun s pa h => ?_, fun s pa h h1 => ?_⟩
  · simp only [isLocal, decide_eq_true_eq] at hl
    unfold homeAddr localSize at h
    dsimp only at h
    split_ifs at h <;> simp only [Option.some.injEq] at h <;> omega
  · have h0 : pa / 2 ^ 48 % 16 = 0 := by omega
    have h1 : pa % 2 ^ 48 = pa := by omega
    simp only [homeAddr, h0, h1, localSize, if_true, h]
  · have h0 : pa / 2 ^ 48 % 16 = 0 := by omega
    have h1 : pa % 2 ^ 48 = pa := by omega
    simp only [homeAddr, h0, h1, localSize, if_true, not_lt.2 h, if_false]

theorem coreAt_modCore (s : State) (c d : Nat) (f : Core → Core) :
    coreAt (modCore s c f) d = if c = d then f (coreAt s c) else coreAt s d := by
  simp only [coreAt, modCore, setCore, getD_set]

/-- A field as a number is the bits of the word there. -/
theorem field_eq_extractLsb' {w : Nat} (x : BitVec w) (lo n : Nat) : field x lo n = (x.extractLsb' lo n).toNat := by
  rw [BitVec.extractLsb'_toNat, Nat.shiftRight_eq_div_pow]
  rfl

/-- Settles O41: a register write is the next state's register, and a descriptor's fields are the bits of its words. -/
theorem hmarkAndCtxtabActAtOnce : Obligations.HmarkAndCtxtabActAtOnce := by
  unfold Obligations.HmarkAndCtxtabActAtOnce
  intro s l x _
  refine ⟨?_, fun ctx => ?_⟩
  · simp only [accessHm, if_true, writeReg, coreAt_modCore]
  · dsimp only
    have hd : readDesc (writeReg s l .ctxtab x) ctx = readDesc { s with ctxtab := x } ctx := rfl
    rw [hd]
    refine ⟨fun hw hp => ?_, fun h => ?_⟩
    · have hc : (descWellFormed (fun i => devWord { s with ctxtab := x } (x.toNat + 256 * ctx + 8 * i)) &&
          !(poisonIn { s with ctxtab := x } (x.toNat + 256 * ctx) 256).isSome) = true := by
        rw [show poisonIn { s with ctxtab := x } (x.toNat + 256 * ctx) 256 = none from hp, Bool.and_eq_true]
        exact ⟨hw, rfl⟩
      unfold readDesc
      rw [if_pos hc]
      simp only [field_eq_extractLsb']
      exact ⟨rfl, rfl, rfl, rfl, rfl, rfl, rfl, rfl, rfl, rfl, rfl, rfl, rfl, rfl, rfl⟩
    · unfold readDesc
      refine if_neg fun hc => ?_
      obtain ⟨hw, hp⟩ := Bool.and_eq_true_iff.1 hc
      rcases h with h | h
      · exact absurd (h.symm.trans hw) (by decide)
      · rw [Bool.not_eq_true'] at hp
        exact absurd (h.symm.trans hp) (by decide)

/-! ## A sector under its key (R42, R44, R49) -/

theorem length_sectorView (s : State) (key : Option (BitVec 128)) (sec : Nat) : (sectorView s key sec).length = 16 := by
  unfold sectorView
  dsimp only
  split
  · exact length_readBytes _ _ _
  · exact length_bytesOf _ _
  · exact length_bytesOf _ _
  · split_ifs
    · exact length_readBytes _ _ _
    · exact length_bytesOf _ _
  · exact length_bytesOf _ _
  · exact length_bytesOf _ _

theorem length_localView (s : State) (key : Option (BitVec 128)) (a n : Nat) : (localView s key a n).length = n := by
  induction n generalizing a with
  | zero => rfl
  | succ n ih => simp [localView, ih]

theorem getD_localView (s : State) (key : Option (BitVec 128)) (a n i : Nat) (h : i < n) :
    (localView s key a n).getD i 0 = (sectorView s key ((a + i) / 16)).getD ((a + i) % 16) 0 := by
  induction n generalizing a i with
  | zero => omega
  | succ n ih =>
    cases i with
    | zero => rfl
    | succ i =>
      rw [localView, List.getD_cons_succ, ih (a + 1) i (by omega)]
      congr 2 <;> omega

/-- What a sector reads as rests on its stored bytes, its seal and the device's tweak alone. -/
theorem sectorView_congr {s t : State} {key : Option (BitVec 128)} {sec : Nat}
    (hm : readBytes t.mem (16 * sec) 16 = readBytes s.mem (16 * sec) 16)
    (hs : Tab.get? t.seals sec = Tab.get? s.seals sec) (hh : t.host.tweak = s.host.tweak) :
    sectorView t key sec = sectorView s key sec := by
  unfold sectorView
  rw [hm, hs, hh]

/-- A sector under the key that it was written under reads as its stored bytes. -/
theorem sectorView_sealed {s : State} {key : Option (BitVec 128)} {sec : Nat}
    (h : Tab.get? s.seals sec = some (sealOf key)) : sectorView s key sec = readBytes s.mem (16 * sec) 16 := by
  unfold sectorView
  cases key with
  | none => rw [h]; rfl
  | some k => rw [h]; exact if_pos rfl

section
variable {s : State} {key : Option (BitVec 128)} {a : Nat} {bs : List Byte} (hl : locked s a = false)
include hl

theorem writeInSector_seal (sec : Nat) :
    Tab.get? (writeInSector s key a bs).seals sec = if a / 16 = sec then some (sealOf key) else Tab.get? s.seals sec := by
  simp only [writeInSector, hl, Bool.false_eq_true, if_false, get?_set]

theorem writeInSector_tweak : (writeInSector s key a bs).host.tweak = s.host.tweak := by
  simp only [writeInSector, hl, Bool.false_eq_true, if_false]

variable (hn : a % 16 + bs.length ≤ 16)
include hn

/-- A byte of memory after a write in a sector: a written one, another of the sector as the writer's key reads it, or one
outside as it was. -/
theorem readByte_writeInSector (j : Nat) :
    readByte (writeInSector s key a bs).mem j =
      if a ≤ j ∧ j < a + bs.length then bs.getD (j - a) 0
      else if j / 16 = a / 16 then (sectorView s key (a / 16)).getD (j % 16) 0
      else readByte s.mem j := by
  simp only [writeInSector, hl, Bool.false_eq_true, if_false, readByte_writeBytes]
  split_ifs with hj h16 hs hs
  · rfl
  · omega
  · rfl
  · rw [readByte_writeBytes, length_sectorView, if_pos (by omega), show j - 16 * (a / 16) = j % 16 by omega]
  · rw [readByte_writeBytes, length_sectorView, if_neg (by omega)]

theorem sectorView_writeInSector_other (sec : Nat) (k : Option (BitVec 128)) (h : sec ≠ a / 16) :
    sectorView (writeInSector s key a bs) k sec = sectorView s k sec := by
  refine sectorView_congr (readBytes_congr _ _ _ _ fun j h1 h2 => ?_) ?_ (writeInSector_tweak hl)
  · rw [readByte_writeInSector hl hn, if_neg (by omega), if_neg (by omega)]
  · rw [writeInSector_seal hl, if_neg (Ne.symm h)]

/-- Under its key a byte reads back what was written, and another byte what it read before. -/
theorem getD_sectorView_writeInSector (b : Nat) :
    (sectorView (writeInSector s key a bs) key (b / 16)).getD (b % 16) 0 =
      if a ≤ b ∧ b < a + bs.length then bs.getD (b - a) 0 else (sectorView s key (b / 16)).getD (b % 16) 0 := by
  by_cases hb : b / 16 = a / 16
  · rw [sectorView_sealed (by rw [writeInSector_seal hl, hb, if_pos rfl]), getD_readBytes, if_pos (by omega),
      show 16 * (b / 16) + b % 16 = b by omega, readByte_writeInSector hl hn, if_pos hb, hb]
  · rw [sectorView_writeInSector_other hl hn _ _ hb, if_neg (by omega)]

end

/-- Settles O32: a write leaves the writer's key as the sector's seal, over the bytes that the key reads. -/
theorem sectorWritesReadBackUnderTheirKey : Obligations.SectorWritesReadBackUnderTheirKey := by
  unfold Obligations.SectorWritesReadBackUnderTheirKey
  intro s key a bs hn hne hl
  refine ⟨?_, fun b hb => ?_, fun b hb => ?_, ?_⟩
  · refine List.ext_getElem (length_localView _ _ _ _) fun i h1 h2 => ?_
    rw [← List.getD_eq_getElem _ 0 h1, ← List.getD_eq_getElem _ 0 h2, getD_localView _ _ _ _ _ h2,
      getD_sectorView_writeInSector hl hn, if_pos (by omega), Nat.add_sub_cancel_left]
  · simp only [localView, getD_sectorView_writeInSector hl hn, if_neg (show ¬(a ≤ b ∧ b < a + bs.length) by omega)]
  · have hpos : 0 < bs.length := List.length_pos_iff.2 hne
    rw [readByte_writeInSector hl hn, if_neg (by omega), if_neg hb]
  · rintro k k' rfl hk
    have hseal : ∀ key', Tab.get? (writeInSector s key' a bs).seals (a / 16) = some (sealOf key') := fun key' => by
      rw [writeInSector_seal hl, if_pos rfl]
    refine ⟨?_, ?_, fun j => ?_⟩
    · unfold sectorView
      rw [hseal]
      exact if_neg (Ne.symm hk)
    · unfold sectorView
      rw [hseal]
      rfl
    · unfold sectorView
      rw [hseal]
      rfl

end Sys2Proof.Laws
end

section
/-! SUPPORT. What an invalidation of translations leaves and removes (O45). -/

namespace Sys2Proof.Laws
open Sys2Proof.Machine Sys2Proof.Claims

/-! ## Traffic on the links (R290, R434, R444) -/

/-- A change of the counters of units and of the host-facing state alone: a transaction that is counted and sent. -/
def Traffic (s t : State) : Prop :=
  ∃ units host flitSeq, t = { s with units := units, host := host, flitSeq := flitSeq }

namespace Traffic
variable {s₀ s : State}

theorem refl (s : State) : Traffic s s := ⟨_, _, _, rfl⟩

theorem update (h : Traffic s₀ s) {units host flitSeq} :
    Traffic s₀ { s with units := units, host := host, flitSeq := flitSeq } := by
  obtain ⟨_, _, _, rfl⟩ := h
  exact ⟨_, _, _, rfl⟩

theorem ite {p : Prop} [Decidable p] {t : State} (hs : Traffic s₀ s) (ht : Traffic s₀ t) :
    Traffic s₀ (if p then s else t) := by
  split_ifs
  · exact hs
  · exact ht

section
variable {u e n ln a size : Nat} {hm : Hm} {op : UatinOp} {mask : DWord} {data : List Byte}

theorem countUnit (h : Traffic s₀ s) : Traffic s₀ (countUnit s u e n) := h.update

theorem countStack (h : Traffic s₀ s) : Traffic s₀ (countStack s ln e n) := h.countUnit.ite h

theorem countFlits (h : Traffic s₀ s) : Traffic s₀ (countFlits s u) := by
  unfold Machine.countFlits
  dsimp only
  exact (h.countUnit.countUnit.ite h.countUnit.countUnit.countUnit).update

theorem hostLink (h : Traffic s₀ s) : Traffic s₀ (hostLink s) := h.countFlits

theorem sendUatin (h : Traffic s₀ s) : Traffic s₀ (sendUatin s hm op a size mask data) := h.ite h.countFlits.update

theorem fetchHome (h : Traffic s₀ s) : Traffic s₀ (fetchHome s hm a n) := h.sendUatin.ite (h.hostLink.ite h.countStack)

theorem storeHome (h : Traffic s₀ s) : Traffic s₀ (storeHome s hm ln mask data) :=
  h.sendUatin.ite (h.hostLink.ite h.countStack)

end
end Traffic

/-! ## Translations that the V9 holds (R32, R36, R37) -/

theorem getD_map_values {α : Type} (t : Tab α) (f : α → α) (k : Nat) (d : α) (hd : f d = d) :
    Tab.getD (t.map (fun e => (e.1, f e.2))) k d = f (Tab.getD t k d) := by
  induction t with
  | nil => exact hd.symm
  | cons e r ih =>
    obtain ⟨i, y⟩ := e
    simp only [List.map_cons, Tab.getD, get?_cons] at ih ⊢
    split_ifs
    · rfl
    · exact ih

/-- A change that leaves the translations, table pointers and descriptors that the V9 holds as they are. -/
structure SameTlbs (s t : State) : Prop where
  core : ∀ c, (coreAt t c).tlb = (coreAt s c).tlb
  court : t.courtTlb = s.courtTlb
  net : t.netTlb = s.netTlb
  pointers : t.walkCache = s.walkCache
  descs : t.descs = s.descs

namespace SameTlbs
variable {s₀ s : State}

theorem refl (s : State) : SameTlbs s s := ⟨fun _ => rfl, rfl, rfl, rfl, rfl⟩

theorem foldl {α : Type} {f : State → α → State} {l : List α} (h : SameTlbs s₀ s)
    (hf : ∀ s x, SameTlbs s₀ s → SameTlbs s₀ (f s x)) : SameTlbs s₀ (l.foldl f s) := by
  induction l generalizing s with
  | nil => exact h
  | cons x r ih => exact ih (hf s x h)

theorem traffic {t : State} (h : SameTlbs s₀ s) (ht : Traffic s t) : SameTlbs s₀ t := by
  obtain ⟨_, _, _, rfl⟩ := ht
  exact ⟨h.core, h.court, h.net, h.pointers, h.descs⟩

theorem lines (h : SameTlbs s₀ s) {lines hbmBad} : SameTlbs s₀ { s with lines := lines, hbmBad := hbmBad } :=
  ⟨h.core, h.court, h.net, h.pointers, h.descs⟩

theorem memory (h : SameTlbs s₀ s) {mem} : SameTlbs s₀ { s with mem := mem } :=
  ⟨h.core, h.court, h.net, h.pointers, h.descs⟩

theorem pending (h : SameTlbs s₀ s) {stores} : SameTlbs s₀ { s with stores := stores } :=
  ⟨h.core, h.court, h.net, h.pointers, h.descs⟩

theorem modCore {c : Nat} {f : Core → Core} (h : SameTlbs s₀ s) (hf : ∀ k, (f k).tlb = k.tlb) :
    SameTlbs s₀ (modCore s c f) := by
  refine ⟨fun d => ?_, h.court, h.net, h.pointers, h.descs⟩
  rw [coreAt_modCore, ← h.core d]
  split_ifs with hd
  · rw [hf, hd]
  · rfl

theorem writeBackLine {ln : Nat} (h : SameTlbs s₀ s) : SameTlbs s₀ (writeBackLine s ln) := by
  unfold Machine.writeBackLine
  split
  · exact h
  · split_ifs
    · exact h
    · refine lines (foldl (memory (h.traffic (Traffic.storeHome (Traffic.countUnit (Traffic.refl s))))) ?_)
      intro t c ht
      exact ht.modCore fun _ => rfl

theorem settleStores {p : Hm → Bool} (h : SameTlbs s₀ s) : SameTlbs s₀ (settleStores s p) :=
  pending (foldl h fun _ _ h1 => h1.writeBackLine)

end SameTlbs

section
variable (s : State) (hms : Hm → Bool) (gone : TlbEntry → Bool) (ptr : WalkPtr → Bool)

theorem tlb_tlbInvalidate (c : Nat) :
    (coreAt (tlbInvalidate s hms gone ptr) c).tlb = (coreAt s c).tlb.filter (fun x => !gone x) := by
  rw [← (SameTlbs.refl s).settleStores.core c]
  exact congrArg Core.tlb
    (getD_map_values _ (fun k : Core => { k with tlb := k.tlb.filter (fun x => !gone x) }) c Core.reset rfl)

theorem courtTlb_tlbInvalidate (k : Nat) :
    Tab.getD (tlbInvalidate s hms gone ptr).courtTlb k [] = (Tab.getD s.courtTlb k []).filter (fun x => !gone x) := by
  rw [← (SameTlbs.refl s).settleStores.court]
  exact getD_map_values _ (fun l : List TlbEntry => l.filter (fun x => !gone x)) k [] rfl

theorem netTlb_tlbInvalidate : (tlbInvalidate s hms gone ptr).netTlb = s.netTlb.filter (fun x => !gone x) :=
  congrArg (List.filter _) (SameTlbs.refl s).settleStores.net

theorem walkCache_tlbInvalidate : (tlbInvalidate s hms gone ptr).walkCache = s.walkCache.filter (fun p => !ptr p) :=
  congrArg (List.filter _) (SameTlbs.refl s).settleStores.pointers

theorem descs_tlbInvalidate : (tlbInvalidate s hms gone ptr).descs = s.descs :=
  (SameTlbs.refl s).settleStores.descs

end

theorem tlbiContext_eq (s : State) {hm : Hm} (h : isContext hm = true) :
    let t := tlbInvalidate s (fun x => x == hm) (fun e => e.hm == hm) (fun p => p.hm == hm)
    tlbiContext s hm = { t with descs := Tab.del t.descs hm.toNat, ended := t.ended.filter (fun n => n != hm.toNat) } := by
  simp only [tlbiContext, h, Bool.not_true, Bool.false_eq_true, if_false]

theorem tlbiRange_zero (s : State) (hm : Hm) (lo : Nat) : tlbiRange s hm lo 0 = s := by
  simp [tlbiRange]

theorem tlbiRange_eq (s : State) {hm : Hm} (lo : Nat) {n : Nat} (h : isContext hm = true) (hn : 0 < n) :
    tlbiRange s hm lo n =
      tlbInvalidate s (fun x => x == hm) (fun e => e.hm == hm && meets e lo n) (fun p => p.hm == hm && ptrMeets p lo n) := by
  have h0 : (n == 0) = false := beq_eq_false_iff_ne.2 (by omega)
  simp only [tlbiRange, h, h0, Bool.not_true, Bool.or_self, Bool.false_eq_true, if_false]

theorem mem_filter_other_hm {hm : Hm} {e : TlbEntry} {l : List TlbEntry} {q : TlbEntry → Bool} (he : e.hm ≠ hm) :
    e ∈ l.filter (fun x => !(x.hm == hm && q x)) ↔ e ∈ l := by
  simp [he]

theorem not_mem_filter_hm {hm : Hm} {e : TlbEntry} {l : List TlbEntry} {q : TlbEntry → Bool} (he : e.hm = hm)
    (hq : q e = true) : e ∉ l.filter (fun x => !(x.hm == hm && q x)) := by
  simp [he, hq]

/-- Settles O45: an invalidation filters each table by the entry's hallmark. -/
theorem tlbiSparesOtherContexts : Obligations.TlbiSparesOtherContexts := by
  unfold Obligations.TlbiSparesOtherContexts
  intro s hm hc
  dsimp only
  rw [tlbiContext_eq s hc]
  refine ⟨fun c e => ?_, fun k e => ?_, fun e => ?_, fun e => ?_, ?_, fun x hx => ?_, fun lo n => ?_⟩
  · show e ∈ (coreAt (tlbInvalidate s (fun x => x == hm) (fun e => e.hm == hm) (fun p => p.hm == hm)) c).tlb ↔ _
    simp [tlb_tlbInvalidate]
  · simp [courtTlb_tlbInvalidate]
  · simp [netTlb_tlbInvalidate]
  · simp [walkCache_tlbInvalidate]
  · simp
  · simp [descs_tlbInvalidate, Ne.symm hx]
  · rcases Nat.eq_zero_or_pos n with rfl | hn
    · rw [tlbiRange_zero]
      exact ⟨fun _ _ => ⟨fun _ => Iff.rfl, fun _ => Iff.rfl, Iff.rfl⟩, fun _ _ => Iff.rfl, rfl,
        fun h => absurd h (lt_irrefl 0)⟩
    · rw [tlbiRange_eq s lo hc hn]
      simp only [tlb_tlbInvalidate, courtTlb_tlbInvalidate, netTlb_tlbInvalidate, walkCache_tlbInvalidate]
      refine ⟨fun e he => ⟨fun _ => mem_filter_other_hm he, fun _ => mem_filter_other_hm he, mem_filter_other_hm he⟩,
        fun p hp => by simp [hp], descs_tlbInvalidate .., fun _ => ⟨fun e he hq =>
          ⟨fun _ => not_mem_filter_hm he hq, fun _ => not_mem_filter_hm he hq, not_mem_filter_hm he hq⟩, fun p hp hq => ?_⟩⟩
      simp [hp, hq]

end Sys2Proof.Laws
end

section
/-! SUPPORT. Each event of the issue, walk, huddle and timer tables does what the table says (O11). -/

namespace Sys2Proof.Laws
open Sys2Proof.Machine Sys2Proof.Claims

theorem takes_eq_some {c : Prop} [Decidable c] {t u : State} : takes c t = some u ↔ c ∧ t = u := by
  unfold takes
  split_ifs with h
  · simp [h]
  · simp [h]

theorem modSlot_congr (s : State) (c n : Nat) (f g : Slot → Slot) (h : f (slotAt s c n) = g (slotAt s c n)) :
    modSlot s c n f = modSlot s c n g := by
  unfold modSlot modCore
  exact congrArg (fun w => setCore s c { coreAt s c with slots := Tab.set (coreAt s c).slots n w }) h

theorem storeLost_eq_lostStore (s : State) (n : Nat) (p : PendStore) (back : Bool) :
    storeLost s n p back = lostStore s n p back := rfl

section
variable {s t : State}

theorem execRunSelect_takes {c : Fin 192} {q : Fin 4} (h : issueEvent s (.runSelect c q) = some t) :
    execRunSelect c q s = .next t := by
  simp only [issueEvent] at h
  unfold execRunSelect
  refine congrArg _ ?_
  dsimp only
  split_ifs at h with h0
  rw [if_neg (by simpa [or_assoc] using h0)]
  cases hn : chooseSlot s c.val q.val with
  | none => simp only [hn, reduceCtorEq] at h
  | some n =>
    simp only [hn, Option.map_eq_some_iff] at h
    obtain ⟨p, hp, rfl⟩ := h
    simp only [hp]

theorem execFetchReturn_takes {c : Fin 192} {q : Fin 4} (h : issueEvent s (.fetchReturn c q) = some t) :
    execFetchReturn c q s = .next t := by
  simp only [issueEvent] at h
  unfold execFetchReturn
  refine congrArg _ ?_
  cases hf : (quarterAt s c.val q.val).frozen with
  | none => simp only [hf, reduceCtorEq] at h
  | some ls =>
    simp only [hf, Option.some.injEq] at h
    exact h

theorem execLoadReturn_takes {c : Fin 192} {n : Fin 17} (h : issueEvent s (.loadReturn c n) = some t) :
    execLoadReturn c n s = .next t := by
  obtain ⟨hl, rfl⟩ := takes_eq_some.1 h
  have h1 : max 1 (slotAt s c.val n.val).loads.length = (slotAt s c.val n.val).loads.length :=
    max_eq_right (List.length_pos_iff.2 hl)
  refine congrArg _ (modSlot_congr _ _ _ _ _ ?_)
  exact congrArg (fun k => { slotAt s c.val n.val with
    loads := (slotAt s c.val n.val).loads.eraseIdx (Config.pick s.fresh % k) }) h1

theorem execStoreAck_takes {n : Nat} (h : issueEvent s (.storeAck n) = some t) : execStoreAck n s = .next t := by
  simp only [issueEvent, Option.map_eq_some_iff] at h
  obtain ⟨p, hp, rfl⟩ := h
  unfold execStoreAck
  simp only [hp, storeLost_eq_lostStore]

theorem execRemoteStoreLost_takes {n : Nat} (h : issueEvent s (.remoteStoreLost n) = some t) :
    execRemoteStoreLost n s = .next t := by
  simp only [issueEvent, lateStore] at h
  unfold execRemoteStoreLost
  refine congrArg _ ?_
  cases hp : s.stores[n]? with
  | none => simp only [hp, reduceCtorEq] at h
  | some p =>
    simp only [hp] at h
    split_ifs at h with h0
    obtain ⟨hr, hl⟩ := h0
    simp only [Option.some.injEq] at h
    simp only [hr, Bool.not_true, Bool.false_eq_true, false_or, not_lt.2 hl, if_false, storeLost_eq_lostStore]
    exact h

theorem execWalkStart_takes {w : Fin 64} (h : issueEvent s (.walkStart w) = some t) : execWalkStart w s = .next t := by
  simp only [issueEvent] at h
  unfold execWalkStart
  refine congrArg _ ?_
  split_ifs at h with h0
  rw [if_neg h0]
  obtain ⟨x, hx, rfl⟩ := Option.map_eq_some_iff.1 h
  simp only [hx]

theorem execWalkComplete_takes {w : Fin 64} (h : issueEvent s (.walkComplete w) = some t) :
    execWalkComplete w s = .next t := by
  simp only [issueEvent] at h
  unfold execWalkComplete
  refine congrArg _ ?_
  cases hm : Tab.get? s.walkers w.val with
  | none => simp only [hm, reduceCtorEq] at h
  | some m =>
    simp only [hm] at h
    dsimp only
    generalize walk { s with walkers := Tab.del s.walkers w.val } m.hm m.va m.kind = r at h ⊢
    obtain ⟨u, o | e⟩ := r
    · exact Option.some.inj h
    · exact Option.some.inj h

theorem execHuddleMove_takes {c : Fin 192} {n : Fin 16} (h : issueEvent s (.huddleMove c n) = some t) :
    execHuddleMove c n s = .next t := by
  simp only [issueEvent] at h
  unfold execHuddleMove
  refine congrArg _ ?_
  dsimp only
  by_cases h0 : (huddleSlots s c.val n.val).any (fun m => !(slotAt s c.val m).loads.isEmpty) ∨
      moveBarred s (threadsIn s c.val (huddleSlots s c.val n.val))
  · rw [if_pos h0] at h
    cases h
  rw [if_neg h0] at h
  rw [if_neg (by simpa using h0)]
  generalize ((threadsIn s c.val (huddleSlots s c.val n.val)).map (fun t => huddleGoal t.2.2)).dedup = goals at h ⊢
  split at h
  · exact Option.some.inj h
  · exact Option.some.inj h
  · cases h

theorem execSleepExpiry_takes {c : Fin 192} {n : Fin 17} {l : Fin 32} (h : issueEvent s (.sleepExpiry c n l) = some t) :
    execSleepExpiry c n l s = .next t := by
  simp only [issueEvent] at h
  unfold execSleepExpiry
  refine congrArg _ ?_
  cases hth : threadAt s c.val n.val l.val with
  | none => simp only [hth, reduceCtorEq] at h
  | some th =>
    simp only [hth] at h ⊢
    generalize th.st = st at h ⊢
    split at h
    · obtain ⟨⟨hlate, hheld⟩, rfl⟩ := takes_eq_some.1 h
      simp only [not_lt.2 hlate, hheld, Bool.false_eq_true, or_self, if_false]
    · cases h

theorem execNwaitPoll_takes {c : Fin 192} {n : Fin 17} {l : Fin 32} (h : issueEvent s (.nwaitPoll c n l) = some t) :
    execNwaitPoll c n l s = .next t := by
  simp only [issueEvent] at h
  unfold execNwaitPoll
  refine congrArg _ ?_
  cases hth : threadAt s c.val n.val l.val with
  | none => simp only [hth, reduceCtorEq] at h
  | some th =>
    simp only [hth] at h ⊢
    generalize th.st = st at h ⊢
    split at h
    · exact Option.some.inj h
    · cases h

theorem execAsyncSignalForce_takes {c : Fin 192} {n : Fin 16} {l : Fin 32}
    (h : issueEvent s (.asyncSignalForce c n l) = some t) : execAsyncSignalForce c n l s = .next t := by
  simp only [issueEvent] at h
  unfold execAsyncSignalForce
  refine congrArg _ ?_
  cases hth : threadAt s c.val n.val l.val with
  | none => simp only [hth, reduceCtorEq] at h
  | some th =>
    simp only [hth] at h ⊢
    obtain ⟨⟨hdue, hmay⟩, rfl⟩ := takes_eq_some.1 h
    exact if_pos (Bool.and_eq_true_iff.2 ⟨decide_eq_true hdue, hmay⟩)

end

/-- Settles O11, event by event. -/
theorem issueEventsTakeEffect : Obligations.IssueEventsTakeEffect := by
  unfold Obligations.IssueEventsTakeEffect
  intro s t i h
  cases i with
  | runSelect c q => exact execRunSelect_takes h
  | fetchReturn c q => exact execFetchReturn_takes h
  | loadReturn c n => exact execLoadReturn_takes h
  | storeAck n => exact execStoreAck_takes h
  | remoteStoreLost n => exact execRemoteStoreLost_takes h
  | walkStart w => exact execWalkStart_takes h
  | walkComplete w => exact execWalkComplete_takes h
  | huddleMove c n => exact execHuddleMove_takes h
  | sleepExpiry c n l => exact execSleepExpiry_takes h
  | nwaitPoll c n l => exact execNwaitPoll_takes h
  | asyncSignalForce c n l => exact execAsyncSignalForce_takes h
  | _ => cases h

end Sys2Proof.Laws
end

section
/-! SUPPORT. A park does not outlive a signal that kills the team at the same safe point (O20). -/

namespace Sys2Proof.Laws
open Sys2Proof.Machine Sys2Proof.Claims

/-- A ready thread of workgroup 0. -/
def readyThread : Thread := { exitedThread with st := .ready }

/-- Two lanes of a workgroup without a context: lane 0 passes a guard on predicate 0, and lane 1, which does not, has a
kill request (cause 0x52) to take at the next safe point. -/
def signalledState : State :=
  { State.reset with
    cores := [(0, { Core.reset with slots := [(0, { Slot.empty with
      wg := some 0, threads := [(0, { readyThread with pred := 1 }), (1, { readyThread with pend52 := true })] })] })]
    wgs := [(0, { Wg.empty with slots := [0] })]
    teams := [(0, freshTeam 0 0 0 [0])]
    iss := { core := 0, quarter := 0, slot := 0, lanes := 3, pc := 0 } }

/-- The head of an instruction at a safe point, guarded by predicate 0. -/
def safePointHead : Head :=
  { guard := .p false 0, eor := false, sp := some { vlive := 0, slive := 0, alive := 0, tags := false, guards := false }
    stall := 0, yld := false }

/-- A store of 4 bytes to address 2. -/
def misalignedStore : Instr := .st safePointHead .zero 2 .zero .w32 .plain .none

/-- Lane 0 alone performs the store. -/
theorem activeLanes_signalledState : activeLanes signalledState safePointHead.guard = [0] := by decide

theorem readable_misalignedStore :
    Readable signalledState (bareShape safePointHead 0x281) [rdI .zero 2, rdI .zero 1] := by
  unfold Readable
  decide

/-- Lane 0 has parked, and the signal has then killed the team and dropped the park (R239, R250). -/
theorem dugout_misalignedStore {t : State} (h : exec misalignedStore signalledState = .next t) :
    (coreAt t 0).dugout = [] := by
  have ht := Host.Outcome.next.inj h
  rw [← ht]
  decide +kernel

/-- Refutes O20: the trap's entry does not outlive the instruction where a lane of the path whose guard fails takes, at the
safe point, a signal that kills the team (R239, R250). -/
theorem not_misalignedAccessTraps : ¬ Obligations.MisalignedAccessTraps := by
  unfold Obligations.MisalignedAccessTraps
  rintro ⟨h, -⟩
  obtain ⟨t, ht, ⟨e, d, -, hd, -⟩, -⟩ := h signalledState misalignedStore _ _ rfl (.inl rfl) (.inl rfl)
    readable_misalignedStore ⟨by decide, by decide⟩ (by decide) fun l hl => by
      rw [List.mem_singleton.1 (activeLanes_signalledState ▸ hl : l ∈ [0])]
      exact ⟨_, _, rfl, by decide, fun hc => absurd hc (by decide)⟩
  rw [show signalledState.iss.core = 0 from rfl, dugout_misalignedStore ht] at hd
  cases hd

end Sys2Proof.Laws
end

section
/-! SUPPORT. A page map that lists a page twice (O31). -/

namespace Sys2Proof.Laws
open Sys2Proof.Machine Sys2Proof.Claims

/-- A lane of a workgroup with a page of registers and one of scratchpad, whose page map lists page 0 twice: the first
entry makes it scratchpad, the second the workgroup's first register page. -/
def doublyMappedState : State :=
  { State.reset with
    cores := [(0, { Core.reset with
      slots := [(0, { Slot.empty with wg := some 0, threads := [(0, readyThread)], sregs := [(2, 0xF0000000)] })]
      pageMap := [(0, 0x10A0), (0, 0x800), (1, 0x1000)], pool := [(4096, 7)] })]
    wgs := [(0, { Wg.empty with slots := [0], regc := 1, spg := 1 })]
    iss := { core := 0, quarter := 0, slot := 0, lanes := 1, pc := 0 } }

/-- The head of an instruction of a whole path. -/
def plainHead : Head := { guard := .always, eor := false, sp := none, stall := 0, yld := false }

/-- A load of the first word of the workgroup's scratchpad into v4. -/
def scratchpadLoad : Instr := .lds plainHead (.v 4) (.s 2 false) 0 .w32 .plain

theorem readable_scratchpadLoad :
    Readable doublyMappedState (loadShape plainHead 0x282 (.v 4) .w32 false) [rdI (.s 2 false) 1] := by
  unfold Readable
  decide

theorem alone_doublyMappedState : Alone doublyMappedState := by
  unfold Alone Untraced Unreplayed Unsignalled
  decide

/-- An instruction of one access that does not write leaves every byte of a scratchpad page alone. -/
theorem spadAlone_of_not_writes {s : State} {p : Acting} {f : List Nat → Word} {n c a : Nat} {rd chk : Bool}
    (h : field (Tab.getD (coreAt s c).pageMap (a / 16384) 0) 11 2 = 2) : SpadAlone s p (reachOne f n rd false chk) c a := by
  refine ⟨h, fun e _ x hx _ _ _ hw => ?_⟩
  rw [List.mem_singleton.1 hx] at hw
  cases hw

/-- The load writes v4's row, whose lane 0 stands at byte 512 of page 0. -/
theorem poolByte_scratchpadLoad {t : State} (h : exec scratchpadLoad doublyMappedState = .next t) :
    poolByte (coreAt t 0) 512 = 7 := by
  have ht := Host.Outcome.next.inj h
  rw [← ht]
  decide +kernel

/-- Refutes O31: the page map may list a page twice, as scratchpad and as a register page, and a load then writes its
destination there. -/
theorem not_scratchpadStoresTouchOnlyTheirBytes : ¬ Obligations.ScratchpadStoresTouchOnlyTheirBytes := by
  unfold Obligations.ScratchpadStoresTouchOnlyTheirBytes
  intro h
  have h0 := h doublyMappedState _ _ scratchpadLoad _ _ _ rfl rfl readable_scratchpadLoad alone_doublyMappedState rfl rfl
    0 512 (spadAlone_of_not_writes (by decide))
  rw [poolByte_scratchpadLoad rfl] at h0
  exact absurd h0 (by decide)

end Sys2Proof.Laws
end

section
/-! SUPPORT. A byte that a path's accesses leave alone, shown by evaluating them. -/

namespace Sys2Proof.Laws
open Sys2Proof.Machine Sys2Proof.Claims

/-- An access whose translation leaves a byte, in a sector that it does not touch. -/
def leavesByte (a : Nat) (x : Reach DWord) : Bool :=
  (accessAt x.st x.lane x.va x.n x.rd x.wr x.chk).all (fun r =>
    readByte r.1.mem a == readByte x.st.mem a && decide (r.2.home + x.n ≤ 16 * (a / 16) ∨ 16 * (a / 16) + 16 ≤ r.2.home))

theorem leavesByte_access {a : Nat} {x : Reach DWord} {u : State} {pl : Place} (hx : leavesByte a x = true)
    (h : accessAt x.st x.lane x.va x.n x.rd x.wr x.chk = some (u, pl)) :
    readByte u.mem a = readByte x.st.mem a ∧ (pl.home + x.n ≤ 16 * (a / 16) ∨ 16 * (a / 16) + 16 ≤ pl.home) := by
  rw [leavesByte, h, Option.all_some, Bool.and_eq_true, beq_iff_eq, decide_eq_true_eq] at hx
  exact hx

/-- Accesses that leave a byte, in sectors that they do not touch, leave it alone. -/
theorem leftAlone_of_leavesByte {s : State} {p : Acting} {r : Reaches DWord} {a : Nat} (hd : heldDirty s a = false)
    (h : (turnStates p s).all (fun e =>
      (r e.1 (laneVals s (readsOf p.sh.first p.rs e.1) e.1) e.2).all (leavesByte a)) = true) : LeftAlone s p r a := by
  refine ⟨hd, fun e he x hx u pl hu => ?_⟩
  obtain ⟨hb, hs⟩ := leavesByte_access (List.all_eq_true.1 (List.all_eq_true.1 h e he) x hx) hu
  refine ⟨hb, fun _ => ⟨by omega, fun _ hsec => ?_⟩⟩
  obtain ⟨b, h1, h2, h3⟩ := hsec
  omega

end Sys2Proof.Laws
end

section
/-! SUPPORT. A race that a plain CMPST's pointer does not meet (O29). -/

namespace Sys2Proof.Laws
open Sys2Proof.Machine Sys2Proof.Claims

/-- A launch of context 1 under race checking (R77). -/
def checkedLaunch : Launch :=
  { id := 0, hm := 1, queue := 0, child := false, seq := 0, slot := 0, words := [0, 8], depth := 0, parent := none
    nextTeam := 0, again := [], failed := false, cancelled := false, retired := false, digests := [] }

/-- A lane of a race-checked workgroup of context 1, whose page 0 is local HBM under key 5; another core's workgroup has
recorded a write of the sector of address 0x40. -/
def racedState : State :=
  { State.reset with
    cores := [(0, { Core.reset with
      slots := [(0, { Slot.empty with wg := some 0, threads := [(0, readyThread)] })]
      tlb := [{ hm := 1, va := 0, log := 12, pa := 0, sk := false, mt := false, w := true, x := false, d := true }] })]
    wgs := [(0, { Wg.empty with hm := 1, slots := [0] })]
    launches := [(0, checkedLaunch)]
    ctxtab := 0x1000000000000, descs := [(1, { Desc.invalid with v := true, rchk := true })], racechk := true
    keys := [(0, 5)], seals := [(0, .key 5), (4, .key 5)]
    shadows := [(4, { hm := 1, core := 1, slot := 0, count := 0, mask := 0xFFFF })]
    iss := { core := 0, quarter := 0, slot := 0, lanes := 1, pc := 0 } }

/-- An append of a zero word by the pointer at address 0x40. -/
def racedAppend : Instr := .cmpst plainHead .discard .zero 0x40 .zero .w32 .plain false

/-- What the append is to do, and the accesses that its lane makes. -/
def racedRule : Acting := (memoryRule racedState racedAppend).get rfl
def racedReach : Reaches DWord := (globalReach racedState racedAppend).get rfl

theorem readable_racedRule : Readable racedState racedRule.sh racedRule.rs := by
  unfold Readable
  decide

theorem alone_racedState : Alone racedState := by
  unfold Alone Untraced Unreplayed Unsignalled
  decide

theorem isSome_turns_racedRule : (racedRule.turns racedState).isSome = true := by
  decide +kernel

/-- Of the two accesses the pointer's, checked for races, has no place. -/
theorem leftAlone_racedPointer : LeftAlone racedState racedRule racedReach 0x40 :=
  leftAlone_of_leavesByte (by decide) (by decide +kernel)

/-- The append moves the pointer by one word: its update at device scope is not checked (R78, R376). -/
theorem readByte_racedAppend {t : State} (h : exec racedAppend racedState = .next t) : readByte t.mem 0x40 = 4 := by
  have ht := Host.Outcome.next.inj h
  rw [← ht]
  decide +kernel

/-- Refutes O29: the statement takes the pointer's access of a plain CMPST as one that is checked for races, which the
relaxed update at device scope is not, so where another workgroup's record stands it counts the pointer's bytes as none
that the lanes store to. -/
theorem not_storesTouchOnlyTheirBytes : ¬ Obligations.StoresTouchOnlyTheirBytes := by
  unfold Obligations.StoresTouchOnlyTheirBytes
  intro h
  obtain ⟨⟨u, outs⟩, hturns⟩ := Option.isSome_iff_exists.1 isSome_turns_racedRule
  have h0 := h racedState _ u racedAppend racedRule racedReach outs (Option.some_get _).symm (Option.some_get _).symm
    readable_racedRule alone_racedState hturns rfl 0x40 leftAlone_racedPointer
  rw [readByte_racedAppend rfl] at h0
  exact absurd h0 (by decide)

end Sys2Proof.Laws
end

section
/-! SUPPORT. A descriptor that the walk of its own context marks (O30). -/

namespace Sys2Proof.Laws
open Sys2Proof.Machine Sys2Proof.Claims

/-- Core 0's umpire acts in context 1, whose held descriptor stands in memory at 0x1_0000_0000_0100 with DBG set; watchpoint
0 covers address 0 there. The last table of address 0 lies one byte above the descriptor, so that its leaf's A bit is a
reserved bit of the descriptor's word 0, and a walk of the address for a store has failed. -/
def watchedState : State :=
  { State.reset with
    cores := [(0, { Core.reset with hmark := 1, slots := [(16, { Slot.empty with threads := [(0, readyThread)] })] })]
    ctxtab := 0x1000000000000, mem := [(0x1000000000100, 0x10), (0x1000000000101, 0x03)]
    descs := [(1, { Desc.invalid with v := true })]
    walkCache := [{ hm := 1, level := 2, va := 0, base := 0x1000000000101 }]
    walked := [{ who := .core 0 16, hm := 1, page := 0, kind := .write, out := (0x11, 0x01) }]
    wpa := [(0, 0)], wpc := [(0, 0x40003)]
    host := { HostSide.reset with obase := 0x10000, osize := 1 }
    iss := { core := 0, quarter := 0, slot := 16, lanes := 1, pc := 0 } }

/-- A load of the word at address 0. -/
def watchedLoad : Instr := .ld plainHead .discard .zero 0 .w32 .plain .none

/-- Byte 7 of the first entry of the outbound ring: the entry's type. -/
def ringByte : Nat := 0x1000000010007

/-- What the load is to do, and the access that its lane makes. -/
def watchedRule : Acting := (memoryRule watchedState watchedLoad).get rfl
def watchedReach : Reaches DWord := (loadReach watchedLoad).get rfl

theorem readable_watchedRule : Readable watchedState watchedRule.sh watchedRule.rs := by
  unfold Readable
  decide

theorem alone_watchedState : Alone watchedState := by
  unfold Alone Untraced Unreplayed Unsignalled
  decide

/-- By the rule the lane's load completes: the walk has marked the leaf, the descriptor is malformed, and DBG counts as
clear. -/
theorem isSome_turns_watchedRule : (watchedRule.turns watchedState).isSome = true := by
  decide +kernel

theorem leftAlone_ringByte : LeftAlone watchedState watchedRule watchedReach ringByte :=
  leftAlone_of_leavesByte (by decide) (by decide +kernel)

/-- The load meets the watchpoint by the descriptor as it stood before the walk: Ninal restarts, and the host is told. -/
theorem readByte_watchedLoad {t : State} (h : exec watchedLoad watchedState = .next t) : readByte t.mem ringByte = 5 := by
  have ht := Host.Outcome.next.inj h
  rw [← ht]
  decide +kernel

/-- Refutes O30: a load of the umpire's may trap where its rule completes, since the walk's A bit may lie in the descriptor
whose DBG the watchpoint asks for, and the restart of Ninal then writes an entry of the outbound ring (R231). -/
theorem not_loadsTouchNoMemory : ¬ Obligations.LoadsTouchNoMemory := by
  unfold Obligations.LoadsTouchNoMemory
  intro h
  obtain ⟨⟨u, outs⟩, hturns⟩ := Option.isSome_iff_exists.1 isSome_turns_watchedRule
  have h0 := h watchedState _ u watchedLoad watchedRule watchedReach outs (Option.some_get _).symm (Option.some_get _).symm
    readable_watchedRule alone_watchedState hturns rfl ringByte leftAlone_ringByte
  rw [readByte_watchedLoad rfl] at h0
  exact absurd h0 (by decide)

end Sys2Proof.Laws
end

section
/-! SUPPORT. The values that the machine holds at reset (O50). -/

namespace Sys2Proof.Laws
open Sys2Proof.Machine Sys2Proof.Claims

@[simp] theorem coreAt_reset (c : Nat) : coreAt State.reset c = Core.reset := rfl

theorem reservedZero_reset : ReservedZero State.reset :=
  reservedZero_iff.2 ⟨fun _ => coreZero_reset, fun _ => BitVec.zero_and⟩

/-- The page map at reset lists the umpire's four pages alone, so any other reads as unassigned (R110). -/
theorem pageMap_reset_of_lt {p : Nat} (hp : p < 60) : Tab.getD Core.reset.pageMap p 0 = 0 := by
  simp (disch := omega) only [Core.reset, Tab.getD, get?_cons, get?_nil, if_neg, Option.getD_none]

theorem pageMap_reset_umpirePage {i : Nat} (hi : i < 4) : Tab.getD Core.reset.pageMap (60 + i) 0 = umpirePage i := by
  interval_cases i <;> rfl

/-- What an umpire page's entry says in the fields of R110: HM, OWN and IDX. -/
theorem field_umpirePage {i : Nat} (hi : i < 4) : field (umpirePage i) 18 14 = 0x2000 ∧
    field (umpirePage i) 13 5 = 16 ∧ field (umpirePage i) 5 6 = i := by
  interval_cases i <;> decide

/-- With an empty dugout DGQH has SEL and COUNT 0, and HEAD is a free value of five bits (R225). -/
theorem dgqh_reset_lt (s : State) : dgqh s Core.reset < 32 := by
  have h : dgqh s Core.reset = (Config.freeBits 5 s.fresh).toNat := Nat.zero_add _
  rw [h]
  exact (Config.freeBits 5 s.fresh).isLt

/-- Settles O50: the registers by their values, the page map by its listed entries, DGQH by the empty dugout. -/
theorem resetHoldsTheStatedValues : Obligations.ResetHoldsTheStatedValues := by
  unfold Obligations.ResetHoldsTheStatedValues
  refine ⟨rfl, rfl, rfl, rfl, rfl, rfl, rfl, rfl, rfl, rfl, rfl, rfl, fun _ _ => pageMap_reset_of_lt, fun c p h60 h64 => ?_,
    fun _ => ⟨rfl, dgqh_reset_lt _⟩, rfl, rfl, rfl, rfl, reservedZero_reset⟩
  obtain ⟨i, rfl⟩ := Nat.exists_eq_add_of_le h60
  have hi : i < 4 := by omega
  rw [coreAt_reset, pageMap_reset_umpirePage hi, Nat.add_sub_cancel_left]
  exact field_umpirePage hi

end Sys2Proof.Laws
end

section
/-! SUPPORT. Each step of the copy and the matrix engine does what the table says (O12). -/

namespace Sys2Proof.Laws
open Sys2Proof.Machine Sys2Proof.Claims

section
variable {s t : State}

theorem execCopyStart_takes {c : Fin 192} {n : Fin 64} (h : engineEvent s (.copyStart c n) = some t) :
    execCopyStart c n s = .next t := by
  simp only [engineEvent] at h
  unfold execCopyStart
  refine congrArg _ ?_
  cases hq : copyAt s c.val n.val with
  | none => simp only [hq, reduceCtorEq] at h
  | some e =>
    simp only [hq] at h ⊢
    obtain ⟨⟨hst, hrun, hfirst⟩, rfl⟩ := takes_eq_some.1 h
    rw [hrun, hfirst]
    exact if_pos ⟨hst, rfl, rfl⟩

theorem execCopySectorDone_takes {c : Fin 192} {n : Fin 64} (h : engineEvent s (.copySectorDone c n) = some t) :
    execCopySectorDone c n s = .next t := by
  simp only [engineEvent] at h
  unfold execCopySectorDone
  refine congrArg _ ?_
  cases hq : copyAt s c.val n.val with
  | none => simp only [hq, reduceCtorEq] at h
  | some e =>
    simp only [hq] at h ⊢
    obtain ⟨⟨hst, hmiss, hrun, hroom⟩, rfl⟩ := takes_eq_some.1 h
    have hmay : ¬ (e.st ≠ .running ∨ e.miss.isSome ∨ enginePaused s e.wg) := by
      simp only [hst, hmiss, hrun, ne_eq, not_true_eq_false, Option.isSome_none, Bool.false_eq_true, or_self,
        not_false_eq_true]
    have hahead : ¬ (e.form = .strm ∧ e.consumed + strmAhead e.block ≤ e.staged) :=
      fun ⟨hf, hle⟩ => hroom.elim (· hf) (Nat.not_lt.2 hle)
    rw [if_neg hmay, if_neg hahead]

theorem execMmaStart_takes {c : Fin 192} {n : Fin 32} (h : engineEvent s (.mmaStart c n) = some t) :
    execMmaStart c n s = .next t := by
  simp only [engineEvent] at h
  unfold execMmaStart
  refine congrArg _ ?_
  cases hq : mtxAt s c.val n.val with
  | none => simp only [hq, reduceCtorEq] at h
  | some e =>
    simp only [hq] at h ⊢
    obtain ⟨⟨hst, hrun, hturn⟩, rfl⟩ := takes_eq_some.1 h
    have hmay : ¬ (e.st ≠ .queued ∨ enginePaused s e.wg ∨ mtxBehind (coreAt s c.val) e) := by
      simp only [hst, hrun, hturn, ne_eq, not_true_eq_false, Bool.false_eq_true, or_self, not_false_eq_true]
    exact if_neg hmay

theorem execMmaStep_takes {c : Fin 192} {n : Fin 32} (h : engineEvent s (.mmaStep c n) = some t) :
    execMmaStep c n s = .next t := by
  simp only [engineEvent] at h
  unfold execMmaStep
  refine congrArg _ ?_
  cases hq : mtxAt s c.val n.val with
  | none => simp only [hq, reduceCtorEq] at h
  | some e =>
    simp only [hq] at h ⊢
    obtain ⟨⟨hst, hrun, hop⟩, rfl⟩ := takes_eq_some.1 h
    have hmay : ¬ (e.st ≠ .running ∨ enginePaused s e.wg ∨ (e.op ≠ .mma ∧ e.op ≠ .mmas)) := by
      simp only [hst, hrun, ne_eq, not_true_eq_false, Bool.false_eq_true, false_or, not_and_or, not_not]
      exact hop
    rw [if_neg hmay]

theorem execDrainSectorDone_takes {c : Fin 192} {n : Fin 32} (h : engineEvent s (.drainSectorDone c n) = some t) :
    execDrainSectorDone c n s = .next t := by
  simp only [engineEvent] at h
  unfold execDrainSectorDone
  refine congrArg _ ?_
  cases hq : mtxAt s c.val n.val with
  | none => simp only [hq, reduceCtorEq] at h
  | some e =>
    simp only [hq] at h ⊢
    obtain ⟨⟨hst, hmiss, hrun, hop⟩, rfl⟩ := takes_eq_some.1 h
    have hmay : ¬ (e.st ≠ .running ∨ e.miss.isSome ∨ enginePaused s e.wg ∨ (e.op ≠ .ald ∧ e.op ≠ .ast ∧ e.op ≠ .mdrn)) := by
      simp only [hst, hmiss, hrun, ne_eq, not_true_eq_false, Option.isSome_none, Bool.false_eq_true, false_or,
        not_and_or, not_not]
      exact hop
    exact if_neg hmay

end

/-- Settles O12, event by event. -/
theorem engineEventsTakeEffect : Obligations.EngineEventsTakeEffect := by
  unfold Obligations.EngineEventsTakeEffect
  intro s t i h
  cases i with
  | copyStart c n => exact execCopyStart_takes h
  | copySectorDone c n => exact execCopySectorDone_takes h
  | mmaStart c n => exact execMmaStart_takes h
  | mmaStep c n => exact execMmaStep_takes h
  | drainSectorDone c n => exact execDrainSectorDone_takes h
  | _ => cases h

end Sys2Proof.Laws
end

section
/-! SUPPORT. What the changes of a core, a slot, a thread and a quarter leave in each, one lemma for each reading. -/

namespace Sys2Proof.Laws
open Sys2Proof.Machine

section
variable (s : State) (c d n m l k q p : Nat)

@[simp] theorem coreAt_modCore_same (f : Core → Core) : coreAt (modCore s c f) c = f (coreAt s c) := by
  rw [coreAt_modCore, if_pos rfl]

@[simp] theorem slotAt_modSlot (f : Slot → Slot) :
    slotAt (modSlot s c n f) c m = if n = m then f (slotAt s c m) else slotAt s c m := by
  unfold slotAt modSlot
  rw [coreAt_modCore_same, getD_set]
  split_ifs with h
  · rw [h]
  · rfl

theorem slotAt_modCore (f : Core → Core) (h : (f (coreAt s c)).slots = (coreAt s c).slots) :
    slotAt (modCore s c f) d m = slotAt s d m := by
  unfold slotAt
  rw [coreAt_modCore]
  split_ifs with hc
  · rw [h, hc]
  · rfl

@[simp] theorem threadAt_modThread (f : Thread → Thread) :
    threadAt (modThread s c n l f) c n k = if l = k then (threadAt s c n k).map f else threadAt s c n k := by
  unfold threadAt modThread
  rw [slotAt_modSlot, if_pos rfl, get?_adjust]

@[simp] theorem slotAt_modQuarter (f : Quarter → Quarter) : slotAt (modQuarter s c q f) d m = slotAt s d m :=
  slotAt_modCore s c d m _ rfl

@[simp] theorem quarterAt_modQuarter (f : Quarter → Quarter) :
    quarterAt (modQuarter s c q f) c p = if q = p then f (quarterAt s c p) else quarterAt s c p := by
  unfold quarterAt modQuarter
  rw [coreAt_modCore_same, getD_set]
  split_ifs with h
  · rw [h]
  · rfl

end

end Sys2Proof.Laws
end

section
/-! SUPPORT. Guards, pushes, s registers, latches and uniform sources (O35, O37, O38, O39). -/

namespace Sys2Proof.Laws
open Sys2Proof.Machine

/-- A push shifts PRED by one depth, with its bit at depth 0. -/
theorem getLsbD_pushPred (p : BitVec 8) (b : Bool) (d : Fin 8) :
    (pushPred p b).getLsbD d.val = if d.val = 0 then b else p.getLsbD (d.val - 1) := by
  unfold pushPred
  rw [BitVec.getLsbD_or, BitVec.getLsbD_shiftLeft]
  by_cases hd : d.val = 0
  · rw [hd]
    cases b <;> simp
  · cases b <;> simp [hd, d.isLt]

/-- Settles O39, by the bits of a shift. -/
theorem guardsReadAndPushesShift : Obligations.GuardsReadAndPushesShift := by
  unfold Obligations.GuardsReadAndPushesShift
  refine ⟨getLsbD_pushPred, fun p neg d => ?_, fun _ => rfl⟩
  cases neg <;> simp [guardPasses]

/-- What a uniform v register gives a lane: its cell, whichever lane reads it. -/
theorem vRead_uniform {s : State} {v : Nat} {r : Word}
    (h : Tab.get? (slotAt s s.iss.core s.iss.slot).vmap v = some { form := .uniform, rel := r }) (l j code : Nat) :
    vRead s v l j code = Tab.getD (slotAt s s.iss.core s.iss.slot).cells v 0 := by
  simp only [vRead, h]

/-- Numbers joined from equal words are equal. -/
theorem joinWords_congr {f g : Nat → Word} {n : Nat} (h : ∀ k < n, f k = g k) : joinWords f n = joinWords g n := by
  induction n with
  | zero => rfl
  | succ n ih => rw [joinWords, joinWords, ih fun k hk => h k (by omega), h n (by omega)]

/-- A uniform special reads alike in two lanes of the slot's own workgroup. -/
theorem specVal_uniform {s : State} {x : Special} {l k : Nat} (hu : specUniform s x = true)
    (hh : homeOf s s.iss.core s.iss.slot l = homeOf s s.iss.core s.iss.slot k) : specVal s l x = specVal s k x := by
  cases x with
  | lane => cases hu
  | tid => cases hu
  | wgid => simp only [specVal, hh]
  | trank => simp only [specVal, hh]
  | wslot | core | court | devno | amask | cyclo | cychi => rfl

/-- Settles O35, by the kinds of sources. -/
theorem uniformSourcesAgree : Obligations.UniformSourcesAgree := by
  unfold Obligations.UniformSourcesAgree
  rintro s ⟨src, words, imm⟩ pos l k hu hl hk
  cases src with
  | v n p last =>
    refine joinWords_congr fun i hi => ?_
    have hi := List.all_eq_true.1 hu i (List.mem_range.2 hi)
    split at hi
    · rename_i r hm
      rw [vRead_uniform hm, vRead_uniform hm]
    · cases hi
  | latch n p => cases hu
  | spec x => simp only [srcVal, specVal_uniform hu (hl.trans hk.symm)]
  | s | zero | imm => rfl

@[simp] theorem slotAt_writeS (s : State) (c n r : Nat) (x : Word) :
    slotAt (writeS s c n r x) c n = { slotAt s c n with sregs := Tab.set (slotAt s c n).sregs r x } := by
  rw [writeS, slotAt_modSlot, if_pos rfl]

@[simp] theorem slotAt_freeS (s : State) (c n r : Nat) :
    slotAt (freeS s c n r) c n = { slotAt s c n with sregs := Tab.del (slotAt s c n).sregs r } := by
  rw [freeS, slotAt_modSlot, if_pos rfl]

@[simp] theorem iss_writeS (s : State) (c n r : Nat) (x : Word) : (writeS s c n r x).iss = s.iss := rfl
@[simp] theorem iss_freeS (s : State) (c n r : Nat) : (freeS s c n r).iss = s.iss := rfl

/-- The check of one s register in a lane. -/
theorem deadCheck_s (s : State) (r : BitVec 6) (last : Bool) (l : Nat) :
    deadCheck s l (rdI (.s r last) 1) =
      if (Tab.get? (slotAt s s.iss.core s.iss.slot).sregs r.toNat).isNone then some (0x04, 0x01) else none := by
  simp only [deadCheck, rdI, List.range_one, List.findSome?_cons, List.findSome?_nil, Nat.add_zero]
  split_ifs <;> rfl

/-- Settles O37, by reading the table of s registers after a write and after a release. -/
theorem scalarRegisterLifetime : Obligations.ScalarRegisterLifetime := by
  unfold Obligations.ScalarRegisterLifetime
  intro s r x l pos last
  refine ⟨?_, ?_, fun q hq => ?_, ?_⟩
  · simp [srcVal, rdI, joinWords]
  · simp [deadCheck_s]
  · simp [Ne.symm hq]
  · simp [deadCheck_s]

/-- The lanes' earlier results after a write keep those of a lane that the write gives none. -/
theorem getD_latchHist (res : Tab DWord) (h : Tab (List DWord)) {l : Nat} (hl : Tab.get? res l = none) :
    Tab.getD (res.foldl (fun h e => Tab.set h e.1 (e.2 :: Tab.getD h e.1 [])) h) l [] = Tab.getD h l [] := by
  induction res generalizing h with
  | nil => rfl
  | cons e r ih =>
    obtain ⟨j, x⟩ := e
    rw [get?_cons] at hl
    split_ifs at hl with hj
    rw [List.foldl_cons, ih _ hl, getD_set, if_neg hj]

/-- A latch gives a lane without a result zero or one of its earlier results. -/
theorem latchVal_eq_zero_or_mem {t : Latch} {l : Nat} (code : Nat) (h : Tab.get? t.vals l = none) :
    latchVal t l code = 0 ∨ latchVal t l code ∈ Tab.getD t.hist l [] := by
  have hc : Config.pick code % (0 :: Tab.getD t.hist l []).length < (0 :: Tab.getD t.hist l []).length :=
    Nat.mod_lt _ (Nat.zero_lt_succ _)
  have hm := List.getElem_mem hc
  simp only [latchVal, h]
  rw [List.getD_eq_getElem _ _ hc]
  exact List.mem_cons.1 hm

/-- A latch that the active lanes of a path have written (R128). -/
def latchAfter (res : Tab DWord) (t : Latch) : Latch :=
  { vals := res, valid := true, hist := res.foldl (fun h e => Tab.set h e.1 (e.2 :: Tab.getD h e.1 [])) t.hist }

theorem latches_writeLatch (s : State) (c q k j : Nat) (res : Tab DWord) :
    (quarterAt (writeLatch s c q k res) c q).latches[j]? =
      ((quarterAt s c q).latches[j]?).map fun t => if j = k then latchAfter res t else t := by
  rw [writeLatch, quarterAt_modQuarter, if_pos rfl, List.getElem?_mapIdx]
  rfl

/-- Settles O38, by the entry of the latch that the write makes. -/
theorem latchTakesTheResults : Obligations.LatchTakesTheResults := by
  unfold Obligations.LatchTakesTheResults
  intro s c q k res x hx
  refine ⟨latchAfter res x, ?_, rfl, fun l v code hv => ?_, fun l code hv => ?_, fun j hj => ?_⟩
  · rw [latches_writeLatch, hx, Option.map_some, if_pos rfl]
  · simp only [latchVal, latchAfter, hv]
  · have h := latchVal_eq_zero_or_mem (t := latchAfter res x) code hv
    rwa [latchAfter, getD_latchHist res x.hist hv] at h
  · rw [latches_writeLatch]
    simp only [hj, if_false, Option.map_id']

end Sys2Proof.Laws
end

section
/-! SUPPORT. A warp's table of v registers: the registers in order, each full one in a row of its own (R120, R121, R126). -/

namespace Sys2Proof.Laws
open Sys2Proof.Machine Sys2Proof.Claims

/-! ## Tables in order -/

theorem mem_of_get? {α : Type} {t : Tab α} {k : Nat} {x : α} (h : Tab.get? t k = some x) : (k, x) ∈ t := by
  induction t with
  | nil => cases h
  | cons e r ih =>
    obtain ⟨j, y⟩ := e
    rw [get?_cons] at h
    split_ifs at h with hj
    · obtain rfl := Option.some.inj h
      rw [hj]
      exact List.mem_cons_self
    · exact List.mem_cons_of_mem _ (ih h)

/-- In a table in order the entries are what the table gives at their numbers. -/
theorem mem_iff_get? {α : Type} {t : Tab α} (ht : Tab.ordered t = true) {k : Nat} {x : α} :
    (k, x) ∈ t ↔ Tab.get? t k = some x := by
  refine ⟨fun h => ?_, mem_of_get?⟩
  induction t with
  | nil => cases h
  | cons e r ih =>
    obtain ⟨j, y⟩ := e
    rw [get?_cons]
    rcases List.mem_cons.1 h with heq | hr
    · obtain ⟨rfl, rfl⟩ := Prod.mk.inj heq
      rw [if_pos rfl]
    · rw [if_neg (ordered_lt ht _ hr).ne, ih (ordered_tail ht) hr]

/-- A change of the values alone keeps the order. -/
theorem ordered_map_values {α : Type} {t : Tab α} {g : Nat × α → Nat × α} (hg : ∀ e, (g e).1 = e.1)
    (ht : Tab.ordered t = true) : Tab.ordered (t.map g) = true := by
  induction t with
  | nil => rfl
  | cons e r ih =>
    refine ordered_of_lt (fun d hd => ?_) (ih (ordered_tail ht))
    obtain ⟨a, ha, rfl⟩ := List.mem_map.1 hd
    rw [hg, hg]
    exact ordered_lt ht a ha

theorem ordered_adjust {α : Type} {t : Tab α} (k : Nat) (f : α → α) (ht : Tab.ordered t = true) :
    Tab.ordered (Tab.adjust t k f) = true :=
  ordered_map_values (fun e => by split_ifs <;> rfl) ht

/-! ## Registers apart -/

/-- A table of v registers below `k`, each full one in one of the `k` rows from `base` on, in the bank of its number for slot
`n`, and no two in one row. -/
structure Apart (n base k : Nat) (t : Tab VMap) : Prop where
  ordered : Tab.ordered t = true
  below : ∀ v m, Tab.get? t v = some m → v < k
  row : ∀ v m r, Tab.get? t v = some m → m.form = .full r → base ≤ r ∧ r < base + k ∧ (r ^^^ n) % 8 = v % 8
  apart : ∀ v w m m' r, Tab.get? t v = some m → Tab.get? t w = some m' → m.form = .full r → m'.form = .full r → v = w

/-- `RowsApart` by what the slot's table gives at each number. -/
theorem rowsApart_iff {s : State} {c n : Nat} :
    RowsApart s c n ↔
      Apart n (firstRow s c n) (ceiling s c n) (slotAt s c n).vmap ∧ Tab.ordered (coreAt s c).pageMap = true ∧
        (n ≠ 16 → ∀ r < firstRow s c n + ceiling s c n,
          (pageWith (coreAt s c) (firstSlot (wgAt s (slotWg s c n))) 1 (r / 128)).isSome = true) := by
  constructor
  · rintro ⟨ho, hp, hr, ha, hpages⟩
    refine ⟨⟨ho, fun v m hv => (hr _ (mem_of_get? hv)).1, fun v m r hv hf => ?_, fun v w m m' r hv hw hf hf' => ?_⟩, hp, hpages⟩
    · have h := (hr _ (mem_of_get? hv)).2
      simp only [hf] at h
      exact h
    · exact congrArg Prod.fst (ha _ (mem_of_get? hv) _ (mem_of_get? hw) r hf hf')
  · rintro ⟨⟨ho, hb, hr, ha⟩, hp, hpages⟩
    refine ⟨ho, hp, fun e he => ?_, fun e he d hd r hf hf' => ?_, hpages⟩
    · have hg := (mem_iff_get? ho).1 he
      refine ⟨hb _ _ hg, ?_⟩
      split
      · exact hr _ _ _ hg ‹_›
      · trivial
    · have hk := ha _ _ _ _ r ((mem_iff_get? ho).1 he) ((mem_iff_get? ho).1 hd) hf hf'
      refine Prod.ext hk (Option.some.inj ?_)
      rw [← (mem_iff_get? ho).1 he, ← (mem_iff_get? ho).1 hd, hk]

namespace Apart
variable {n base k : Nat} {t : Tab VMap}

theorem del (h : Apart n base k t) (v : Nat) : Apart n base k (Tab.del t v) := by
  have hd : ∀ {w m}, Tab.get? (Tab.del t v) w = some m → Tab.get? t w = some m := fun {w m} hw => by
    rw [get?_del] at hw
    split_ifs at hw
    exact hw
  exact ⟨ordered_del v h.ordered, fun w m hw => h.below w m (hd hw), fun w m r hw => h.row w m r (hd hw),
    fun w x m m' r hw hx => h.apart w x m m' r (hd hw) (hd hx)⟩

/-- A register below the ceiling may take a mapping whose row, where it has one, is of its bank and no other register's. -/
theorem set (h : Apart n base k t) {v : Nat} {m : VMap} (hv : v < k)
    (hr : ∀ r, m.form = .full r → base ≤ r ∧ r < base + k ∧ (r ^^^ n) % 8 = v % 8)
    (ha : ∀ w m' r, Tab.get? t w = some m' → m.form = .full r → m'.form = .full r → w = v) :
    Apart n base k (Tab.set t v m) := by
  refine ⟨ordered_set v m h.ordered, fun w m' hw => ?_, fun w m' r hw hf => ?_, fun w x m' m'' r hw hx hf hf' => ?_⟩ <;>
    rw [get?_set] at hw <;> split_ifs at hw with hvw
  · exact hvw ▸ hv
  · exact h.below w m' hw
  · obtain rfl := Option.some.inj hw
    exact hvw ▸ hr r hf
  · exact h.row w m' r hw hf
  · obtain rfl := Option.some.inj hw
    rw [get?_set] at hx
    split_ifs at hx with hvx
    · exact hvw.symm.trans hvx
    · exact hvw.symm.trans (ha x m'' r hx hf hf').symm
  · rw [get?_set] at hx
    split_ifs at hx with hvx
    · obtain rfl := Option.some.inj hx
      exact (ha w m' r hw hf' hf).trans hvx
    · exact h.apart w x m' m'' r hw hx hf hf'

/-- Changes of release masks alone leave the rows where they are. -/
theorem adjustRel (h : Apart n base k t) (v : Nat) {f : VMap → VMap} (hf : ∀ m, (f m).form = m.form) :
    Apart n base k (Tab.adjust t v f) := by
  have hg : ∀ {w m}, Tab.get? (Tab.adjust t v f) w = some m → ∃ m', Tab.get? t w = some m' ∧ m.form = m'.form :=
    fun {w m} hw => by
      rw [get?_adjust] at hw
      split_ifs at hw
      · obtain ⟨m', hm', rfl⟩ := Option.map_eq_some_iff.1 hw
        exact ⟨m', hm', hf m'⟩
      · exact ⟨m, hw, rfl⟩
  refine ⟨ordered_adjust v f h.ordered, fun w m hw => ?_, fun w m r hw hr => ?_, fun w x m m' r hw hx hr hr' => ?_⟩
  · obtain ⟨m', hm', -⟩ := hg hw
    exact h.below w m' hm'
  · obtain ⟨m', hm', he⟩ := hg hw
    exact h.row w m' r hm' (he ▸ hr)
  · obtain ⟨a, ha, hea⟩ := hg hw
    obtain ⟨b, hb, heb⟩ := hg hx
    exact h.apart w x a b r ha hb (hea ▸ hr) (heb ▸ hr')

end Apart

/-! ## Free rows (R126) -/

/-- The registers below `k` of the residue of `v`, which share its bank. -/
def bankRegs (k v : Nat) : Finset Nat := (Finset.range k).filter (· % 8 = v % 8)

theorem mem_bankRegs {k v w : Nat} : w ∈ bankRegs k v ↔ w < k ∧ w % 8 = v % 8 := by
  rw [bankRegs, Finset.mem_filter, Finset.mem_range]

/-- A row of `v`'s bank for slot `n` among those from `base` on: that of the same eight rows as register `w`. -/
def bankRow (n base v w : Nat) : Nat := base + (8 * (w / 8) + (v ^^^ n) % 8)

theorem bankRow_bank (n : Nat) {base : Nat} (v w : Nat) (hb : base % 8 = 0) : (bankRow n base v w ^^^ n) % 8 = v % 8 := by
  have h8 : (8 : Nat) = 2 ^ 3 := rfl
  have hm : bankRow n base v w % 8 = (v ^^^ n) % 8 := by unfold bankRow; omega
  rw [h8, Nat.xor_mod_two_pow, ← h8, hm, h8, Nat.xor_mod_two_pow, Nat.xor_assoc, Nat.xor_self, Nat.xor_zero]

/-- A register that is not full finds a row of its bank that no register holds: the full ones of its residue are fewer than the
bank's rows. -/
theorem Apart.exists_free_row {n base k : Nat} {t : Tab VMap} (h : Apart n base k t) {v : Nat} (hv : v < k) (hb : base % 8 = 0)
    (hk : k % 8 = 0) (hn : ∀ m r, Tab.get? t v = some m → m.form ≠ .full r) :
    ∃ r, (base ≤ r ∧ r < base + k) ∧ (r ^^^ n) % 8 = v % 8 ∧ ∀ w m, Tab.get? t w = some m → m.form ≠ .full r := by
  by_contra hall
  push Not at hall
  have hused : ∀ w, w ∈ bankRegs k v → ∃ x m, Tab.get? t x = some m ∧ m.form = .full (bankRow n base v w) := fun w hw => by
    have hlt := (mem_bankRegs.1 hw).1
    exact hall _ (by unfold bankRow; omega) (bankRow_bank n v w hb)
  choose! f m hm hf using hused
  have hmaps : Set.MapsTo f (bankRegs k v) (bankRegs k v) := fun w hw => by
    refine Finset.mem_coe.2 (mem_bankRegs.2 ⟨h.below _ _ (hm w hw), ?_⟩)
    rw [← (h.row _ _ _ (hm w hw) (hf w hw)).2.2, bankRow_bank n v w hb]
  have hinj : Set.InjOn f (bankRegs k v) := fun w hw x hx he => by
    have hsame := hm x hx
    rw [← he, hm w hw] at hsame
    have hfull := hf w hw
    rw [Option.some.inj hsame, hf x hx, VForm.full.injEq, bankRow, bankRow] at hfull
    have hres := (mem_bankRegs.1 hw).2
    have hres' := (mem_bankRegs.1 hx).2
    omega
  obtain ⟨w, hw, he⟩ := Finset.surjOn_of_injOn_of_card_le f hmaps hinj le_rfl (Finset.mem_coe.2 (mem_bankRegs.2 ⟨hv, rfl⟩))
  exact hn _ _ (he ▸ hm w hw) (hf w hw)

theorem ceiling_mod_eight (s : State) (c n : Nat) : ceiling s c n % 8 = 0 := by
  unfold ceiling
  split_ifs <;> omega

theorem firstRow_mod_eight (s : State) (c n : Nat) : firstRow s c n % 8 = 0 := by
  unfold firstRow
  split_ifs
  · rfl
  · rw [Nat.mul_mod, ceiling_mod_eight, Nat.mul_zero, Nat.zero_mod]

/-- The row that a form holds. -/
def rowOf : VForm → Option Nat
  | .full r => some r
  | .uniform => none

theorem rowOf_eq_some {f : VForm} {r : Nat} : rowOf f = some r ↔ f = .full r := by
  cases f <;> simp [rowOf]

/-- The free rows of a slot's warp in the bank of a register, the lowest first. -/
def freeRows (s : State) (c n v : Nat) : List Nat :=
  ((List.range (ceiling s c n)).map (firstRow s c n + ·)).filter fun r =>
    decide ((r ^^^ n) % 8 = v % 8) && !((slotAt s c n).vmap.filterMap fun e => rowOf e.2.form).contains r

theorem allocRow_eq (s : State) (c n v : Nat) : allocRow s c n v = (freeRows s c n v).headD (firstRow s c n + v) := rfl

theorem mem_freeRows {s : State} {c n v r : Nat} (ho : Tab.ordered (slotAt s c n).vmap = true) :
    r ∈ freeRows s c n v ↔
      (firstRow s c n ≤ r ∧ r < firstRow s c n + ceiling s c n) ∧ (r ^^^ n) % 8 = v % 8 ∧
        ∀ w m, Tab.get? (slotAt s c n).vmap w = some m → m.form ≠ .full r := by
  have hrow : (∃ i ∈ List.range (ceiling s c n), firstRow s c n + i = r) ↔
      firstRow s c n ≤ r ∧ r < firstRow s c n + ceiling s c n := by
    refine ⟨?_, fun hr => ⟨r - firstRow s c n, List.mem_range.2 (by omega), by omega⟩⟩
    rintro ⟨i, hi, rfl⟩
    have := List.mem_range.1 hi
    omega
  have hused : (r ∈ (slotAt s c n).vmap.filterMap fun e => rowOf e.2.form) ↔
      ∃ w m, Tab.get? (slotAt s c n).vmap w = some m ∧ m.form = .full r := by
    simp only [List.mem_filterMap, rowOf_eq_some, Prod.exists, mem_iff_get? ho]
  rw [freeRows, List.mem_filter, List.mem_map, hrow, Bool.and_eq_true, decide_eq_true_eq, Bool.not_eq_true',
    ← Bool.not_eq_true, List.contains_iff_mem, hused]
  push Not
  rfl

/-- The row that a write allocates is one of the warp's own in the register's bank, and no register holds it. -/
theorem allocRow_free {s : State} {c n v : Nat} (h : Apart n (firstRow s c n) (ceiling s c n) (slotAt s c n).vmap)
    (hv : v < ceiling s c n) (hn : ∀ m r, Tab.get? (slotAt s c n).vmap v = some m → m.form ≠ .full r) :
    (firstRow s c n ≤ allocRow s c n v ∧ allocRow s c n v < firstRow s c n + ceiling s c n) ∧
      (allocRow s c n v ^^^ n) % 8 = v % 8 ∧
      ∀ w m, Tab.get? (slotAt s c n).vmap w = some m → m.form ≠ .full (allocRow s c n v) := by
  obtain ⟨r, hr⟩ := h.exists_free_row hv (firstRow_mod_eight s c n) (ceiling_mod_eight s c n) hn
  have hr := (mem_freeRows (v := v) h.ordered).2 hr
  rw [allocRow_eq, ← mem_freeRows h.ordered]
  cases hf : freeRows s c n v with
  | nil => exact absurd (hf ▸ hr) List.not_mem_nil
  | cons x xs => exact List.mem_cons_self

end Sys2Proof.Laws
end

section
/-! SUPPORT. What a change leaves of where a warp's rows lie, and of what they hold: the rules by which `RowsApart` is kept. -/

namespace Sys2Proof.Laws
open Sys2Proof.Machine Sys2Proof.Claims

/-- The asynchronous signals that are pending for a thread (R239). -/
def pendings (t : Thread) : Bool × Option Byte := (t.pend52, t.pend71)

/-- What a change leaves where a warp's rows are looked for: the issuing path, the workgroups, the page map, the slot's workgroup and
its place in it; what is pending for the slot's threads; and whether the core writes run records. -/
structure SameHome (c n : Nat) (s t : State) : Prop where
  iss : t.iss = s.iss
  wgs : t.wgs = s.wgs
  pageMap : (coreAt t c).pageMap = (coreAt s c).pageMap
  wg : (slotAt t c n).wg = (slotAt s c n).wg
  widx : (slotAt t c n).widx = (slotAt s c n).widx
  trcctl : (coreAt t c).trcctl = (coreAt s c).trcctl
  pending : ∀ l, (threadAt t c n l).map pendings = (threadAt s c n l).map pendings

/-- A change that leaves the mappings of the slot's v registers as well. -/
structure SameRows (c n : Nat) (s t : State) : Prop extends SameHome c n s t where
  vmap : (slotAt t c n).vmap = (slotAt s c n).vmap

namespace SameHome
variable {c n : Nat} {s t u : State}

theorem refl (s : State) : SameHome c n s s := ⟨rfl, rfl, rfl, rfl, rfl, rfl, fun _ => rfl⟩

theorem trans (h : SameHome c n s t) (h' : SameHome c n t u) : SameHome c n s u :=
  ⟨h'.iss.trans h.iss, h'.wgs.trans h.wgs, h'.pageMap.trans h.pageMap, h'.wg.trans h.wg, h'.widx.trans h.widx,
    h'.trcctl.trans h.trcctl, fun l => (h'.pending l).trans (h.pending l)⟩

theorem foldl {α : Type} {f : State → α → State} (hf : ∀ s x, SameHome c n s (f s x)) (ls : List α) (s : State) :
    SameHome c n s (ls.foldl f s) := by
  induction ls generalizing s with
  | nil => exact refl s
  | cons x r ih => exact (hf s x).trans (ih (f s x))

theorem ceiling (h : SameHome c n s t) : ceiling t c n = Machine.ceiling s c n := by
  unfold Machine.ceiling slotWg wgAt
  rw [h.wg, h.wgs]

theorem firstRow (h : SameHome c n s t) : firstRow t c n = Machine.firstRow s c n := by
  unfold Machine.firstRow
  rw [h.widx, h.ceiling]

/-- Warps whose rows lie in the same places have them apart where their registers are. -/
theorem rowsApart (h : SameHome c n s t) (hs : RowsApart s c n)
    (ha : Apart n (Machine.firstRow s c n) (Machine.ceiling s c n) (slotAt t c n).vmap) : RowsApart t c n := by
  obtain ⟨-, hp, hpages⟩ := rowsApart_iff.1 hs
  refine rowsApart_iff.2 ⟨by rwa [h.firstRow, h.ceiling], h.pageMap ▸ hp, fun hn r hr => ?_⟩
  rw [h.firstRow, h.ceiling] at hr
  have hw : wgAt t (slotWg t c n) = wgAt s (slotWg s c n) := by
    unfold wgAt slotWg
    rw [h.wg, h.wgs]
  have := hpages hn r hr
  unfold pageWith at this ⊢
  rwa [h.pageMap, hw]

end SameHome

namespace SameRows
variable {c n : Nat} {s t u : State}

theorem refl (s : State) : SameRows c n s s := ⟨.refl s, rfl⟩

theorem trans (h : SameRows c n s t) (h' : SameRows c n t u) : SameRows c n s u :=
  ⟨h.toSameHome.trans h'.toSameHome, h'.vmap.trans h.vmap⟩

theorem foldl {α : Type} {f : State → α → State} (hf : ∀ s x, SameRows c n s (f s x)) (ls : List α) (s : State) :
    SameRows c n s (ls.foldl f s) := by
  induction ls generalizing s with
  | nil => exact refl s
  | cons x r ih => exact (hf s x).trans (ih (f s x))

theorem rowsApart (h : SameRows c n s t) (hs : RowsApart s c n) : RowsApart t c n :=
  h.toSameHome.rowsApart hs (h.vmap ▸ (rowsApart_iff.1 hs).1)

theorem ite {p : Prop} [Decidable p] (h : SameRows c n s t) (h' : SameRows c n s u) :
    SameRows c n s (if p then t else u) := by
  split_ifs
  · exact h
  · exact h'

/-- A change of a core outside its slots, its page map and its trace control. -/
theorem modCore (f : Core → Core) (hp : ∀ k, (f k).pageMap = k.pageMap) (hs : ∀ k, (f k).slots = k.slots)
    (ht : ∀ k, (f k).trcctl = k.trcctl) (s : State) (d : Nat) : SameRows c n s (modCore s d f) := by
  have hc : (coreAt (Machine.modCore s d f) c).pageMap = (coreAt s c).pageMap ∧
      (coreAt (Machine.modCore s d f) c).trcctl = (coreAt s c).trcctl := by
    rw [coreAt_modCore]
    split_ifs with h
    · rw [hp, ht, h]
      exact ⟨rfl, rfl⟩
    · exact ⟨rfl, rfl⟩
  have hw : slotAt (Machine.modCore s d f) c n = slotAt s c n := slotAt_modCore s d c n f (hs _)
  exact ⟨⟨rfl, rfl, hc.1, by rw [hw], by rw [hw], hc.2, fun l => by unfold threadAt; rw [hw]⟩, by rw [hw]⟩

end SameRows

/-- A change of a slot of the warp's core that leaves its workgroup, its place in it and what is pending. -/
theorem SameHome.modSlot {c n : Nat} (f : Slot → Slot) (hg : ∀ w, (f w).wg = w.wg) (hx : ∀ w, (f w).widx = w.widx)
    (hp : ∀ w l, (Tab.get? (f w).threads l).map pendings = (Tab.get? w.threads l).map pendings) (s : State) (m : Nat) :
    SameHome c n s (modSlot s c m f) := by
  have hc : (coreAt (Machine.modSlot s c m f) c).pageMap = (coreAt s c).pageMap ∧
      (coreAt (Machine.modSlot s c m f) c).trcctl = (coreAt s c).trcctl := by
    rw [Machine.modSlot, coreAt_modCore_same]
    exact ⟨rfl, rfl⟩
  have hw : (slotAt (Machine.modSlot s c m f) c n).wg = (slotAt s c n).wg ∧
      (slotAt (Machine.modSlot s c m f) c n).widx = (slotAt s c n).widx ∧
      ∀ l, (Tab.get? (slotAt (Machine.modSlot s c m f) c n).threads l).map pendings =
        (Tab.get? (slotAt s c n).threads l).map pendings := by
    rw [slotAt_modSlot]
    split_ifs
    · exact ⟨hg _, hx _, hp _⟩
    · exact ⟨rfl, rfl, fun _ => rfl⟩
  obtain ⟨hwg, hwidx, hpend⟩ := hw
  exact ⟨rfl, rfl, hc.1, hwg, hwidx, hc.2, hpend⟩

theorem SameRows.modSlot {c n : Nat} (f : Slot → Slot) (hg : ∀ w, (f w).wg = w.wg) (hx : ∀ w, (f w).widx = w.widx)
    (hp : ∀ w l, (Tab.get? (f w).threads l).map pendings = (Tab.get? w.threads l).map pendings)
    (hv : ∀ w, (f w).vmap = w.vmap) (s : State) (m : Nat) : SameRows c n s (modSlot s c m f) := by
  refine ⟨.modSlot f hg hx hp s m, ?_⟩
  rw [slotAt_modSlot]
  split_ifs
  · exact hv _
  · rfl

/-! ## Rows -/

theorem SameRows.setRowWord (s : State) (c n row l : Nat) (x : Word) : SameRows c n s (setRowWord s c n row l x) := by
  unfold Machine.setRowWord
  refine .ite ?_ ?_
  · apply SameRows.modCore <;> exact fun _ => rfl
  · split
    · apply SameRows.modCore <;> exact fun _ => rfl
    · exact .refl s

theorem SameRows.setRow (s : State) (c n row : Nat) (ls : List Nat) (f : Nat → Word) : SameRows c n s (setRow s c n row ls f) :=
  .foldl (fun s l => .setRowWord s c n row l (f l)) ls s

theorem SameHome.setVmap (s : State) (c n v : Nat) (m : Option VMap) : SameHome c n s (setVmap s c n v m) := by
  apply SameHome.modSlot <;> intros <;> rfl

theorem SameRows.setCell (s : State) (c n v : Nat) (x : Option Word) : SameRows c n s (setCell s c n v x) := by
  apply SameRows.modSlot <;> intros <;> rfl

theorem vmap_setVmap (s : State) (c n v : Nat) (m : Option VMap) :
    (slotAt (setVmap s c n v m) c n).vmap = Tab.put (slotAt s c n).vmap v m := by
  rw [Machine.setVmap, slotAt_modSlot, if_pos rfl]

theorem SameHome.newRow (s : State) (c n v : Nat) (rel : Word) (f : Nat → Word) : SameHome c n s (newRow s c n v rel f) :=
  (SameHome.setVmap s c n v _).trans ((SameRows.setCell _ c n v none).trans (.setRow _ c n _ _ f)).toSameHome

theorem vmap_newRow (s : State) (c n v : Nat) (rel : Word) (f : Nat → Word) :
    (slotAt (newRow s c n v rel f) c n).vmap =
      Tab.set (slotAt s c n).vmap v { form := .full (allocRow s c n v), rel := rel } := by
  unfold newRow
  rw [(SameRows.setRow _ c n _ _ f).vmap, (SameRows.setCell _ c n v none).vmap, vmap_setVmap]
  rfl

/-! ## Writes of v registers (R121, R122) -/

/-- Whether a result is uniform and covers every live thread. -/
def coversLive (s : State) (c n : Nat) (a : Word) (uni : Bool) : Bool :=
  uni && (a &&& liveLanes (slotAt s c n) == liveLanes (slotAt s c n))

theorem coversLive_eq_true {s : State} {c n : Nat} {a : Word} {uni : Bool} :
    coversLive s c n a uni = true ↔ uni = true ∧ a &&& liveLanes (slotAt s c n) = liveLanes (slotAt s c n) := by
  rw [coversLive, Bool.and_eq_true, beq_iff_eq]

/-- The mapping that a write leaves a v register. -/
def mapAfter (s : State) (c n v : Nat) (a : Word) (uni : Bool) : VMap :=
  match Tab.get? (slotAt s c n).vmap v with
  | none => { form := if coversLive s c n a uni then .uniform else .full (allocRow s c n v), rel := 0 }
  | some { form := .uniform, rel := r } =>
    { form := if coversLive s c n a uni then .uniform else .full (allocRow s c n v), rel := r &&& ~~~a }
  | some { form := .full row, rel := r } => { form := .full row, rel := r &&& ~~~a }

/-- A write changes a table of mappings by what it leaves its register, and nothing else of where the rows lie. -/
theorem writeV_mapping (s : State) (c n v : Nat) (a : Word) (uni : Bool) (f : Nat → Word) :
    SameHome c n s (writeV s c n v a uni f) ∧
      (slotAt (writeV s c n v a uni f) c n).vmap = Tab.set (slotAt s c n).vmap v (mapAfter s c n v a uni) := by
  have huni : ∀ (m : VMap) (x : Word), SameHome c n s (setCell (setVmap s c n v (some m)) c n v (some x)) ∧
      (slotAt (setCell (setVmap s c n v (some m)) c n v (some x)) c n).vmap = Tab.set (slotAt s c n).vmap v m := fun m x =>
    ⟨(SameHome.setVmap s c n v _).trans (SameRows.setCell _ c n v _).toSameHome, by
      rw [(SameRows.setCell _ c n v _).vmap, vmap_setVmap]
      rfl⟩
  unfold writeV mapAfter
  dsimp only
  rw [← coversLive]
  cases hm : Tab.get? (slotAt s c n).vmap v with
  | none =>
    dsimp only
    split_ifs
    · exact huni _ _
    · exact ⟨.newRow .., vmap_newRow ..⟩
  | some m =>
    obtain ⟨form, rel⟩ := m
    cases form with
    | uniform =>
      dsimp only
      split_ifs
      · exact huni _ _
      · exact ⟨.newRow .., vmap_newRow ..⟩
    | full row =>
      refine ⟨(SameHome.setVmap s c n v _).trans (SameRows.setRow _ c n row _ f).toSameHome, ?_⟩
      dsimp only
      rw [(SameRows.setRow _ c n row _ f).vmap, vmap_setVmap]
      rfl

theorem SameHome.writeV (s : State) (c n v : Nat) (a : Word) (uni : Bool) (f : Nat → Word) :
    SameHome c n s (writeV s c n v a uni f) := (writeV_mapping s c n v a uni f).1

/-- Settles O33, by the mapping that the write leaves. -/
theorem writeChoosesTheForm : Obligations.WriteChoosesTheForm := by
  unfold Obligations.WriteChoosesTheForm
  intro s c n v a uni f
  dsimp only
  rw [(writeV_mapping s c n v a uni f).2, get?_set, if_pos rfl, ← coversLive_eq_true]
  refine ⟨fun hm => ⟨fun hc => ?_, fun hc => ?_⟩, fun r hm => ⟨fun hc => ?_, fun hc => ?_⟩, fun row r hm => ?_⟩
  · simp only [mapAfter, hm, hc, if_true]
  · simp only [mapAfter, hm, hc, if_false, Bool.false_eq_true]
  · simp only [mapAfter, hm, hc, if_true]
  · simp only [mapAfter, hm, hc, if_false, Bool.false_eq_true]
  · simp only [mapAfter, hm]

/-- The row of the mapping that a write leaves is of the register's bank and no other register's. -/
theorem mapAfter_row {s : State} {c n v : Nat} (h : Apart n (firstRow s c n) (ceiling s c n) (slotAt s c n).vmap)
    (hv : v < ceiling s c n) (a : Word) (uni : Bool) {r : Nat} (hr : (mapAfter s c n v a uni).form = .full r) :
    ((firstRow s c n ≤ r ∧ r < firstRow s c n + ceiling s c n) ∧ (r ^^^ n) % 8 = v % 8) ∧
      ∀ w m, Tab.get? (slotAt s c n).vmap w = some m → m.form = .full r → w = v := by
  have hnew : ∀ (hn : ∀ m r, Tab.get? (slotAt s c n).vmap v = some m → m.form ≠ .full r),
      (if coversLive s c n a uni then VForm.uniform else .full (allocRow s c n v)) = .full r →
      ((firstRow s c n ≤ r ∧ r < firstRow s c n + ceiling s c n) ∧ (r ^^^ n) % 8 = v % 8) ∧
        ∀ w m, Tab.get? (slotAt s c n).vmap w = some m → m.form = .full r → w = v := fun hn hf => by
    obtain ⟨h1, h2, h3⟩ := allocRow_free h hv hn
    split_ifs at hf
    obtain rfl := VForm.full.inj hf
    exact ⟨⟨h1, h2⟩, fun w m hw hf => absurd hf (h3 w m hw)⟩
  unfold mapAfter at hr
  split at hr
  · exact hnew (fun m r hm => by simp_all) hr
  · exact hnew (fun m r hm => by simp_all) hr
  · rename_i row rel hm
    obtain ⟨h1, h2, h3⟩ := h.row v _ r hm hr
    exact ⟨⟨⟨h1, h2⟩, h3⟩, fun w m hw hf => h.apart w v m _ r hw hm hf hr⟩

/-- A write of a register below the ceiling keeps the rows apart. -/
theorem RowsApart.writeV {s : State} {c n v : Nat} (hs : RowsApart s c n) (hv : v < ceiling s c n) (a : Word) (uni : Bool)
    (f : Nat → Word) : RowsApart (writeV s c n v a uni f) c n := by
  obtain ⟨hh, hm⟩ := writeV_mapping s c n v a uni f
  have ha := (rowsApart_iff.1 hs).1
  refine hh.rowsApart hs (hm ▸ ha.set hv (fun r hr => ?_) fun w m' r hw hr => ?_)
  · obtain ⟨⟨⟨h1, h2⟩, h3⟩, -⟩ := mapAfter_row ha hv a uni hr
    exact ⟨h1, h2, h3⟩
  · exact (mapAfter_row ha hv a uni hr).2 w m' hw

/-! ## Releases (R123) -/

theorem SameHome.freeV (s : State) (c n v : Nat) : SameHome c n s (freeV s c n v) :=
  (SameHome.setVmap s c n v none).trans (SameRows.setCell _ c n v none).toSameHome

theorem vmap_freeV (s : State) (c n v : Nat) : (slotAt (freeV s c n v) c n).vmap = Tab.del (slotAt s c n).vmap v := by
  unfold Machine.freeV
  rw [(SameRows.setCell _ c n v none).vmap, vmap_setVmap]
  rfl

theorem RowsApart.freeV {s : State} {c n : Nat} (hs : RowsApart s c n) (v : Nat) : RowsApart (freeV s c n v) c n :=
  (SameHome.freeV s c n v).rowsApart hs (vmap_freeV s c n v ▸ (rowsApart_iff.1 hs).1.del v)

/-- What keeps the rows where they lie and apart in every element of a fold keeps them so in the fold. -/
theorem rowsApart_foldl {α : Type} {c n : Nat} {f : State → α → State} {ls : List α}
    (hf : ∀ s, ∀ x ∈ ls, SameHome c n s (f s x)) {s₀ : State}
    (hr : ∀ s, ∀ x ∈ ls, SameHome c n s₀ s → RowsApart s c n → RowsApart (f s x) c n) {s : State} (h : SameHome c n s₀ s)
    (hs : RowsApart s c n) : SameHome c n s₀ (ls.foldl f s) ∧ RowsApart (ls.foldl f s) c n := by
  induction ls generalizing s with
  | nil => exact ⟨h, hs⟩
  | cons x r ih =>
    exact ih (fun s y hy => hf s y (List.mem_cons_of_mem _ hy)) (fun s y hy => hr s y (List.mem_cons_of_mem _ hy))
      (h.trans (hf s x List.mem_cons_self)) (hr s x List.mem_cons_self h hs)

theorem SameHome.sweepRel (s : State) (c n : Nat) : SameHome c n s (sweepRel s c n) :=
  .foldl (f := fun s (e : Nat × VMap) => Machine.freeV s c n e.1) (fun s e => .freeV s c n e.1) _ s

theorem RowsApart.sweepRel {s : State} {c n : Nat} (hs : RowsApart s c n) : RowsApart (sweepRel s c n) c n :=
  (rowsApart_foldl (f := fun s (e : Nat × VMap) => Machine.freeV s c n e.1) (fun s e _ => .freeV s c n e.1)
    (fun _ e _ _ h => RowsApart.freeV h e.1) (.refl s) hs).2

/-- A register's release mask, with lanes joined to it. -/
def joinRel (s : State) (c n v : Nat) (a : Word) : State :=
  modSlot s c n (fun w => { w with vmap := Tab.adjust w.vmap v (fun m => { m with rel := m.rel ||| a }) })

theorem releaseV_eq (s : State) (c n v : Nat) (a : Word) : releaseV s c n v a = sweepRel (joinRel s c n v a) c n := rfl

theorem SameHome.joinRel (s : State) (c n v : Nat) (a : Word) : SameHome c n s (joinRel s c n v a) := by
  apply SameHome.modSlot <;> intros <;> rfl

theorem slotAt_joinRel (s : State) (c n v : Nat) (a : Word) :
    slotAt (joinRel s c n v a) c n =
      { slotAt s c n with vmap := Tab.adjust (slotAt s c n).vmap v (fun m => { m with rel := m.rel ||| a }) } := by
  rw [Laws.joinRel, slotAt_modSlot, if_pos rfl]

theorem SameHome.releaseV (s : State) (c n v : Nat) (a : Word) : SameHome c n s (releaseV s c n v a) :=
  (SameHome.joinRel s c n v a).trans (.sweepRel _ c n)

theorem RowsApart.releaseV {s : State} {c n : Nat} (hs : RowsApart s c n) (v : Nat) (a : Word) :
    RowsApart (releaseV s c n v a) c n := by
  refine RowsApart.sweepRel ((SameHome.joinRel s c n v a).rowsApart hs ?_)
  rw [slotAt_joinRel]
  refine (rowsApart_iff.1 hs).1.adjustRel v (f := fun m => { m with rel := m.rel ||| a }) fun _ => rfl

/-- Freeing some registers takes them, and no others, out of the table. -/
theorem get?_vmap_foldl_freeV (es : List (Nat × VMap)) (s : State) (c n v : Nat) :
    Tab.get? (slotAt (es.foldl (fun s e => freeV s c n e.1) s) c n).vmap v =
      if v ∈ es.map Prod.fst then none else Tab.get? (slotAt s c n).vmap v := by
  induction es generalizing s with
  | nil => rfl
  | cons e r ih =>
    rw [List.foldl_cons, ih, vmap_freeV, get?_del, List.map_cons]
    by_cases hr : v ∈ r.map Prod.fst
    · rw [if_pos hr, if_pos (List.mem_cons_of_mem _ hr)]
    · simp only [hr, if_false, List.mem_cons, or_false, eq_comm (a := e.1)]

/-- A sweep takes a register out of the table where its release mask covers every live thread. -/
theorem get?_vmap_sweepRel {s : State} {c n v : Nat} {m : VMap} (ho : Tab.ordered (slotAt s c n).vmap = true)
    (hm : Tab.get? (slotAt s c n).vmap v = some m) :
    Tab.get? (slotAt (sweepRel s c n) c n).vmap v =
      if m.rel &&& liveLanes (slotAt s c n) = liveLanes (slotAt s c n) then none else some m := by
  have hmem : v ∈ ((slotAt s c n).vmap.filter fun e => e.2.rel &&& liveLanes (slotAt s c n) == liveLanes (slotAt s c n)).map
      Prod.fst ↔ m.rel &&& liveLanes (slotAt s c n) = liveLanes (slotAt s c n) := by
    simp only [List.mem_map, List.mem_filter, Prod.exists, exists_and_right, exists_eq_right, mem_iff_get? ho, hm,
      Option.some.injEq, beq_iff_eq]
    exact ⟨fun ⟨_, h, hr⟩ => h ▸ hr, fun h => ⟨m, rfl, h⟩⟩
  unfold Machine.sweepRel
  dsimp only
  rw [get?_vmap_foldl_freeV, hm]
  simp only [hmem]

/-- A last read takes a register out of the table, or joins its lanes to the release mask. -/
theorem get?_vmap_releaseV {s : State} {c n v : Nat} {m : VMap} (a : Word) (ho : Tab.ordered (slotAt s c n).vmap = true)
    (hm : Tab.get? (slotAt s c n).vmap v = some m) :
    Tab.get? (slotAt (releaseV s c n v a) c n).vmap v =
      if (m.rel ||| a) &&& liveLanes (slotAt s c n) = liveLanes (slotAt s c n) then none
      else some { m with rel := m.rel ||| a } := by
  have hj := slotAt_joinRel s c n v a
  rw [releaseV_eq, get?_vmap_sweepRel (m := { m with rel := m.rel ||| a })]
  · rw [hj]
    rfl
  · rw [hj]
    exact ordered_adjust v (fun m => { m with rel := m.rel ||| a }) ho
  · rw [hj]
    dsimp only
    rw [get?_adjust, if_pos rfl, hm]
    rfl

/-- A read of an absent register is dead (R124). -/
theorem deadV_absent {s : State} {v : Nat} (h : Tab.get? (slotAt s s.iss.core s.iss.slot).vmap v = none) (l : Nat) :
    deadV s v l = some (0x04, if ceiling s s.iss.core s.iss.slot ≤ v then 0x03 else 0x01) := by
  unfold deadV
  rw [h]
  split_ifs <;> rfl

/-- Settles O36, by the register's place in the table after its last read. -/
theorem releaseFreesAtFullCover : Obligations.ReleaseFreesAtFullCover := by
  unfold Obligations.ReleaseFreesAtFullCover
  intro s c n v a m ho hm
  have hr := get?_vmap_releaseV a ho hm
  refine ⟨fun hc => ?_, fun hc => ?_⟩
  · rw [if_pos hc] at hr
    refine ⟨hr, fun l => ?_⟩
    rw [← (SameHome.releaseV s c n v a).ceiling]
    exact deadV_absent (s := { releaseV s c n v a with iss := { (releaseV s c n v a).iss with core := c, slot := n } }) hr l
  · rwa [if_neg hc] at hr

end Sys2Proof.Laws
end

section
/-! SUPPORT. The pool byte by byte, and what taking a trap leaves (O22). -/

namespace Sys2Proof.Laws
open Sys2Proof.Machine Sys2Proof.Claims

/-! ## The pool: read after write -/

theorem poolWord_setPoolWord (k : Core) (i j : Nat) (x : Word) :
    poolWord (setPoolWord k i x) j = if i = j then x else poolWord k j := by
  simp only [poolWord, setPoolWord, getD_put]
  split_ifs with hi hx
  · exact hx.symm
  · rfl
  · rfl

/-- Byte `q` of a word in which byte `r` is replaced. -/
theorem extractLsb'_replaceByte (w : Word) (b : Byte) {r q : Nat} (hq : q < 4) :
    ((w &&& ~~~((0xFF : Word) <<< (8 * r))) ||| ((b.setWidth 32) <<< (8 * r))).extractLsb' (8 * q) 8 =
      if r = q then b else w.extractLsb' (8 * q) 8 := by
  have hff : ∀ i, (0xFF : Word).getLsbD i = decide (i < 8) := fun i => by
    rw [show (0xFF : Word) = BitVec.setWidth 32 (BitVec.allOnes 8) from rfl, BitVec.getLsbD_setWidth, BitVec.getLsbD_allOnes]
    simp only [Bool.and_eq_right_iff_imp, decide_eq_true_eq]
    omega
  refine BitVec.eq_of_getLsbD_eq fun i hi => ?_
  have hp : 8 * q + i < 32 := by omega
  simp only [BitVec.getLsbD_extractLsb', BitVec.getLsbD_or, BitVec.getLsbD_and, BitVec.getLsbD_not, BitVec.getLsbD_shiftLeft,
    BitVec.getLsbD_setWidth, hff, hi, hp, decide_true, Bool.true_and]
  rcases lt_trichotomy r q with h | rfl | h
  · have h1 : ¬8 * q + i < 8 * r := by omega
    have h2 : ¬8 * q + i - 8 * r < 8 := by omega
    simp [h.ne, h1, h2, BitVec.getLsbD_of_ge b _ (not_lt.1 h2), hi]
  · simp [hi]
    omega
  · have h1 : 8 * q + i < 8 * r := by omega
    simp [h.ne', h1, hi]

theorem poolByte_setPoolByte (k : Core) (a j : Nat) (b : Byte) :
    poolByte (setPoolByte k a b) j = if a = j then b else poolByte k j := by
  unfold poolByte setPoolByte
  rw [poolWord_setPoolWord]
  by_cases hw : a / 4 = j / 4
  · rw [if_pos hw, hw, extractLsb'_replaceByte _ _ (Nat.mod_lt _ (by decide))]
    by_cases h : a = j
    · rw [if_pos h, if_pos (by omega)]
    · rw [if_neg h, if_neg (by omega)]
  · rw [if_neg hw, if_neg (by omega)]

theorem poolByte_setPoolBytes (k : Core) (a j : Nat) (bs : List Byte) :
    poolByte (setPoolBytes k a bs) j = if a ≤ j ∧ j < a + bs.length then bs.getD (j - a) 0 else poolByte k j := by
  induction bs generalizing k a with
  | nil => simp [setPoolBytes]
  | cons b r ih =>
    rw [setPoolBytes, ih, poolByte_setPoolByte, List.length_cons]
    by_cases h : a = j
    · subst h
      simp
    · by_cases h2 : a + 1 ≤ j ∧ j < a + 1 + r.length
      · rw [if_pos h2, if_pos (by omega), show j - a = j - (a + 1) + 1 by omega, List.getD_cons_succ]
      · rw [if_neg h2, if_neg h, if_neg (by omega)]

theorem poolBytes_eq_map (k : Core) (a n : Nat) : poolBytes k a n = (List.range n).map fun i => poolByte k (a + i) := by
  induction n generalizing a with
  | zero => rfl
  | succ n ih =>
    rw [poolBytes, ih, List.range_succ_eq_map, List.map_cons, List.map_map]
    refine congrArg _ (List.map_congr_left fun i _ => ?_)
    rw [Function.comp_apply, show a + 1 + i = a + (i + 1) by omega]

/-- Bytes read back from where they were written. -/
theorem poolBytes_setPoolBytes (k : Core) (a : Nat) (bs : List Byte) : poolBytes (setPoolBytes k a bs) a bs.length = bs := by
  rw [poolBytes_eq_map]
  refine List.ext_getElem (by simp) fun i _ hi => ?_
  rw [List.getElem_map, List.getElem_range, poolByte_setPoolBytes, if_pos (by omega), Nat.add_sub_cancel_left,
    List.getD_eq_getElem _ _ hi]

/-- A write of bytes changes a core's pool and its dirty blocks alone. -/
theorem setPoolBytes_eq (k : Core) (a : Nat) (bs : List Byte) :
    ∃ pool clean, setPoolBytes k a bs = { k with pool := pool, cleanPool := clean } := by
  induction bs generalizing k a with
  | nil => exact ⟨_, _, rfl⟩
  | cons b r ih =>
    obtain ⟨pool, clean, h⟩ := ih (setPoolByte k a b) (a + 1)
    exact ⟨pool, clean, h⟩

/-! ## Records (R224) -/

theorem length_wordsBytes (ws : List DWord) : (wordsBytes ws).length = 8 * ws.length := by
  induction ws with
  | nil => rfl
  | cons w r ih =>
    rw [wordsBytes, List.flatMap_cons, List.length_append, length_bytesOf, ← wordsBytes, ih, List.length_cons]
    omega

theorem length_recordWords {d : DugEntry} (h : d.addrs.length ≤ 32) (cbase : DWord) (prog : Nat) :
    (recordWords d cbase prog).length = 40 := by
  simp only [recordWords, List.length_append, List.length_cons, List.length_nil, List.length_replicate]
  omega

theorem freeKey_lt {α : Type} {t : Tab α} {n k e : Nat} (h : Tab.freeKey t n k = some e) : e < k + n := by
  induction n generalizing k with
  | zero => cases h
  | succ n ih =>
    rw [Tab.freeKey] at h
    split_ifs at h
    · obtain rfl := Option.some.inj h
      omega
    · have := ih h
      omega

/-! ## A fold over lanes -/

/-- What no step of a fold changes the fold does not change. -/
theorem foldl_same {α β : Type} {f : State → α → State} {g : State → β} (hf : ∀ s x, g (f s x) = g s) (ls : List α) (s : State) :
    g (ls.foldl f s) = g s := by
  induction ls generalizing s with
  | nil => rfl
  | cons x r ih => rw [List.foldl_cons, ih, hf]

/-- Each lane's thread after a change of the threads in some lanes. -/
theorem threadAt_foldl_modThread (c n : Nat) (f : Nat → Thread → Thread) {ls : List Nat} (hd : ls.Nodup) (s : State) (k : Nat) :
    threadAt (ls.foldl (fun s l => modThread s c n l (f l)) s) c n k =
      if k ∈ ls then (threadAt s c n k).map (f k) else threadAt s c n k := by
  induction ls generalizing s with
  | nil => rfl
  | cons l r ih =>
    obtain ⟨hl, hr⟩ := List.nodup_cons.1 hd
    rw [List.foldl_cons, ih hr, threadAt_modThread]
    by_cases hk : l = k
    · subst hk
      rw [if_neg hl, if_pos rfl, if_pos List.mem_cons_self]
    · simp only [hk, if_false, List.mem_cons, Ne.symm hk, false_or]

/-! ## The entry of a trap (R222, R224) -/

/-- The entry of the dugout that a trap of some lanes of a slot records. -/
def trapEntry (s : State) (c n : Nat) (ls : List Nat) (t : TrapInfo) (pc : Word) (op : Nat) (addrs : List DWord) : DugEntry :=
  { slot := n, lanes := maskOf ls, pc := pc, cause := t.cause, detail := t.detail, hm := slotHm s c n
    eng := t.eng.isSome, tag := (t.eng.map Prod.fst).getD 0, qix := (t.eng.map (fun x => x.2.1)).getD 0
    addrs := pageAddrs addrs
    info := infoWord op ((threadAt s c n (ls.headD 0)).bind Thread.handler).isSome t.info, seq := s.stamp }

/-- The bytes of its record. -/
def trapRecord (s : State) (c n : Nat) (ls : List Nat) (t : TrapInfo) (pc : Word) (op : Nat) (addrs : List DWord) : List Byte :=
  wordsBytes (recordWords (trapEntry s c n ls t pc op addrs) (((threadAt s c n (ls.headD 0)).map Thread.cbase).getD 0)
    ((t.eng.map (fun x => x.2.2)).getD 0))

/-- The state in which its entry is taken. -/
def trapNoted (s : State) (c n : Nat) (ls : List Nat) (t : TrapInfo) (pc : Word) (op : Nat) (addrs : List DWord) (e : Nat) : State :=
  modCore { s with stamp := s.stamp + 1 } c (fun k => { k with dugout := Tab.set k.dugout e (trapEntry s c n ls t pc op addrs) })

/-- A lane's thread parks in an entry. -/
def parkIn (e : Nat) (pc : Word) (kept : Tab DWord) (th : Thread) : Thread := { th with st := .parked e, pc := pc, kept := kept }

/-- Taking a trap takes an entry, writes its record, and then parks each lane's thread. -/
theorem parkGroup_eq {s : State} {c e : Nat} (he : dugoutFree (coreAt s c) = some e) (n : Nat) (ls : List Nat) (t : TrapInfo)
    (pc : Word) (op : Nat) (addrs : List DWord) (kept : Nat → Tab DWord) :
    parkGroup s c n ls t pc op addrs kept = ls.foldl (fun s l => modThread s c n l (parkIn e pc (kept l)))
      (umpSpadWrite (trapNoted s c n ls t pc op addrs e) c (320 * e) (trapRecord s c n ls t pc op addrs)) := by
  unfold parkGroup
  rw [he]
  rfl

/-- Bytes written to the first page of the umpire's scratchpad stand there; the core's slots and dugout, and memory, stay. -/
theorem umpSpadWrite_effect (s : State) (c : Nat) {o : Nat} (ho : o < 16384) (bs : List Byte) :
    ((coreAt (umpSpadWrite s c o bs) c).slots = (coreAt s c).slots ∧
      (coreAt (umpSpadWrite s c o bs) c).dugout = (coreAt s c).dugout ∧ (umpSpadWrite s c o bs).mem = s.mem) ∧
    ∀ p, pageWith (coreAt s c) 16 2 0 = some p →
      poolBytes (coreAt (umpSpadWrite s c o bs) c) (p * 16384 + o) bs.length = bs := by
  unfold umpSpadWrite
  rw [Nat.div_eq_of_lt ho, Nat.mod_eq_of_lt ho]
  cases hp : pageWith (coreAt s c) 16 2 0 with
  | none => exact ⟨⟨rfl, rfl, rfl⟩, fun p h => by cases h⟩
  | some p =>
    dsimp only
    rw [coreAt_modCore_same, modCore_mem]
    refine ⟨?_, fun q hq => ?_⟩
    · obtain ⟨_, _, h⟩ := setPoolBytes_eq (coreAt s c) (p * 16384 + o) bs
      rw [h]
      exact ⟨rfl, rfl, rfl⟩
    · obtain rfl := Option.some.inj hq
      exact poolBytes_setPoolBytes _ _ _

theorem threadAt_congr {s t : State} {c : Nat} (h : (coreAt t c).slots = (coreAt s c).slots) (n l : Nat) :
    threadAt t c n l = threadAt s c n l := by
  unfold threadAt slotAt
  rw [h]

/-- A change of a thread leaves the core's pool and dugout, and memory. -/
theorem coreAt_modThread (s : State) (c n l : Nat) (f : Thread → Thread) :
    (coreAt (modThread s c n l f) c).dugout = (coreAt s c).dugout ∧ (coreAt (modThread s c n l f) c).pool = (coreAt s c).pool := by
  unfold modThread modSlot
  rw [coreAt_modCore_same]
  exact ⟨rfl, rfl⟩

/-- Threads that park leave memory and the core's pool and dugout. -/
theorem foldl_parkIn (v : State) (c n e : Nat) (pc : Word) (kept : Nat → Tab DWord) (ls : List Nat) :
    let t := ls.foldl (fun s l => modThread s c n l (parkIn e pc (kept l))) v
    t.mem = v.mem ∧ (coreAt t c).dugout = (coreAt v c).dugout ∧ (coreAt t c).pool = (coreAt v c).pool :=
  ⟨foldl_same (g := State.mem) (f := fun s l => modThread s c n l (parkIn e pc (kept l))) (fun _ _ => rfl) ls v,
    foldl_same (g := fun s => (coreAt s c).dugout) (fun s l => (coreAt_modThread s c n l _).1) ls v,
    foldl_same (g := fun s => (coreAt s c).pool) (fun s l => (coreAt_modThread s c n l _).2) ls v⟩

theorem poolBytes_congr {k k' : Core} (h : k'.pool = k.pool) (a n : Nat) : poolBytes k' a n = poolBytes k a n := by
  simp only [poolBytes_eq_map, poolByte, poolWord, h]

section
variable {s : State} {c e : Nat} (he : dugoutFree (coreAt s c) = some e) (n : Nat) (ls : List Nat) (t : TrapInfo) (pc : Word)
  (op : Nat) (addrs : List DWord) (kept : Nat → Tab DWord)

theorem slots_trapNoted : (coreAt (trapNoted s c n ls t pc op addrs e) c).slots = (coreAt s c).slots := by
  rw [trapNoted, coreAt_modCore_same]
  rfl

include he

theorem record_lt : 320 * e < 16384 := by
  have := freeKey_lt he
  omega

theorem mem_parkGroup : (parkGroup s c n ls t pc op addrs kept).mem = s.mem := by
  rw [parkGroup_eq he, (foldl_parkIn _ c n e pc kept ls).1]
  exact (umpSpadWrite_effect _ c (record_lt he) _).1.2.2

theorem dugout_parkGroup : (coreAt (parkGroup s c n ls t pc op addrs kept) c).dugout =
    Tab.set (coreAt s c).dugout e (trapEntry s c n ls t pc op addrs) := by
  rw [parkGroup_eq he, (foldl_parkIn _ c n e pc kept ls).2.1,
    (umpSpadWrite_effect _ c (record_lt he) _).1.2.1, trapNoted, coreAt_modCore_same]
  rfl

theorem record_parkGroup (ha : (pageAddrs addrs).length ≤ 32) {p : Nat} (hp : pageWith (coreAt s c) 16 2 0 = some p) :
    poolBytes (coreAt (parkGroup s c n ls t pc op addrs kept) c) (p * 16384 + 320 * e) 320 = trapRecord s c n ls t pc op addrs := by
  have hlen : (trapRecord s c n ls t pc op addrs).length = 320 := by
    rw [trapRecord, length_wordsBytes, length_recordWords ha]
  have hp' : pageWith (coreAt (trapNoted s c n ls t pc op addrs e) c) 16 2 0 = some p := by
    rw [← hp, trapNoted, coreAt_modCore_same]
    rfl
  have hw := (umpSpadWrite_effect _ c (record_lt he) (trapRecord s c n ls t pc op addrs)).2 p hp'
  rw [hlen] at hw
  rw [parkGroup_eq he, poolBytes_congr (foldl_parkIn _ c n e pc kept ls).2.2]
  exact hw

theorem threadAt_parkGroup {ls : List Nat} (hd : ls.Nodup) (l : Nat) :
    threadAt (parkGroup s c n ls t pc op addrs kept) c n l =
      if l ∈ ls then (threadAt s c n l).map (parkIn e pc (kept l)) else threadAt s c n l := by
  rw [parkGroup_eq he, threadAt_foldl_modThread c n (fun l => parkIn e pc (kept l)) hd]
  have hs := (umpSpadWrite_effect (trapNoted s c n ls t pc op addrs e) c (record_lt he) (trapRecord s c n ls t pc op addrs)).1.1
  rw [threadAt_congr (hs.trans (slots_trapNoted n ls t pc op addrs))]

end

/-- Settles O22: the entry and its record are written before the threads park, which leaves both. -/
theorem trapEntryRecordsThePath : Obligations.TrapEntryRecordsThePath := by
  unfold Obligations.TrapEntryRecordsThePath
  intro s c n ls t pc op addrs kept e he hd ha
  dsimp only
  rw [dugout_parkGroup he]
  refine ⟨⟨trapEntry s c n ls t pc op addrs, by rw [get?_set, if_pos rfl], rfl, rfl, rfl, rfl, rfl, rfl, rfl, fun p hp => ?_⟩,
    fun j hj => ?_, fun l hl th hth => ?_, fun l hl => ?_, mem_parkGroup he n ls t pc op addrs kept⟩
  · exact record_parkGroup he n ls t pc op addrs kept ha hp
  · rw [get?_set, if_neg hj.symm]
  · rw [threadAt_parkGroup he n t pc op addrs kept hd, if_pos hl, hth]
    rfl
  · rw [threadAt_parkGroup he n t pc op addrs kept hd, if_neg hl]

end Sys2Proof.Laws
end

section
/-! SUPPORT. A computing instruction, from its results to its end, keeps its warp's rows apart (O34). -/

namespace Sys2Proof.Laws
open Sys2Proof.Machine Sys2Proof.Claims

/-! ## Changes that leave the rows -/

namespace SameRows
variable {c n : Nat}

/-- A change outside the core, the workgroups and the issuing path. -/
theorem of_coreAt {s t : State} (hc : coreAt t c = coreAt s c) (hi : t.iss = s.iss) (hw : t.wgs = s.wgs) : SameRows c n s t := by
  refine ⟨⟨hi, hw, ?_, ?_, ?_, ?_, fun l => ?_⟩, ?_⟩ <;> simp only [threadAt, slotAt, hc]

theorem modQuarter (s : State) (d q : Nat) (f : Quarter → Quarter) : SameRows c n s (modQuarter s d q f) := by
  apply SameRows.modCore <;> exact fun _ => rfl

theorem writeLatch (s : State) (d q i : Nat) (res : List (Nat × DWord)) : SameRows c n s (writeLatch s d q i res) :=
  .modQuarter s d q _

theorem modThread {f : Thread → Thread} (hf : ∀ t, pendings (f t) = pendings t) (s : State) (d m l : Nat) :
    SameRows c n s (modThread s d m l f) := by
  by_cases hd : d = c
  · subst hd
    apply SameRows.modSlot
    case hp =>
      intro w k
      dsimp only
      rw [get?_adjust]
      split_ifs
      · rw [Option.map_map]
        exact congrArg (Option.map · _) (funext hf)
      · rfl
    all_goals exact fun _ => rfl
  · exact of_coreAt (by rw [Machine.modThread, Machine.modSlot, coreAt_modCore, if_neg hd]) rfl rfl

theorem stepThread (s : State) (d m l : Nat) (sh : Shape) (nw : Word) (o : Option Out) :
    SameRows c n s (Machine.modThread s d m l (stepThread sh nw o)) :=
  .modThread (f := Machine.stepThread sh nw o) (fun _ => rfl) s d m l

theorem bumpEvent (s : State) (d e k : Nat) : SameRows c n s (bumpEvent s d e k) := by
  apply SameRows.modCore <;> exact fun _ => rfl

theorem creditEvent (s : State) (d : Nat) (hm : Hm) (top : Half) (e k : Nat) : SameRows c n s (creditEvent s d hm top e k) := by
  apply SameRows.modCore <;> exact fun _ => rfl

theorem count (s : State) (e k : Nat) : SameRows c n s (count s e k) :=
  (SameRows.bumpEvent s _ e k).trans (.creditEvent _ _ _ _ e k)

theorem countIssue (s0 s : State) (rs : List Rd) : SameRows c n s (countIssue s0 s rs) := by
  unfold Machine.countIssue
  dsimp only
  split
  · exact .count s _ _
  · exact (SameRows.count s _ _).trans (.count _ _ _)

end SameRows

/-- Each thread of a slot after a change of all of them. -/
theorem get?_mapThreads (w : Slot) (f : Thread → Thread) (l : Nat) :
    Tab.get? (mapThreads w f).threads l = (Tab.get? w.threads l).map f := by
  unfold mapThreads
  induction w.threads with
  | nil => rfl
  | cons e r ih =>
    obtain ⟨k, t⟩ := e
    simp only [List.map_cons, Tab.get?] at ih ⊢
    split_ifs
    · rfl
    · exact ih

/-- A change of threads that leaves what is pending for each of them. -/
theorem map_pendings {f : Thread → Thread} (hf : ∀ t, pendings (f t) = pendings t) (o : Option Thread) :
    (o.map f).map pendings = o.map pendings := by
  rw [Option.map_map]
  exact congrArg (Option.map · o) (funext hf)

theorem pendings_arrive (t : Thread) : pendings (arrive t) = pendings t := by
  unfold arrive
  split_ifs <;> rfl

theorem pendings_depart (w : Slot) (t : Thread) : pendings (depart w t) = pendings t := by
  unfold depart
  split_ifs <;> rfl

theorem pendings_stopAt (s : State) (sp : Option LiveMask) (edge : Bool) (t : Thread) :
    pendings (stopAt s sp edge t) = pendings t := by
  unfold stopAt
  repeat' split
  all_goals rfl

namespace SameRows
variable {c n : Nat}

theorem meetings (s : State) (m : Nat) : SameRows c n s (meetings s c m) := by
  apply SameRows.modSlot
  case hp =>
    intro w l
    rw [get?_mapThreads, get?_mapThreads, map_pendings (pendings_depart _), map_pendings pendings_arrive]
  all_goals exact fun _ => rfl

theorem stopAll (s : State) (m : Nat) : SameRows c n s (Machine.modSlot s c m fun w =>
    mapThreads w fun t => if t.st == .exited then t else stopAt s none false t) := by
  apply SameRows.modSlot
  case hp =>
    intro w l
    rw [get?_mapThreads]
    refine map_pendings (fun t => ?_) _
    split_ifs
    · rfl
    · exact pendings_stopAt ..
  all_goals exact fun _ => rfl

theorem stopLanes (s : State) (sh : Shape) (ls : List Nat) : SameRows c n s (stopLanes s sh ls) :=
  .foldl (fun s l => .modThread (pendings_stopAt s sh.head.sp sh.edge) s _ _ l) ls s

theorem clearWalked (s : State) (w : Waiter) : SameRows c n s (clearWalked s w) := of_coreAt rfl rfl rfl

theorem closeRun (s : State) (d q : Nat) : SameRows c n s (closeRun s d q) := by
  unfold Machine.closeRun
  split
  · exact .refl s
  · exact (SameRows.modQuarter s d q _).trans (.modQuarter _ d q _)

theorem digestRun (s : State) (d : Nat) (r : Run) : SameRows c n s (digestRun s d r) := by
  unfold Machine.digestRun
  split
  · exact .refl s
  · exact .ite (of_coreAt rfl rfl rfl) (.refl s)

/-- A core that writes no run records ends a run without one. -/
theorem finishRun {s : State} (ht : (coreAt s c).trcctl.getLsbD 1 = false) (q endc : Nat) :
    SameRows c n s (finishRun s c q endc) := by
  unfold Machine.finishRun
  split
  · exact .refl s
  · rename_i r _
    have hr : runRecord (Machine.clearWalked s (.core c r.slot)) c r endc = Machine.clearWalked s (.core c r.slot) := by
      unfold runRecord bitAt
      rw [show (coreAt (Machine.clearWalked s (.core c r.slot)) c).trcctl.getLsbD 1 = false from ht]
      rfl
    rw [hr]
    exact (clearWalked s _).trans ((digestRun _ c r).trans (closeRun _ c q))

theorem keepLatches {s : State} (ht : (coreAt s c).trcctl.getLsbD 1 = false) (q : Nat) : SameRows c n s (keepLatches s c q) := by
  unfold Machine.keepLatches
  dsimp only
  split
  · exact .refl s
  · rename_i r _
    have hk : SameRows c n s (storeLatches s c r (quarterAt s c q).latches) := by
      apply SameRows.modSlot <;> intros <;> rfl
    split_ifs
    · exact hk.trans (finishRun (hk.trcctl ▸ ht) q 6)
    · exact finishRun ht q 6

/-- What follows an instruction on a core that writes no run records (R172, R218, R240). -/
theorem afterInstr {s : State} (ht : (coreAt s s.iss.core).trcctl.getLsbD 1 = false) (sh : Shape)
    (trapped stayed ended taken : Bool) :
    SameRows s.iss.core n s (afterInstr s sh trapped stayed ended taken) := by
  have h1 : SameRows s.iss.core n s (Machine.modSlot
      (Machine.meetings (Machine.clearWalked s (.core s.iss.core s.iss.slot)) s.iss.core s.iss.slot) s.iss.core s.iss.slot fun w =>
        Machine.mapThreads w fun t => if t.st == .exited then t else
          stopAt (Machine.meetings (Machine.clearWalked s (.core s.iss.core s.iss.slot)) s.iss.core s.iss.slot) none false t) :=
    (clearWalked s _).trans ((meetings _ _).trans (stopAll _ _))
  unfold Machine.afterInstr
  dsimp only
  split
  · exact h1
  · have h2 := fun f => h1.trans (modQuarter (n := n) _ s.iss.core s.iss.quarter f)
    have hend := fun f k => (h2 f).trans (finishRun (by rw [(h2 f).trcctl]; exact ht) s.iss.quarter k)
    have hcount := fun f k => ((h2 f).trans (count _ 0x03 1)).trans
      (finishRun (by rw [((h2 f).trans (count _ 0x03 1)).trcctl]; exact ht) s.iss.quarter k)
    have hkeep := fun f => (h2 f).trans (keepLatches (by rw [(h2 f).trcctl]; exact ht) s.iss.quarter)
    exact .ite (hend _ _) (.ite (hend _ _) (.ite (hcount _ _) (.ite (.ite (hend _ _) (hkeep _)) (.ite (hcount _ _)
      (.ite (hend _ _) (.ite (hcount _ _) (.ite (hend _ _) (.ite (hend _ _) (.ite (hend _ _) (h2 _))))))))))

end SameRows

/-- A path without pending signals goes on at a safe point as it was (R239). -/
theorem foldl_deliverPending {s t : State} (hs : Unsignalled s) (h : SameHome s.iss.core s.iss.slot s t) :
    (pathLanes s).foldl (fun t l => deliverPending t s.iss.core s.iss.slot l) t = t := by
  have hstay : ∀ l ∈ pathLanes s, deliverPending t s.iss.core s.iss.slot l = t := fun l hl => by
    have hp := h.pending l
    unfold deliverPending
    split
    · rfl
    · rename_i th hth
      rw [hth] at hp
      obtain ⟨th0, hth0, hpe⟩ := Option.map_eq_some_iff.1 hp.symm
      obtain ⟨h52, h71⟩ := hs l hl th0 hth0
      obtain ⟨e52, e71⟩ := Prod.mk.inj hpe
      rw [if_pos]
      simp [mayDeliver, ← e52, ← e71, h52, h71]
  generalize pathLanes s = ls at hstay
  induction ls with
  | nil => rfl
  | cons l r ih =>
    rw [List.foldl_cons, hstay l List.mem_cons_self]
    exact ih fun k hk => hstay k (List.mem_cons_of_mem _ hk)

/-! ## The results of a path -/

/-- A path's latch takes its results; in latch 3 they are no load's. -/
def latchResults (s : State) (c n q : Nat) (sh : Shape) (outs : List (Nat × Out)) : State :=
  match sh.latch with
  | some k =>
    if outs.isEmpty then s
    else
      let s := writeLatch s c q k (outs.map (fun e => (e.1, BitVec.ofNat 64 e.2.val)))
      if k = 3 then modSlot s c n (fun w => { w with loads := w.loads.map (fun p => { p with latch := false }) }) else s
  | none => s

/-- A load that returns later is pending from its issue. -/
def pendLoad (s : State) (i : Iss) (sh : Shape) (outs : List (Nat × Out)) : State :=
  if sh.load && !outs.isEmpty then
    modSlot s i.core i.slot (fun w =>
      { w with loads := w.loads ++ [{ id := s.fresh, lanes := maskOf (outs.map Prod.fst), regs := dstRegs sh.dst sh.words,
                                      pc := i.pc, latch := true, hm := accessHm s i.core i.slot }] })
  else s

theorem commitLanes_eq (s : State) (sh : Shape) (rs : List Rd) (uni : Bool) (ls : List Nat) (outs : List (Nat × Out)) :
    commitLanes s sh rs uni ls outs =
      ls.foldl (fun t l => modThread t s.iss.core s.iss.slot l
          (stepThread sh (nextWord s sh.head) ((outs.find? (fun e => e.1 = l)).map Prod.snd)))
        (pendLoad (latchResults (writeResult (releaseReads s rs ls) sh uni outs) s.iss.core s.iss.slot s.iss.quarter sh outs)
          s.iss sh outs) := rfl

theorem SameRows.modLoads {c n : Nat} (s : State) (f : List PendLoad → List PendLoad) :
    SameRows c n s (Machine.modSlot s c n fun w => { w with loads := f w.loads }) := by
  apply SameRows.modSlot <;> intros <;> rfl

/-- A change that leaves a warp's rows where they lie, and apart. -/
structure KeepsRows (c n : Nat) (s t : State) : Prop where
  home : SameHome c n s t
  apart : RowsApart t c n

namespace KeepsRows
variable {c n : Nat} {s t u : State}

theorem andThen (h : KeepsRows c n s t) (h' : SameRows c n t u) : KeepsRows c n s u :=
  ⟨h.home.trans h'.toSameHome, h'.rowsApart h.apart⟩

theorem ite {p : Prop} [Decidable p] (h : KeepsRows c n s t) (h' : KeepsRows c n s u) :
    KeepsRows c n s (if p then t else u) := by
  split_ifs
  · exact h
  · exact h'

/-- A fold of changes of registers that the warp's ceiling admits. -/
theorem foldl {α : Type} {f : State → α → State} {ls : List α} (h : KeepsRows c n s t)
    (hf : ∀ u, ∀ x ∈ ls, SameHome c n u (f u x))
    (hr : ∀ u, ∀ x ∈ ls, SameHome c n s u → RowsApart u c n → RowsApart (f u x) c n) : KeepsRows c n s (ls.foldl f t) := by
  obtain ⟨hh, ha⟩ := rowsApart_foldl hf hr h.home h.apart
  exact ⟨hh, ha⟩

theorem releaseReads (h : KeepsRows s.iss.core s.iss.slot s t) (rs : List Rd) (ls : List Nat) :
    KeepsRows s.iss.core s.iss.slot s (releaseReads t rs ls) := by
  unfold Machine.releaseReads
  rw [h.home.iss]
  dsimp only
  split_ifs
  · exact h
  · refine andThen (h.foldl (fun u v _ => .releaseV u _ _ v _) fun u v _ _ hu => RowsApart.releaseV hu v _) (.foldl (fun u r => ?_) _ _)
    apply SameRows.modSlot <;> intros <;> rfl

/-- A destination that passes its check lies below the ceiling (R120). -/
theorem writeResult (h : KeepsRows s.iss.core s.iss.slot s t) {sh : Shape} (uni : Bool) {outs : List (Nat × Out)}
    (hd : outs ≠ [] → destCheck s sh.dst sh.words = none) : KeepsRows s.iss.core s.iss.slot s (writeResult t sh uni outs) := by
  unfold Machine.writeResult
  rw [h.home.iss]
  dsimp only
  split_ifs with he
  · exact h
  replace hd := hd fun h => he (h ▸ rfl)
  split
  · rename_i d hdst
    have hk : d.toNat + sh.words ≤ ceiling s s.iss.core s.iss.slot := by
      simpa [destCheck, hdst] using hd
    refine h.foldl (fun u k _ => .writeV ..) fun u k hk' hu ha => RowsApart.writeV ha ?_ ..
    rw [hu.ceiling]
    have := List.mem_range.1 hk'
    omega
  · refine h.andThen (.foldl (fun u k => ?_) _ _)
    apply SameRows.modSlot <;> intros <;> rfl
  · exact h
  · exact h

theorem latchResults (h : KeepsRows c n s t) (q : Nat) (sh : Shape) (outs : List (Nat × Out)) :
    KeepsRows c n s (latchResults t c n q sh outs) := by
  unfold Laws.latchResults
  split
  · refine .ite h ?_
    have hw := fun i res => h.andThen (.writeLatch t c q i res)
    exact .ite ((hw _ _).andThen (.modLoads _ _)) (hw _ _)
  · exact h

theorem pendLoad (h : KeepsRows s.iss.core s.iss.slot s t) (sh : Shape) (outs : List (Nat × Out)) :
    KeepsRows s.iss.core s.iss.slot s (pendLoad t s.iss sh outs) :=
  .ite (h.andThen (.modLoads _ (· ++ _))) h

theorem commitLanes (h : KeepsRows s.iss.core s.iss.slot s t) {sh : Shape} (rs : List Rd) (uni : Bool) (ls : List Nat)
    {outs : List (Nat × Out)} (hd : outs ≠ [] → destCheck s sh.dst sh.words = none) :
    KeepsRows s.iss.core s.iss.slot s (commitLanes t sh rs uni ls outs) := by
  rw [commitLanes_eq, h.home.iss]
  have hl := ((h.releaseReads rs ls).writeResult uni hd).latchResults s.iss.quarter sh outs
  exact andThen (hl.pendLoad sh outs) (.foldl (fun u l => .stepThread u _ _ l sh _ _) _ _)

end KeepsRows

/-- An instruction that completes and whose lanes change nothing keeps its warp's rows apart. -/
theorem rowsApart_completed {s : State} {sh : Shape} {rs : List Rd} {outs : List (Nat × Out)} (ha : Alone s)
    (hs : RowsApart s s.iss.core s.iss.slot) (hd : outs ≠ [] → destCheck s sh.dst sh.words = none) :
    RowsApart (completed s sh rs (begun s) outs) s.iss.core s.iss.slot := by
  obtain ⟨htrace, -, hsig⟩ := ha
  have h0 : KeepsRows s.iss.core s.iss.slot (begun s) (begun s) := ⟨.refl _, hs⟩
  have h1 := ((h0.andThen (.countIssue s _ rs)).commitLanes (s := begun s) rs
    (sh.uni.getD (!sh.perLane && rs.all (srcUniform s))) (pathLanes s) hd).andThen (.stopLanes _ sh (pathLanes s))
  have hdel : ∀ {u : State}, KeepsRows s.iss.core s.iss.slot (begun s) u →
      (pathLanes s).foldl (fun t l => deliverPending t s.iss.core s.iss.slot l) u = u :=
    fun h => foldl_deliverPending (s := begun s) hsig h.home
  unfold completed
  dsimp only
  rw [hdel h1, ite_self]
  generalize Machine.stopLanes _ sh (pathLanes s) = u at h1
  have hcore : u.iss.core = s.iss.core := (congrArg Iss.core h1.home.iss).trans rfl
  have hctl : (coreAt u s.iss.core).trcctl = (coreAt s s.iss.core).trcctl := h1.home.trcctl
  have hlast := SameRows.afterInstr (n := s.iss.slot) (s := u) (by rw [hcore, hctl]; exact htrace) sh false false
    (!(pathLanes s).isEmpty) (outs.any fun e => e.2.taken)
  exact (hcore ▸ hlast).rowsApart h1.apart

end Sys2Proof.Laws
end

section
/-! SUPPORT. A computing instruction completes, whatever its lanes produce (O34). -/

namespace Sys2Proof.Laws
open Sys2Proof.Machine Sys2Proof.Claims

/-- An instruction performs in each lane something that answers and changes nothing, on the path, the operands and the
destination of a rule; whether its result is uniform may be found in another way. -/
def Answers (s : State) (i : Instr) (p : Plain) : Prop :=
  ∃ uni f, exec i s = perform s { p.sh with uni := uni } p.rs f ∧ p.sh.first = none ∧
    ∀ l ∈ act s p.sh, ∃ o : Out, answer (f l (laneVals s p.rs l)) (begun s) = some (begun s, o) ∧ o.stay = none ∧ o.after = none

/-- Lanes that answer one after another and change nothing. -/
theorem inTurn_answers {β : Type} {f : Nat → Act β} {P : β → Prop} {s : State} {ls : List Nat}
    (h : ∀ l ∈ ls, ∃ o, answer (f l) s = some (s, o) ∧ P o) :
    ∃ outs, inTurn (fun t l => answer (f l) t) s ls = some (s, outs) ∧ outs.map Prod.fst = ls ∧ ∀ e ∈ outs, P e.2 := by
  induction ls with
  | nil => exact ⟨[], rfl, rfl, fun e he => by cases he⟩
  | cons l r ih =>
    obtain ⟨o, ho, hP⟩ := h l List.mem_cons_self
    obtain ⟨outs, hr, hm, hall⟩ := ih fun k hk => h k (List.mem_cons_of_mem _ hk)
    refine ⟨(l, o) :: outs, ?_, by rw [List.map_cons, hm], fun e he => ?_⟩
    · simp only [inTurn, ho, hr, Option.map_some]
    · obtain rfl | he := List.mem_cons.1 he
      · exact hP
      · exact hall e he

/-- A turn that begins by looking at the state. -/
theorem get_bind (f : State → Act Out) (s : State) : (do let t ← get; f t : Act Out) s = f s s := rfl

namespace Answers
variable {s : State} {i : Instr} {p : Plain}

/-- Such an instruction completes where its operands can be read. -/
theorem completes (h : Answers s i p) (hr : Readable s p.sh p.rs) :
    ∃ uni outs, exec i s = .next (completed s { p.sh with uni := uni } p.rs (begun s) outs) ∧ outs.map Prod.fst = act s p.sh := by
  obtain ⟨uni, f, he, h1, hans⟩ := h
  obtain ⟨outs, hin, hm, hgo⟩ := inTurn_answers hans
  refine ⟨uni, outs, he.trans (congrArg _ (performOn_completes s (begun s) { p.sh with uni := uni } p.rs f outs hr ?_ hgo)), hm⟩
  rw [show ({ p.sh with uni := uni } : Shape).first = none from h1]
  exact hin

/-- A result that is a value of the state and the sources. -/
theorem value {sh : Shape} {rs : List Rd} {f : Nat → List Nat → Act Out} {g : Nat → List Nat → Out}
    (he : exec i s = perform s sh rs f) (hf : ∀ l v, ∃ o, answer (f l v) (begun s) = some (begun s, o) ∧ o.stay = none ∧ o.after = none)
    (h1 : sh.first = none) : Answers s i { sh := sh, rs := rs, f := g } :=
  ⟨sh.uni, f, he, h1, fun l _ => hf l _⟩

theorem alu {h : Head} {op : Nat} {d : Dst} {w : Nat} {rs : List Rd} {f g : List Nat → Nat}
    (hp : aluIs h op d w rs g = some p) (he : exec i s = alu s h op d w rs f) : Answers s i p := by
  obtain rfl := Option.some.inj hp
  exact value he (fun _ _ => ⟨_, rfl, rfl, rfl⟩) rfl

theorem aluTest {h : Head} {op : Nat} {d : Dst} {rs : List Rd} {f g : List Nat → Bool}
    (hp : testIs h op d rs g = some p) (he : exec i s = aluTest s h op d rs f) : Answers s i p := by
  obtain rfl := Option.some.inj hp
  exact value he (fun _ _ => ⟨_, rfl, rfl, rfl⟩) rfl

/-- A test for conditions that trap, which none does, gives its answer. -/
theorem answer_fpTrap {ctl : Word} {x : Fpx} (h : fpTrap ctl x = none) (o : Out) (t : State) :
    answer (match fpTrap ctl x with | some c => raise c 0 | none => pure o) t = some (t, o) := by
  rw [h]
  rfl

/-- A rounded result none of whose conditions traps (R167). -/
theorem lane {q : Floating} {f : Nat → List Nat → Act Out} (he : exec i s = perform s q.sh q.rs f) (h1 : q.sh.first = none)
    (hj : q.joint = false) (hq : q.quiet s)
    (hf : ∀ l v, ∃ r push, f l v (begun s) = fpLane l r push (begun s) ∧ r.x = (q.f l v).1.x) :
    Answers s i { sh := q.sh, rs := q.rs, f := q.out } := by
  refine ⟨q.sh.uni, f, he, h1, fun l hl => ?_⟩
  obtain ⟨r, push, hr, hx⟩ := hf l (laneVals s q.rs l)
  have htrap : fpTrap (fpctlOf (begun s) l) r.x = none := by
    have h := hq l hl
    unfold Floating.trap Floating.enables at h
    rw [hj, ← hx] at h
    exact h
  refine ⟨{ val := r.bits, push := push, flags := (r.x.or r.quiet).bits }, ?_, rfl, rfl⟩
  have h := answer_fpTrap htrap { val := r.bits, push := push, flags := (r.x.or r.quiet).bits } (begun s)
  unfold answer at h ⊢
  rw [hr]
  exact h

/-- A result of the path none of whose conditions traps in a participating lane (R356). -/
theorem path {q : Floating} {f : Nat → List Nat → Act Out} (he : exec i s = perform s q.sh q.rs f) (h1 : q.sh.first = none)
    (hj : q.joint = true) (hq : q.quiet s)
    (hf : ∀ l v, ∃ r, f l v (begun s) = fpPath q.sh.head r (begun s) ∧ r.x = (q.f l v).1.x) :
    Answers s i { sh := q.sh, rs := q.rs, f := q.out } := by
  refine ⟨q.sh.uni, f, he, h1, fun l hl => ?_⟩
  obtain ⟨r, hr, hx⟩ := hf l (laneVals s q.rs l)
  have htrap : fpTrap ((activeLanes (begun s) q.sh.head.guard).foldl (fun w k => w ||| fpctlOf (begun s) k) 0) r.x = none := by
    have h := hq l hl
    unfold Floating.trap Floating.enables at h
    rw [hj, ← hx] at h
    exact h
  refine ⟨{ val := r.bits, flags := (r.x.or r.quiet).bits }, ?_, rfl, rfl⟩
  have h := answer_fpTrap htrap { val := r.bits, flags := (r.x.or r.quiet).bits } (begun s)
  unfold answer at h ⊢
  rw [hr]
  exact h

theorem fpu {q : Floating} {h : Head} {op : Nat} {d : Dst} {w k : Nat} {rs : List Rd} {f g : List Nat → FRes}
    (hp : fpIs h op d w k rs g = some q) (hq : q.quiet s) (he : exec i s = fpu s h op d w k rs f) (hx : ∀ v, (f v).x = (g v).x) :
    Answers s i { sh := q.sh, rs := q.rs, f := q.out } := by
  obtain rfl := Option.some.inj hp
  exact lane he rfl rfl hq fun l v => ⟨f v, false, rfl, hx v⟩

theorem fpTest {q : Floating} {h : Head} {op : Nat} {d : Dst} {rs : List Rd} {f : List Nat → Bool × Bool}
    (hp : fcmpIs h op d rs f = some q) (hq : q.quiet s) (he : exec i s = fpTest s h op d rs f) :
    Answers s i { sh := q.sh, rs := q.rs, f := q.out } := by
  obtain rfl := Option.some.inj hp
  exact lane he rfl rfl hq fun l v => ⟨_, (f v).1, rfl, rfl⟩

end Answers

/-- The integer instructions. -/
theorem answers_integer {s : State} {i : Instr} {p : Plain} (hp : integerRule s i = some p) : Answers s i p := by
  cases i with
  | iadd h d a b t sat => cases t <;> exact .alu hp rfl
  | isub h d a b t sat => cases t <;> exact .alu hp rfl
  | imul h d a b t sat => cases t <;> exact .alu hp rfl
  | imulh h d a b t => cases t <;> exact .alu hp rfl
  | imad h d a b c t sat => cases t <;> exact .alu hp rfl
  | imadw h d a b c sg sat => exact .alu hp rfl
  | imin h d a b t => cases t <;> exact .alu hp rfl
  | imax h d a b t => cases t <;> exact .alu hp rfl
  | iabs h d a w sat => cases w <;> exact .alu hp rfl
  | ineg h d a t sat => cases t <;> exact .alu hp rfl
  | isad h d a b c t sat => cases t <;> exact .alu hp rfl
  | and h d a b w => cases w <;> exact .alu hp rfl
  | or h d a b w => cases w <;> exact .alu hp rfl
  | xor h d a b w => cases w <;> exact .alu hp rfl
  | not h d a w => cases w <;> exact .alu hp rfl
  | andn h d a b w => cases w <;> exact .alu hp rfl
  | shl h d a b t => cases t <;> exact .alu hp rfl
  | shr h d a b t => cases t <;> exact .alu hp rfl
  | sar h d a b t => cases t <;> exact .alu hp rfl
  | rotl h d a b t => cases t <;> exact .alu hp rfl
  | bfx h d a b t => cases t <;> exact .alu hp rfl
  | bfi h d a b c t => cases t <;> exact .alu hp rfl
  | brev h d a w => cases w <;> exact .alu hp rfl
  | popc h d a w => cases w <;> exact .alu hp rfl
  | clz h d a w => cases w <;> exact .alu hp rfl
  | ctz h d a w => cases w <;> exact .alu hp rfl
  | lea h d a b c t k => cases t <;> exact .alu hp rfl
  | mov h d a w => cases w <;> exact .alu hp rfl
  | sel h d a b w p => 
    obtain rfl := Option.some.inj hp
    cases w <;> exact ⟨_, _, rfl, rfl, fun l _ => ⟨_, rfl, rfl, rfl⟩⟩
  | icmp h d a b t c => cases t <;> exact .aluTest hp rfl
  | iaddI h d a m t sat => cases t <;> exact .alu hp rfl
  | isubI h d a m t sat => cases t <;> exact .alu hp rfl
  | imulI h d a m t sat => cases t <;> exact .alu hp rfl
  | iminI h d a m t => cases t <;> exact .alu hp rfl
  | imaxI h d a m t => cases t <;> exact .alu hp rfl
  | andI h d a m w => cases w <;> exact .alu hp rfl
  | orI h d a m w => cases w <;> exact .alu hp rfl
  | xorI h d a m w => cases w <;> exact .alu hp rfl
  | andnI h d a m w => cases w <;> exact .alu hp rfl
  | shlI h d a m t => cases t <;> exact .alu hp rfl
  | shrI h d a m t => cases t <;> exact .alu hp rfl
  | sarI h d a m t => cases t <;> exact .alu hp rfl
  | rotlI h d a m t => cases t <;> exact .alu hp rfl
  | leaI h d a m t k => exact .alu hp rfl
  | icmpI h d a m t c => cases t <;> exact .aluTest hp rfl
  | movi h d m t => cases t <;> exact .alu hp rfl
  | _ => cases hp

/-- A signed integer of `n` bits, as the rules and as the model read it. -/
theorem toInt_ofNat_eq_intOf {n : Nat} (hn : 0 < n) (x : Nat) : (BitVec.ofNat n x).toInt = intOf n true x := by
  have h2 : 2 ^ n = 2 * 2 ^ (n - 1) := by
    rw [← Nat.pow_succ', Nat.succ_eq_add_one, Nat.sub_add_cancel hn]
  rw [BitVec.toInt_eq_toNat_cond, BitVec.toNat_ofNat]
  unfold intOf
  simp only [Bool.true_and, decide_eq_true_eq]
  split_ifs with h h' h'
  · omega
  · rfl
  · push_cast
    rfl
  · omega

theorem int_eq_intOf (t : ITy) (x : Nat) : int t x = intOf (ityBits t) (ITy.signed t) x := by
  cases t with
  | n32 => rfl
  | i32 => exact toInt_ofNat_eq_intOf (by decide) x
  | n64 => rfl
  | i64 => exact toInt_ofNat_eq_intOf (by decide) x

/-- The registers of a reduction's type, as the model and as the rules count them. -/
theorem rtyWords_eq (t : RTy) : rtyWords t = match t with | .int t => regs t | .f32 => 1 := by
  cases t with
  | int t => cases t <;> rfl
  | f32 => rfl

/-- What QUPK gives a lane, and what it does there (R353). -/
def qupkRes (s : State) (a c : Src) (f : Fmt) (n : Blk) (hi : Bool) (l : Nat) : FRes :=
  let ls := blockLanes n l
  let ra := rdI a (packWords f)
  let scale := blockVal s (ls.headD 0) 1 (rdI c 1) % 65536
  let dec := decodeBlock f (ls.flatMap (fun j => unpackBits (fmtBits f) (blockVal s j 0 ra) 8))
  let mine := (dec.1.drop (8 * (l - ls.headD 0) + (if hi then 4 else 0))).take 4
  let rs := mine.map (fun v => roundEx .f32 rne (qupkScaled scale v))
  { bits := packBits 32 (rs.map FRes.bits), x := (rs.map FRes.x).foldl Fpx.or { qf := dec.2, sf := scaleSf scale } }

def qupkTurn (a c : Src) (f : Fmt) (n : Blk) (hi : Bool) (l : Nat) : Act Out := do
  let s ← get
  fpLane l (qupkRes s a c f n hi l) false

theorem answers_qupk {s : State} {h : Head} {d : Dst} {a c : Src} {f : Fmt} {n : Blk} {hi : Bool} {q : Floating}
    (hp : floatRule s (.qupk h d a c f n hi) = some q) (hq : q.quiet s) :
    Answers s (.qupk h d a c f n hi) { sh := q.sh, rs := q.rs, f := q.out } := by
  obtain rfl := Option.some.inj hp
  exact .lane (f := fun l _ => qupkTurn a c f n hi l) rfl rfl rfl hq fun l _ =>
    ⟨qupkRes (begun s) a c f n hi l, false, get_bind (fun s => fpLane l (qupkRes s a c f n hi l) false) _, rfl⟩

/-- The participating lanes' values, as the model and as the rules collect them (R356). -/
theorem partVals_begun (s : State) (h : Head) (pos : Nat) (r : Rd) (op : Nat) (d : Dst) :
    partVals (begun s) h pos r = (act s (fpShape h op d 1 0)).map fun l => (l, otherVal (begun s) l pos r) := rfl

/-- What REDX gives its path, and what it does in a lane (R359). -/
def redxRes (s : State) (h : Head) (a : Src) (op : ROp) (t : RTy) : FRes :=
  let r := tree (redOp op t) 5 (leaves (partVals s h 0 (rdR t a)))
  { bits := redResult t r.1, x := r.2 }

def redxTurn (h : Head) (a : Src) (op : ROp) (t : RTy) : Act Out := do
  let s ← get
  fpPath h (redxRes s h a op t)

theorem answers_redx {s : State} {h : Head} {d : Dst} {a : Src} {op : ROp} {t : RTy} {q : Floating}
    (hp : floatRule s (.redx h d a op t) = some q) (hq : q.quiet s) :
    Answers s (.redx h d a op t) { sh := q.sh, rs := q.rs, f := q.out } := by
  obtain rfl := Option.some.inj hp
  have he : exec (.redx h d a op t) s = perform s (laneShape h 0x203 d (rtyWords t) false) [rdR t a] fun _ _ => redxTurn h a op t := rfl
  refine .path (f := fun _ _ => redxTurn h a op t) ?_ rfl rfl hq fun _ _ => 
    ⟨redxRes (begun s) h a op t, get_bind (fun s => fpPath h (redxRes s h a op t)) _, ?_⟩
  · rw [he, rtyWords_eq]
    rfl
  · unfold redxRes
    dsimp only
    rw [partVals_begun s h 0 _ 0x203 d]

/-- What SCAN gives a lane, and what it does there (R360). -/
def scanRes (s : State) (h : Head) (a b : Src) (op : SOp) (t : RTy) (l : Nat) : FRes :=
  let vs := partVals s h 0 (rdR t a)
  let r := prefixes op t vs (otherVal s ((vs.headD (0, 0)).1) 1 (rdR t b))
  { bits := Tab.getD r.1 l 0, x := r.2 }

def scanTurn (h : Head) (a b : Src) (op : SOp) (t : RTy) (l : Nat) : Act Out := do
  let s ← get
  fpPath h (scanRes s h a b op t l)

theorem answers_scan {s : State} {h : Head} {d : Dst} {a b : Src} {op : SOp} {t : RTy} {q : Floating}
    (hp : floatRule s (.scan h d a b op t) = some q) (hq : q.quiet s) :
    Answers s (.scan h d a b op t) { sh := q.sh, rs := q.rs, f := q.out } := by
  obtain rfl := Option.some.inj hp
  have he : exec (.scan h d a b op t) s =
      perform s (laneShape h 0x204 d (rtyWords t) false) [rdR t a, rdR t b] fun l _ => scanTurn h a b op t l := rfl
  have hhead : ∀ (ls : List Nat) (g : Nat → Nat), ((ls.map fun l => (l, g l)).headD (0, 0)).1 = ls.headD 0 := fun ls g => by
    cases ls <;> rfl
  refine .path (f := fun l _ => scanTurn h a b op t l) ?_ rfl rfl hq fun l _ => 
    ⟨scanRes (begun s) h a b op t l, get_bind (fun s => fpPath h (scanRes s h a b op t l)) _, ?_⟩
  · rw [he, rtyWords_eq]
    rfl
  · unfold scanRes
    dsimp only
    rw [partVals_begun s h 0 _ 0x204 d, hhead]

/-- The float instructions. -/
theorem answers_float {s : State} {i : Instr} {q : Floating} (hp : floatRule s i = some q) (hq : q.quiet s) :
    Answers s i { sh := q.sh, rs := q.rs, f := q.out } := by
  cases i with
  | fadd h d a b r => exact .fpu hp hq rfl fun _ => rfl
  | fsub h d a b r => exact .fpu hp hq rfl fun _ => rfl
  | fmul h d a b r => exact .fpu hp hq rfl fun _ => rfl
  | ffma h d a b c m => exact .fpu hp hq rfl fun _ => rfl
  | fmin h d a b n => exact .fpu hp hq rfl fun _ => rfl
  | fmax h d a b n => exact .fpu hp hq rfl fun _ => rfl
  | fcmp h d a b c => exact .fpTest hp hq rfl
  | fclass h d a t => cases t <;> exact .fpu hp hq rfl fun _ => rfl
  | frnd h d a m => exact .fpu hp hq rfl fun _ => rfl
  | frcp h d a m => exact .fpu hp hq rfl fun _ => rfl
  | frsq h d a m => exact .fpu hp hq rfl fun _ => rfl
  | fsqrt h d a m => exact .fpu hp hq rfl fun _ => rfl
  | fex2 h d a => exact .fpu hp hq rfl fun _ => rfl
  | flg2 h d a => exact .fpu hp hq rfl fun _ => rfl
  | fsin h d a => exact .fpu hp hq rfl fun _ => rfl
  | fcos h d a => exact .fpu hp hq rfl fun _ => rfl
  | ftanh h d a => exact .fpu hp hq rfl fun _ => rfl
  | fsig h d a => exact .fpu hp hq rfl fun _ => rfl
  | hadd2 h d a b t r => exact .fpu hp hq rfl fun _ => rfl
  | hmul2 h d a b t r => exact .fpu hp hq rfl fun _ => rfl
  | hfma2 h d a b c t m => exact .fpu hp hq rfl fun _ => rfl
  | hmax2 h d a b t n => exact .fpu hp hq rfl fun _ => rfl
  | hmin2 h d a b t n => exact .fpu hp hq rfl fun _ => rfl
  | dadd h d a b m => exact .fpu hp hq rfl fun _ => rfl
  | dmul h d a b m => exact .fpu hp hq rfl fun _ => rfl
  | dfma h d a b c m => exact .fpu hp hq rfl fun _ => rfl
  | dcmp h d a b c => exact .fpTest hp hq rfl
  | dmin h d a b n => exact .fpu hp hq rfl fun _ => rfl
  | dmax h d a b n => exact .fpu hp hq rfl fun _ => rfl
  | faddI h d a m r => exact .fpu hp hq rfl fun _ => rfl
  | fsubI h d a m r => exact .fpu hp hq rfl fun _ => rfl
  | fmulI h d a m r => exact .fpu hp hq rfl fun _ => rfl
  | fminI h d a m n => exact .fpu hp hq rfl fun _ => rfl
  | fmaxI h d a m n => exact .fpu hp hq rfl fun _ => rfl
  | fcmpI h d a m c => exact .fpTest hp hq rfl
  | cvtf h d a c r => cases c <;> exact .fpu hp hq rfl fun _ => rfl
  | cvti h d a c r => exact .fpu hp hq rfl fun _ => rfl
  | cvtn h d a c r => cases c <;> exact .fpu hp hq rfl fun v => by rw [int_eq_intOf]; rfl
  | bscl h d a f => exact .fpu hp hq rfl fun _ => rfl
  | qupk h d a c f n hi => exact answers_qupk hp hq
  | redx h d a op t => exact answers_redx hp hq
  | scan h d a b op t => exact answers_scan hp hq
  | _ => cases hp

/-- The lane and predicate instructions. -/
theorem answers_lane {s : State} {i : Instr} {p : Plain} (hp : laneRule s i = some p) : Answers s i p := by
  cases i with
  | shfl h d a b c mode g =>
    obtain rfl := Option.some.inj hp
    exact .value rfl (fun _ _ => ⟨_, rfl, rfl, rfl⟩) rfl
  | vote h d t p neg =>
    obtain rfl := Option.some.inj hp
    exact .value rfl (fun _ _ => ⟨_, rfl, rfl, rfl⟩) rfl
  | ballot h d p neg =>
    obtain rfl := Option.some.inj hp
    exact .value rfl (fun _ _ => ⟨_, rfl, rfl, rfl⟩) rfl
  | matchLanes h d a w =>
    obtain rfl := Option.some.inj hp
    cases w <;> exact .value rfl (fun _ _ => ⟨_, rfl, rfl, rfl⟩) rfl
  | elect h d cand hi =>
    obtain rfl := Option.some.inj hp
    exact .value rfl (fun _ _ => ⟨_, rfl, rfl, rfl⟩) rfl
  | psh h a inv =>
    obtain rfl := Option.some.inj hp
    exact .value rfl (fun _ _ => ⟨_, rfl, rfl, rfl⟩) rfl
  | pdup h p =>
    obtain rfl := Option.some.inj hp
    exact .value rfl (fun _ _ => ⟨_, rfl, rfl, rfl⟩) rfl
  | plog h op p rep inv =>
    cases rep with
    | true => cases hp
    | false =>
      obtain rfl := Option.some.inj hp
      exact .value rfl (fun _ _ => ⟨_, rfl, rfl, rfl⟩) rfl
  | pmov h op =>
    cases op with
    | read d =>
      obtain rfl := Option.some.inj hp
      exact .value rfl (fun _ _ => ⟨_, rfl, rfl, rfl⟩) rfl
    | write a => cases hp
  | qpk h d a b c f n =>
    obtain rfl := Option.some.inj hp
    exact .value rfl (fun _ _ => ⟨_, rfl, rfl, rfl⟩) rfl
  | cbrg h d a b out =>
    obtain rfl := Option.some.inj hp
    cases out <;> exact .value rfl (fun _ _ => ⟨_, rfl, rfl, rfl⟩) rfl
  | _ => cases hp

theorem answers_computing {s : State} {i : Instr} {p : Plain} (hp : computing s i = some p) (hu : Undisturbed s i) :
    Answers s i p := by
  unfold computing at hp
  split at hp
  · obtain rfl := Option.some.inj hp
    exact answers_integer ‹_›
  · split at hp
    · obtain rfl := Option.some.inj hp
      exact answers_float ‹_› (hu _ ‹_›)
    · exact answers_lane hp

/-- Settles O34: a computing instruction completes, and what it then writes, releases and moves keeps the rows apart. -/
theorem writesKeepRowsApart : Obligations.WritesKeepRowsApart := by
  unfold Obligations.WritesKeepRowsApart
  refine ⟨fun s c n v a uni f hs hv => ⟨RowsApart.writeV hs hv a uni f, RowsApart.freeV hs v⟩,
    fun s t i p hp hu hr ha hs ht => ?_⟩
  obtain ⟨uni, outs, he, hm⟩ := (answers_computing hp hu).completes hr
  obtain rfl := Host.Outcome.next.inj (he.symm.trans ht)
  refine rowsApart_completed ha hs fun hne => ?_
  obtain ⟨e, he⟩ := List.exists_mem_of_ne_nil outs hne
  exact (hr.2 e.1 (hm ▸ List.mem_map_of_mem he)).2

end Sys2Proof.Laws
end

section
/-! SUPPORT. A park for a dead register does not outlive a signal that kills the team at the same safe point (O19). -/

namespace Sys2Proof.Laws
open Sys2Proof.Machine Sys2Proof.Claims

/-- A move from a v register that lies above the ceiling. -/
def moveFromDead : Instr := .mov safePointHead (.v 4) (.v 7 .none false) .w32

/-- Lane 0 has parked, and the signal has then killed the team and dropped the park (R239, R250). -/
theorem dugout_moveFromDead {t : State} (h : exec moveFromDead signalledState = .next t) : (coreAt t 0).dugout = [] := by
  rw [← Host.Outcome.next.inj h]
  decide +kernel

/-- Refutes O19: the trap's entry does not outlive the instruction where a lane of the path whose guard fails takes, at the
safe point, a signal that kills the team (R239, R250). -/
theorem not_badSourceTraps : ¬ Obligations.BadSourceTraps := by
  unfold Obligations.BadSourceTraps
  intro h
  obtain ⟨t, ht, e, d, -, hd, -⟩ := h signalledState moveFromDead _ 0x04 0x03 rfl ⟨by decide, by decide⟩ (by decide) (by decide)
    fun l hl => by
      rw [List.mem_singleton.1 (activeLanes_signalledState ▸ hl : l ∈ [0])]
      decide
  rw [show signalledState.iss.core = 0 from rfl, dugout_moveFromDead ht] at hd
  cases hd

end Sys2Proof.Laws
end

section
/-! SUPPORT. QPK reads a scale from a lane that has released it (O27, O28). -/

namespace Sys2Proof.Laws
open Sys2Proof.Machine Sys2Proof.Claims

/-- Lane 1, the only thread of a workgroup without a context, whose uniform register 8 holds a scale, 1 or an invalid one,
that lane 0 has released. -/
def releasedScaleState (valid : Bool) : State :=
  { State.reset with
    cores := [(0, { Core.reset with
      slots := [(0, { Slot.empty with
        wg := some 0, threads := [(1, readyThread)], vmap := [(8, { form := .uniform, rel := 1 })]
        cells := [(8, if valid then 0x7F00 else 0xFF00)] })]
      pageMap := [(5, 0x800)] })]
    wgs := [(0, { Wg.empty with slots := [0], regc := 2 })]
    iss := { core := 0, quarter := 0, slot := 0, lanes := 2, pc := 0 } }

/-- A pack of NaN elements into v4 and v5, in blocks of lanes 0 and 1, with the scale of lane 0. -/
def packReleased : Instr := .qpk plainHead (.v 4) (.imm 0x1FF) (.imm 0x1FF) (.v 8 .none false) .e5m2 .b16

/-- Its shape and its sources. -/
def packShape : Shape := { head := plainHead, op := 0x1C8, dst := .v 4, words := 2, latch := some 0, perLane := false }

def packReads : List Rd := [rdI (.imm 0x1FF) 4, rdI (.imm 0x1FF) 4, rdI (.v 8 .none false) 1]

/-- What the rule gives for the pack. -/
def packRule (valid : Bool) : Plain :=
  { sh := packShape
    rs := packReads
    f := fun l _ =>
      let s := releasedScaleState valid
      let ls := blockLanes .b16 l
      let xs := ls.flatMap (fun j => lane8 (held s j 0 (.imm 0x1FF) 4) (held s j 1 (.imm 0x1FF) 4))
      let y := quantBlock .e5m2 false (held s (ls.headD 0) 2 (.v 8 .none false) 1 % 65536) (xs.map (fun x => (x, .dir .rn)))
      { val := packBits 8 ((y.1.drop (8 * (l - ls.headD 0))).take 8), flags := y.2.bits } }

theorem computing_packReleased (b : Bool) : computing (releasedScaleState b) packReleased = some (packRule b) := rfl

theorem act_packShape : ∀ b, act (releasedScaleState b) packShape = [1] := by decide

theorem readable_packReleased : ∀ b, Readable (releasedScaleState b) packShape packReads := by
  unfold Readable
  decide

theorem alone_releasedScaleState (b : Bool) : Alone (releasedScaleState b) := by
  have hl : ∀ b, pathLanes (releasedScaleState b) = [1] := by decide
  have ht : ∀ b, threadAt (releasedScaleState b) 0 0 1 = some readyThread := by decide
  have htrace : ∀ b, (coreAt (releasedScaleState b) 0).trcctl.getLsbD 1 = false := by decide
  refine ⟨htrace b, rfl, fun l hp t h => ?_⟩
  rw [hl, List.mem_singleton] at hp
  subst hp
  obtain rfl := Option.some.inj ((ht b).symm.trans h)
  exact ⟨rfl, rfl⟩

/-- The 16 elements of the block, each a NaN. -/
def packNans : List (FVal × Mode) := List.replicate 16 (.nan false, .dir .rn)

/-- What a lane produces from the codes and the conditions of its block. -/
def packOut (y : List Nat × Fpx) : Out := { val := packBits 8 ((y.1.drop 8).take 8), flags := y.2.bits }

/-- The codes and the conditions of NaN elements under a scale that is not valid, and under a valid one. -/
def packCodes (valid : Bool) : List Nat × Fpx :=
  if valid then (List.replicate 16 0x7E, {}) else (List.replicate 16 0, { sf := true })

/-- NaN elements give one result under every valid scale and one under every other. -/
theorem quantBlock_packNans (scale : Nat) : ∃ b, quantBlock .e5m2 false scale packNans = packCodes b := by
  unfold quantBlock
  cases bsOf scale with
  | none => exact ⟨false, rfl⟩
  | some sc =>
    by_cases h : sc.1 = 0
    · exact ⟨false, if_pos h⟩
    · refine ⟨true, ?_⟩
      dsimp only
      rw [if_neg h]
      rfl

theorem out_packRule (b : Bool) : (packRule b).out (releasedScaleState b) 1 = packOut (packCodes b) := by
  cases b
  · rfl
  · rfl

/-- The block's elements, as the instruction reads them. -/
theorem lane8_packReleased (b : Bool) :
    ((blockLanes .b16 1).flatMap (fun j => lane8 (blockVal (begun (releasedScaleState b)) j 0 (rdGroup (.imm 0x1FF)))
      (blockVal (begun (releasedScaleState b)) j 1 (rdGroup (.imm 0x1FF))))).map (fun x => (x, rne)) = packNans := by
  cases b
  · rfl
  · rfl

/-- The scale that lane 0 supplies, which is free. -/
def packScale (b : Bool) : Nat := blockVal (begun (releasedScaleState b)) 0 2 (rdI (.v 8 .none false) 1) % 65536

/-- It is free alike, whatever the register's cell holds. -/
theorem packScale_eq (b : Bool) : packScale b = packScale true := by
  cases b
  · rfl
  · rfl

theorem exec_packReleased : ∃ y, ∀ b, exec packReleased (releasedScaleState b) =
    .next (completed (releasedScaleState b) packShape packReads (begun (releasedScaleState b))
      [(1, packOut (packCodes y))]) := by
  obtain ⟨y, hy⟩ := quantBlock_packNans (packScale true)
  refine ⟨y, fun b => congrArg _ (performOn_completes _ _ packShape packReads _ _ (readable_packReleased b) ?_ ?_)⟩
  · rw [act_packShape, ← hy, ← packScale_eq b, ← lane8_packReleased b]
    rfl
  · exact fun e he => by
      obtain rfl := List.mem_singleton.1 he
      exact ⟨rfl, rfl⟩

/-- The results under one scale are not those that the rule gives under the other. -/
theorem word_packReleased (y : Bool) : vWord (completed (releasedScaleState !y) packShape packReads
    (begun (releasedScaleState !y)) [(1, packOut (packCodes y))]) 0 0 4 1 ≠ BitVec.ofNat 32 (packOut (packCodes !y)).val := by
  cases y
  · decide +kernel
  · decide +kernel

theorem fpstat_packReleased (y : Bool) : (threadAt (completed (releasedScaleState !y) packShape packReads
    (begun (releasedScaleState !y)) [(1, packOut (packCodes y))]) 0 0 1).map Thread.fpstat = some (if y then 0 else 64) := by
  cases y
  · decide +kernel
  · decide +kernel

/-- The thread that the rule leaves has the flags of the register's scale. -/
theorem fpstat_packRule (y : Bool) : (stopAt (releasedScaleState !y) none false (depart ((packRule !y).gathered (releasedScaleState !y))
    (arrive ((packRule !y).stepped (releasedScaleState !y) 1 readyThread)))).fpstat = if y then 64 else 0 := by
  cases y
  · decide +kernel
  · decide +kernel

theorem undisturbed_packReleased (b : Bool) : Undisturbed (releasedScaleState b) packReleased := fun _ h => by cases h

/-- No register of the warp has a row of its own, and its register page is mapped. -/
theorem rowsApart_releasedScaleState (b : Bool) : RowsApart (releasedScaleState b) 0 0 := by
  have hv : ∀ b, (slotAt (releasedScaleState b) 0 0).vmap = [(8, { form := .uniform, rel := 1 })] := by decide
  have hk : ∀ b, ceiling (releasedScaleState b) 0 0 = 16 := by decide
  have hm : ∀ b, Tab.ordered (coreAt (releasedScaleState b) 0).pageMap = true := by decide
  have hp : ∀ b, ∀ r < firstRow (releasedScaleState b) 0 0 + ceiling (releasedScaleState b) 0 0,
      (pageWith (coreAt (releasedScaleState b) 0)
        (firstSlot (wgAt (releasedScaleState b) (slotWg (releasedScaleState b) 0 0))) 1 (r / 128)).isSome = true := by decide
  have hone : ∀ {v m}, Tab.get? [(8, ({ form := .uniform, rel := 1 } : VMap))] v = some m → v = 8 ∧ m.form = .uniform := by
    intro v m h
    obtain ⟨rfl, rfl⟩ := Prod.mk.inj (List.mem_singleton.1 (mem_of_get? h))
    exact ⟨rfl, rfl⟩
  rw [rowsApart_iff, hv, hk]
  refine ⟨⟨rfl, fun v m h => ?_, fun v m r h hf => ?_, fun v w m m' r h _ hf _ => ?_⟩, hm b, fun _ r hr => hp b r (by rwa [hk])⟩
  · rw [(hone h).1]
    decide
  · rw [(hone h).2] at hf
    cases hf
  · rw [(hone h).2] at hf
    cases hf

/-- Refutes O27: in a lane that has released it, a scale in a uniform register is free, and the rule reads the register's
cell (R132, R351). -/
theorem not_computingWritesItsDestination : ¬ Obligations.ComputingWritesItsDestination := by
  unfold Obligations.ComputingWritesItsDestination
  intro h
  obtain ⟨y, hy⟩ := exec_packReleased
  have hact := act_packShape !y
  obtain ⟨hd, -⟩ := h (releasedScaleState !y) _ packReleased (packRule !y) (computing_packReleased _) (undisturbed_packReleased _)
    (readable_packReleased _) (alone_releasedScaleState _) (rowsApart_releasedScaleState _) (fun _ l hl k hk => by
      rw [List.mem_singleton.1 (hact ▸ hl : l ∈ [1]), List.mem_singleton.1 (hact ▸ hk : k ∈ [1])]) (hy _)
  refine word_packReleased y ((hd 0 (show 0 < 2 by decide) 4 rfl 1 (hact ▸ List.mem_singleton_self 1)).trans ?_)
  rw [out_packRule]
  simp

/-- Refutes O28: in a lane that has released it, a scale in a uniform register is free, and the rule raises the flag of the
scale in the register's cell (R132, R351). -/
theorem not_computingMovesItsThreads : ¬ Obligations.ComputingMovesItsThreads := by
  unfold Obligations.ComputingMovesItsThreads
  intro h
  obtain ⟨y, hy⟩ := exec_packReleased
  have hth : ∀ b, threadAt (releasedScaleState b) 0 0 1 = some readyThread := by decide
  obtain ⟨th, ht, hst, -⟩ := h (releasedScaleState !y) _ packReleased (packRule !y) (computing_packReleased _)
    (undisturbed_packReleased _) (readable_packReleased _) (alone_releasedScaleState _) (hy _) 1 readyThread (hth _)
  have hf := fpstat_packReleased y
  have hr := fpstat_packRule y
  rw [← hst] at hr
  rw [show threadAt _ 0 0 1 = some th from ht, Option.map_some, hr] at hf
  cases y
  · cases hf
  · cases hf

end Sys2Proof.Laws
end

section
/-! SUPPORT. A park for a float condition does not outlive a signal that kills the team at the same safe point (O21). -/

namespace Sys2Proof.Laws
open Sys2Proof.Machine Sys2Proof.Claims

/-- The signalled state with the trap for a division by zero enabled in lane 0 (R165). -/
def signalledDivState : State := modThread signalledState 0 0 0 (fun t => { t with fpctl := 2 })

/-- The reciprocal of zero, which raises DZ. -/
def reciprocalOfZero : Instr := .frcp safePointHead .discard .zero .rn

/-- Lane 0 alone performs the reciprocal. -/
theorem activeLanes_signalledDivState : activeLanes signalledDivState safePointHead.guard = [0] := by decide

theorem readable_reciprocalOfZero :
    Readable signalledDivState (fpShape safePointHead 0x110 .discard 1 2) (f32s [.zero]) := by
  unfold Readable
  decide

/-- Lane 0 has parked, and the signal has then killed the team and dropped the park (R239, R250). -/
theorem dugout_reciprocalOfZero {t : State} (h : exec reciprocalOfZero signalledDivState = .next t) :
    (coreAt t 0).dugout = [] := by
  rw [← Host.Outcome.next.inj h]
  decide +kernel

/-- Refutes O21: the trap's entry does not outlive the instruction where a lane of the path whose guard fails takes, at the
safe point, a signal that kills the team (R239, R250). -/
theorem not_floatConditionTraps : ¬ Obligations.FloatConditionTraps := by
  unfold Obligations.FloatConditionTraps
  intro h
  obtain ⟨-, t, ht, ⟨e, d, -, hd, -⟩, -⟩ := h signalledDivState reciprocalOfZero _ 0x21 rfl readable_reciprocalOfZero
    ⟨by decide, by decide⟩ (by decide) fun l hl => by
      rw [List.mem_singleton.1 (activeLanes_signalledDivState ▸ hl : l ∈ [0])]
      decide
  rw [show signalledDivState.iss.core = 0 from rfl, dugout_reciprocalOfZero ht] at hd
  cases hd

end Sys2Proof.Laws
end

section
/-! SUPPORT. A write of the counter table (O60). -/

namespace Sys2Proof.Laws
open Sys2Proof.Machine

/-- The entry that a word of the counter table gives (R182). -/
def counterOfWord (x : DWord) : Counter :=
  { v := x.getLsbD 63, canc := false, hm := x.extractLsb' 48 14, value := x.extractLsb' 0 48 }

theorem writeCounter_eq (s : State) (n : BitVec 12) (x : DWord) :
    writeCounter s n x = { s with counters := Tab.set s.counters n.toNat (counterOfWord x) } := rfl

theorem get?_writeCounter (s : State) (n : BitVec 12) (x : DWord) (m : Nat) :
    Tab.get? (writeCounter s n x).counters m =
      if n.toNat = m then some (counterOfWord x) else Tab.get? s.counters m := by
  rw [writeCounter_eq, get?_set]

/-- Settles O60, by reading the table after the write. -/
theorem counterTableIsRewritten : Obligations.CounterTableIsRewritten := by
  unfold Obligations.CounterTableIsRewritten
  intro s n x
  refine ⟨?_, fun m hm => ?_, ?_⟩
  · rw [get?_writeCounter, if_pos rfl, counterOfWord]
  · rw [get?_writeCounter, if_neg hm.symm]
  · rw [writeCounter_eq]

end Sys2Proof.Laws
end

section
/-! SUPPORT. What taking a page for a workgroup, and whatever it spills or kills on the way, leaves of every warp and
workgroup. -/

namespace Sys2Proof.Laws
open Sys2Proof.Machine

/-- What a warp slot starts with beside its threads and v registers: its workgroup, its place in it, its s registers. -/
def slotStart (w : Slot) : Option Nat × Nat × Tab Word := (w.wg, w.widx, w.sregs)

/-- A change that leaves each warp slot's workgroup, place in it and s registers, and each workgroup but for the number of its
children. -/
structure StartsStay (s t : State) : Prop where
  slots : ∀ c n, slotStart (slotAt t c n) = slotStart (slotAt s c n)
  wgs : ∀ h, ∃ k, wgAt t h = { wgAt s h with children := k }

namespace StartsStay
variable {α β : Type} {s₀ s t : State}

theorem refl (s : State) : StartsStay s s := ⟨fun _ _ => rfl, fun _ => ⟨_, rfl⟩⟩

/-- A change outside the cores and the workgroups. -/
theorem other (h : StartsStay s₀ s)
    {mem} {seals} {poison} {hbmBad} {badPages} {metPages} {consumed} {journal} {torn} {tornMtx} {lines} {shadows} {stores}
    {ctxtab} {keysel} {keys} {descs} {ended} {racechk} {wpa} {wpc} {courtTlb} {courtCode} {courtQ} {walkers} {walkNext}
    {walked} {walkCache} {netTlb} {counters} {queues} {window} {streams} {aged} {placedAt} {launches} {childSeq} {teams}
    {saved} {units} {host} {qps} {memKeys} {netWait} {netOut} {netHeld} {replay} {agenda} {fresh} {flitSeq} {unanswered}
    {refusing} {stamp} {now} {iss} :
    StartsStay s₀ { s with
      mem := mem, seals := seals, poison := poison, hbmBad := hbmBad, badPages := badPages, metPages := metPages
      consumed := consumed, journal := journal, torn := torn, tornMtx := tornMtx, lines := lines, shadows := shadows
      stores := stores, ctxtab := ctxtab, keysel := keysel, keys := keys, descs := descs, ended := ended
      racechk := racechk, wpa := wpa, wpc := wpc, courtTlb := courtTlb, courtCode := courtCode, courtQ := courtQ
      walkers := walkers, walkNext := walkNext, walked := walked, walkCache := walkCache, netTlb := netTlb
      counters := counters, queues := queues, window := window, streams := streams, aged := aged, placedAt := placedAt
      launches := launches, childSeq := childSeq, teams := teams, saved := saved, units := units, host := host
      qps := qps, memKeys := memKeys, netWait := netWait, netOut := netOut, netHeld := netHeld, replay := replay
      agenda := agenda, fresh := fresh, flitSeq := flitSeq, unanswered := unanswered, refusing := refusing
      stamp := stamp, now := now, iss := iss } :=
  ⟨h.slots, h.wgs⟩

theorem traffic (h : StartsStay s₀ s) (ht : Traffic s t) : StartsStay s₀ t := by
  obtain ⟨_, _, _, rfl⟩ := ht
  exact h.other

theorem modCore {c : Nat} {f : Core → Core} (h : StartsStay s₀ s)
    (hf : ∀ k, (f k).slots = k.slots := by exact fun _ => rfl) : StartsStay s₀ (modCore s c f) :=
  ⟨fun d n => by rw [slotAt_modCore _ _ _ _ _ (hf _), h.slots], h.wgs⟩

theorem mapCores {f : Core → Core} (h : StartsStay s₀ s) (hr : f Core.reset = Core.reset := by rfl)
    (hf : ∀ k, (f k).slots = k.slots := by exact fun _ => rfl) : StartsStay s₀ (mapCores s f) := by
  refine ⟨fun c n => ?_, h.wgs⟩
  have hc : coreAt (Machine.mapCores s f) c = f (coreAt s c) := getD_map_values _ f c _ hr
  rw [← h.slots, slotAt, hc, hf]
  rfl

theorem modSlot {c n : Nat} {f : Slot → Slot} (h : StartsStay s₀ s)
    (hf : ∀ w, slotStart (f w) = slotStart w := by exact fun _ => rfl) : StartsStay s₀ (modSlot s c n f) := by
  refine ⟨fun d m => ?_, h.wgs⟩
  rw [← h.slots]
  by_cases hd : c = d
  · subst hd
    rw [slotAt_modSlot]
    split_ifs
    · rw [hf]
    · rfl
  · rw [slotAt, Machine.modSlot, coreAt_modCore, if_neg hd]
    rfl

theorem of_eq {p : State × α} {x : α} (h : StartsStay s₀ p.1) (e : p = (t, x)) : StartsStay s₀ t := by
  subst e
  exact h

theorem ite {p : Prop} {_ : Decidable p} (hs : StartsStay s₀ s) (ht : StartsStay s₀ t) :
    StartsStay s₀ (if p then s else t) := by
  split
  · exact hs
  · exact ht

theorem iteFst {p : Prop} {_ : Decidable p} {x y : State × α} (hx : StartsStay s₀ x.1) (hy : StartsStay s₀ y.1) :
    StartsStay s₀ (if p then x else y).1 := by
  split
  · exact hx
  · exact hy

theorem iteSnd {p : Prop} {_ : Decidable p} {x y : α × State} (hx : StartsStay s₀ x.2) (hy : StartsStay s₀ y.2) :
    StartsStay s₀ (if p then x else y).2 := by
  split
  · exact hx
  · exact hy

theorem foldl {f : State → α → State} {l : List α} (h : StartsStay s₀ s)
    (hf : ∀ t x, StartsStay s₀ t → StartsStay s₀ (f t x)) : StartsStay s₀ (l.foldl f s) := by
  induction l generalizing s with
  | nil => exact h
  | cons x r ih => exact ih (hf s x h)

theorem foldlFst {f : State × β → α → State × β} {l : List α} {p : State × β} (h : StartsStay s₀ p.1)
    (hf : ∀ p x, StartsStay s₀ p.1 → StartsStay s₀ (f p x).1) : StartsStay s₀ (l.foldl f p).1 := by
  induction l generalizing p with
  | nil => exact h
  | cons x r ih => exact ih (hf p x h)

/-! ## Lines (R48 to R55) -/

section
variable {a c e ln n : Nat} {hm : Hm} {bs : List Byte} {key : Option (BitVec 13)} {bkey : Option (BitVec 128)}
  {uncached : Bool}

theorem countSlice (h : StartsStay s₀ s) : StartsStay s₀ (countSlice s ln e n) := h.traffic (.countUnit (.refl s))

theorem countStack (h : StartsStay s₀ s) : StartsStay s₀ (countStack s ln e n) := h.traffic (.countStack (.refl s))

theorem hostLink (h : StartsStay s₀ s) : StartsStay s₀ (hostLink s) := h.traffic (.hostLink (.refl s))

theorem fetchHome (h : StartsStay s₀ s) : StartsStay s₀ (fetchHome s hm a n) := h.traffic (.fetchHome (.refl s))

theorem storeHome {mask : DWord} (h : StartsStay s₀ s) : StartsStay s₀ (storeHome s hm ln mask bs) :=
  h.traffic (.storeHome (.refl s))

theorem ownTraffic (h : StartsStay s₀ s) : StartsStay s₀ (ownTraffic s a n e) :=
  (h.foldl fun _ _ h1 => h1.hostLink).ite (h.foldl fun _ _ h1 => h1.countStack)

theorem recallBut {keep : Option Nat} (h : StartsStay s₀ s) : StartsStay s₀ (recallBut s keep ln) := by
  unfold Machine.recallBut
  dsimp only
  split
  · exact h
  · exact h.other.ite (.foldl h.other fun _ _ h1 => h1.modCore)

theorem writeBackLine (h : StartsStay s₀ s) : StartsStay s₀ (writeBackLine s ln) := by
  unfold Machine.writeBackLine
  split
  · exact h
  · exact h.ite (other (foldl (other h.countSlice.storeHome) fun _ _ h2 => h2.modCore))

theorem surface {secs : BitVec 4} (h : StartsStay s₀ s) : StartsStay s₀ (surface s ln secs) := h.ite h.other

theorem dropICache (h : StartsStay s₀ s) : StartsStay s₀ (dropICache s ln) := by
  have h1 := h.mapCores (f := fun k => { k with icache := k.icache.filter (fun x => x.line != ln) })
  exact h1.other

theorem dropLine (h : StartsStay s₀ s) : StartsStay s₀ (dropLine s ln) :=
  surface (other h.recallBut.writeBackLine.dropICache)

theorem openLine (h : StartsStay s₀ s) : StartsStay s₀ (openLine s hm key a) := by
  unfold Machine.openLine
  extract_lets line s1 s2 l
  have h1 : StartsStay s₀ s1 := by
    unfold s1
    split
    · exact h.ite h.dropLine
    · exact h
  have h2 : StartsStay s₀ s2 := h1.ite (dropLine h1.other)
  exact h1.ite h2.other

theorem fillLine (h : StartsStay s₀ s) : StartsStay s₀ (fillLine s hm key a n) := by
  unfold Machine.fillLine
  dsimp only
  split
  · exact h.openLine
  · exact h.openLine.countSlice.countSlice.ite
      (other (h.openLine.countSlice.countSlice.countStack.ite h.openLine.countSlice.countSlice.fetchHome))

theorem releaseRemote (h : StartsStay s₀ s) : StartsStay s₀ (releaseRemote s hm) :=
  other (h.foldl fun _ _ h1 => h1.writeBackLine)

/-! ## Accesses at a line's home -/

theorem homeRead (h : StartsStay s₀ s) : StartsStay s₀ (homeRead s .home hm key bkey uncached a n).2 := by
  unfold Machine.homeRead
  extract_lets s1 s2
  have h2 : StartsStay s₀ s2 := ite h.other.dropLine.fetchHome (fillLine h.other)
  refine h2.iteSnd ?_
  split <;> exact h2

theorem cacheWrite (h : StartsStay s₀ s) : StartsStay s₀ (cacheWrite s .home hm key a bs) :=
  h.openLine.other.ite (other (h.openLine.ite h.fillLine).recallBut)

theorem writeInSector (h : StartsStay s₀ s) : StartsStay s₀ (writeInSector s bkey a bs) := h.ite h.other

theorem homeWriteOpen (h : StartsStay s₀ s) : StartsStay s₀ (homeWriteOpen s .home hm key bkey uncached a bs) := by
  unfold Machine.homeWriteOpen
  extract_lets s1 s2 s3
  have h2 : StartsStay s₀ s2 := ite h.dropICache.dropLine.storeHome h.dropICache.cacheWrite
  exact (h2.foldl fun _ _ h3 => h3.writeInSector).ite (h2.other.ite h2.other)

theorem homeWrite (h : StartsStay s₀ s) : StartsStay s₀ (homeWrite s .home hm key bkey uncached a bs) :=
  (h.other.foldl fun _ _ h1 => h1.homeWriteOpen).ite (homeWriteOpen h.other)

end

/-! ## Accesses in a context (R24 to R41, R244) -/

section
variable {a c n : Nat} {hm : Hm} {va : DWord} {kind : AccKind} {bs : List Byte}

theorem devPatch (h : StartsStay s₀ s) : StartsStay s₀ (devPatch s a bs) := by
  unfold Machine.devPatch
  split
  · exact h.ownTraffic.ite h.ownTraffic.other
  · exact h

theorem holdDesc (h : StartsStay s₀ s) : StartsStay s₀ (holdDesc s hm) := by
  refine ite (other ?_) h
  split
  · exact ownTraffic h.other
  · exact h.other

theorem walkFrom {skv : Bool} (h : StartsStay s₀ s) : StartsStay s₀ (walkFrom s hm va skv kind n a).1 := by
  induction n generalizing s a with
  | zero => exact h
  | succ n ih =>
    unfold Machine.walkFrom
    extract_lets at_ s1 pte next
    have h1 : StartsStay s₀ s1 := by
      unfold s1
      split
      · exact h.ownTraffic
      · exact h
    clear_value s1 at_
    refine h.iteFst (h1.iteFst (h1.iteFst (h1.iteFst (iteFst (h1.iteFst (ih h1.other)) ?_))))
    split
    · exact h1
    · exact h1.iteFst (h1.ite h1.devPatch)

theorem walk (h : StartsStay s₀ s) : StartsStay s₀ (walk s hm va kind).1 :=
  h.holdDesc.iteFst (h.holdDesc.iteFst h.holdDesc.walkFrom)

theorem fillTlbs {e : TlbEntry} (h : StartsStay s₀ s) : StartsStay s₀ (fillTlbs s c e) := other h.modCore

theorem xlate (h : StartsStay s₀ s) : StartsStay s₀ (xlate s c hm va kind).1 := by
  unfold Machine.xlate
  dsimp only
  refine h.holdDesc.iteFst (h.holdDesc.iteFst ?_)
  split
  · exact h.holdDesc
  · split
    · exact h.holdDesc.fillTlbs
    · split
      · exact h.holdDesc.walk.of_eq ‹_›
      · exact (h.holdDesc.walk.of_eq ‹_›).fillTlbs

theorem place (h : StartsStay s₀ s) : StartsStay s₀ (place s c hm va kind).1 := by
  unfold Machine.place
  refine h.xlate.iteFst ?_
  split <;> exact h

theorem ctxWriteLine (h : StartsStay s₀ s) : StartsStay s₀ (ctxWriteLine s c hm va bs).1 := by
  unfold Machine.ctxWriteLine
  split
  · exact (h.place.of_eq ‹_›).other
  · exact (h.place.of_eq ‹_›).homeWrite

theorem ctxWrite (h : StartsStay s₀ s) : StartsStay s₀ (ctxWrite s c hm va bs).1 :=
  h.foldlFst fun _ _ h1 => h1.ctxWriteLine.iteFst h1

theorem ctxReadLine (h : StartsStay s₀ s) : StartsStay s₀ (ctxReadLine s c hm va n).1 := by
  unfold Machine.ctxReadLine
  have h1 : StartsStay s₀ (Machine.place s c hm va .read).1 := h.place
  split
  next h2 => exact (h1.of_eq h2).other
  next h2 =>
    have h3 := h1.of_eq h2
    exact iteFst h3.other (iteFst (h3.fetchHome.ite h3.fetchHome) h3.homeRead)

theorem ctxRead (h : StartsStay s₀ s) : StartsStay s₀ (ctxRead s c hm va n).1 := by
  unfold Machine.ctxRead
  refine h.foldlFst fun _ _ h1 => ?_
  split
  · exact h1
  · split <;> exact h1.ctxReadLine.of_eq ‹_›

/-- The read and the write of a context's memory as functions of which only what they leave is known: the kernel has nothing of
them to evaluate in the proof about a caller that matches an answer of theirs. -/
theorem exists_ctxAccess (s₀ : State) : ∃ read write, @Machine.ctxRead = read ∧ @Machine.ctxWrite = write ∧
    (∀ {s c hm va n}, StartsStay s₀ s → StartsStay s₀ (read s c hm va n).1) ∧
    ∀ {s c hm va bs}, StartsStay s₀ s → StartsStay s₀ (write s c hm va bs).1 :=
  ⟨_, _, rfl, rfl, .ctxRead, .ctxWrite⟩

end

/-! ## The death of a saved team (R250 to R252, R463) -/

section
variable {c i n ts : Nat} {hm : Hm} {w : Wg} {v : Saved}

theorem drainOut (h : StartsStay s₀ s) : StartsStay s₀ (drainOut s n) := by
  induction n generalizing s with
  | zero => exact h
  | succ n ih =>
    unfold Machine.drainOut
    split
    · exact h
    · exact ite (ih (other h.releaseRemote.hostLink)) h

theorem post {type core : Nat} {payload : List DWord} (h : StartsStay s₀ s) : StartsStay s₀ (post s type core hm payload) :=
  drainOut h.other

theorem clearTile (h : StartsStay s₀ s) : StartsStay s₀ (clearTile s c ts) := h.modCore

/-- A workgroup with another number of children is the same workgroup for every other purpose. -/
theorem tallyChild {f : Half → Half} (h : StartsStay s₀ s) : StartsStay s₀ (tallyChild s i f) := by
  refine ⟨h.slots, fun j => ?_⟩
  obtain ⟨k, hk⟩ := h.wgs j
  have hj : wgAt (Machine.tallyChild s i f) j =
      ((if i = j then (Tab.get? s.wgs j).map fun w => { w with children := f w.children } else Tab.get? s.wgs j)).getD
        Wg.empty := by
    rw [← get?_adjust]
    rfl
  rw [wgAt, Tab.getD] at hk
  rw [hj]
  split_ifs
  · cases hg : Tab.get? s.wgs j with
    | none => exact ⟨k, by rw [← hk, hg]; rfl⟩
    | some w =>
      rw [hg, Option.getD_some] at hk
      subst hk
      exact ⟨_, rfl⟩
  · exact ⟨k, hk⟩

theorem completeLaunch (h : StartsStay s₀ s) : StartsStay s₀ (completeLaunch s i) := by
  unfold Machine.completeLaunch
  dsimp only
  split
  · exact h
  next l _ =>
    have h1 : StartsStay s₀ (if l.child then { s with launches := Tab.del s.launches i }
        else tidyQueue { s with launches := Tab.del s.launches i } l.queue) := h.other.ite h.other
    refine ite (h1.ite ?_) h
    unfold Machine.childDone
    split
    · exact tallyChild (h1.releaseRemote.foldl fun _ _ h2 => h2.other)
    · exact h1.releaseRemote.foldl fun _ _ h2 => h2.other

theorem spillTile {g : WgImage} (h : StartsStay s₀ s) : StartsStay s₀ (spillTile s c ts g n).1 := clearTile (other h.ctxWrite)

theorem abandonCall (h : StartsStay s₀ s) : StartsStay s₀ (abandonCall s w n) := by
  obtain ⟨read, write, er, ew, hr, hw⟩ := exists_ctxAccess s₀
  generalize hF : @Machine.abandonCall = F
  delta Machine.abandonCall at hF
  rw [er, ew] at hF
  subst hF
  beta_reduce
  extract_lets a
  split
  next h1 => exact hw ((hr h).of_eq h1)
  next h1 => exact (hr h).of_eq h1

theorem abandonSaved (h : StartsStay s₀ s) : StartsStay s₀ (abandonSaved s v) :=
  h.foldl fun _ _ h1 => h1.foldl fun _ _ h2 => h2.abandonCall

theorem scrubSaved {kill : State → Saved → State} (h : StartsStay s₀ s)
    (hf : ∀ t x, StartsStay s₀ t → StartsStay s₀ (kill t x)) : StartsStay s₀ (scrubSaved kill s v) := by
  unfold Machine.scrubSaved
  refine foldl (foldl (h.foldl fun _ _ h1 => h1.clearTile) fun _ p h1 => h1.foldl fun _ i h2 => ?_) fun _ _ h1 => h1.modCore
  dsimp only
  split
  · exact h2.spillTile.ite (hf _ _ h2.spillTile)
  · exact h2

/-- The last of a saved team's death: its report, the answers to its requests, the end of its launch. -/
theorem reportKilled {lid : Word} {reason : Byte} (h : StartsStay s₀ s) :
    StartsStay s₀ (Machine.completeLaunch ((List.range v.asks).foldl (fun s _ => teamAnswer s hm lid v.number 0 3 4)
      (killReport s hm lid v.number reason Blame.none)) v.launch) :=
  completeLaunch ((post h).foldl fun _ _ h1 => h1.post)

theorem killSavedBy {reason : Byte} (h : StartsStay s₀ s) : StartsStay s₀ (killSavedBy n s v reason) := by
  induction n generalizing s v reason with
  | zero => exact reportKilled (scrubSaved (abandonSaved h.other) fun _ _ h1 => h1)
  | succ n ih => exact reportKilled (scrubSaved (abandonSaved h.other) fun _ _ h1 => ih h1)

/-! ## Pages (R109, R246, R247) -/

theorem settleTile (h : StartsStay s₀ s) : StartsStay s₀ (settleTile s c ts) := by
  unfold Machine.settleTile
  dsimp only
  split
  · refine h.spillTile.ite (clearTile ?_)
    split
    · exact h.spillTile.killSavedBy
    · exact h.spillTile
  · exact h.clearTile

theorem accTile (h : StartsStay s₀ s) : StartsStay s₀ (accTile s c hm ts) := h.ite (h.settleTile.ite h.clearTile).modCore

theorem takePage {own : Nat} {x : Nat × Nat × Nat} (h : StartsStay s₀ s) : StartsStay s₀ (takePage s c hm own x) := by
  unfold Machine.takePage
  extract_lets p s1 s2
  have h1 : StartsStay s₀ s1 := h.other
  have h2 : StartsStay s₀ s2 := ite (h1.foldl fun _ _ h3 => h3.accTile) (ite (h1.foldl fun _ _ h3 => h3.settleTile) h1)
  refine h2.modCore fun k => ?_
  dsimp only
  split_ifs
  · rfl
  · rfl

theorem takePages {mine : Tab Nat} (h : StartsStay s₀ s) : StartsStay s₀ (takePages s n mine) :=
  h.foldl fun _ _ h1 => h1.takePage

end

/-! ## Registers at a warp's start (R180) -/

section
variable {c n v : Nat} {f : Nat → Word}

theorem setRowWord {row l : Nat} {x : Word} (h : StartsStay s₀ s) : StartsStay s₀ (setRowWord s c n row l x) := by
  unfold Machine.setRowWord
  refine h.modCore.ite ?_
  split
  · exact h.modCore
  · exact h

theorem newRow {rel : Word} (h : StartsStay s₀ s) : StartsStay s₀ (newRow s c n v rel f) :=
  foldl (modSlot h.modSlot) fun _ _ h1 => h1.setRowWord

theorem startRegs {w : Wg} (h : StartsStay s₀ s) : StartsStay s₀ (startRegs s w v n) := h.newRow.newRow

end

end StartsStay
end Sys2Proof.Laws
end

section
/-! SUPPORT. A workgroup that is placed: its slots, its numbers and its warps' s registers (O48). -/

namespace Sys2Proof.Laws
open Sys2Proof.Machine

/-! ## Slots written one after another -/

theorem mem_withPos {α : Type} {l : List α} {j : Nat} {x : α} : (j, x) ∈ withPos l ↔ l[j]? = some x := by
  rw [withPos, List.mem_iff_getElem?]
  constructor
  · rintro ⟨i, hi⟩
    obtain ⟨hr, hl⟩ := List.getElem?_zip_eq_some.1 hi
    obtain ⟨_, hj⟩ := List.getElem?_eq_some_iff.1 hr
    obtain rfl : i = j := by rwa [List.getElem_range] at hj
    exact hl
  · intro hl
    have hj : j < l.length := (List.getElem?_eq_some_iff.1 hl).1
    exact ⟨j, List.getElem?_zip_eq_some.2 ⟨List.getElem?_range hj, hl⟩⟩

theorem map_snd_withPos {α : Type} (l : List α) : (withPos l).map Prod.snd = l := List.map_snd_zip (by simp)

/-- Each slot of a list holds what was written to it, where the list names none twice. -/
theorem slotAt_foldl_modSlot {c : Nat} {f : Nat → Slot} {ps : List (Nat × Nat)} (hd : (ps.map Prod.snd).Nodup)
    {p : Nat × Nat} (hp : p ∈ ps) (s : State) :
    slotAt (ps.foldl (fun s p => modSlot s c p.2 fun _ => f p.1) s) c p.2 = f p.1 := by
  induction ps using List.reverseRecOn with
  | nil => cases hp
  | append_singleton r q ih =>
    rw [List.map_append, List.nodup_append] at hd
    obtain ⟨hr, -, hq⟩ := hd
    rw [List.foldl_append, List.foldl_cons, List.foldl_nil, slotAt_modSlot]
    rcases List.mem_append.1 hp with h | h
    · rw [if_neg (Ne.symm (hq _ (List.mem_map_of_mem h) _ (List.mem_map_of_mem List.mem_cons_self))), ih hr h]
    · rw [List.mem_singleton.1 h, if_pos rfl]

/-! ## The state before the pages are taken -/

/-- The slots that a workgroup takes on a core (R214). -/
def takenSlots (s : State) (l : Launch) (core : Nat) : List Nat := (freeSlots (coreAt s core)).take (warpsOf l.nthreads)

theorem nodup_takenSlots (s : State) (l : Launch) (core : Nat) : (takenSlots s l core).Nodup :=
  ((show slotOrder.Nodup by decide).filter _).sublist (List.take_sublist _ _)

/-- The workgroup that is placed. -/
def placedWg (s : State) (i : Nat) (l : Launch) (t n k core : Nat) : Wg :=
  { freshWg l core i with
    team := t, number := n * l.tsize + k, rank := k, slots := takenSlots s l core
    sri := freeSri s l.hm, barmode := (freshDesc s l.hm).barmode, zeroing := true, floor := s.now + 1 }

/-- The workgroup stands in the table, and its warps in their slots. -/
def seated (s : State) (i : Nat) (l : Launch) (t n k core h : Nat) : State :=
  (withPos (takenSlots s l core)).foldl
    (fun u p => modSlot u core p.2 fun _ => startSlot l (placedWg s i l t n k core) h p.1)
    { s with wgs := Tab.set s.wgs h (placedWg s i l t n k core) }

theorem placeWg_eq (s : State) (i : Nat) (l : Launch) (t n k core h : Nat) :
    placeWg s i l t n k core h =
      (withPos (takenSlots s l core)).foldl (fun u p => startRegs u (placedWg s i l t n k core) p.1 p.2)
        (takePages (seated s i l t n k core h) h []) := rfl

section
variable (s : State) (i : Nat) (l : Launch) (t n k core h : Nat)

/-- The pages and the first v registers leave what the warps start with. -/
theorem startsStay_placeWg : StartsStay (seated s i l t n k core h) (placeWg s i l t n k core h) := by
  rw [placeWg_eq]
  exact (StartsStay.refl _).takePages.foldl fun _ _ h1 => h1.startRegs

theorem wgAt_seated : wgAt (seated s i l t n k core h) h = placedWg s i l t n k core := by
  have hw : (seated s i l t n k core h).wgs = Tab.set s.wgs h (placedWg s i l t n k core) :=
    foldl_same (g := State.wgs)
      (f := fun u (p : Nat × Nat) => modSlot u core p.2 fun _ => startSlot l (placedWg s i l t n k core) h p.1)
      (fun _ _ => rfl) _ _
  rw [wgAt, hw, getD_set, if_pos rfl]

theorem slotAt_seated {j m : Nat} (hm : (takenSlots s l core)[j]? = some m) :
    slotAt (seated s i l t n k core h) core m = startSlot l (placedWg s i l t n k core) h j :=
  slotAt_foldl_modSlot (by rw [map_snd_withPos]; exact nodup_takenSlots s l core) (mem_withPos.2 hm) _

end

/-! ## The s registers at a warp's start (R180) -/

/-- The address of the argument block: ARGS of the record times 64. -/
theorem args_eq (x : DWord) : BitVec.ofNat 64 (field x 13 51 * 64) = (x.extractLsb' 13 51).setWidth 64 <<< 6 := by
  have h := (x.extractLsb' 13 51).isLt
  refine BitVec.eq_of_toNat_eq ?_
  rw [field_eq_extractLsb', BitVec.toNat_ofNat, BitVec.toNat_shiftLeft, BitVec.toNat_setWidth, Nat.shiftLeft_eq,
    Nat.mod_eq_of_lt (a := (x.extractLsb' 13 51).toNat) (by omega)]

theorem sregs_startSlot (l : Launch) (w : Wg) (h j : Nat) :
    (startSlot l w h j).sregs =
      let args : DWord := ((l.words.getD 1 0).extractLsb' 13 51).setWidth 64 <<< 6
      [(0, args.extractLsb' 0 32), (1, args.extractLsb' 32 32), (2, BitVec.ofNat 32 w.number), (3, BitVec.ofNat 32 w.rank),
        (4, l.id)] := by
  rw [← args_eq]
  rfl

/-- Settles O48: the warps are seated in the slots, and the pages and the first v registers leave what they start with. -/
theorem workgroupTakesSlotsInOrder : Obligations.WorkgroupTakesSlotsInOrder := by
  unfold Obligations.WorkgroupTakesSlotsInOrder
  intro s i la tm n k core h
  have hs := startsStay_placeWg s i la tm n k core h
  obtain ⟨ch, hw⟩ := hs.wgs h
  rw [wgAt_seated] at hw
  refine ⟨congrArg Wg.slots hw, congrArg Wg.number hw, congrArg Wg.rank hw, fun j m hm => ?_⟩
  have hslot := hs.slots core m
  rw [slotAt_seated s i la tm n k core h (j := j) hm, slotStart, slotStart, Prod.mk.injEq, Prod.mk.injEq,
    sregs_startSlot] at hslot
  obtain ⟨hwg, hidx, hregs⟩ := hslot
  rw [hregs]
  refine ⟨hwg, hidx, rfl, rfl, rfl, rfl, rfl, fun r hr => ?_⟩
  simp only [get?_cons, get?_nil]
  rw [if_neg (by omega), if_neg (by omega), if_neg (by omega), if_neg (by omega), if_neg (by omega)]

end Sys2Proof.Laws
end

section
/-! SUPPORT. Each event of the arbiter, the saves, the sweep, the errors and the snapshots does what the table says (O13). -/

namespace Sys2Proof.Laws
open Sys2Proof.Machine Sys2Proof.Claims

section
variable {s t : State}

/-- Where the condition under which the machine leaves an event does not hold, the event takes its effect. -/
theorem next_ite_false {b : Bool} {u : State} (hb : b = false) :
    (Host.Outcome.next (if b then s else u) : Host.Outcome State Fault Refusal) = .next u := by
  rw [hb]
  rfl

/-! ## The arbiter (R209 to R215) -/

theorem execPlaceTeam_takes (h : systemEvent s .placeTeam = some t) : execPlaceTeam s = .next t := by
  obtain ⟨⟨hthrottle, hboot⟩, rfl⟩ := takes_eq_some.1 h
  exact next_ite_false (Bool.or_eq_false_iff.2 ⟨beq_false_of_ne hthrottle, hboot⟩)

theorem execStreamAgeing_takes (h : systemEvent s .streamAgeing = some t) : execStreamAgeing s = .next t := by
  obtain ⟨hover, rfl⟩ := takes_eq_some.1 h
  exact congrArg _ (if_neg (not_lt.2 hover))

theorem execPageZeroingDone_takes {n : Nat} (h : systemEvent s (.pageZeroingDone n) = some t) :
    execPageZeroingDone n s = .next t :=
  congrArg _ (Option.some.inj h)

/-! ## Saves and stops (R240, R277) -/

theorem execSaveForce_takes {n : Nat} (h : systemEvent s (.saveForce n) = some t) : execSaveForce n s = .next t :=
  congrArg _ (Option.some.inj h)

theorem execDebugStopForce_takes {n : Nat} (h : systemEvent s (.debugStopForce n) = some t) :
    execDebugStopForce n s = .next t :=
  congrArg _ (Option.some.inj h)

/-! ## The sweep and stall samples (R283, R288, R289) -/

theorem execCounterSweep_takes (h : systemEvent s .counterSweep = some t) : execCounterSweep s = .next t := by
  obtain ⟨hon, rfl⟩ := takes_eq_some.1 h
  exact next_ite_false (by rw [hon]; rfl)

theorem execStallSample_takes {c : Fin 192} (h : systemEvent s (.stallSample c) = some t) :
    execStallSample c s = .next t := by
  simp only [systemEvent] at h
  unfold execStallSample
  refine congrArg _ ?_
  dsimp only
  cases hn : sampleSlot (coreAt s c.val) with
  | none => simp only [hn, reduceCtorEq] at h
  | some n =>
    simp only [hn] at h ⊢
    split_ifs at h with hoff hright
    · rw [if_neg (by simpa using hoff), if_pos (by simpa using hright)]
      exact Option.some.inj h
    · rw [if_neg (by simpa using hoff), if_neg (by simpa using hright)]
      generalize sampleOf _ c.val n = sample at h ⊢
      cases sample with
      | none => exact Option.some.inj h
      | some x => exact Option.some.inj h

/-! ## Errors and fences (R255 to R264) -/

theorem execErrorDiscovery_takes {k : Carrier} {a b : Nat} (h : systemEvent s (.errorDiscovery k a b) = some t) :
    execErrorDiscovery k a b s = .next t := by
  unfold execErrorDiscovery
  refine congrArg _ (Eq.trans ?_ (Option.some.inj h))
  cases k with
  | _ => rfl

theorem execHbmScrub_takes {n : Nat} {bad : Bool} (h : systemEvent s (.hbmScrub n bad) = some t) :
    execHbmScrub n bad s = .next t :=
  congrArg _ (Option.some.inj h)

theorem execCoreFence_takes {c : Fin 192} (h : systemEvent s (.coreFence c) = some t) : execCoreFence c s = .next t := by
  obtain ⟨⟨hopen, hmany⟩, rfl⟩ := takes_eq_some.1 h
  refine congrArg _ (if_neg ?_)
  rw [hopen]
  exact not_or.2 ⟨Bool.false_ne_true, not_lt.2 hmany⟩

theorem execUnitResetDone_takes {clock : Bool} (h : systemEvent s (.unitResetDone clock) = some t) :
    execUnitResetDone clock s = .next t :=
  congrArg _ (Option.some.inj h)

/-! ## Snapshots and rollbacks (R266 to R272) -/

theorem execSnapshotCommit_takes {n : Nat} (h : systemEvent s (.snapshotCommit n) = some t) :
    execSnapshotCommit n s = .next t := by
  obtain ⟨⟨hwriting, hrolling, hmoving⟩, rfl⟩ := takes_eq_some.1 h
  unfold execSnapshotCommit
  dsimp only
  rw [hwriting, hrolling, hmoving]
  simp only [Bool.not_true, Bool.or_self, Bool.false_eq_true, if_false, Bool.not_eq_true']

theorem execRollback_takes {n : Nat} (h : systemEvent s (.rollback n) = some t) : execRollback n s = .next t := by
  obtain ⟨⟨hrolling, hdrained⟩, rfl⟩ := takes_eq_some.1 h
  exact congrArg _ (if_pos (Bool.and_eq_true_iff.2 ⟨hrolling, hdrained⟩))

end

/-- Settles O13, event by event. -/
theorem systemEventsTakeEffect : Obligations.SystemEventsTakeEffect := by
  unfold Obligations.SystemEventsTakeEffect
  intro s t i h
  cases i with
  | placeTeam => exact execPlaceTeam_takes h
  | streamAgeing => exact execStreamAgeing_takes h
  | pageZeroingDone n => exact execPageZeroingDone_takes h
  | saveForce n => exact execSaveForce_takes h
  | debugStopForce n => exact execDebugStopForce_takes h
  | counterSweep => exact execCounterSweep_takes h
  | stallSample c => exact execStallSample_takes h
  | errorDiscovery k a b => exact execErrorDiscovery_takes h
  | hbmScrub n bad => exact execHbmScrub_takes h
  | coreFence c => exact execCoreFence_takes h
  | snapshotCommit n => exact execSnapshotCommit_takes h
  | rollback n => exact execRollback_takes h
  | unitResetDone clock => exact execUnitResetDone_takes h
  | _ => cases h

end Sys2Proof.Laws
end

section
/-! SUPPORT. Each event of the host's ports, start-up, power and the fabric does what the table says (O14). -/

namespace Sys2Proof.Laws
open Sys2Proof.Machine Sys2Proof.Claims

/-! ## Flits (R290) -/

theorem countUnit_eq (s : State) (u e n : Nat) : ∃ units, countUnit s u e n = { s with units := units } := ⟨_, rfl⟩

theorem countFlits_eq (s : State) (u : Nat) :
    ∃ units flitSeq, countFlits s u = { s with units := units, flitSeq := flitSeq } := by
  unfold countFlits
  dsimp only
  obtain ⟨_, hsent⟩ := countUnit_eq s u 0 (Config.flits (3 * s.flitSeq + 0)).toNat
  rw [hsent]
  obtain ⟨_, hreceived⟩ := countUnit_eq { s with units := _ } u 1 (Config.flits (3 * s.flitSeq + 1)).toNat
  rw [hreceived]
  split_ifs
  · exact ⟨_, _, rfl⟩
  · exact ⟨_, _, rfl⟩

section
variable (s : State) (u : Nat) (port : Bit)

@[simp] theorem host_countFlits : (countFlits s u).host = s.host := by
  obtain ⟨_, _, he⟩ := countFlits_eq s u
  rw [he]

@[simp] theorem host_heard : (heard s port).host = s.host := host_countFlits s _

@[simp] theorem now_heard : (heard s port).now = s.now := by
  obtain ⟨_, _, he⟩ := countFlits_eq s (300 + port.toNat)
  rw [heard, he]

@[simp] theorem window_heard : (heard s port).window = s.window := by
  obtain ⟨_, _, he⟩ := countFlits_eq s (300 + port.toNat)
  rw [heard, he]

@[simp] theorem holdsLease_heard (p : Bit) : holdsLease (heard s port) p = holdsLease s p := by
  simp only [holdsLease, portUsable, host_heard]

theorem devWord_countFlits (a : Nat) : devWord (countFlits s u) a = devWord s a := by
  obtain ⟨_, _, he⟩ := countFlits_eq s u
  rw [he]
  rfl

theorem poisonIn_countFlits (a n : Nat) : poisonIn (countFlits s u) a n = poisonIn s a n := by
  obtain ⟨_, _, he⟩ := countFlits_eq s u
  rw [he]
  rfl

theorem readDesc_countFlits (n : Nat) : readDesc (countFlits s u) n = readDesc s n := by
  have hctx : (countFlits s u).ctxtab = s.ctxtab := by
    obtain ⟨_, _, he⟩ := countFlits_eq s u
    rw [he]
  simp only [readDesc, devWord_countFlits, poisonIn_countFlits, hctx]

theorem descOf_countFlits (hm : Hm) : descOf (countFlits s u) hm = descOf s hm := by
  have hended : (countFlits s u).ended = s.ended ∧ (countFlits s u).descs = s.descs := by
    obtain ⟨_, _, he⟩ := countFlits_eq s u
    rw [he]
    exact ⟨rfl, rfl⟩
  simp only [descOf, readDesc_countFlits, hended]

/-- Admission reads nothing that counting flits changes. -/
theorem admitted_countFlits (r : UatinReq) : admitted (countFlits s u) r = admitted s r := by
  have hdesc := descOf_countFlits s u
  obtain ⟨_, _, he⟩ := countFlits_eq s u
  rw [he] at hdesc ⊢
  unfold admitted
  simp only [hdesc]
  rfl

end

/-! ## The lease (R435, R438, R439) -/

section
variable {s t : State} {port : Bit}

theorem rightful_iff : rightful s port = true ↔ leaseDue s = false ∧ holdsLease s port = true := by
  unfold rightful holdsLease portUsable
  cases leaseDue s <;> simp [and_comm]

theorem hostTurn_eq (h : leaseDue s = false) : hostTurn s port = heard s port := by
  unfold hostTurn underLease
  rw [h]
  rfl

theorem leaseTurns_eq (h : s.host.leaseEn = true) :
    leaseTurns s = (s.now - s.host.leaseSince) / (s.host.leasePeriod.toNat * 850000) := if_pos h

/-- The lease passes to the other port at each turn. -/
theorem afterTurns_succ (act : Bit) (i : Nat) : afterTurns act (i + 1) = if i % 2 = 0 then ~~~act else act := by
  unfold afterTurns
  exact if_congr (by omega) rfl rfl

theorem execRenew_takes (h : hostEvent s (.renew port) = some t) : execRenew port s = .next t := by
  obtain ⟨hright, rfl⟩ := takes_eq_some.1 h
  obtain ⟨hdue, hlease⟩ := rightful_iff.1 hright
  unfold execRenew renewLease
  simp only [hostTurn_eq hdue, holdsLease_heard, hlease, if_true, host_heard, now_heard]

theorem execLeaseExpiry_takes (h : hostEvent s .leaseExpiry = some t) : execLeaseExpiry s = .next t := by
  obtain ⟨⟨hen, hover⟩, rfl⟩ := takes_eq_some.1 h
  rw [← leaseTurns_eq hen] at hover ⊢
  have hdue : leaseDue s = true := decide_eq_true hover
  unfold execLeaseExpiry underLease passLease
  simp only [hdue, if_true, afterTurns_succ]
  rfl

/-! ## The launch window, the registers and memory (R204, R435 to R437, R440) -/

theorem execLaunchCommit_takes {q : BitVec 8} {slot : BitVec 4} {x : DWord}
    (h : hostEvent s (.launchCommit port q slot x) = some t) : execLaunchCommit port q slot x s = .next t := by
  obtain ⟨⟨hright, hboot⟩, rfl⟩ := takes_eq_some.1 h
  obtain ⟨hdue, hlease⟩ := rightful_iff.1 hright
  unfold execLaunchCommit launchCommit
  simp only [hostTurn_eq hdue, holdsLease_heard, hlease, host_heard, hboot, window_heard, Bool.not_true, Bool.false_eq_true,
    if_false]

theorem writeRegister_listed {off : Nat} {x : DWord} (halign : off % 8 = 0) (hclear : off ≠ 0x108)
    (hflash : isFlashWindow off = false) (hboot : s.host.bootStopped = false) (hnot : off ≠ 0x10)
    (hlease : holdsLease s port = true) : writeRegister s port off x = writeListed s off x := by
  unfold writeRegister
  simp only [halign, hclear, hflash, hboot, hnot, hlease, ne_eq, not_true_eq_false, Bool.not_true, Bool.false_eq_true, if_false]

theorem execRegisterWrite_takes {off : BitVec 20} {x : DWord} (h : hostEvent s (.registerWrite port off x) = some t) :
    execRegisterWrite port off x s = .next t := by
  obtain ⟨⟨halign, hright, hboot, hnot, hclear, hflash⟩, rfl⟩ := takes_eq_some.1 h
  obtain ⟨hdue, hlease⟩ := rightful_iff.1 hright
  unfold execRegisterWrite
  rw [hostTurn_eq hdue]
  exact congrArg _ (writeRegister_listed halign (fun h => hclear (BitVec.eq_of_toNat_eq h)) hflash
    (by rw [host_heard, hboot]) (fun h => hnot (BitVec.eq_of_toNat_eq h)) (by rw [holdsLease_heard, hlease]))

theorem writeListed_ohead (s : State) (x : DWord) :
    writeListed s 0x50 x = drainOut { s with host := { s.host with ohead := x } } s.host.outHeld.length := rfl

theorem execOutboundHeadAdvance_takes {head : DWord} (h : hostEvent s (.outboundHeadAdvance port head) = some t) :
    execOutboundHeadAdvance port head s = .next t := by
  obtain ⟨⟨hright, hboot⟩, rfl⟩ := takes_eq_some.1 h
  obtain ⟨hdue, hlease⟩ := rightful_iff.1 hright
  unfold execOutboundHeadAdvance
  rw [hostTurn_eq hdue, writeRegister_listed (by decide) (by decide) (by decide) (by rw [host_heard, hboot]) (by decide)
    (by rw [holdsLease_heard, hlease]), writeListed_ohead, host_heard]

theorem execHostMemoryAccess_takes {write : Bool} {a : BitVec 48} {data : List Byte}
    (h : hostEvent s (.hostMemoryAccess port write a data) = some t) : execHostMemoryAccess port write a data s = .next t := by
  obtain ⟨⟨hdue, hport, hboot⟩, rfl⟩ := takes_eq_some.1 h
  have husable : portUsable (heard s port) port = true := by
    simpa [portUsable] using hport
  unfold execHostMemoryAccess
  simp only [hostTurn_eq hdue, husable, host_heard, hboot, Bool.not_true, Bool.or_self, Bool.false_eq_true, if_false]
  rfl

theorem execHostSnoop_takes {a : BitVec 48} {write : Bool} {data : List Byte}
    (h : hostEvent s (.hostSnoop a write data) = some t) : execHostSnoop a write data s = .next t :=
  congrArg _ (Option.some.inj h)

theorem execHostPortDown_takes (h : hostEvent s (.hostPortDown port) = some t) : execHostPortDown port s = .next t :=
  congrArg _ (Option.some.inj h)

/-! ## The flash (R454) -/

theorem flashAccepts_iff : flashAccepts s port = true ↔ leaseDue s = false ∧ flashPort s port = true ∧
    s.host.flRun = none ∧ field s.host.fladdr 0 12 = 0 ∧ field s.host.fladdr 24 40 = 0 := by
  simp only [flashAccepts, flashPort, field_eq_extractLsb', ← BitVec.toNat_inj, Bool.and_eq_true,
    Bool.not_eq_true', Option.isNone_iff_eq_none, decide_eq_true_eq, and_assoc]
  rfl

theorem flashCommand_accepted {program : Bool} (h : flashAccepts s port = true) :
    flashCommand (hostTurn s port) port program = flashBegins (heard s port) program := by
  obtain ⟨hdue, hport, hidle, hlow, hhigh⟩ := flashAccepts_iff.1 h
  have hport' : flashPort (heard s port) port = true := by rw [flashPort, host_heard]; exact hport
  unfold flashCommand flashBegins
  simp only [hostTurn_eq hdue, hport', host_heard, hidle, hlow, hhigh, field_eq_extractLsb' _ 12 12, Option.isSome_none, ne_eq,
    not_true_eq_false, or_self, Bool.not_true, Bool.false_eq_true, if_false]

theorem execFlashErase_takes (h : hostEvent s (.flashErase port) = some t) : execFlashErase port s = .next t := by
  obtain ⟨haccepts, rfl⟩ := takes_eq_some.1 h
  exact congrArg _ (flashCommand_accepted haccepts)

theorem execFlashProgram_takes (h : hostEvent s (.flashProgram port) = some t) : execFlashProgram port s = .next t := by
  obtain ⟨haccepts, rfl⟩ := takes_eq_some.1 h
  exact congrArg _ (flashCommand_accepted haccepts)

theorem execFlashEraseDone_takes {ok : Bool} (h : hostEvent s (.flashEraseDone ok) = some t) :
    execFlashEraseDone ok s = .next t := by
  unfold hostEvent at h
  dsimp only at h
  unfold execFlashEraseDone
  refine congrArg _ ?_
  cases hrun : s.host.flRun with
  | none => simp only [hrun, reduceCtorEq] at h
  | some r =>
    simp only [hrun] at h ⊢
    obtain ⟨herase, rfl⟩ := takes_eq_some.1 h
    simp only [herase, Bool.false_eq_true, if_false, mul_comm (r.page / 16) 16]
    rfl

theorem execFlashProgramDone_takes {ok : Bool} (h : hostEvent s (.flashProgramDone ok) = some t) :
    execFlashProgramDone ok s = .next t := by
  unfold hostEvent at h
  dsimp only at h
  unfold execFlashProgramDone
  refine congrArg _ ?_
  cases hrun : s.host.flRun with
  | none => simp only [hrun, reduceCtorEq] at h
  | some r =>
    simp only [hrun] at h ⊢
    obtain ⟨hprogram, rfl⟩ := takes_eq_some.1 h
    simp only [hprogram, Bool.not_true, Bool.false_eq_true, if_false]
    split_ifs
    · rfl
    · rfl
    · rfl

/-! ## Start-up (R449 to R453) -/

theorem execDeviceReset_takes (h : hostEvent s .deviceReset = some t) : execDeviceReset s = .next t :=
  congrArg _ (Option.some.inj h)

theorem execClearFails_takes {x : Byte} (h : hostEvent s (.clearFails port x) = some t) : execClearFails port x s = .next t := by
  obtain ⟨⟨hdue, hmin, rfl, rfl⟩, rfl⟩ := takes_eq_some.1 h
  unfold execClearFails
  simp only [hostTurn_eq hdue, host_heard, hmin, if_true, bne_self_eq_false, Bool.false_eq_true, if_false]

theorem execBootstOk_takes (h : hostEvent s .bootstOk = some t) : execBootstOk s = .next t := by
  obtain ⟨⟨hstage, hstopped, hsoon⟩, rfl⟩ := takes_eq_some.1 h
  have hmay : ¬ (s.host.bootStage ≠ 5 ∨ s.host.bootStopped = true ∨ s.host.bootAt + startTime < s.now) :=
    not_or.2 ⟨not_not.2 hstage, not_or.2 ⟨Bool.eq_false_iff.1 hstopped, not_lt.2 hsoon⟩⟩
  unfold execBootstOk
  rw [if_neg hmay]
  dsimp only
  split_ifs
  · rfl
  · rfl

theorem execFirmwareTimeout_takes (h : hostEvent s .firmwareTimeout = some t) : execFirmwareTimeout s = .next t := by
  obtain ⟨⟨hstage, hok, hstopped, hlate⟩, rfl⟩ := takes_eq_some.1 h
  have hmay : ¬ (s.host.bootStage ≠ 5 ∨ s.host.bootOk = true ∨ s.host.bootStopped = true ∨
      s.now < s.host.bootAt + startTime) :=
    not_or.2 ⟨not_not.2 hstage, not_or.2 ⟨Bool.eq_false_iff.1 hok,
      not_or.2 ⟨Bool.eq_false_iff.1 hstopped, not_lt.2 hlate⟩⟩⟩
  exact congrArg _ (if_neg hmay)

/-! ## Power and temperature (R457 to R459) -/

section
variable {pkgw : Half} {hbm die : Byte}

/-- Below T4 and up to 110 °C a reading lowers the clock at once to T3, or by one state, or not at all. -/
theorem throttleDown_warm {r : Reading} (hheld : powerHeld s = false) (hst : s.host.throttle < 3) (hdie : r.die.toNat ≤ 110) :
    throttleDown s r =
      if 105 < r.die.toNat then throttled (noteReading s r) r 4 3
      else ((downCause s r).map (fun k => throttled (noteReading s r) r k (s.host.throttle + 1))).getD (noteReading s r) := by
  have hfree : (powerHeld (noteReading s r) || (noteReading s r).host.throttle == 4) = false :=
    Bool.or_eq_false_iff.2 ⟨hheld, beq_false_of_ne (ne_of_lt (hst.trans (by decide)))⟩
  have hlow : ¬ 3 ≤ (noteReading s r).host.throttle := not_le.2 hst
  unfold throttleDown
  simp only [hfree, hlow, not_lt.2 hdie, Bool.false_eq_true, if_false]
  cases downCause s r with
  | none => rfl
  | some k => rfl

/-- Above 110 °C every team is saved. -/
theorem throttleDown_hot {r : Reading} (hheld : powerHeld s = false) (hst : s.host.throttle ≠ 4) (hdie : 110 < r.die.toNat) :
    throttleDown s r =
      (throttled (noteReading s r) r 5 4).teams.foldl (fun t e => requestStop t e.1 .throttle false)
        (throttled (noteReading s r) r 5 4) := by
  have hfree : (powerHeld (noteReading s r) || (noteReading s r).host.throttle == 4) = false :=
    Bool.or_eq_false_iff.2 ⟨hheld, beq_false_of_ne hst⟩
  unfold throttleDown
  simp only [hfree, hdie, Bool.false_eq_true, if_false, if_true]
  rfl

theorem downCause_eq {r : Reading}
    (h : s.host.plim.toNat < r.pkgw.toNat ∨ 95 < r.die.toNat ∨ 95 < r.hbm.toNat) :
    downCause s r = some (if s.host.plim.toNat < r.pkgw.toNat then 1 else if 95 < r.die.toNat then 2 else 3) := by
  unfold downCause
  split_ifs with hpower hdie hhbm
  · rfl
  · rfl
  · rfl
  · exact absurd h (not_or.2 ⟨hpower, not_or.2 ⟨hdie, hhbm⟩⟩)

theorem execThrottleStepDown_takes (h : hostEvent s (.throttleStepDown pkgw hbm die) = some t) :
    execThrottleStepDown pkgw hbm die s = .next t := by
  obtain ⟨⟨hheld, hst, hdie, hdown⟩, rfl⟩ := takes_eq_some.1 h
  refine congrArg _ ((throttleDown_warm hheld hst (hdie.trans (by decide))).trans ?_)
  rw [if_neg (not_lt.2 hdie), downCause_eq hdown]
  rfl

theorem execThrottleT3_takes (h : hostEvent s (.throttleT3 pkgw hbm die) = some t) :
    execThrottleT3 pkgw hbm die s = .next t := by
  obtain ⟨⟨hheld, hst, hhot, hdie⟩, rfl⟩ := takes_eq_some.1 h
  exact congrArg _ ((throttleDown_warm hheld hst hdie).trans (if_pos hhot))

theorem execThrottleT4_takes (h : hostEvent s (.throttleT4 pkgw hbm die) = some t) :
    execThrottleT4 pkgw hbm die s = .next t := by
  obtain ⟨⟨hheld, hst, hhot⟩, rfl⟩ := takes_eq_some.1 h
  exact congrArg _ (throttleDown_hot hheld hst hhot)

theorem execThrottleLeaveT4_takes (h : hostEvent s (.throttleLeaveT4 pkgw hbm die) = some t) :
    execThrottleLeaveT4 pkgw hbm die s = .next t := by
  obtain ⟨⟨hheld, hst, hcool⟩, rfl⟩ := takes_eq_some.1 h
  exact next_ite_false (Bool.or_eq_false_iff.2
    ⟨Bool.or_eq_false_iff.2 ⟨hheld, bne_eq_false_iff_eq.2 hst⟩, decide_eq_false (not_lt.2 hcool)⟩)

theorem execThrottleStepUp_takes (h : hostEvent s (.throttleStepUp pkgw hbm die) = some t) :
    execThrottleStepUp pkgw hbm die s = .next t := by
  obtain ⟨⟨hheld, hst, hcalm⟩, rfl⟩ := takes_eq_some.1 h
  have hup : s.host.throttle ≠ 0 ∧ s.host.throttle ≠ 4 := by omega
  obtain ⟨hlow, hhigh⟩ := hup
  have hfree : (powerHeld s || s.host.throttle == 0) = false := Bool.or_eq_false_iff.2 ⟨hheld, beq_false_of_ne hlow⟩
  exact next_ite_false (Bool.or_eq_false_iff.2
    ⟨Bool.or_eq_false_iff.2 ⟨hfree, beq_false_of_ne hhigh⟩, decide_eq_false (not_lt.2 hcalm)⟩)

theorem execTempRefresh_takes (h : hostEvent s (.tempRefresh pkgw hbm die) = some t) :
    execTempRefresh pkgw hbm die s = .next t :=
  congrArg _ (Option.some.inj h)

end

/-! ## The fabric (R443 to R446) -/

theorem execUatinRequest_takes {r : UatinReq} (h : hostEvent s (.uatinRequest r) = some t) :
    execUatinRequest r s = .next t := by
  unfold hostEvent at h
  dsimp only at h
  unfold execUatinRequest
  refine congrArg _ ?_
  split_ifs at h with hstop
  rw [if_neg (by simpa using hstop)]
  obtain ⟨hm, hadmitted, rfl⟩ := Option.map_eq_some_iff.1 h
  simp only [admitted_countFlits, hadmitted]

theorem execUatinTimeout_takes {n : Nat} (h : hostEvent s (.uatinTimeout n) = some t) : execUatinTimeout n s = .next t := by
  unfold hostEvent at h
  dsimp only at h
  unfold execUatinTimeout
  split_ifs at h ⊢ with hn
  · exact execRemoteStoreLost_takes h
  · exact congrArg _ (Option.some.inj h)

theorem execFlitReplay_takes {p : Fin 36} (h : hostEvent s (.flitReplay p) = some t) : execFlitReplay p s = .next t :=
  congrArg _ (Option.some.inj h)

theorem mayTrain_eq_trainable (s : State) (p : Nat) (st : PortMode) : mayTrain s p st = trainable s p st := by
  cases st with
  | down => rfl
  | ethernet => simp [mayTrain, trainable]
  | uatin => simp [mayTrain, trainable]
  | ualink =>
    simp [mayTrain, trainable, field_eq_extractLsb', ← BitVec.toNat_inj, Bool.and_assoc, Bool.beq_eq_decide_eq]

theorem execPortStateChange_takes {p : Fin 36} {st : PortMode} (h : hostEvent s (.portStateChange p st) = some t) :
    execPortStateChange p st s = .next t := by
  obtain ⟨hmay, rfl⟩ := takes_eq_some.1 h
  rw [← mayTrain_eq_trainable] at hmay
  unfold execPortStateChange
  rw [hmay]
  rfl

end

/-- Settles O14, event by event. -/
theorem hostEventsTakeEffect : Obligations.HostEventsTakeEffect := by
  unfold Obligations.HostEventsTakeEffect
  intro s t i h
  cases i with
  | launchCommit port q slot x => exact execLaunchCommit_takes h
  | renew port => exact execRenew_takes h
  | leaseExpiry => exact execLeaseExpiry_takes h
  | clearFails port x => exact execClearFails_takes h
  | flashErase port => exact execFlashErase_takes h
  | flashProgram port => exact execFlashProgram_takes h
  | flashEraseDone ok => exact execFlashEraseDone_takes h
  | flashProgramDone ok => exact execFlashProgramDone_takes h
  | registerWrite port off x => exact execRegisterWrite_takes h
  | outboundHeadAdvance port head => exact execOutboundHeadAdvance_takes h
  | hostMemoryAccess port write a data => exact execHostMemoryAccess_takes h
  | hostSnoop a write data => exact execHostSnoop_takes h
  | hostPortDown port => exact execHostPortDown_takes h
  | deviceReset => exact execDeviceReset_takes h
  | bootstOk => exact execBootstOk_takes h
  | firmwareTimeout => exact execFirmwareTimeout_takes h
  | throttleStepDown pkgw hbm die => exact execThrottleStepDown_takes h
  | throttleT3 pkgw hbm die => exact execThrottleT3_takes h
  | throttleT4 pkgw hbm die => exact execThrottleT4_takes h
  | throttleLeaveT4 pkgw hbm die => exact execThrottleLeaveT4_takes h
  | throttleStepUp pkgw hbm die => exact execThrottleStepUp_takes h
  | tempRefresh pkgw hbm die => exact execTempRefresh_takes h
  | uatinRequest r => exact execUatinRequest_takes h
  | uatinTimeout n => exact execUatinTimeout_takes h
  | flitReplay p => exact execFlitReplay_takes h
  | portStateChange p st => exact execPortStateChange_takes h
  | _ => cases h

end Sys2Proof.Laws
end

section
/-! SUPPORT. The choice of a slot, the ids of launches, and the turn of a quarter (O47, O49, O57). -/

namespace Sys2Proof.Laws
open Sys2Proof.Machine

/-! ## The choice of a slot (R216, R217) -/

/-- The slot of a list whose last run began first. -/
def oldestOf (s : State) (c : Nat) (ns : List Nat) : Option Nat :=
  ns.foldl (fun (b : Option Nat) n =>
    match b with
    | none => some n
    | some m => if olderRun s c m n then some m else some n) none

theorem oldestOf_nil (s : State) (c : Nat) : oldestOf s c [] = none := rfl

theorem oldestOf_cons_cons (s : State) (c m n : Nat) (ns : List Nat) :
    oldestOf s c (m :: n :: ns) = oldestOf s c ((if olderRun s c m n then m else n) :: ns) := by
  unfold oldestOf
  simp only [List.foldl_cons]
  split_ifs <;> rfl

theorem oldestOf_cons_mem (s : State) (c m : Nat) (ns : List Nat) : ∃ n ∈ m :: ns, oldestOf s c (m :: ns) = some n := by
  induction ns generalizing m with
  | nil => exact ⟨m, List.mem_singleton_self m, rfl⟩
  | cons k r ih =>
    obtain ⟨n, hn, he⟩ := ih (if olderRun s c m k then m else k)
    refine ⟨n, ?_, (oldestOf_cons_cons s c m k r).trans he⟩
    split_ifs at hn
    · exact (List.cons_sublist_cons.2 (List.sublist_cons_self k r)).subset hn
    · exact List.mem_cons_of_mem m hn

theorem oldestOf_mem {s : State} {c : Nat} {ns : List Nat} (h : ns ≠ []) : ∃ n ∈ ns, oldestOf s c ns = some n := by
  cases ns with
  | nil => exact absurd rfl h
  | cons m r => exact oldestOf_cons_mem s c m r

/-- The Ready user slots of a quarter. -/
def readyUsers (s : State) (c q : Nat) : List Nat := [4 * q, 4 * q + 1, 4 * q + 2, 4 * q + 3].filter (slotReady s c)

theorem slotReady_of_mem_readyUsers {s : State} {c q n : Nat} (h : n ∈ readyUsers s c q) : slotReady s c n = true :=
  (List.mem_filter.1 h).2

theorem chooseSlot_eq (s : State) (c q : Nat) :
    chooseSlot s c q =
      if q = 0 ∧ slotReady s c 16 then
        (if (quarterAt s c q).prevUmpire && !(readyUsers s c q).isEmpty then oldestOf s c (readyUsers s c q) else some 16)
      else oldestOf s c (readyUsers s c q) := rfl

section
variable {s : State} {c q : Nat}

/-- Slot 16 issues where it is Ready and no user goes ahead of it. -/
theorem chooseSlot_umpire (h16 : slotReady s c 16 = true)
    (h : (quarterAt s c 0).prevUmpire = false ∨ readyUsers s c 0 = []) : chooseSlot s c 0 = some 16 := by
  rw [chooseSlot_eq, if_pos ⟨rfl, h16⟩, if_neg]
  rcases h with h | h
  · simp [h]
  · simp [h]

/-- A user slot issues where slot 16 is not Ready, or has had the quarter's previous run. -/
theorem chooseSlot_users
    (h : ¬ (q = 0 ∧ slotReady s c 16 = true) ∨ ((quarterAt s c q).prevUmpire = true ∧ readyUsers s c q ≠ [])) :
    chooseSlot s c q = oldestOf s c (readyUsers s c q) := by
  rw [chooseSlot_eq]
  rcases h with h | ⟨hprev, husers⟩
  · exact if_neg h
  · rw [hprev, if_pos (c := _ && _) (by simpa using husers)]
    exact ite_self _

/-- What takes the quarter's next run: slot 16, a Ready user slot, or none where none is Ready. -/
theorem chooseSlot_cases (s : State) (c q : Nat) :
    (chooseSlot s c q = some 16 ∧ q = 0 ∧ slotReady s c 16 = true) ∨
    (∃ n ∈ readyUsers s c q, chooseSlot s c q = some n) ∨
    (chooseSlot s c q = none ∧ readyUsers s c q = [] ∧ (q = 0 → slotReady s c 16 = false)) := by
  by_cases hu : readyUsers s c q = []
  · by_cases h16 : q = 0 ∧ slotReady s c 16 = true
    · obtain ⟨rfl, h16⟩ := h16
      exact .inl ⟨chooseSlot_umpire h16 (.inr hu), rfl, h16⟩
    · refine .inr (.inr ⟨?_, hu, fun hq => Bool.eq_false_iff.2 fun h => h16 ⟨hq, h⟩⟩)
      rw [chooseSlot_users (.inl h16), hu, oldestOf_nil]
  · obtain ⟨n, hn, he⟩ := oldestOf_mem (s := s) (c := c) hu
    by_cases h : ¬ (q = 0 ∧ slotReady s c 16 = true) ∨ ((quarterAt s c q).prevUmpire = true ∧ readyUsers s c q ≠ [])
    · exact .inr (.inl ⟨n, hn, (chooseSlot_users h).trans he⟩)
    · obtain ⟨hready, hprev⟩ := not_or.1 h
      obtain ⟨rfl, h16⟩ := not_not.1 hready
      exact .inl ⟨chooseSlot_umpire h16 (.inl (Bool.eq_false_iff.2 fun hp => hprev ⟨hp, hu⟩)), rfl, h16⟩

end

/-- Settles O47, by the three outcomes of a choice. -/
theorem umpireIssuesAheadOfUsers : Obligations.UmpireIssuesAheadOfUsers := by
  unfold Obligations.UmpireIssuesAheadOfUsers
  intro s c q
  change let users := readyUsers s c q; _
  dsimp only
  refine ⟨fun n hn => ?_, ?_, ?_, ?_⟩
  · rcases chooseSlot_cases s c q with ⟨he, hq, h16⟩ | ⟨m, hm, he⟩ | ⟨he, -, -⟩
    · obtain rfl : 16 = n := Option.some.inj (he.symm.trans hn)
      exact ⟨.inr ⟨rfl, hq⟩, h16⟩
    · obtain rfl : m = n := Option.some.inj (he.symm.trans hn)
      exact ⟨.inl hm, slotReady_of_mem_readyUsers hm⟩
    · cases he.symm.trans hn
  · rintro rfl h16 h
    exact chooseSlot_umpire h16 h
  · rintro rfl hprev hu
    obtain ⟨n, hn, he⟩ := oldestOf_mem (s := s) (c := c) hu
    exact ⟨n, hn, (chooseSlot_users (.inr ⟨hprev, hu⟩)).trans he⟩
  · constructor
    · intro hnone
      rcases chooseSlot_cases s c q with ⟨he, -⟩ | ⟨m, -, he⟩ | ⟨-, h⟩
      · cases he.symm.trans hnone
      · cases he.symm.trans hnone
      · exact h
    · rintro ⟨hu, h16⟩
      rw [chooseSlot_users (.inl fun h => Bool.eq_false_iff.1 (h16 h.1) h.2)]
      exact (congrArg (oldestOf s c) hu).trans (oldestOf_nil s c)

/-! ## Launch ids (R208) -/

/-- A sum of two numbers whose bits do not meet is their disjunction. -/
theorem ofNat_add_eq_or {w i a b : Nat} (hb : b < 2 ^ i) :
    BitVec.ofNat w (a * 2 ^ i + b) = (BitVec.ofNat w a <<< i) ||| BitVec.ofNat w b := by
  rw [mul_comm, Nat.two_pow_add_eq_or_of_lt hb, BitVec.ofNat_or]
  refine congrArg (· ||| BitVec.ofNat w b) (BitVec.eq_of_toNat_eq ?_)
  rw [BitVec.toNat_ofNat, BitVec.toNat_shiftLeft, BitVec.toNat_ofNat, Nat.shiftLeft_eq, Nat.mod_mul_mod, mul_comm]

theorem hostLaunch_id (q slot : Nat) (u : Queue) (ws : List DWord) :
    (hostLaunch q slot u ws).id = (BitVec.ofNat 32 q <<< 23) ||| u.next.setWidth 32 := by
  rw [← BitVec.ofNat_toNat]
  exact ofNat_add_eq_or u.next.isLt

theorem hostLaunch_id_bit31 {q : Nat} (slot : Nat) (u : Queue) (ws : List DWord) (hq : q < 256) :
    (hostLaunch q slot u ws).id.getLsbD 31 = false := by
  have hn := u.next.isLt
  show (BitVec.ofNat 32 (q * 2 ^ 23 + u.next.toNat)).getLsbD 31 = false
  rw [BitVec.getLsbD_ofNat, Nat.testBit_lt_two_pow (by omega), Bool.and_false]

theorem childId_eq (seq : Nat) : childId seq = 0x80000000 ||| (BitVec.ofNat 32 seq &&& 0x7FFFFFFF) := by
  have h := ofNat_add_eq_or (w := 32) (a := 1) (Nat.mod_lt seq (Nat.two_pow_pos 31))
  rw [one_mul, ← Nat.and_two_pow_sub_one_eq_mod, BitVec.ofNat_and] at h
  unfold childId
  rw [← Nat.and_two_pow_sub_one_eq_mod]
  exact h

/-- Settles O49, by the bits of a sum. -/
theorem launchIdsNameTheirQueues : Obligations.LaunchIdsNameTheirQueues := by
  unfold Obligations.LaunchIdsNameTheirQueues
  exact ⟨fun q slot u ws hq => ⟨hostLaunch_id q slot u ws, hostLaunch_id_bit31 slot u ws hq⟩, childId_eq⟩

/-! ## A turn of a quarter (R216, R309) -/

section
variable {ex : Instr → State → Host.Outcome State Fault Refusal} {s : State} {c q : Nat} {r : Run} {l : Nat}
  {ls : List Nat} {t : Thread}

/-- A quarter whose run has a path left issues on it. -/
theorem issueStep_eq (hfrozen : (quarterAt s c q).frozen = none) (hclock : clockStopped s = false)
    (hrun : (quarterAt s c q).run = some r) (hsnap : snapping s (slotWg s c r.slot) = false)
    (hlanes : runLanesNow s c r = l :: ls) (ht : threadAt s c r.slot l = some t) :
    issueStep ex s c q = issueOn ex s c q r l ls t := by
  unfold issueStep
  simp only [hfrozen, hclock, hrun, hsnap, hlanes, ht, Option.isSome_none, Bool.or_self, Bool.false_eq_true, if_false]

/-- A path whose words have been fetched and decode runs the instruction. -/
theorem issueOn_decoded {i : Instr} {rest : List Byte} :
    let s' := { s with iss := { core := c, quarter := q, slot := r.slot, lanes := maskOf (l :: ls), pc := t.pc } }
    let f := fetchInstr s' c (slotHm s' c r.slot) t.cbase t.pc
    f.2.trap = none → f.2.stall = false → f.2.missing = [] → decode f.2.bytes = .ok (i, rest) →
    issueOn ex s c q r l ls t = ex i f.1 := by
  intro s' f htrap hstall hmissing hdecode
  unfold issueOn
  simp only [s', f] at htrap hstall hmissing hdecode ⊢
  simp only [htrap, hstall, hmissing, hdecode, List.isEmpty_nil, Bool.not_true, Bool.false_eq_true, if_false]

end

theorem step_issue {s : State} {c : Fin 192} {q : Fin 4} {r : List Action} (h : s.agenda = .issue c q :: r) :
    step s = settled (issueStep exec { tick s with agenda := r } c.val q.val) := by
  unfold step
  rw [h]

/-- Settles O57: the step is the quarter's turn, whose path runs the decoded instruction. -/
theorem stepRunsTheDecodedInstruction : Obligations.StepRunsTheDecodedInstruction := by
  unfold Obligations.StepRunsTheDecodedInstruction
  intro s c q r run l ls th i rest hagenda s1 hfrozen hclock hrun hsnap hlanes hth s2 f htrap hstall hmissing hdecode
  rw [step_issue hagenda, issueStep_eq hfrozen hclock hrun hsnap hlanes hth]
  exact congrArg settled (issueOn_decoded htrap hstall hmissing hdecode)

end Sys2Proof.Laws
end

section
/-! SUPPORT. The bits of a dugout record and of a signal frame (O23, O43). -/

namespace Sys2Proof.Laws
open Sys2Proof.Machine Sys2Proof.Claims

/-! ## Bits of a word given as a number -/

theorem toNat_extractLsb'_ofNat {w x : Nat} (hx : x < 2 ^ w) (lo n : Nat) :
    ((BitVec.ofNat w x).extractLsb' lo n).toNat = x / 2 ^ lo % 2 ^ n := by
  rw [BitVec.extractLsb'_toNat, Nat.shiftRight_eq_div_pow, BitVec.toNat_ofNat, Nat.mod_eq_of_lt hx]

theorem extractLsb'_ofNat_eq {w x lo n : Nat} {v : BitVec n} (hx : x < 2 ^ w) (hv : x / 2 ^ lo % 2 ^ n = v.toNat) :
    (BitVec.ofNat w x).extractLsb' lo n = v :=
  BitVec.eq_of_toNat_eq ((toNat_extractLsb'_ofNat hx lo n).trans hv)

/-- A field above all of a number is zero. -/
theorem extractLsb'_ofNat_eq_zero {w x lo : Nat} (n : Nat) (hw : lo ≤ w) (hx : x < 2 ^ lo) :
    (BitVec.ofNat w x).extractLsb' lo n = 0 :=
  extractLsb'_ofNat_eq (hx.trans_le (Nat.pow_le_pow_right (by decide) hw)) (by rw [Nat.div_eq_of_lt hx]; simp)

theorem getLsbD_ofNat_eq {w x i : Nat} {b : Bool} (hi : i < w) (hb : x / 2 ^ i % 2 = b.toNat) :
    (BitVec.ofNat w x).getLsbD i = b := by
  rw [BitVec.getLsbD_ofNat, Nat.testBit_eq_decide_div_mod_eq, hb]
  cases b <;> simp [hi]

@[simp] theorem extractLsb'_pair_low (lo hi : Word) : (pair lo hi).extractLsb' 0 32 = lo :=
  BitVec.extractLsb'_append_eq_right

@[simp] theorem extractLsb'_pair_high (lo hi : Word) : (pair lo hi).extractLsb' 32 32 = hi :=
  BitVec.extractLsb'_append_eq_left

/-! ## A dugout record (R224) -/

/-- Word 0 of a record as a number. -/
def recordHead (d : DugEntry) : Nat :=
  d.cause.toNat * 2 ^ 56 + d.detail.toNat * 2 ^ 48 + d.hm.toNat * 2 ^ 34 + d.slot * 2 ^ 29 + (if d.eng then 2 ^ 28 else 0) +
    (if d.eng then d.tag.toNat * 2 ^ 22 else 0) + d.addrs.length * 2 ^ 16 + (if d.eng then d.qix * 2 ^ 10 else 0)

theorem recordWords_eq (d : DugEntry) (cbase : DWord) (prog : Nat) :
    recordWords d cbase prog = BitVec.ofNat 64 (recordHead d) :: pair d.pc d.lanes :: cbase :: d.info :: BitVec.ofNat 64 prog ::
      0 :: 0 :: 0 :: (d.addrs ++ List.replicate (32 - d.addrs.length) 0) := rfl

/-- Settles O23: the parts of word 0 do not overlap, and the words after it hold what they are made of. -/
theorem dugoutRecordFields : Obligations.DugoutRecordFields := by
  unfold Obligations.DugoutRecordFields
  intro d cbase prog hslot haddrs hqix
  have hc := d.cause.isLt
  have hd := d.detail.isLt
  have hh := d.hm.isLt
  have ht := d.tag.isLt
  have hlt : recordHead d < 2 ^ 64 := by
    unfold recordHead
    split_ifs <;> omega
  have hlen := length_recordWords haddrs cbase prog
  rw [recordWords_eq] at hlen ⊢
  refine ⟨extractLsb'_ofNat_eq hlt ?_, extractLsb'_ofNat_eq hlt ?_, extractLsb'_ofNat_eq hlt ?_,
    (toNat_extractLsb'_ofNat hlt 29 5).trans ?_, getLsbD_ofNat_eq (by decide) ?_, (toNat_extractLsb'_ofNat hlt 16 6).trans ?_,
    extractLsb'_pair_high _ _, extractLsb'_pair_low _ _, rfl, hlen⟩
  all_goals
    unfold recordHead
    cases d.eng <;> simp only [Bool.toNat_true, Bool.toNat_false, if_true, if_false, Bool.false_eq_true] <;> omega

/-! ## A signal frame (R237) -/

/-- Which of v2, v4 and v5 hold a value in a lane, as SVM gives it. -/
def svmOf (s : State) (c n l : Nat) : Nat :=
  (holdsV s c n 2 l).toNat + 2 * (holdsV s c n 4 l).toNat + 4 * (holdsV s c n 5 l).toNat

/-- The nine words of a frame that are not zero, and the seven that are. -/
theorem frameWords_eq (s : State) (c n l : Nat) (th : Thread) (cause detail : Byte) (addr info : DWord) (async : Bool) (pc : Word) :
    frameWords s c n l th cause detail addr info async pc =
      [BitVec.ofNat 64 (async.toNat * 65536 + detail.toNat * 256 + cause.toNat), pair pc th.mr,
        BitVec.ofNat 64 (th.age.toNat * 2 ^ 40 + th.pred.toNat * 2 ^ 32 + th.csp.toNat), pair th.fpstat th.fpctl, addr, info,
        th.cbase, BitVec.ofNat 64 (svmOf s c n l * 2 ^ 32 + (frameV s c n 2 l).toNat),
        pair (frameV s c n 4 l) (frameV s c n 5 l)] ++ List.replicate 7 0 := by
  unfold frameWords svmOf
  cases async <;> cases holdsV s c n 2 l <;> cases holdsV s c n 4 l <;> cases holdsV s c n 5 l <;> rfl

theorem length_frameWords (s : State) (c n l : Nat) (th : Thread) (cause detail : Byte) (addr info : DWord) (async : Bool)
    (pc : Word) : (frameWords s c n l th cause detail addr info async pc).length = 16 := rfl

/-- The word of a register that holds a value is saved as it stands. -/
theorem frameV_of_holdsV {s : State} {c n v l : Nat} (h : holdsV s c n v l = true) : frameV s c n v l = vWord s c n v l := by
  unfold frameV
  rw [if_pos h]

/-- Settles O43, word by word. -/
theorem signalFrameHoldsTheThread : Obligations.SignalFrameHoldsTheThread := by
  unfold Obligations.SignalFrameHoldsTheThread
  intro s c n l th cause detail addr info async pc
  have hc := cause.isLt
  have hd := detail.isLt
  have ha := th.age.isLt
  have hp := th.pred.isLt
  have hs := th.csp.isLt
  have hv := (frameV s c n 2 l).isLt
  have hasync := async.toNat_le
  have h2 := (holdsV s c n 2 l).toNat_le
  have h4 := (holdsV s c n 4 l).toNat_le
  have h5 := (holdsV s c n 5 l).toNat_le
  have hsvm : svmOf s c n l = (holdsV s c n 2 l).toNat + 2 * (holdsV s c n 4 l).toNat + 4 * (holdsV s c n 5 l).toNat := rfl
  rw [frameWords_eq]
  refine ⟨rfl, extractLsb'_ofNat_eq (by omega) (by omega), extractLsb'_ofNat_eq (by omega) (by omega),
    getLsbD_ofNat_eq (by decide) (by omega), extractLsb'_ofNat_eq_zero 47 (by decide) (by omega), extractLsb'_pair_low _ _,
    extractLsb'_pair_high _ _, extractLsb'_ofNat_eq (by omega) (by omega), extractLsb'_ofNat_eq (by omega) (by omega),
    extractLsb'_ofNat_eq (by omega) (by omega), extractLsb'_ofNat_eq_zero 19 (by decide) (by omega), extractLsb'_pair_low _ _,
    extractLsb'_pair_high _ _, rfl, rfl, rfl, extractLsb'_ofNat_eq_zero 29 (by decide) (by omega), ?_, fun i hi => ?_⟩
  · simp only [List.forall_mem_cons, List.not_mem_nil, false_imp_iff, implies_true, and_true]
    refine ⟨⟨getLsbD_ofNat_eq (by decide) (by omega), fun h => ?_⟩, ⟨getLsbD_ofNat_eq (by decide) (by omega), fun h => ?_⟩,
      getLsbD_ofNat_eq (by decide) (by omega), fun h => ?_⟩
    · exact (extractLsb'_ofNat_eq (by omega) (by omega)).trans (frameV_of_holdsV h)
    · exact (extractLsb'_pair_low _ _).trans (frameV_of_holdsV h)
    · exact (extractLsb'_pair_high _ _).trans (frameV_of_holdsV h)
  · dsimp only
    rw [List.getD_append_right _ _ _ i (by simpa using hi)]
    exact List.getElem?_getD_replicate_default_eq _ _ _

end Sys2Proof.Laws
end

section
/-! SUPPORT. What the dugout's registers read after a trap is taken (O24), and what a replay of an entry leaves (O25). -/

namespace Sys2Proof.Laws
open Sys2Proof.Machine Sys2Proof.Claims

/-! ## The dugout as a table (R225) -/

theorem get?_of_freeKey {α : Type} {t : Tab α} {n k e : Nat} (h : Tab.freeKey t n k = some e) : Tab.get? t e = none := by
  induction n generalizing k with
  | zero => cases h
  | succ n ih =>
    rw [Tab.freeKey] at h
    split_ifs at h with hk
    · obtain rfl := Option.some.inj h
      simpa using hk
    · exact ih h

/-- A new number makes a table longer by one. -/
theorem length_set_of_get?_eq_none {α : Type} {t : Tab α} {k : Nat} (x : α) (h : Tab.get? t k = none) :
    (Tab.set t k x).length = t.length + 1 := by
  induction t with
  | nil => rfl
  | cons e r ih =>
    obtain ⟨j, y⟩ := e
    rw [get?_cons] at h
    split_ifs at h with hj
    unfold Tab.set
    split_ifs with h1 h2
    · rfl
    · exact absurd h2.symm hj
    · rw [List.length_cons, ih h, List.length_cons]

/-- One step of the search for the oldest entry: the number and the time of the older of two. -/
def olderEntry (b : Option (Nat × Nat)) (e : Nat × DugEntry) : Option (Nat × Nat) :=
  match b with
  | none => some (e.1, e.2.seq)
  | some (j, q) => if e.2.seq < q then some (e.1, e.2.seq) else some (j, q)

theorem oldestEntry_eq (k : Core) : oldestEntry k = (k.dugout.foldl olderEntry none).map Prod.fst := rfl

/-- The search keeps what it has where no entry is older, and else ends at an entry that none is older than. -/
theorem foldl_olderEntry (t : Tab DugEntry) (j q : Nat) :
    ∃ h x, t.foldl olderEntry (some (j, q)) = some (h, x) ∧ x ≤ q ∧ (∀ e ∈ t, x ≤ e.2.seq) ∧
      ((h, x) = (j, q) ∨ ∃ d, (h, d) ∈ t ∧ d.seq = x) := by
  induction t generalizing j q with
  | nil => exact ⟨j, q, rfl, le_rfl, fun _ h => absurd h List.not_mem_nil, .inl rfl⟩
  | cons e r ih =>
    rw [List.foldl_cons, olderEntry]
    split_ifs with hlt
    · obtain ⟨h, x, he, hx, hall, hmem⟩ := ih e.1 e.2.seq
      refine ⟨h, x, he, by omega, List.forall_mem_cons.2 ⟨hx, hall⟩, .inr ?_⟩
      obtain heq | ⟨d, hd, rfl⟩ := hmem
      · obtain ⟨rfl, rfl⟩ := Prod.mk.inj heq
        exact ⟨e.2, List.mem_cons_self, rfl⟩
      · exact ⟨d, List.mem_cons_of_mem _ hd, rfl⟩
    · obtain ⟨h, x, he, hx, hall, hmem⟩ := ih j q
      refine ⟨h, x, he, hx, List.forall_mem_cons.2 ⟨by omega, hall⟩, hmem.imp id ?_⟩
      rintro ⟨d, hd, rfl⟩
      exact ⟨d, List.mem_cons_of_mem _ hd, rfl⟩

/-- The oldest entry of a dugout that holds one is an entry that none is older than. -/
theorem oldestEntry_of_mem {k : Core} {x : Nat × DugEntry} (hx : x ∈ k.dugout) :
    ∃ h d, oldestEntry k = some h ∧ (h, d) ∈ k.dugout ∧ ∀ y ∈ k.dugout, d.seq ≤ y.2.seq := by
  rw [oldestEntry_eq]
  cases hk : k.dugout with
  | nil => exact absurd (hk ▸ hx) List.not_mem_nil
  | cons e r =>
    obtain ⟨h, q, he, hq, hall, hmem⟩ := foldl_olderEntry r e.1 e.2.seq
    have hfold : (e :: r).foldl olderEntry none = some (h, q) := he
    rw [hfold]
    obtain heq | ⟨d, hd, rfl⟩ := hmem
    · obtain ⟨rfl, rfl⟩ := Prod.mk.inj heq
      exact ⟨e.1, e.2, rfl, List.mem_cons_self, List.forall_mem_cons.2 ⟨le_rfl, hall⟩⟩
    · exact ⟨h, d, rfl, List.mem_cons_of_mem _ hd, List.forall_mem_cons.2 ⟨hq, hall⟩⟩

/-! ## The registers of the dugout (R225) -/

theorem dgSel_modThread (s : State) (c n l : Nat) (f : Thread → Thread) :
    (coreAt (modThread s c n l f) c).dgSel = (coreAt s c).dgSel := by
  unfold modThread modSlot
  rw [coreAt_modCore_same]

theorem dgSel_umpSpadWrite (s : State) (c o : Nat) (bs : List Byte) :
    (coreAt (umpSpadWrite s c o bs) c).dgSel = (coreAt s c).dgSel := by
  unfold umpSpadWrite
  split
  · rw [coreAt_modCore_same]
    obtain ⟨_, _, h⟩ := setPoolBytes_eq (coreAt s c) _ bs
    rw [h]
  · rfl

section
variable {s : State} {c e : Nat} (he : dugoutFree (coreAt s c) = some e) (n : Nat) (ls : List Nat) (t : TrapInfo) (pc : Word)
  (op : Nat) (addrs : List DWord) (kept : Nat → Tab DWord)
include he

theorem dgSel_parkGroup : (coreAt (parkGroup s c n ls t pc op addrs kept) c).dgSel = (coreAt s c).dgSel := by
  rw [parkGroup_eq he, foldl_same (g := fun s => (coreAt s c).dgSel) fun s l => dgSel_modThread s c n l _, dgSel_umpSpadWrite,
    trapNoted, coreAt_modCore_same]
  rfl

theorem get?_dugout_parkGroup : Tab.get? (coreAt (parkGroup s c n ls t pc op addrs kept) c).dugout e =
    some (trapEntry s c n ls t pc op addrs) := by
  rw [dugout_parkGroup he, get?_set, if_pos rfl]

end

/-- Where SEL names an entry in use, the dugout's registers read it. -/
theorem dugoutReg_of_get? {s : State} {k : Core} {d : DugEntry} (h : Tab.get? k.dugout k.dgSel.toNat = some d) (n : Nat)
    (f : DugEntry → Nat) : dugoutReg s k n f = f d := by
  unfold dugoutReg
  rw [h]

theorem toNat_infoWord (op : Nat) (sig : Bool) (info : Word) :
    (infoWord op sig info).toNat = op % 1024 * 2 ^ 16 + (if sig then 2 ^ 11 else 0) + info.toNat % 2 ^ 11 := by
  unfold infoWord
  rw [BitVec.toNat_ofNat]
  cases sig <;> simp <;> omega

/-- Settles O24: the entry that SEL names is the trap's, and one of a dugout in use is the oldest. -/
theorem trapRegistersReadTheEntry : Obligations.TrapRegistersReadTheEntry := by
  unfold Obligations.TrapRegistersReadTheEntry
  intro s c n l ls t pc op addrs kept e he hsel _
  dsimp only
  have hget := get?_dugout_parkGroup he n ls t pc op addrs kept
  have hread : ∀ (v : State) (m : Nat) (f : DugEntry → Nat),
      dugoutReg v (coreAt (parkGroup s c n ls t pc op addrs kept) c) m f = f (trapEntry s c n ls t pc op addrs) := fun v m f =>
    dugoutReg_of_get? (by rw [dgSel_parkGroup he, hsel, hget]) m f
  refine ⟨hread _ _ _, hread _ _ _, hread _ _ _, (hread _ _ _).trans ?_, ⟨_, hget, fun _ _ => hread _ _ _⟩,
    (hread _ _ _).trans (toNat_infoWord _ _ _), ?_⟩
  · show ((pageAddrs addrs).headD 0).toNat = _
    cases pageAddrs addrs <;> rfl
  · obtain ⟨h, d, hold, hmem, hall⟩ := oldestEntry_of_mem (mem_of_get? hget)
    refine ⟨h, d, ?_, hmem, hall⟩
    show dgqh _ (coreAt (parkGroup s c n ls t pc op addrs kept) c) = _
    rw [dgqh, hold, dgSel_parkGroup he, hsel, dugout_parkGroup he, length_set_of_get?_eq_none _ (get?_of_freeKey he)]

/-! ## A replay (R226, R425) -/

/-- A thread is issued again at its PC. -/
def reissue (t : Thread) : Thread := { t with st := .ready, pass := none, due := [], park := none }

/-- Of another cause than a call, a breakpoint or a watchpoint, a parked thread is issued again. -/
theorem resumeThread_eq {s : State} {c n l : Nat} {cause : Byte} {t : Thread} (ht : threadAt s c n l = some t)
    (h70 : cause ≠ 0x70) (h60 : cause ≠ 0x60) (h61 : cause ≠ 0x61) :
    resumeThread s c n l cause = modThread s c n l reissue := by
  unfold resumeThread
  rw [ht]
  dsimp only
  rw [if_neg h70, if_neg h60, if_neg h61]
  rfl

/-- A thread that lanes to be resumed include is issued again, and keeps its PC and its MR. -/
theorem threadAt_foldl_resumeThread {c n : Nat} {cause : Byte} (h70 : cause ≠ 0x70) (h60 : cause ≠ 0x60) (h61 : cause ≠ 0x61)
    {ls : List Nat} {s : State} {l : Nat} {t : Thread} (ht : threadAt s c n l = some t) :
    threadAt (ls.foldl (fun s k => resumeThread s c n k cause) s) c n l = some (if l ∈ ls then reissue t else t) := by
  induction ls generalizing s t with
  | nil => exact ht
  | cons k r ih =>
    have hstep : threadAt (resumeThread s c n k cause) c n l = some (if k = l then reissue t else t) := by
      by_cases hk : k = l
      · subst hk
        rw [resumeThread_eq ht h70 h60 h61, threadAt_modThread, if_pos rfl, if_pos rfl, ht]
        rfl
      · rw [if_neg hk]
        cases hth : threadAt s c n k with
        | none =>
          unfold resumeThread
          rw [hth]
          exact ht
        | some u => rw [resumeThread_eq hth h70 h60 h61, threadAt_modThread, if_neg hk, ht]
    rw [List.foldl_cons, ih hstep]
    refine congrArg some ?_
    by_cases hk : k = l
    · subst hk
      rw [if_pos rfl, if_pos List.mem_cons_self]
      split_ifs <;> rfl
    · simp only [if_neg hk, List.mem_cons, Ne.symm hk, false_or]

/-- A Ready thread that does not stand at a meeting stays as it is while the others meet (R172). -/
theorem threadAt_meetings_of_ready {s : State} {c n l : Nat} {t : Thread} (ht : threadAt s c n l = some t) (hst : t.st = .ready)
    (hm : t.meets = false ∨ t.pc ≠ t.mr) : threadAt (meetings s c n) c n l = some t := by
  have ha : arrive t = t := by
    unfold arrive
    refine if_neg fun h => ?_
    simp only [Bool.and_eq_true, beq_iff_eq] at h
    obtain ⟨⟨-, hmeets⟩, hpc⟩ := h
    rcases hm with hm | hm
    · rw [hm] at hmeets
      cases hmeets
    · exact hm hpc
  have hd : ∀ w, depart w t = t := fun w => by
    unfold depart
    rw [hst]
    rfl
  unfold threadAt at ht ⊢
  rw [meetings, slotAt_modSlot, if_pos rfl, get?_mapThreads, get?_mapThreads, ht, Option.map_some, Option.map_some, ha, hd]

/-- A change of a core outside its slots leaves its threads. -/
theorem threadAt_freeEntry (s : State) (c e n l : Nat) : threadAt (freeEntry s c e) c n l = threadAt s c n l := by
  unfold threadAt
  rw [freeEntry, slotAt_modCore _ _ _ _ _ rfl]

/-- Settles O25: each lane's thread is issued again, whichever lanes resume before and after it, and stands at no meeting. -/
theorem replayResumesTheLanes : Obligations.ReplayResumesTheLanes := by
  unfold Obligations.ReplayResumesTheLanes
  intro s c e d he h70 h60 h61
  have hr : replayEntry s c e = freeEntry (replayLanes s c d) c e := by
    unfold replayEntry
    rw [he]
  refine ⟨?_, fun l hl th hth hpc => ⟨reissue th, ?_, rfl, rfl, rfl⟩⟩
  · rw [hr, entryAt, freeEntry, coreAt_modCore_same, get?_del, if_pos rfl]
  · rw [hr, threadAt_freeEntry]
    refine threadAt_meetings_of_ready ?_ rfl (.inr hpc)
    rw [threadAt_foldl_resumeThread h70 h60 h61 hth, if_pos hl]

end Sys2Proof.Laws
end

section
/-! SUPPORT. A breakpoint's park does not outlive a signal that kills the team at the same safe point (O10). -/

namespace Sys2Proof.Laws
open Sys2Proof.Machine Sys2Proof.Claims

/-- A breakpoint at a safe point, which lane 0 alone performs. -/
def guardedBreakpoint : Instr := .bkpt safePointHead

theorem readable_guardedBreakpoint : Readable signalledState (bareShape safePointHead 0x3C2) [] := by
  unfold Readable
  decide

/-- Lane 0 has parked, and the signal has then killed the team and dropped the park (R239, R250). -/
theorem dugout_guardedBreakpoint {t : State} (h : exec guardedBreakpoint signalledState = .next t) :
    (coreAt t 0).dugout = [] := by
  have ht := Host.Outcome.next.inj h
  rw [← ht]
  decide +kernel

/-- Refutes O10: the trap's entry does not outlive the instruction where a lane of the path whose guard fails takes, at the
safe point, a signal that kills the team (R239, R250). -/
theorem not_serviceCallsAndBreakpointsTrap : ¬ Obligations.ServiceCallsAndBreakpointsTrap := by
  unfold Obligations.ServiceCallsAndBreakpointsTrap
  intro h
  obtain ⟨t, ht, ⟨e, d, -, hd, -⟩, -⟩ := h signalledState _ guardedBreakpoint _ _ _ _ rfl readable_guardedBreakpoint
    ⟨by decide, by decide⟩ (by decide) rfl
  rw [show signalledState.iss.core = 0 from rfl, dugout_guardedBreakpoint ht] at hd
  cases hd

end Sys2Proof.Laws
end

section
/-! SUPPORT. A reply to a service call that has been answered with the restart status (O15). -/

namespace Sys2Proof.Laws
open Sys2Proof.Machine Sys2Proof.Claims

/-- The journal's record of the call with CID 1 and the mailbox at address 0 of context 0. -/
def lateCall (st : CallSt) : CallRec := { hm := 0, va := 0, cid := 1, st := st }

/-- The inbound ring, at the start of host memory, holds a reply (TYPE 0x81) to that call, which a restart of the host service
has answered before (R236). The context's descriptor is not valid. -/
def lateReplyState : State :=
  { State.reset with
    descs := [(0, Desc.invalid)]
    mem := [(0x1000000000007, 0x81), (0x1000000000010, 1)]
    journal := [lateCall .orphan]
    host := { HostSide.reset with isize := 1, itail := 1 } }

/-- By the rule the reply goes to a mailbox that has no translation, and the record stays. -/
theorem journal_ringEvent_lateReply :
    (ringEvent lateReplyState .serviceReply).map State.journal = some [lateCall .orphan] := by
  decide +kernel

/-- The late reply marks the call's record done and goes no further (R236). -/
theorem journal_lateReply {t : State} (h : exec .serviceReply lateReplyState = .next t) :
    t.journal = [lateCall (.done [0, 0, 0])] := by
  have ht := Host.Outcome.next.inj h
  rw [← ht]
  decide +kernel

/-- Refutes O15: the rule of a service reply leaves out the call journal, in which the reply to a call that has been answered
with the restart status marks the call done, for a later query, and does nothing else (R236). -/
theorem not_inboundEntriesTakeEffect : ¬ Obligations.InboundEntriesTakeEffect := by
  unfold Obligations.InboundEntriesTakeEffect
  intro h
  obtain ⟨t, ht, hj⟩ := Option.map_eq_some_iff.1 journal_ringEvent_lateReply
  rw [journal_lateReply (h lateReplyState t .serviceReply ht)] at hj
  exact absurd hj (by decide)

end Sys2Proof.Laws
end

section
/-! SUPPORT. A trap in the umpire's slot restarts Ninal (O18). -/

namespace Sys2Proof.Laws
open Sys2Proof.Machine Sys2Proof.Claims

/-! ## Lanes that change nothing -/

/-- What a lane of an instruction that only computes ends with: a result, or a trap that meets no poison. -/
def ResultOrTrap (r : Except Halt Out) : Prop := (∃ o, r = .ok o) ∨ ∃ t : TrapInfo, r = .error (.trap t) ∧ t.poison = none

/-- Lanes performed one after another, each of which leaves the state as it was. -/
theorem runLanes_unchanged {f : Nat → Act Out} {s : State} {ls : List Nat} (h : ∀ l ∈ ls, (f l s).2 = s) :
    runLanes s ls f = (s, ls.map fun l => (l, (f l s).1)) := by
  have hfold : ∀ acc, ls.foldl (fun (r : State × List (Nat × Except Halt Out)) l =>
      let x := (f l) r.1; (x.2, r.2 ++ [(l, x.1)])) (s, acc) = (s, acc ++ ls.map fun l => (l, (f l s).1)) := by
    induction ls with
    | nil => simp
    | cons l r ih =>
      intro acc
      rw [List.foldl_cons]
      dsimp only
      rw [h l List.mem_cons_self, ih fun k hk => h k (List.mem_cons_of_mem _ hk)]
      simp
  exact hfold []

section
variable {r : List (Nat × Except Halt Out)} (h : ∀ e ∈ r, ResultOrTrap e.2)
include h

theorem stalls_eq_false : stalls r = false := by
  refine List.any_eq_false.2 fun e he => ?_
  obtain ⟨o, ho⟩ | ⟨t, ht, -⟩ := h e he
  · simp [ho]
  · simp [ht]

theorem waitsOf_eq_nil : waitsOf r = [] := by
  refine List.filterMap_eq_nil_iff.2 fun e he => ?_
  obtain ⟨o, ho⟩ | ⟨t, ht, -⟩ := h e he
  · simp [ho]
  · simp [ht]

theorem poison_of_mem_trapsOf {x : Nat × TrapInfo} (hx : x ∈ trapsOf r) : x.2.poison = none := by
  obtain ⟨e, he, hex⟩ := List.mem_filterMap.1 hx
  obtain ⟨o, ho⟩ | ⟨t, ht, hp⟩ := h e he
  · simp [ho] at hex
  · simp only [ht, Option.some.injEq] at hex
    rw [← hex]
    exact hp

end

theorem mem_trapsOf {r : List (Nat × Except Halt Out)} {l : Nat} {t : TrapInfo} (h : (l, .error (.trap t)) ∈ r) :
    (l, t) ∈ trapsOf r :=
  List.mem_filterMap.2 ⟨_, h, rfl⟩

theorem length_groupTraps_pos {ts : List (Nat × TrapInfo)} {x : Nat × TrapInfo} (h : x ∈ ts) :
    0 < (groupTraps ts ts.length).length := by
  cases ts with
  | nil => cases h
  | cons y r => exact Nat.succ_pos _

/-- Traps that meet no poison end no context. -/
theorem containAll_eq {s : State} {hm : Hm} {ts : List (Nat × TrapInfo)} (h : ∀ x ∈ ts, x.2.poison = none) :
    containAll s hm ts = s := by
  have hfold : ∀ t : State, ts.foldl (fun s x =>
      match x.2.poison with
      | some (a, sk) =>
        contain s (some t.iss.core) a sk hm (if t.iss.slot = 16 then [] else [(wgAt s (homeOf s t.iss.core t.iss.slot x.1)).team])
          x.2.detail t.iss.pc
      | none => s) s = s := by
    intro t
    induction ts with
    | nil => rfl
    | cons y r ih =>
      rw [List.foldl_cons, h y List.mem_cons_self]
      exact ih fun x hx => h x (List.mem_cons_of_mem _ hx)
  exact hfold s

/-! ## A source that a lane cannot read (R124, R129, R309) -/

/-- Where a check on a source read fails, the lane traps with it. -/
theorem readLane_of_badRead {s : State} {sh : Shape} {rs : List Rd} {l : Nat} {o : Byte × Byte} (h : badRead s sh rs l = some o) :
    readLane (begun s) sh.dst sh.words rs l = .error (.trap { cause := o.1, detail := o.2 }) := by
  unfold badRead at h
  have h1 : (withPos rs).findSome? (fun p => latchCheck (begun s) l p.1 p.2) =
      (withPos rs).findSome? (fun p => latchCheck s l p.1 p.2) := rfl
  have h2 : (withPos rs).findSome? (fun p => deadCheck (begun s) l p.2) = (withPos rs).findSome? (fun p => deadCheck s l p.2) := rfl
  have h3 : destCheck (begun s) sh.dst sh.words = destCheck s sh.dst sh.words := rfl
  unfold readLane
  dsimp only
  rw [h1, h2, h3]
  cases hl : (withPos rs).findSome? (fun p => latchCheck s l p.1 p.2) with
  | some x =>
    rw [hl] at h
    obtain rfl := Option.some.inj h
    rfl
  | none =>
    rw [hl, Option.none_or] at h
    cases hd : (withPos rs).findSome? (fun p => deadCheck s l p.2) with
    | some x =>
      rw [hd] at h
      obtain rfl := Option.some.inj h
      rfl
    | none =>
      rw [hd, Option.none_or] at h
      rw [h]

/-- Where none fails, the lane reads its sources. -/
theorem readLane_of_badRead_eq_none {s : State} {sh : Shape} {rs : List Rd} {l : Nat} (h : badRead s sh rs l = none) :
    readLane (begun s) sh.dst sh.words rs l = .ok (laneVals s rs l) := by
  unfold badRead at h
  simp only [Option.or_eq_none_iff, List.findSome?_eq_none_iff] at h
  obtain ⟨hl, hd, hdst⟩ := h
  exact readLane_ok ⟨fun p hp => ⟨hl p hp, hd p hp⟩, hdst⟩

/-! ## Computing instructions in the umpire's slot (R220, R231) -/

/-- The turn of a lane that reads its sources first. -/
def readTurn (s : State) (sh : Shape) (rs : List Rd) (f : Nat → List Nat → Act Out) (l : Nat) : Act Out :=
  match readLane (begun s) sh.dst sh.words rs l with
  | .ok v => f l v
  | .error e => throw e

theorem readTurn_of_badRead {s : State} {sh : Shape} {rs : List Rd} {l : Nat} {o : Byte × Byte} (h : badRead s sh rs l = some o)
    (f : Nat → List Nat → Act Out) :
    readTurn s sh rs f l (begun s) = (.error (.trap { cause := o.1, detail := o.2 }), begun s) := by
  unfold readTurn
  rw [readLane_of_badRead h]
  rfl

theorem readTurn_of_badRead_eq_none {s : State} {sh : Shape} {rs : List Rd} {l : Nat} (h : badRead s sh rs l = none)
    (f : Nat → List Nat → Act Out) : readTurn s sh rs f l = f l (laneVals s rs l) := by
  unfold readTurn
  rw [readLane_of_badRead_eq_none h]

/-- In the umpire's slot an instruction whose lanes change nothing, one of which traps, restarts Ninal and does nothing else but
count. -/
theorem performOn_restarts {s : State} {sh : Shape} {rs : List Rd} {f : Nat → List Nat → Act Out} (h16 : s.iss.slot = 16)
    (hw : loadWait s sh.dst sh.words rs = none) (h1 : sh.first = none) (hc : sh.calm = false)
    (hall : ∀ l ∈ act s sh, (readTurn s sh rs f l (begun s)).2 = begun s ∧ ResultOrTrap (readTurn s sh rs f l (begun s)).1)
    {l : Nat} (hl : l ∈ act s sh) {t : TrapInfo} (ht : (readTurn s sh rs f l (begun s)).1 = .error (.trap t)) :
    performOn s sh rs f = restartNinal (countIssue (begun s) (begun s) rs) s.iss.core := by
  have hw' : loadWait (begun s) sh.dst sh.words rs = none := hw
  have hrun := runLanes_unchanged fun k hk => (hall k hk).1
  have hends : ∀ e ∈ (act s sh).map fun k => (k, (readTurn s sh rs f k (begun s)).1), ResultOrTrap e.2 := fun e he => by
    obtain ⟨k, hk, rfl⟩ := List.mem_map.1 he
    exact (hall k hk).2
  have hmem : (l, .error (.trap t)) ∈ (act s sh).map fun k => (k, (readTurn s sh rs f k (begun s)).1) :=
    List.mem_map.2 ⟨l, hl, congrArg (Prod.mk l) ht⟩
  have htrap := length_groupTraps_pos (mem_trapsOf hmem)
  unfold performOn
  dsimp only
  rw [hw']
  dsimp only
  rw [show activeLanes (begun s) sh.head.guard = act s sh from rfl, runLanes_congr _ (readTurn s sh rs f) _ _ fun k hk => by
    rw [h1, find?_map_pair _ _ hk, hc, show readsOf none rs k = rs from rfl]
    unfold readTurn
    cases readLane (begun s) sh.dst sh.words rs k <;> rfl, hrun]
  dsimp only
  rw [stalls_eq_false hends, waitsOf_eq_nil hends, if_neg Bool.false_ne_true]
  dsimp only
  rw [if_pos, containAll_eq fun x hx => poison_of_mem_trapsOf hends hx]
  rw [Bool.and_eq_true]
  exact ⟨decide_eq_true h16, decide_eq_true (Nat.add_pos_left htrap _)⟩

/-- An instruction performs in each active lane something that changes nothing and ends with a result or a trap, on the path, the
operands and the destination of a rule; whether its result is uniform may be found in another way. -/
def ChangesNothing (s : State) (i : Instr) (p : Plain) : Prop :=
  ∃ uni f, exec i s = perform s { p.sh with uni := uni } p.rs f ∧ p.sh.first = none ∧ p.sh.calm = false ∧
    ∀ l ∈ act s p.sh, (f l (laneVals s p.rs l) (begun s)).2 = begun s ∧ ResultOrTrap (f l (laneVals s p.rs l) (begun s)).1

namespace ChangesNothing
variable {s : State} {i : Instr} {p : Plain} {q : Floating}

/-- In the umpire's slot it restarts Ninal where a lane cannot read a source. -/
theorem restarts (h : ChangesNothing s i p) (h16 : s.iss.slot = 16)
    (hw : loadWait s p.sh.dst p.sh.words p.rs = none) {l : Nat} (hl : l ∈ act s p.sh)
    (hbad : (badRead s p.sh p.rs l).isSome = true) :
    exec i s = .next (restartNinal (countIssue (begun s) (begun s) p.rs) s.iss.core) := by
  obtain ⟨uni, f, he, h1, hc, hf⟩ := h
  obtain ⟨o, ho⟩ := Option.isSome_iff_exists.1 hbad
  rw [he, perform]
  refine congrArg _ (performOn_restarts h16 hw h1 hc (fun k hk => ?_) hl (congrArg Prod.fst (readTurn_of_badRead ho f)))
  cases hb : badRead s p.sh p.rs k with
  | none =>
    rw [show readTurn s { p.sh with uni := uni } p.rs f k = _ from readTurn_of_badRead_eq_none hb f]
    exact hf k hk
  | some x =>
    rw [show readTurn s { p.sh with uni := uni } p.rs f k (begun s) = _ from readTurn_of_badRead hb f]
    exact ⟨rfl, .inr ⟨_, rfl, rfl⟩⟩

theorem of_answers (h : Answers s i p) (hc : p.sh.calm = false) : ChangesNothing s i p := by
  obtain ⟨uni, f, he, h1, hans⟩ := h
  refine ⟨uni, f, he, h1, hc, fun l hl => ?_⟩
  obtain ⟨o, ho, -, -⟩ := hans l hl
  rw [answer_some] at ho
  rw [ho]
  exact ⟨rfl, .inl ⟨o, rfl⟩⟩

/-- A test for conditions that trap ends with a trap or with the result. -/
theorem fpTrap_ends (ctl : Word) (x : Fpx) (o : Out) (t : State) :
    ((match fpTrap ctl x with | some c => raise c 0 | none => pure o : Act Out) t).2 = t ∧
      ResultOrTrap ((match fpTrap ctl x with | some c => raise c 0 | none => pure o : Act Out) t).1 := by
  cases fpTrap ctl x with
  | none => exact ⟨rfl, .inl ⟨o, rfl⟩⟩
  | some c => exact ⟨rfl, .inr ⟨_, rfl, rfl⟩⟩

/-- A rounded result of a lane (R167). -/
theorem lane {f : Nat → List Nat → Act Out} (he : exec i s = perform s q.sh q.rs f) (h1 : q.sh.first = none)
    (hc : q.sh.calm = false) (hf : ∀ l v, ∃ r push, f l v (begun s) = fpLane l r push (begun s)) :
    ChangesNothing s i { sh := q.sh, rs := q.rs, f := q.out } := by
  refine ⟨q.sh.uni, f, he, h1, hc, fun l _ => ?_⟩
  obtain ⟨r, push, hr⟩ := hf l (laneVals s q.rs l)
  rw [hr]
  exact fpTrap_ends (fpctlOf (begun s) l) r.x _ _

/-- A rounded result of the path (R356). -/
theorem path {f : Nat → List Nat → Act Out} (he : exec i s = perform s q.sh q.rs f) (h1 : q.sh.first = none)
    (hc : q.sh.calm = false) (hf : ∀ l v, ∃ h r, f l v (begun s) = fpPath h r (begun s)) :
    ChangesNothing s i { sh := q.sh, rs := q.rs, f := q.out } := by
  refine ⟨q.sh.uni, f, he, h1, hc, fun l _ => ?_⟩
  obtain ⟨h, r, hr⟩ := hf l (laneVals s q.rs l)
  rw [hr]
  exact fpTrap_ends _ r.x _ _

theorem fpu {h : Head} {op : Nat} {d : Dst} {w k : Nat} {rs : List Rd} {f g : List Nat → FRes}
    (hp : fpIs h op d w k rs g = some q) (he : exec i s = fpu s h op d w k rs f) :
    ChangesNothing s i { sh := q.sh, rs := q.rs, f := q.out } := by
  obtain rfl := Option.some.inj hp
  exact lane he rfl rfl fun l v => ⟨f v, false, rfl⟩

theorem fpTest {h : Head} {op : Nat} {d : Dst} {rs : List Rd} {f : List Nat → Bool × Bool}
    (hp : fcmpIs h op d rs f = some q) (he : exec i s = fpTest s h op d rs f) :
    ChangesNothing s i { sh := q.sh, rs := q.rs, f := q.out } := by
  obtain rfl := Option.some.inj hp
  exact lane he rfl rfl fun l v => ⟨_, (f v).1, rfl⟩

end ChangesNothing

/-- The float instructions, whatever conditions they raise. -/
theorem changesNothing_float {s : State} {i : Instr} {q : Floating} (hp : floatRule s i = some q) :
    ChangesNothing s i { sh := q.sh, rs := q.rs, f := q.out } := by
  cases i with
  | fadd | fsub | fmul | ffma | fmin | fmax | frnd | frcp | frsq | fsqrt | fex2 | flg2 | fsin | fcos | ftanh | fsig => exact .fpu hp rfl
  | hadd2 | hmul2 | hfma2 | hmax2 | hmin2 | dadd | dmul | dfma | dmin | dmax => exact .fpu hp rfl
  | faddI | fsubI | fmulI | fminI | fmaxI | cvti | bscl => exact .fpu hp rfl
  | fcmp | dcmp | fcmpI => exact .fpTest hp rfl
  | fclass h d a t => cases t <;> exact .fpu hp rfl
  | cvtf h d a c r => cases c <;> exact .fpu hp rfl
  | cvtn h d a c r => cases c <;> exact .fpu hp rfl
  | qupk h d a c f n hi =>
    obtain rfl := Option.some.inj hp
    exact .lane (f := fun l _ => qupkTurn a c f n hi l) rfl rfl rfl fun l _ =>
      ⟨qupkRes (begun s) a c f n hi l, false, get_bind (fun s => fpLane l (qupkRes s a c f n hi l) false) _⟩
  | redx h d a op t =>
    obtain rfl := Option.some.inj hp
    have he : exec (.redx h d a op t) s =
        perform s (laneShape h 0x203 d (rtyWords t) false) [rdR t a] fun _ _ => redxTurn h a op t := rfl
    refine .path (f := fun _ _ => redxTurn h a op t) ?_ rfl rfl fun _ _ =>
      ⟨h, redxRes (begun s) h a op t, get_bind (fun s => fpPath h (redxRes s h a op t)) _⟩
    rw [he, rtyWords_eq]
    rfl
  | scan h d a b op t =>
    obtain rfl := Option.some.inj hp
    have he : exec (.scan h d a b op t) s =
        perform s (laneShape h 0x204 d (rtyWords t) false) [rdR t a, rdR t b] fun l _ => scanTurn h a b op t l := rfl
    refine .path (f := fun l _ => scanTurn h a b op t l) ?_ rfl rfl fun l _ =>
      ⟨h, scanRes (begun s) h a b op t l, get_bind (fun s => fpPath h (scanRes s h a b op t l)) _⟩
    rw [he, rtyWords_eq]
    rfl
  | _ => cases hp

/-- No integer instruction takes its sources in a way of its own. -/
theorem calm_of_integerRule {s : State} {i : Instr} {p : Plain} (hp : integerRule s i = some p) : p.sh.calm = false := by
  cases i with
  | iadd | isub | imul | imulh | imad | imadw | imin | imax | iabs | ineg | isad => obtain rfl := Option.some.inj hp; rfl
  | and | or | xor | not | andn | shl | shr | sar | rotl | bfx | bfi | brev | popc | clz | ctz => obtain rfl := Option.some.inj hp; rfl
  | lea | mov | sel | icmp => obtain rfl := Option.some.inj hp; rfl
  | iaddI | isubI | imulI | iminI | imaxI | andI | orI | xorI | andnI => obtain rfl := Option.some.inj hp; rfl
  | shlI | shrI | sarI | rotlI | leaI | icmpI | movi => obtain rfl := Option.some.inj hp; rfl
  | _ => cases hp

/-- Nor does a lane instruction. -/
theorem calm_of_laneRule {s : State} {i : Instr} {p : Plain} (hp : laneRule s i = some p) : p.sh.calm = false := by
  cases i with
  | shfl | vote | ballot | matchLanes | elect | psh | pdup | qpk | cbrg => obtain rfl := Option.some.inj hp; rfl
  | plog h op p rep inv =>
    cases rep with
    | true => cases hp
    | false => obtain rfl := Option.some.inj hp; rfl
  | pmov h op =>
    cases op with
    | read d => obtain rfl := Option.some.inj hp; rfl
    | write a => cases hp
  | _ => cases hp

theorem changesNothing_computing {s : State} {i : Instr} {p : Plain} (hp : computing s i = some p) : ChangesNothing s i p := by
  unfold computing at hp
  split at hp
  · obtain rfl := Option.some.inj hp
    exact .of_answers (answers_integer ‹_›) (calm_of_integerRule ‹_›)
  · split at hp
    · obtain rfl := Option.some.inj hp
      exact changesNothing_float ‹_›
    · exact .of_answers (answers_lane hp) (calm_of_laneRule hp)

/-- KEYLD that is not fetched from the firmware region restarts Ninal and sets no key (R450). -/
theorem keyldOnce_restarts {s : State} (h16 : s.iss.slot = 16) (hf : fromFirmware s = false) (h : Head) (rs : List Rd)
    (f : List Nat → Option (BitVec 128)) : keyldOnce s h rs f = .next (restartNinal (begun s) s.iss.core) := by
  have htrap : trapPath (begun s) (sysShape h 0x3EC .zero 0 false) { cause := 0x02, detail := 0 } =
      restartNinal (begun s) s.iss.core := if_pos h16
  unfold keyldOnce
  rw [if_pos ⟨h16, by rw [hf]; rfl⟩, htrap]

/-- Settles O18: the lanes change nothing, so that what is restarted is the state in which the instruction is counted. -/
theorem umpireTrapRestartsNinal : Obligations.UmpireTrapRestartsNinal := by
  unfold Obligations.UmpireTrapRestartsNinal
  exact ⟨fun s h a h16 hf => ⟨keyldOnce_restarts h16 hf h _ _, keyldOnce_restarts h16 hf h _ _⟩,
    fun s i p l hp h16 hw hl hbad => (changesNothing_computing hp).restarts h16 hw hl hbad⟩

end Sys2Proof.Laws
end

section
/-! SUPPORT. A write in a context leaves every warp slot, and the sectors that are locked (O42). -/

namespace Sys2Proof.Laws
open Sys2Proof.Machine

/-- A change that leaves each warp slot whole, and the same sectors locked. -/
structure WarpsStay (s t : State) : Prop where
  slots : ∀ c n, slotAt t c n = slotAt s c n
  locks : ∀ a, locked t a = locked s a

namespace WarpsStay
variable {α β : Type} {s₀ s t : State}

theorem refl (s : State) : WarpsStay s s := ⟨fun _ _ => rfl, fun _ => rfl⟩

/-- A change outside the cores, the host-facing state and the rest that no access changes. -/
theorem other (h : WarpsStay s₀ s) {mem} {seals} {poison} {hbmBad} {consumed} {lines} {shadows} {stores} {descs} {courtTlb}
    {courtCode} {walkCache} {units} {flitSeq} {fresh} :
    WarpsStay s₀ { s with
      mem := mem, seals := seals, poison := poison, hbmBad := hbmBad, consumed := consumed, lines := lines
      shadows := shadows, stores := stores, descs := descs, courtTlb := courtTlb, courtCode := courtCode
      walkCache := walkCache, units := units, flitSeq := flitSeq, fresh := fresh } :=
  ⟨h.slots, h.locks⟩

theorem modCore {c : Nat} {f : Core → Core} (h : WarpsStay s₀ s)
    (hf : ∀ k, (f k).slots = k.slots := by exact fun _ => rfl) : WarpsStay s₀ (modCore s c f) :=
  ⟨fun d n => by rw [slotAt_modCore _ _ _ _ _ (hf _), h.slots], h.locks⟩

theorem mapCores {f : Core → Core} (h : WarpsStay s₀ s) (hr : f Core.reset = Core.reset := by rfl)
    (hf : ∀ k, (f k).slots = k.slots := by exact fun _ => rfl) : WarpsStay s₀ (mapCores s f) := by
  refine ⟨fun c n => ?_, h.locks⟩
  have hc : coreAt (Machine.mapCores s f) c = f (coreAt s c) := getD_map_values _ f c _ hr
  rw [← h.slots, slotAt, hc, hf]
  rfl

theorem of_eq {p : State × α} {x : α} (h : WarpsStay s₀ p.1) (e : p = (t, x)) : WarpsStay s₀ t := by
  subst e
  exact h

theorem ite {p : Prop} {_ : Decidable p} (hs : WarpsStay s₀ s) (ht : WarpsStay s₀ t) :
    WarpsStay s₀ (if p then s else t) := by
  split
  · exact hs
  · exact ht

theorem iteFst {p : Prop} {_ : Decidable p} {x y : State × α} (hx : WarpsStay s₀ x.1) (hy : WarpsStay s₀ y.1) :
    WarpsStay s₀ (if p then x else y).1 := by
  split
  · exact hx
  · exact hy

theorem foldl {f : State → α → State} {l : List α} (h : WarpsStay s₀ s)
    (hf : ∀ t x, WarpsStay s₀ t → WarpsStay s₀ (f t x)) : WarpsStay s₀ (l.foldl f s) := by
  induction l generalizing s with
  | nil => exact h
  | cons x r ih => exact ih (hf s x h)

theorem foldlFst {f : State × β → α → State × β} {l : List α} {p : State × β} (h : WarpsStay s₀ p.1)
    (hf : ∀ p x, WarpsStay s₀ p.1 → WarpsStay s₀ (f p x).1) : WarpsStay s₀ (l.foldl f p).1 := by
  induction l generalizing p with
  | nil => exact h
  | cons x r ih => exact ih (hf p x h)

/-! ## Traffic and lines (R48 to R55, R290) -/

section
variable {a c e ln n u size : Nat} {hm : Hm} {op : UatinOp} {mask : DWord} {bs : List Byte} {key : Option (BitVec 13)}
  {bkey : Option (BitVec 128)} {uncached : Bool}

theorem countUnit (h : WarpsStay s₀ s) : WarpsStay s₀ (countUnit s u e n) := h.other

theorem countSlice (h : WarpsStay s₀ s) : WarpsStay s₀ (countSlice s ln e n) := h.countUnit

theorem countStack (h : WarpsStay s₀ s) : WarpsStay s₀ (countStack s ln e n) := h.countUnit.ite h

theorem countFlits (h : WarpsStay s₀ s) : WarpsStay s₀ (countFlits s u) := by
  unfold Machine.countFlits
  dsimp only
  exact other (h.countUnit.countUnit.ite h.countUnit.countUnit.countUnit)

theorem hostLink (h : WarpsStay s₀ s) : WarpsStay s₀ (hostLink s) := h.countFlits

theorem sendUatin (h : WarpsStay s₀ s) : WarpsStay s₀ (sendUatin s hm op a size mask bs) := by
  have h1 : WarpsStay s₀ (Machine.countFlits s (264 + routePort a)) := h.countFlits
  exact h.ite ⟨h1.slots, h1.locks⟩

theorem fetchHome (h : WarpsStay s₀ s) : WarpsStay s₀ (fetchHome s hm a n) := h.sendUatin.ite (h.hostLink.ite h.countStack)

theorem storeHome (h : WarpsStay s₀ s) : WarpsStay s₀ (storeHome s hm ln mask bs) :=
  h.sendUatin.ite (h.hostLink.ite h.countStack)

theorem ownTraffic (h : WarpsStay s₀ s) : WarpsStay s₀ (ownTraffic s a n e) :=
  (h.foldl fun _ _ h1 => h1.hostLink).ite (h.foldl fun _ _ h1 => h1.countStack)

theorem recallBut {keep : Option Nat} (h : WarpsStay s₀ s) : WarpsStay s₀ (recallBut s keep ln) := by
  unfold Machine.recallBut
  dsimp only
  split
  · exact h
  · exact h.other.ite (.foldl h.other fun _ _ h1 => h1.modCore)

theorem writeBackLine (h : WarpsStay s₀ s) : WarpsStay s₀ (writeBackLine s ln) := by
  unfold Machine.writeBackLine
  split
  · exact h
  · exact h.ite (other (foldl (other h.countSlice.storeHome) fun _ _ h2 => h2.modCore))

theorem surface {secs : BitVec 4} (h : WarpsStay s₀ s) : WarpsStay s₀ (surface s ln secs) := h.ite h.other

theorem dropICache (h : WarpsStay s₀ s) : WarpsStay s₀ (dropICache s ln) := by
  have h1 := h.mapCores (f := fun k => { k with icache := k.icache.filter (fun x => x.line != ln) })
  exact h1.other

theorem dropLine (h : WarpsStay s₀ s) : WarpsStay s₀ (dropLine s ln) :=
  surface (other h.recallBut.writeBackLine.dropICache)

theorem openLine (h : WarpsStay s₀ s) : WarpsStay s₀ (openLine s hm key a) := by
  unfold Machine.openLine
  extract_lets line s1 s2 l
  have h1 : WarpsStay s₀ s1 := by
    unfold s1
    split
    · exact h.ite h.dropLine
    · exact h
  have h2 : WarpsStay s₀ s2 := h1.ite (dropLine h1.other)
  exact h1.ite h2.other

theorem fillLine (h : WarpsStay s₀ s) : WarpsStay s₀ (fillLine s hm key a n) := by
  unfold Machine.fillLine
  dsimp only
  split
  · exact h.openLine
  · exact h.openLine.countSlice.countSlice.ite
      (other (h.openLine.countSlice.countSlice.countStack.ite h.openLine.countSlice.countSlice.fetchHome))

/-! ## Accesses at a line's home -/

theorem cacheWrite (h : WarpsStay s₀ s) : WarpsStay s₀ (cacheWrite s .home hm key a bs) :=
  h.openLine.other.ite (other (h.openLine.ite h.fillLine).recallBut)

theorem writeInSector (h : WarpsStay s₀ s) : WarpsStay s₀ (writeInSector s bkey a bs) := h.ite h.other

theorem homeWriteOpen (h : WarpsStay s₀ s) : WarpsStay s₀ (homeWriteOpen s .home hm key bkey uncached a bs) := by
  unfold Machine.homeWriteOpen
  extract_lets s1 s2 s3
  have h2 : WarpsStay s₀ s2 := ite h.dropICache.dropLine.storeHome h.dropICache.cacheWrite
  exact (h2.foldl fun _ _ h3 => h3.writeInSector).ite (h2.other.ite h2.other)

theorem homeWrite (h : WarpsStay s₀ s) : WarpsStay s₀ (homeWrite s .home hm key bkey uncached a bs) :=
  (h.other.foldl fun _ _ h1 => h1.homeWriteOpen).ite (homeWriteOpen h.other)

end

/-! ## Accesses in a context (R24 to R41, R244) -/

section
variable {a c n : Nat} {hm : Hm} {va : DWord} {kind : AccKind} {bs : List Byte}

theorem devPatch (h : WarpsStay s₀ s) : WarpsStay s₀ (devPatch s a bs) := by
  unfold Machine.devPatch
  split
  · exact h.ownTraffic.ite h.ownTraffic.other
  · exact h

theorem holdDesc (h : WarpsStay s₀ s) : WarpsStay s₀ (holdDesc s hm) := by
  refine ite (other ?_) h
  split
  · exact ownTraffic h.other
  · exact h.other

theorem walkFrom {skv : Bool} (h : WarpsStay s₀ s) : WarpsStay s₀ (walkFrom s hm va skv kind n a).1 := by
  induction n generalizing s a with
  | zero => exact h
  | succ n ih =>
    unfold Machine.walkFrom
    extract_lets at_ s1 pte next
    have h1 : WarpsStay s₀ s1 := by
      unfold s1
      split
      · exact h.ownTraffic
      · exact h
    clear_value s1 at_
    refine h.iteFst (h1.iteFst (h1.iteFst (h1.iteFst (iteFst (h1.iteFst (ih h1.other)) ?_))))
    split
    · exact h1
    · exact h1.iteFst (h1.ite h1.devPatch)

theorem walk (h : WarpsStay s₀ s) : WarpsStay s₀ (walk s hm va kind).1 :=
  h.holdDesc.iteFst (h.holdDesc.iteFst h.holdDesc.walkFrom)

theorem fillTlbs {e : TlbEntry} (h : WarpsStay s₀ s) : WarpsStay s₀ (fillTlbs s c e) := other h.modCore

theorem xlate (h : WarpsStay s₀ s) : WarpsStay s₀ (xlate s c hm va kind).1 := by
  unfold Machine.xlate
  dsimp only
  refine h.holdDesc.iteFst (h.holdDesc.iteFst ?_)
  split
  · exact h.holdDesc
  · split
    · exact h.holdDesc.fillTlbs
    · split
      · exact h.holdDesc.walk.of_eq ‹_›
      · exact (h.holdDesc.walk.of_eq ‹_›).fillTlbs

theorem place (h : WarpsStay s₀ s) : WarpsStay s₀ (place s c hm va kind).1 := by
  unfold Machine.place
  refine h.xlate.iteFst ?_
  split <;> exact h

theorem ctxWriteLine (h : WarpsStay s₀ s) : WarpsStay s₀ (ctxWriteLine s c hm va bs).1 := by
  unfold Machine.ctxWriteLine
  split
  · exact (h.place.of_eq ‹_›).other
  · exact (h.place.of_eq ‹_›).homeWrite

theorem ctxWrite (h : WarpsStay s₀ s) : WarpsStay s₀ (ctxWrite s c hm va bs).1 :=
  h.foldlFst fun _ _ h1 => h1.ctxWriteLine.iteFst h1

end

end WarpsStay

end Sys2Proof.Laws
end

section
/-! SUPPORT. A line of local HBM that is written stands there, and goes on standing there while other lines are held, written
back and dropped (O42). -/

namespace Sys2Proof.Laws
open Sys2Proof.Machine

/-! ## What leaves memory and the lines -/

/-- A change that leaves memory, the seals and the held lines. -/
structure SameStore (s t : State) : Prop where
  mem : t.mem = s.mem
  seals : t.seals = s.seals
  lines : t.lines = s.lines

namespace SameStore
variable {s t u : State}

theorem refl (s : State) : SameStore s s := ⟨rfl, rfl, rfl⟩

theorem trans (h : SameStore s t) (h' : SameStore t u) : SameStore s u :=
  ⟨h'.mem.trans h.mem, h'.seals.trans h.seals, h'.lines.trans h.lines⟩

theorem modCores (g : Core → Core) (cs : List Nat) (s : State) : SameStore s (cs.foldl (fun s c => modCore s c g) s) := by
  induction cs generalizing s with
  | nil => exact refl s
  | cons c r ih => exact (show SameStore s (modCore s c g) from ⟨rfl, rfl, rfl⟩).trans (ih _)

theorem traffic (h : Traffic s t) : SameStore s t := by
  obtain ⟨_, _, _, rfl⟩ := h
  exact ⟨rfl, rfl, rfl⟩

theorem surface (s : State) (ln : Nat) (secs : BitVec 4) : SameStore s (surface s ln secs) := by
  unfold Machine.surface
  dsimp only
  split_ifs
  · exact refl s
  · exact ⟨rfl, rfl, rfl⟩

end SameStore

/-! ## The bytes of a held line (R48) -/

theorem length_mergeDirty (home copy : List Byte) (dirty : BitVec 64) (n : Nat) : (mergeDirty home copy dirty n).length = n := by
  induction n with
  | zero => rfl
  | succ n ih => rw [mergeDirty, List.length_cons, ih]

theorem getD_mergeDirty (home copy : List Byte) (dirty : BitVec 64) {n i : Nat} (hn : n ≤ 64) (hi : i < n) :
    (mergeDirty home copy dirty n).getD i 0 =
      if dirty.getLsbD (64 - n + i) then copy.getD (64 - n + i) 0 else home.getD (64 - n + i) 0 := by
  induction n generalizing i with
  | zero => omega
  | succ n ih =>
    cases i with
    | zero => rfl
    | succ i =>
      rw [mergeDirty, List.getD_cons_succ, ih (by omega) (by omega)]
      simp only [show 64 - n + i = 64 - (n + 1) + (i + 1) by omega]

/-- Lists of one length with the same bytes. -/
theorem eq_of_getD_eq {bs cs : List Byte} (hl : bs.length = cs.length) (h : ∀ i < cs.length, bs.getD i 0 = cs.getD i 0) :
    bs = cs :=
  List.ext_getElem hl fun i h1 h2 => by
    rw [← List.getD_eq_getElem _ 0 h1, ← List.getD_eq_getElem _ 0 h2, h i h2]

/-- A clean line is its home's bytes. -/
theorem mergeDirty_clean {bs : List Byte} (hb : bs.length = 64) (copy : List Byte) : mergeDirty bs copy 0 64 = bs :=
  eq_of_getD_eq (by rw [length_mergeDirty, hb]) fun i hi => by
    rw [getD_mergeDirty _ _ _ le_rfl (hb ▸ hi), BitVec.ofNat_eq_ofNat, BitVec.getLsbD_zero, if_neg Bool.false_ne_true]
    simp

/-- A whole line that is written is what has been written. -/
theorem mergeDirty_patch {bs : List Byte} (hb : bs.length = 64) (home copy : List Byte) (dirty : BitVec 64) :
    mergeDirty home (patch copy 0 bs) (dirty ||| sectorBytes (sectorBits 0 64)) 64 = bs := by
  have hall : ∀ i < 64, (sectorBytes (sectorBits 0 64)).getLsbD i = true := by decide
  refine eq_of_getD_eq (by rw [length_mergeDirty, hb]) fun i hi => ?_
  have hi' : i < 64 := hb ▸ hi
  rw [getD_mergeDirty _ _ _ le_rfl hi', Nat.sub_self, Nat.zero_add, BitVec.getLsbD_or, hall i hi', Bool.or_true, if_pos rfl,
    patch, List.take_zero, List.nil_append, List.getD_append _ _ _ _ hi]

/-! ## A line that stands -/

/-- A line of local HBM holds some bytes under a seal, and holds them still once it has been written back. -/
structure LineHolds (s : State) (ln : Nat) (sl : Seal) (bs : List Byte) : Prop where
  bytes : readBytes s.mem (64 * ln) 64 = bs
  seals : ∀ i < 4, Tab.get? s.seals (4 * ln + i) = some sl
  held : ∀ l c, Tab.get? s.lines ln = some l → l.copy = some c → mergeDirty bs c l.dirty 64 = bs

namespace LineHolds
variable {s t : State} {ln k : Nat} {sl : Seal} {bs : List Byte}

theorem length_eq (h : LineHolds s ln sl bs) : bs.length = 64 := by rw [← h.bytes, length_readBytes]

theorem congr (h : LineHolds s ln sl bs) (ht : SameStore s t) : LineHolds t ln sl bs :=
  ⟨ht.mem ▸ h.bytes, ht.seals ▸ h.seals, ht.lines ▸ h.held⟩

theorem ite {p : Prop} {_ : Decidable p} (hs : LineHolds s ln sl bs) (ht : LineHolds t ln sl bs) :
    LineHolds (if p then s else t) ln sl bs := by
  split
  · exact hs
  · exact ht

/-- Under its key the line reads as those bytes. -/
theorem localView {key : Option (BitVec 128)} (h : LineHolds s ln (sealOf key) bs) : localView s key (64 * ln) 64 = bs := by
  refine eq_of_getD_eq (by rw [length_localView, h.length_eq]) fun i hi => ?_
  rw [h.length_eq] at hi
  have hsec : (64 * ln + i) / 16 = 4 * ln + i / 16 := by omega
  rw [getD_localView _ _ _ _ _ hi, hsec, sectorView_sealed (h.seals _ (by omega)), getD_readBytes, if_pos (by omega), ← h.bytes,
    getD_readBytes, if_pos hi]
  congr 1
  omega

/-- A held line that changes keeps its bytes where a write back would still leave them. -/
theorem setLine (h : LineHolds s ln sl bs) {l : Line}
    (hl : k = ln → ∀ c, l.copy = some c → mergeDirty bs c l.dirty 64 = bs) :
    LineHolds { s with lines := Tab.set s.lines k l } ln sl bs := by
  refine ⟨h.bytes, h.seals, fun l' c hl' hc => ?_⟩
  rw [show Tab.get? _ ln = _ from get?_set s.lines k ln l] at hl'
  split_ifs at hl' with hk
  · obtain rfl := Option.some.inj hl'
    exact hl hk c hc
  · exact h.held l' c hl' hc

/-- A line that another line's bytes are written beside. -/
theorem writeOther {cs : List Byte} (h : LineHolds s ln sl bs) (hc : cs.length = 64) (hk : k ≠ ln) :
    LineHolds { s with mem := writeBytes s.mem (64 * k) cs } ln sl bs := by
  refine ⟨?_, h.seals, h.held⟩
  rw [← h.bytes]
  exact readBytes_congr _ _ _ _ fun j h1 h2 => by rw [readByte_writeBytes, if_neg (by omega)]

/-- A line that is written back stands as before. -/
theorem landed (h : LineHolds s k sl bs) {l : Line} (hl : Tab.get? s.lines k = some l) :
    LineHolds { s with mem := landed s k l } k sl bs := by
  refine ⟨?_, h.seals, h.held⟩
  unfold Machine.landed
  split
  · exact h.bytes
  next c hc =>
    dsimp only
    split_ifs
    · rw [h.bytes, h.held l c hl hc]
      have := readBytes_writeBytes s.mem (64 * k) bs
      rwa [h.length_eq] at this
    · exact h.bytes

theorem landed_other (h : LineHolds s ln sl bs) (hk : k ≠ ln) (l : Line) :
    LineHolds { s with mem := Machine.landed s k l } ln sl bs := by
  unfold Machine.landed
  split
  · exact h
  · split_ifs
    · exact h.writeOther (length_mergeDirty _ _ _ _) hk
    · exact h

/-! ## The caches (R48 to R55) -/

theorem recallBut (h : LineHolds s ln sl bs) (keep : Option Nat) (k : Nat) : LineHolds (recallBut s keep k) ln sl bs := by
  unfold Machine.recallBut
  split
  · exact h
  next l hl =>
    have h1 := h.setLine (k := k) (l := { l with holders := l.holders.filter (fun c => some c == keep), net := false })
      fun hk c hc => h.held l c (hk ▸ hl) hc
    exact h1.ite (h1.congr (.trans (.traffic (.countUnit (.refl _))) (.modCores _ _ _)))

theorem writeBackLine (h : LineHolds s ln sl bs) (k : Nat) : LineHolds (writeBackLine s k) ln sl bs := by
  unfold Machine.writeBackLine
  split
  · exact h
  next l hl =>
    have ht : SameStore s (storeHome (countSlice s k 3 1) l.hm k l.dirty (l.copy.getD [])) :=
      .traffic (Traffic.storeHome (.countUnit (.refl s)))
    have h1 := h.congr ht
    rw [← ht.lines] at hl
    generalize storeHome (countSlice s k 3 1) l.hm k l.dirty (l.copy.getD []) = s1 at h1 hl
    have h2 : LineHolds { s1 with mem := Machine.landed s1 k l } ln sl bs := by
      by_cases hk : k = ln
      · subst hk
        exact h1.landed hl
      · exact h1.landed_other hk l
    refine h.ite ?_
    have hc := SameStore.modCores (fun c => { c with l1 := c.l1.map (fun x => if x.line = k then { x with dirty := 0 } else x) })
      l.holders { s1 with mem := Machine.landed s1 k l }
    exact ((h2.congr hc).setLine fun _ c _ => mergeDirty_clean h.length_eq c).congr ⟨rfl, rfl, rfl⟩

theorem forgetLine (h : LineHolds s ln sl bs) (k : Nat) : LineHolds (forgetLine s k) ln sl bs := by
  have h1 : LineHolds { s with lines := Tab.del s.lines k } ln sl bs := ⟨h.bytes, h.seals, fun l c hl hc => by
    rw [show Tab.get? _ ln = _ from get?_del s.lines k ln] at hl
    split_ifs at hl
    exact h.held l c hl hc⟩
  refine h1.congr (.trans ?_ (.surface _ k 0xF))
  exact ⟨rfl, rfl, rfl⟩

theorem dropLine (h : LineHolds s ln sl bs) (k : Nat) : LineHolds (dropLine s k) ln sl bs :=
  ((h.recallBut none k).writeBackLine k).forgetLine k

theorem makeRoom (h : LineHolds s ln sl bs) (k : Nat) : LineHolds (makeRoom s k) ln sl bs := by
  have h1 : LineHolds { s with fresh := s.fresh + 1 } ln sl bs := h.congr ⟨rfl, rfl, rfl⟩
  exact h.ite (h1.dropLine _)

/-- Opening another line. -/
theorem openLine (h : LineHolds s ln sl bs) {hm : Hm} {key : Option (BitVec 13)} {a : Nat} (ha : a / 64 ≠ ln) :
    LineHolds (openLine s hm key a) ln sl bs := by
  unfold Machine.openLine
  extract_lets line s1 s2 l
  have h1 : LineHolds s1 ln sl bs := by
    unfold s1
    split
    · exact h.ite (h.dropLine _)
    · exact h
  exact h1.ite ((h1.makeRoom line).setLine fun hk => absurd hk ha)

/-- Marking another line. -/
theorem dirtyLine (h : LineHolds s ln sl bs) {hm : Hm} {a : Nat} (cs : List Byte) (ha : a / 64 ≠ ln) :
    LineHolds (dirtyLine s hm a cs) ln sl bs := by
  refine ⟨h.bytes, h.seals, fun l c hl hc => h.held l c ?_ hc⟩
  rwa [Machine.dirtyLine, get?_adjust, if_neg ha] at hl

/-- A write of another whole line, as the caches see it. -/
theorem cacheWrite (h : LineHolds s ln sl bs) {hm : Hm} {key : Option (BitVec 13)} {cs : List Byte} (hc : cs.length = 64)
    (hk : k ≠ ln) (hl : isRemote (64 * k) = false) : LineHolds (cacheWrite s .home hm key (64 * k) cs) ln sl bs := by
  have ha : 64 * k / 64 ≠ ln := by omega
  unfold Machine.cacheWrite
  dsimp only
  rw [hl, if_neg Bool.false_ne_true, hc, decide_eq_true (p := 64 * k % 16 = 0 ∧ 64 % 16 = 0) (by omega), Bool.true_or, if_pos rfl]
  exact ((h.openLine ha).recallBut none _).dirtyLine cs ha

theorem tellHome (h : LineHolds s ln sl bs) {hm : Hm} (a : Nat) (cs : List Byte) : LineHolds (tellHome s .home hm a cs) ln sl bs :=
  (h.dropLine _).congr (.traffic (.storeHome (.refl _)))

end LineHolds

/-! ## Whole sectors -/

/-- Whole sectors from an address on are written under a key: their bytes and their seals, and nothing else of memory. -/
structure SectorsWritten (s t : State) (key : Option (BitVec 128)) (a : Nat) (bs : List Byte) : Prop where
  bytes : ∀ j, readByte t.mem j = if a ≤ j ∧ j < a + bs.length then bs.getD (j - a) 0 else readByte s.mem j
  seals : ∀ i, Tab.get? t.seals i = if a ≤ 16 * i ∧ 16 * i < a + bs.length then some (sealOf key) else Tab.get? s.seals i
  lines : t.lines = s.lines

theorem sectorPieces_nil (a n : Nat) : sectorPieces a [] n = [] := by cases n <;> rfl

theorem sectorPieces_sector {a : Nat} {bs : List Byte} (ha : a % 16 = 0) (hb : 0 < bs.length) (n : Nat) :
    sectorPieces a bs (n + 1) = (a, bs.take 16) :: sectorPieces (a + 16) (bs.drop 16) n := by
  cases bs with
  | nil => cases hb
  | cons b r => rw [sectorPieces, ha]

/-- Whole sectors are the pieces at their addresses. -/
theorem le_of_mem_sectorPieces {n a fuel : Nat} {bs : List Byte} (ha : a % 16 = 0) (hb : bs.length = 16 * n) {p : Nat × List Byte}
    (hp : p ∈ sectorPieces a bs fuel) : a ≤ p.1 ∧ p.1 < a + 16 * n := by
  induction n generalizing a bs fuel with
  | zero =>
    obtain rfl := List.length_eq_zero_iff.1 hb
    rw [sectorPieces_nil] at hp
    cases hp
  | succ n ih =>
    cases fuel with
    | zero => cases hp
    | succ fuel =>
      rw [sectorPieces_sector ha (by omega)] at hp
      rcases List.mem_cons.1 hp with rfl | hp
      · exact ⟨le_rfl, by dsimp only; omega⟩
      · have := ih (a := a + 16) (by omega) (by rw [List.length_drop]; omega) hp
        omega

/-- One sector written, then the sectors after it. -/
theorem SectorsWritten.cons {s t : State} {key : Option (BitVec 128)} {a : Nat} {bs : List Byte} (ha : a % 16 = 0)
    (hb : 16 ≤ bs.length) (hl : locked s a = false)
    (h : SectorsWritten (writeInSector s key a (bs.take 16)) t key (a + 16) (bs.drop 16)) : SectorsWritten s t key a bs := by
  have h16 : (bs.take 16).length = 16 := by rw [List.length_take]; omega
  have hd : (bs.drop 16).length = bs.length - 16 := List.length_drop
  refine ⟨fun j => ?_, fun i => ?_, ?_⟩
  · rw [h.bytes, readByte_writeInSector hl (by omega), h16, hd]
    by_cases h1 : a + 16 ≤ j ∧ j < a + bs.length
    · rw [if_pos (by omega), if_pos (by omega), List.getD_eq_getElem?_getD, List.getElem?_drop, List.getD_eq_getElem?_getD,
        show 16 + (j - (a + 16)) = j - a by omega]
    · rw [if_neg (by omega)]
      by_cases h2 : a ≤ j ∧ j < a + 16
      · rw [if_pos h2, if_pos (by omega), List.getD_eq_getElem?_getD, List.getElem?_take_of_lt (by omega),
          List.getD_eq_getElem?_getD]
      · rw [if_neg h2, if_neg (by omega), if_neg (by omega)]
  · rw [h.seals, writeInSector_seal hl, hd]
    by_cases hi : a / 16 = i
    · rw [if_pos hi, ite_self, if_pos (by omega)]
    · rw [if_neg hi]
      exact if_congr (by omega) rfl rfl
  · rw [h.lines]
    simp only [writeInSector, hl, Bool.false_eq_true, if_false]

theorem sectorsWritten_foldl {n a fuel : Nat} {s : State} {key : Option (BitVec 128)} {bs : List Byte} (ha : a % 16 = 0)
    (hb : bs.length = 16 * n) (hf : n ≤ fuel) (hl : ∀ b < 16 * n, locked s (a + b) = false) :
    SectorsWritten s ((sectorPieces a bs fuel).foldl (fun s p => writeInSector s key p.1 p.2) s) key a bs := by
  induction n generalizing a bs fuel s with
  | zero =>
    obtain rfl := List.length_eq_zero_iff.1 hb
    rw [sectorPieces_nil]
    exact ⟨fun j => (if_neg (by simp only [List.length_nil]; omega)).symm,
      fun i => (if_neg (by simp only [List.length_nil]; omega)).symm, rfl⟩
  | succ n ih =>
    obtain ⟨fuel, rfl⟩ : ∃ f, fuel = f + 1 := ⟨fuel - 1, by omega⟩
    rw [sectorPieces_sector ha (by omega), List.foldl_cons]
    refine .cons ha (by omega) (hl 0 (by omega)) (ih (by omega) (by rw [List.length_drop]; omega) (by omega) fun b hb' => ?_)
    rw [(WarpsStay.writeInSector (.refl s)).locks, Nat.add_assoc]
    exact hl (16 + b) (by omega)

namespace LineHolds
variable {s t : State} {ln k : Nat} {sl : Seal} {bs cs : List Byte} {key : Option (BitVec 128)}

/-- A line that is written stands where no held copy of it says otherwise. -/
theorem of_written (h : SectorsWritten s t key (64 * ln) bs) (hb : bs.length = 64)
    (hh : ∀ l c, Tab.get? s.lines ln = some l → l.copy = some c → mergeDirty bs c l.dirty 64 = bs) :
    LineHolds t ln (sealOf key) bs := by
  refine ⟨eq_of_getD_eq (by rw [length_readBytes, hb]) fun i hi => ?_, fun i hi => ?_, h.lines ▸ hh⟩
  · rw [getD_readBytes, if_pos (hb ▸ hi), h.bytes, if_pos (by omega), Nat.add_sub_cancel_left]
  · rw [h.seals, if_pos (by omega)]

/-- It stands where another line is written. -/
theorem written (h : LineHolds s ln sl bs) (hc : cs.length = 64) (hk : k ≠ ln) (hw : SectorsWritten s t key (64 * k) cs) :
    LineHolds t ln sl bs := by
  refine ⟨?_, fun i hi => ?_, hw.lines ▸ h.held⟩
  · rw [← h.bytes]
    exact readBytes_congr _ _ _ _ fun j h1 h2 => by rw [hw.bytes, if_neg (by omega)]
  · rw [hw.seals, if_neg (by omega)]
    exact h.seals i hi

end LineHolds

/-! ## A write of a whole line of local HBM -/

section
variable {s : State} {hm : Hm} {kidx : Option (BitVec 13)} {key : Option (BitVec 128)} {unc : Bool} {ln k : Nat} {bs cs : List Byte}

/-- What the caches do with a write at the home before it reaches memory. -/
def throughCaches (s : State) (hm : Hm) (kidx : Option (BitVec 13)) (unc : Bool) (a : Nat) (bs : List Byte) : State :=
  let s := dropICache (writeOver s a bs.length) (a / 64)
  if unc then tellHome s .home hm a bs else cacheWrite s .home hm kidx a bs

theorem locked_throughCaches (a b : Nat) : locked (throughCaches s hm kidx unc a bs) b = locked s b :=
  (WarpsStay.ite (WarpsStay.other (.refl s)).dropICache.dropLine.storeHome
    (WarpsStay.other (.refl s)).dropICache.cacheWrite).locks b

/-- Where no sector is locked, its four sectors are written then. -/
theorem sectorsWritten_homeWrite (hb : bs.length = 64) (hl : isLocal (64 * ln) = true)
    (hk : ∀ b < 64, locked s (64 * ln + b) = false) :
    SectorsWritten (throughCaches s hm kidx unc (64 * ln) bs) (homeWrite s .home hm kidx key unc (64 * ln) bs) key (64 * ln) bs := by
  have hno : (sectorPieces (64 * ln) bs bs.length).any (fun p => locked (writeOver s (64 * ln) bs.length) p.1) = false := by
    refine List.any_eq_false.2 fun p hp => Bool.not_eq_true _ ▸ ?_
    obtain ⟨h1, h2⟩ := le_of_mem_sectorPieces (n := 4) (by omega) hb hp
    have := hk (p.1 - 64 * ln) (by omega)
    rwa [Nat.add_sub_cancel' h1] at this
  unfold homeWrite
  dsimp only
  rw [hno, if_neg Bool.false_ne_true]
  unfold homeWriteOpen
  dsimp only
  rw [if_pos hl]
  refine sectorsWritten_foldl (n := 4) (by omega) hb (by omega) fun b hb' => ?_
  rw [← hk b hb']
  exact locked_throughCaches _ _

/-- After the caches no held copy says otherwise than what has been written. -/
theorem held_throughCaches (hb : bs.length = 64) (hl : isRemote (64 * ln) = false) {l : Line} {c : List Byte}
    (hg : Tab.get? (throughCaches s hm kidx unc (64 * ln) bs).lines ln = some l) (hc : l.copy = some c) :
    mergeDirty bs c l.dirty 64 = bs := by
  have h64 : 64 * ln / 64 = ln := by omega
  unfold throughCaches at hg
  dsimp only at hg
  split_ifs at hg
  · unfold tellHome at hg
    dsimp only at hg
    rw [(SameStore.traffic (.storeHome (.refl _))).lines, h64, dropLine, forgetLine, (SameStore.surface _ _ _).lines, get?_del,
      if_pos rfl] at hg
    cases hg
  · unfold cacheWrite at hg
    dsimp only at hg
    rw [hl, if_neg Bool.false_ne_true, dirtyLine, get?_adjust, h64, if_pos rfl] at hg
    obtain ⟨l₀, -, rfl⟩ := Option.map_eq_some_iff.1 hg
    obtain ⟨c₀, -, rfl⟩ := Option.map_eq_some_iff.1 hc
    dsimp only
    rw [hl, if_neg Bool.false_ne_true, hb]
    have h0 : sectorBits (64 * ln) 64 = sectorBits 0 64 := by
      unfold sectorBits
      rw [Nat.mul_mod_right]
    rw [h0, Nat.mul_mod_right]
    exact mergeDirty_patch hb _ _ _

theorem isRemote_of_isLocal {a : Nat} (h : isLocal a = true) : isRemote a = false := by
  have := of_decide_eq_true h
  refine decide_eq_false ?_
  omega

/-- A whole line of local HBM that is written stands there, under the writer's key (R49). -/
theorem lineHolds_homeWrite (hb : bs.length = 64) (hl : isLocal (64 * ln) = true)
    (hk : ∀ b < 64, locked s (64 * ln + b) = false) :
    LineHolds (homeWrite s .home hm kidx key unc (64 * ln) bs) ln (sealOf key) bs :=
  .of_written (sectorsWritten_homeWrite hb hl hk) hb fun _ _ hg hc => held_throughCaches hb (isRemote_of_isLocal hl) hg hc

/-- A line that stands does so after another whole line has been written. -/
theorem LineHolds.homeWrite {sl : Seal} (h : LineHolds s ln sl bs) (hc : cs.length = 64) (hne : k ≠ ln)
    (hl : isLocal (64 * k) = true) (hk : ∀ b < 64, locked s (64 * k + b) = false) :
    LineHolds (homeWrite s .home hm kidx key unc (64 * k) cs) ln sl bs := by
  have h1 : LineHolds (dropICache (writeOver s (64 * k) cs.length) (64 * k / 64)) ln sl bs := h.congr ⟨rfl, rfl, rfl⟩
  exact LineHolds.written (.ite (h1.tellHome _ _) (h1.cacheWrite hc hne (isRemote_of_isLocal hl))) hc hne
    (sectorsWritten_homeWrite hc hl hk)

end

end Sys2Proof.Laws
end

section
/-! SUPPORT. What a v register reads after a write of it or of another (R121, R122; O42). -/

namespace Sys2Proof.Laws
open Sys2Proof.Machine Sys2Proof.Claims

/-! ## Words of a row -/

section
variable {s t : State} {c n row row' l k p : Nat} {x : Word}

/-- A page of the map is the page of one index. -/
theorem pageWith_inj {q : Core} (ho : Tab.ordered q.pageMap = true) {own kind i j : Nat} (hi : pageWith q own kind i = some p)
    (hj : pageWith q own kind j = some p) : i = j := by
  obtain ⟨e, he, hep⟩ := Option.map_eq_some_iff.1 hi
  obtain ⟨d, hd, hdp⟩ := Option.map_eq_some_iff.1 hj
  have hev : Tab.get? q.pageMap p = some e.2 := (mem_iff_get? ho).1 (hep ▸ List.mem_of_find?_eq_some he)
  have hdv : Tab.get? q.pageMap p = some d.2 := (mem_iff_get? ho).1 (hdp ▸ List.mem_of_find?_eq_some hd)
  have hie := List.find?_some he
  have hjd := List.find?_some hd
  rw [decide_eq_true_eq] at hie hjd
  obtain ⟨-, -, rfl⟩ := hie
  obtain ⟨-, -, rfl⟩ := hjd
  rw [Option.some.inj (hev.symm.trans hdv)]

/-- The page in which a warp's rows of one index lie. -/
def rowPage (s : State) (c n i : Nat) : Option Nat := pageWith (coreAt s c) (firstSlot (wgAt s (slotWg s c n))) 1 i

theorem rowPage_congr (hh : SameHome c n s t) (i : Nat) : rowPage t c n i = rowPage s c n i := by
  unfold rowPage pageWith wgAt slotWg
  rw [hh.wg, hh.wgs, hh.pageMap]

theorem rowWord_of_ne (h16 : n ≠ 16) (row l : Nat) :
    rowWord s c n row l = match rowPage s c n (row / 128) with
      | some p => poolWord (coreAt s c) (4096 * p + 32 * (row % 128) + l)
      | none => 0 :=
  if_neg h16

/-- A row's words rest on the core's pool, its page map and its umpire rows, and on where the warp's workgroup has its pages. -/
theorem rowWord_congr (hh : SameHome c n s t) (hp : (coreAt t c).pool = (coreAt s c).pool)
    (hu : (coreAt t c).umpRows = (coreAt s c).umpRows) (row l : Nat) : rowWord t c n row l = rowWord s c n row l := by
  by_cases h16 : n = 16
  · unfold rowWord
    rw [if_pos h16, if_pos h16, hu]
  · rw [rowWord_of_ne h16, rowWord_of_ne h16, rowPage_congr hh]
    unfold poolWord
    rw [hp]

/-- A lane's word after a write of a word of a row: the written one, or as it was. -/
theorem rowWord_setRowWord (ho : Tab.ordered (coreAt s c).pageMap = true)
    (hpage : n ≠ 16 → (rowPage s c n (row / 128)).isSome = true) (hl : l < 32) (hk : k < 32) :
    rowWord (setRowWord s c n row l x) c n row' k = if row = row' ∧ l = k then x else rowWord s c n row' k := by
  by_cases h16 : n = 16
  · subst h16
    unfold rowWord setRowWord
    rw [if_pos rfl, if_pos rfl, if_pos rfl, coreAt_modCore_same, getD_put]
    by_cases h : row = row' ∧ l = k
    · rw [if_pos h, if_pos (by omega)]
      split_ifs with hx
      · exact hx.symm
      · rfl
    · rw [if_neg h, if_neg (by omega)]
  · obtain ⟨p, hp⟩ := Option.isSome_iff_exists.1 (hpage h16)
    have hset : setRowWord s c n row l x = modCore s c (fun q => setPoolWord q (4096 * p + 32 * (row % 128) + l) x) := by
      unfold setRowWord
      rw [if_neg h16, show pageWith (coreAt s c) (firstSlot (wgAt s (slotWg s c n))) 1 (row / 128) = some p from hp]
    rw [rowWord_of_ne h16, rowWord_of_ne h16, rowPage_congr (SameRows.setRowWord s c n row l x).toSameHome, hset,
      coreAt_modCore_same]
    cases hp' : rowPage s c n (row' / 128) with
    | none =>
      rw [if_neg]
      rintro ⟨rfl, -⟩
      rw [hp] at hp'
      cases hp'
    | some p' =>
      dsimp only
      rw [poolWord_setPoolWord]
      refine if_congr ⟨fun h => ?_, ?_⟩ rfl rfl
      · have hpp : p = p' := by omega
        have := pageWith_inj ho hp (hpp ▸ hp')
        omega
      · rintro ⟨rfl, rfl⟩
        rw [Option.some.inj (hp.symm.trans hp')]

/-- Lanes of a row after a write of some. -/
theorem rowWord_setRow (ho : Tab.ordered (coreAt s c).pageMap = true)
    (hpage : n ≠ 16 → (rowPage s c n (row / 128)).isSome = true) {ls : List Nat} (hls : ∀ l ∈ ls, l < 32) (hk : k < 32)
    (f : Nat → Word) :
    rowWord (setRow s c n row ls f) c n row' k = if row = row' ∧ k ∈ ls then f k else rowWord s c n row' k := by
  induction ls generalizing s with
  | nil => simp [setRow]
  | cons l r ih =>
    have hs := (SameRows.setRowWord s c n row l (f l)).toSameHome
    have h1 := ih (by rwa [hs.pageMap]) (by rwa [rowPage_congr hs]) fun j hj => hls j (List.mem_cons_of_mem _ hj)
    rw [show setRow s c n row (l :: r) f = setRow (setRowWord s c n row l (f l)) c n row r f from rfl, h1,
      rowWord_setRowWord ho hpage (hls l List.mem_cons_self) hk]
    by_cases hrow : row = row'
    · by_cases hr : k ∈ r
      · rw [if_pos ⟨hrow, hr⟩, if_pos ⟨hrow, List.mem_cons_of_mem _ hr⟩]
      · rw [if_neg fun h => hr h.2]
        by_cases hkl : l = k
        · rw [if_pos ⟨hrow, hkl⟩, if_pos ⟨hrow, hkl ▸ List.mem_cons_self⟩, hkl]
        · rw [if_neg fun h => hkl h.2, if_neg fun h => (List.mem_cons.1 h.2).elim (fun h => hkl h.symm) hr]
    · rw [if_neg fun h => hrow h.1, if_neg fun h => hrow h.1, if_neg fun h => hrow h.1]

end

/-! ## Writes that are not uniform -/

/-- A change of one register's mapping and cell and of words of rows: it leaves where the warp's rows lie, the threads, the cells of the
other registers, memory and the held lines. -/
structure RegisterOnly (c n v : Nat) (s t : State) : Prop where
  home : SameHome c n s t
  threads : (slotAt t c n).threads = (slotAt s c n).threads
  cells : ∀ w, w ≠ v → Tab.getD (slotAt t c n).cells w 0 = Tab.getD (slotAt s c n).cells w 0
  store : SameStore s t

/-- Such a change that leaves the words of the rows as well. -/
structure MappingOnly (c n v : Nat) (s t : State) : Prop extends RegisterOnly c n v s t where
  pool : (coreAt t c).pool = (coreAt s c).pool
  umpRows : (coreAt t c).umpRows = (coreAt s c).umpRows

section
variable {s t u : State} {c n v row : Nat}

theorem RegisterOnly.trans (h : RegisterOnly c n v s t) (h' : RegisterOnly c n v t u) : RegisterOnly c n v s u :=
  ⟨h.home.trans h'.home, h'.threads.trans h.threads, fun w hw => (h'.cells w hw).trans (h.cells w hw), h.store.trans h'.store⟩

theorem MappingOnly.trans (h : MappingOnly c n v s t) (h' : MappingOnly c n v t u) : MappingOnly c n v s u :=
  ⟨h.toRegisterOnly.trans h'.toRegisterOnly, h'.pool.trans h.pool, h'.umpRows.trans h.umpRows⟩

theorem MappingOnly.setVmap (s : State) (c n v : Nat) (m : Option VMap) : MappingOnly c n v s (setVmap s c n v m) := by
  have hw : slotAt (Machine.setVmap s c n v m) c n = { slotAt s c n with vmap := Tab.put (slotAt s c n).vmap v m } := by
    rw [Machine.setVmap, slotAt_modSlot, if_pos rfl]
  have hc : (coreAt (Machine.setVmap s c n v m) c).pool = (coreAt s c).pool ∧
      (coreAt (Machine.setVmap s c n v m) c).umpRows = (coreAt s c).umpRows := by
    rw [Machine.setVmap, Machine.modSlot, coreAt_modCore_same]
    exact ⟨rfl, rfl⟩
  exact ⟨⟨.setVmap s c n v m, by rw [hw], fun _ _ => by rw [hw], ⟨rfl, rfl, rfl⟩⟩, hc.1, hc.2⟩

theorem MappingOnly.setCell (s : State) (c n v : Nat) (x : Option Word) : MappingOnly c n v s (setCell s c n v x) := by
  have hw : slotAt (Machine.setCell s c n v x) c n = { slotAt s c n with cells := Tab.put (slotAt s c n).cells v x } := by
    rw [Machine.setCell, slotAt_modSlot, if_pos rfl]
  have hc : (coreAt (Machine.setCell s c n v x) c).pool = (coreAt s c).pool ∧
      (coreAt (Machine.setCell s c n v x) c).umpRows = (coreAt s c).umpRows := by
    rw [Machine.setCell, Machine.modSlot, coreAt_modCore_same]
    exact ⟨rfl, rfl⟩
  refine ⟨⟨(SameRows.setCell s c n v x).toSameHome, by rw [hw], fun w hv => ?_, ⟨rfl, rfl, rfl⟩⟩, hc.1, hc.2⟩
  rw [hw, getD_put, if_neg hv.symm]

theorem RegisterOnly.setRowWord (s : State) (c n v row l : Nat) (x : Word) : RegisterOnly c n v s (setRowWord s c n row l x) := by
  have hw : slotAt (Machine.setRowWord s c n row l x) c n = slotAt s c n ∧ SameStore s (Machine.setRowWord s c n row l x) := by
    unfold Machine.setRowWord
    by_cases h16 : n = 16
    · rw [if_pos h16]
      exact ⟨slotAt_modCore _ _ _ _ _ rfl, ⟨rfl, rfl, rfl⟩⟩
    · rw [if_neg h16]
      split
      · exact ⟨slotAt_modCore _ _ _ _ _ rfl, ⟨rfl, rfl, rfl⟩⟩
      · exact ⟨rfl, .refl s⟩
  exact ⟨(SameRows.setRowWord s c n row l x).toSameHome, by rw [hw.1], fun _ _ => by rw [hw.1], hw.2⟩

theorem RegisterOnly.setRow (s : State) (c n v row : Nat) (ls : List Nat) (f : Nat → Word) :
    RegisterOnly c n v s (setRow s c n row ls f) := by
  induction ls generalizing s with
  | nil => exact ⟨.refl s, rfl, fun _ _ => rfl, .refl s⟩
  | cons l r ih => exact (RegisterOnly.setRowWord s c n v row l (f l)).trans (ih _)

/-- A write that is not uniform maps the register to a row and fills lanes of it, the active ones with what is written. -/
theorem writeV_eq_setRow (s : State) (c n v : Nat) (a : Word) (f : Nat → Word) :
    ∃ u row ls g, writeV s c n v a false f = setRow u c n row ls g ∧ MappingOnly c n v s u ∧
      (mapAfter s c n v a false).form = .full row ∧ (∀ l ∈ ls, l < 32) ∧ ∀ l < 32, bitAt a l = true → l ∈ ls ∧ g l = f l := by
  have hno : coversLive s c n a false = false := rfl
  have hnew : ∀ (rel old : Word), (mapAfter s c n v a false).form = .full (allocRow s c n v) →
      ∃ u row ls g, newRow s c n v rel (fun l => if bitAt a l then f l else old) = setRow u c n row ls g ∧
        MappingOnly c n v s u ∧ (mapAfter s c n v a false).form = .full row ∧ (∀ l ∈ ls, l < 32) ∧
        ∀ l < 32, bitAt a l = true → l ∈ ls ∧ g l = f l := fun rel old hm =>
    ⟨_, _, _, _, rfl, (MappingOnly.setVmap s c n v _).trans (.setCell _ c n v none), hm, fun _ => List.mem_range.1,
      fun l hl hb => ⟨List.mem_range.2 hl, if_pos hb⟩⟩
  unfold writeV
  dsimp only
  rw [← coversLive, hno]
  cases hm : Tab.get? (slotAt s c n).vmap v with
  | none => exact hnew 0 0 (by unfold mapAfter; rw [hm, hno]; rfl)
  | some m =>
    obtain ⟨form, rel⟩ := m
    cases form with
    | uniform => exact hnew _ _ (by unfold mapAfter; rw [hm, hno]; rfl)
    | full row =>
      exact ⟨_, row, _, f, rfl, .setVmap s c n v _, by unfold mapAfter; rw [hm], fun l hl => List.mem_range.1 (List.mem_filter.1 hl).1,
        fun l hl hb => ⟨List.mem_filter.2 ⟨List.mem_range.2 hl, hb⟩, rfl⟩⟩

theorem registerOnly_writeV (s : State) (c n v : Nat) (a : Word) (f : Nat → Word) :
    RegisterOnly c n v s (writeV s c n v a false f) := by
  obtain ⟨u, row, ls, g, he, hu, -⟩ := writeV_eq_setRow s c n v a f
  rw [he]
  exact hu.toRegisterOnly.trans (.setRow u c n v row ls g)

theorem vWord_of_full {w l : Nat} {m : VMap} (hm : Tab.get? (slotAt s c n).vmap w = some m) (hf : m.form = .full row) :
    vWord s c n w l = rowWord s c n row l := by
  obtain ⟨form, rel⟩ := m
  obtain rfl : form = .full row := hf
  unfold vWord
  rw [hm]

/-- A register reads what it did where its mapping, its cell and the lane of its row are as they were. -/
theorem vWord_congr {w l : Nat} (hm : Tab.get? (slotAt t c n).vmap w = Tab.get? (slotAt s c n).vmap w)
    (hc : Tab.getD (slotAt t c n).cells w 0 = Tab.getD (slotAt s c n).cells w 0)
    (hr : ∀ m r, Tab.get? (slotAt s c n).vmap w = some m → m.form = .full r → rowWord t c n r l = rowWord s c n r l) :
    vWord t c n w l = vWord s c n w l := by
  unfold vWord
  rw [hm]
  cases hg : Tab.get? (slotAt s c n).vmap w with
  | none => rfl
  | some m =>
    obtain ⟨form, rel⟩ := m
    cases form with
    | uniform => exact hc
    | full r => exact hr _ r hg rfl

/-- The row that a write fills, and the words of the warp's rows then. -/
theorem exists_row_writeV (hs : RowsApart s c n) (hv : v < ceiling s c n) (a : Word) (f : Nat → Word) :
    ∃ (row : Nat) (ls : List Nat) (g : Nat → Word), (mapAfter s c n v a false).form = .full row ∧ (∀ l < 32, bitAt a l = true → l ∈ ls ∧ g l = f l) ∧
      ∀ r l, l < 32 → rowWord (writeV s c n v a false f) c n r l = if row = r ∧ l ∈ ls then g l else rowWord s c n r l := by
  obtain ⟨u, row, ls, g, he, hu, hm, hls, hg⟩ := writeV_eq_setRow s c n v a f
  obtain ⟨ha, ho, hpages⟩ := rowsApart_iff.1 hs
  obtain ⟨⟨⟨-, hlt⟩, -⟩, -⟩ := mapAfter_row ha hv a false hm
  refine ⟨row, ls, g, hm, hg, fun r l hl => ?_⟩
  rw [he, rowWord_setRow (by rwa [hu.home.pageMap])
    (fun h16 => by rw [rowPage_congr hu.home]; exact hpages h16 row hlt) hls hl, rowWord_congr hu.home hu.pool hu.umpRows]

/-- What is written reads back (R122). -/
theorem vWord_writeV_same (hs : RowsApart s c n) (hv : v < ceiling s c n) {a : Word} (f : Nat → Word) {l : Nat} (hl : l < 32)
    (hb : bitAt a l = true) : vWord (writeV s c n v a false f) c n v l = f l := by
  obtain ⟨row, ls, g, hm, hg, hr⟩ := exists_row_writeV hs hv a f
  obtain ⟨hmem, hgl⟩ := hg l hl hb
  rw [vWord_of_full (by rw [(writeV_mapping s c n v a false f).2, get?_set, if_pos rfl]) hm, hr row l hl, if_pos ⟨rfl, hmem⟩, hgl]

/-- Another register reads what it did. -/
theorem vWord_writeV_other (hs : RowsApart s c n) (hv : v < ceiling s c n) (a : Word) (f : Nat → Word) {w l : Nat} (hl : l < 32)
    (hw : w ≠ v) : vWord (writeV s c n v a false f) c n w l = vWord s c n w l := by
  obtain ⟨row, ls, g, hm, -, hr⟩ := exists_row_writeV hs hv a f
  refine vWord_congr (by rw [(writeV_mapping s c n v a false f).2, get?_set, if_neg hw.symm])
    ((registerOnly_writeV s c n v a f).cells w hw) fun m r hg hf => ?_
  rw [hr r l hl, if_neg]
  rintro ⟨rfl, -⟩
  exact hw ((mapAfter_row (rowsApart_iff.1 hs).1 hv a false hm).2 w m hg hf)

end
end Sys2Proof.Laws
end

section
/-! SUPPORT. Delivery of a signal: the frame's two lines, the handler's registers and the thread in its handler (R237; O42). -/

namespace Sys2Proof.Laws
open Sys2Proof.Machine Sys2Proof.Claims

/-! ## A write of two lines in a context -/

section
variable {s v : State} {c : Nat} {hm : Hm} {a : DWord} {bs : List Byte} {p q : Place}

theorem linePieces_nil (a n : Nat) : linePieces a [] n = [] := by cases n <;> rfl

theorem linePieces_line {a : Nat} {bs : List Byte} (ha : a % 64 = 0) (hb : 0 < bs.length) (n : Nat) :
    linePieces a bs (n + 1) = (a, bs.take 64) :: linePieces (a + 64) (bs.drop 64) n := by
  cases bs with
  | nil => cases hb
  | cons b r => rw [linePieces, ha]

theorem linePieces_two {a : Nat} {bs : List Byte} (ha : a % 64 = 0) (hb : bs.length = 128) (n : Nat) :
    linePieces a bs (n + 2) = [(a, bs.take 64), (a + 64, bs.drop 64)] := by
  have hd : (bs.drop 64).length = 64 := by rw [List.length_drop, hb]
  rw [linePieces_line ha (by omega), linePieces_line (by omega) (by omega), List.take_of_length_le hd.le,
    List.drop_of_length_le hd.le, linePieces_nil]

theorem ctxWriteLine_ok (hp : place s c hm a .write = (v, .ok p)) (bs : List Byte) :
    ctxWriteLine s c hm a bs = (writePlace v .home hm p false bs, true) := by
  unfold ctxWriteLine
  rw [hp]

/-- Two whole lines whose places are found without a change are written one after the other. -/
theorem ctxWrite_two_lines (hb : bs.length = 128) (ha : a.toNat % 64 = 0) (hp : place s c hm a .write = (s, .ok p))
    (hq : place (writePlace s .home hm p false (bs.take 64)) c hm (BitVec.ofNat 64 (a.toNat + 64)) .write =
      (writePlace s .home hm p false (bs.take 64), .ok q)) :
    (ctxWrite s c hm a bs).1 =
      writePlace (writePlace s .home hm p false (bs.take 64)) .home hm q false (bs.drop 64) := by
  unfold ctxWrite
  rw [hb, linePieces_two ha hb, List.foldl_cons, List.foldl_cons, List.foldl_nil]
  dsimp only
  rw [if_pos rfl, BitVec.ofNat_toNat, BitVec.setWidth_eq, ctxWriteLine_ok hp]
  dsimp only
  rw [if_pos rfl, ctxWriteLine_ok hq]

theorem locked_writePlace (b : Nat) : locked (writePlace s .home hm p false bs) b = locked s b :=
  (WarpsStay.homeWrite (.refl s)).locks b

/-- A whole line of local HBM that is written at its place stands there. -/
theorem lineHolds_writePlace (hb : bs.length = 64) (hl : isLocal p.home = true) (h64 : p.home % 64 = 0)
    (hk : ∀ b < 64, locked s (p.home + b) = false) :
    LineHolds (writePlace s .home hm p false bs) (p.home / 64) (sealOf (placeKey s hm p).2) bs := by
  have hp : p.home = 64 * (p.home / 64) := by omega
  unfold writePlace
  rw [hp] at hl hk
  dsimp only
  rw [hp, Nat.mul_div_cancel_left _ (by decide)]
  exact lineHolds_homeWrite hb hl hk

theorem LineHolds.writePlace {sl : Seal} {cs : List Byte} {ln : Nat} (h : LineHolds s ln sl bs) (hc : cs.length = 64)
    (hl : isLocal q.home = true) (h64 : q.home % 64 = 0) (hne : q.home / 64 ≠ ln)
    (hk : ∀ b < 64, locked s (q.home + b) = false) : LineHolds (writePlace s .home hm q false cs) ln sl bs := by
  have hq : q.home = 64 * (q.home / 64) := by omega
  unfold Machine.writePlace
  rw [hq] at hl hk
  dsimp only
  rw [hq]
  exact h.homeWrite hc hne hl hk

/-- Two lines of local HBM hold the halves of what has been written in the context. -/
theorem lineHolds_ctxWrite (hb : bs.length = 128) (ha : a.toNat % 64 = 0) (hp : place s c hm a .write = (s, .ok p))
    (hq : place (writePlace s .home hm p false (bs.take 64)) c hm (BitVec.ofNat 64 (a.toNat + 64)) .write =
      (writePlace s .home hm p false (bs.take 64), .ok q))
    (hlp : isLocal p.home = true) (hlq : isLocal q.home = true) (hp64 : p.home % 64 = 0) (hq64 : q.home % 64 = 0)
    (hne : p.home ≠ q.home) (hk : ∀ b < 64, locked s (p.home + b) = false ∧ locked s (q.home + b) = false) :
    LineHolds (ctxWrite s c hm a bs).1 (p.home / 64) (sealOf (placeKey s hm p).2) (bs.take 64) ∧
      LineHolds (ctxWrite s c hm a bs).1 (q.home / 64)
        (sealOf (placeKey (writePlace s .home hm p false (bs.take 64)) hm q).2) (bs.drop 64) := by
  have ht : (bs.take 64).length = 64 := by rw [List.length_take, hb]; rfl
  have hd : (bs.drop 64).length = 64 := by rw [List.length_drop, hb]
  have hk' : ∀ b < 64, locked (writePlace s .home hm p false (bs.take 64)) (q.home + b) = false := fun b hb' => by
    rw [locked_writePlace]
    exact (hk b hb').2
  rw [ctxWrite_two_lines hb ha hp hq]
  exact ⟨(lineHolds_writePlace ht hlp hp64 fun b hb' => (hk b hb').1).writePlace hd hlq hq64 (by omega) hk',
    lineHolds_writePlace hd hlq hq64 hk'⟩

end

/-! ## The thread enters its handler -/

section
variable {s : State} {c n l : Nat} {a : DWord}

/-- A thread as it enters its handler, with its frame at an address (R237). -/
def entered (d : Desc) (a : DWord) (t : Thread) : Thread :=
  { t with cbase := d.sigbase.setWidth 64, pc := d.sigpc, mr := 0xFFFFFFFF, handler := some a, st := .ready,
           kept := [], due := [], pass := none, cmpst := none, escOk := false }

/-- The handler's registers are written: v2 holds the cause and the detail, and v4:v5 the frame's address (R237). -/
def handlerRegs (s : State) (c n l : Nat) (cause detail : Byte) (a : DWord) : State :=
  writeV (writeV (writeV s c n 2 (maskOf [l]) false fun _ => BitVec.ofNat 32 (cause.toNat + detail.toNat * 256))
    c n 4 (maskOf [l]) false fun _ => loWord a) c n 5 (maskOf [l]) false fun _ => hiWord a

/-- Delivery to a thread that may take a signal, where its frame has been written. -/
theorem deliverSignal_eq {cause detail : Byte} {addr info : DWord} {async : Bool} {pc : Word} {th : Thread}
    (hth : threadAt s c n l = some th) (hh : th.handler = none) (hsig : (descOf s (wgAt s th.home).hm).sigbase ≠ 0)
    (ha : frameAt s (wgAt s th.home) th.tidx = a) {r : State × Bool}
    (hr : ctxWrite s c (wgAt s th.home).hm a (wordsBytes (frameWords s c n l th cause detail addr info async pc)) = r)
    (hok : r.2 = true) :
    deliverSignal s c n l cause detail addr info async pc =
      meetings (modThread (handlerRegs (leavePark r.1 c n l) c n l cause detail a) c n l
        (entered (descOf s (wgAt s th.home).hm) a)) c n := by
  unfold deliverSignal
  rw [hth]
  dsimp only
  rw [if_neg hsig, hh, Option.isSome_none, if_neg Bool.false_ne_true, ha, hr, hok, Bool.not_true, if_neg Bool.false_ne_true]
  rfl

/-! ### Leaving the park -/

/-- Lanes leave an entry by a change of the core's dugout alone. -/
theorem leaveEntry_eq (s : State) (c e : Nat) (lanes : Word) :
    ∃ d, leaveEntry s c e lanes = modCore s c fun k => { k with dugout := d } := by
  unfold leaveEntry modCore
  dsimp only
  cases Tab.get? (coreAt s c).dugout e with
  | none => exact ⟨(coreAt s c).dugout, rfl⟩
  | some d =>
    dsimp only
    split_ifs <;> exact ⟨_, rfl⟩

/-- A change of a thread that leaves what is pending for it. -/
theorem sameRows_modThread {f : Thread → Thread} (hf : ∀ t, pendings (f t) = pendings t) :
    SameRows c n s (modThread s c n l f) := by
  refine .modSlot (fun w => { w with threads := Tab.adjust w.threads l f }) (fun _ => rfl) (fun _ => rfl) (fun w k => ?_)
    (fun _ => rfl) s n
  rw [get?_adjust]
  split_ifs
  · exact map_pendings hf _
  · rfl

theorem sameRows_leavePark (s : State) (c n l : Nat) : SameRows c n s (leavePark s c n l) := by
  unfold leavePark
  split
  next e _ =>
    obtain ⟨d, he⟩ := leaveEntry_eq s c e (maskOf [l])
    rw [he]
    apply SameRows.modCore <;> exact fun _ => rfl
  · exact sameRows_modThread fun _ => rfl

theorem sameStore_leavePark (s : State) (c n l : Nat) : SameStore s (leavePark s c n l) := by
  unfold leavePark
  split <;> exact ⟨rfl, rfl, rfl⟩

theorem threadAt_leavePark {th : Thread} (hth : threadAt s c n l = some th) :
    ∃ t, threadAt (leavePark s c n l) c n l = some t ∧ t.csp = th.csp ∧ t.pred = th.pred := by
  unfold leavePark
  split
  next e _ =>
    obtain ⟨d, he⟩ := leaveEntry_eq s c e (maskOf [l])
    exact ⟨th, by rw [he, threadAt, slotAt_modCore _ _ _ _ _ rfl]; exact hth, rfl, rfl⟩
  · exact ⟨{ th with park := none }, by rw [threadAt_modThread, if_pos rfl, hth, Option.map_some], rfl, rfl⟩

/-! ### The handler's registers -/

theorem bitAt_maskOf_singleton (hl : l < 32) : bitAt (maskOf [l]) l = true := by
  interval_cases l <;> decide

theorem sameStore_handlerRegs (s : State) (c n l : Nat) (cause detail : Byte) (a : DWord) :
    SameStore s (handlerRegs s c n l cause detail a) :=
  ((registerOnly_writeV ..).store.trans (registerOnly_writeV ..).store).trans (registerOnly_writeV ..).store

theorem threadAt_handlerRegs (cause detail : Byte) (k : Nat) :
    threadAt (handlerRegs s c n l cause detail a) c n k = threadAt s c n k :=
  congrArg (Tab.get? · k)
    (((registerOnly_writeV ..).threads.trans (registerOnly_writeV ..).threads).trans (registerOnly_writeV ..).threads)

theorem vWord_handlerRegs (hs : RowsApart s c n) (hv : 6 ≤ ceiling s c n) (hl : l < 32) (cause detail : Byte) :
    vWord (handlerRegs s c n l cause detail a) c n 2 l = BitVec.ofNat 32 (cause.toNat + detail.toNat * 256) ∧
      vWord (handlerRegs s c n l cause detail a) c n 4 l = loWord a ∧
      vWord (handlerRegs s c n l cause detail a) c n 5 l = hiWord a := by
  have hb := bitAt_maskOf_singleton hl
  let s2 := writeV s c n 2 (maskOf [l]) false fun _ => BitVec.ofNat 32 (cause.toNat + detail.toNat * 256)
  let s4 := writeV s2 c n 4 (maskOf [l]) false fun _ => loWord a
  have hc2 : ceiling s2 c n = ceiling s c n := (SameHome.writeV ..).ceiling
  have hc4 : ceiling s4 c n = ceiling s2 c n := (SameHome.writeV ..).ceiling
  have h2 : RowsApart s2 c n := RowsApart.writeV hs (by omega) _ _ _
  have h4 : RowsApart s4 c n := RowsApart.writeV h2 (by omega) _ _ _
  refine ⟨?_, ?_, vWord_writeV_same h4 (by omega) _ hl hb⟩
  · exact (vWord_writeV_other h4 (by omega) _ _ hl (by decide)).trans
      ((vWord_writeV_other h2 (by omega) _ _ hl (by decide)).trans (vWord_writeV_same hs (by omega) _ hl hb))
  · exact (vWord_writeV_other h4 (by omega) _ _ hl (by decide)).trans (vWord_writeV_same h2 (by omega) _ hl hb)

/-- A change of the slot that leaves the mappings and the cells leaves the registers. -/
theorem vWord_modSlot {f : Slot → Slot} (hr : SameRows c n s (modSlot s c n f)) (hf : ∀ w, (f w).cells = w.cells) (v k : Nat) :
    vWord (modSlot s c n f) c n v k = vWord s c n v k := by
  refine vWord_congr (by rw [hr.vmap]) (by rw [slotAt_modSlot, if_pos rfl, hf]) fun _ r _ _ => rowWord_congr hr.toSameHome ?_ ?_ r k <;>
    rw [modSlot, coreAt_modCore_same]

theorem vWord_entered (d : Desc) (v k : Nat) : vWord (modThread s c n l (entered d a)) c n v k = vWord s c n v k :=
  vWord_modSlot (f := fun w => { w with threads := Tab.adjust w.threads l (entered d a) }) (sameRows_modThread fun _ => rfl)
    (fun _ => rfl) v k

theorem vWord_meetings (v k : Nat) : vWord (meetings s c n) c n v k = vWord s c n v k :=
  vWord_modSlot (SameRows.meetings s n) (fun _ => rfl) v k

end

/-- What a delivered signal leaves of the thread and of the handler's registers (R237). -/
theorem threadAt_delivered {s : State} {c n l : Nat} {th : Thread} (hth : threadAt s c n l = some th) (cause detail : Byte)
    (d : Desc) (a : DWord) :
    ∃ t, threadAt (meetings (modThread (handlerRegs (leavePark s c n l) c n l cause detail a) c n l (entered d a)) c n) c n l =
      some (entered d a t) ∧ t.csp = th.csp ∧ t.pred = th.pred := by
  obtain ⟨t, ht, hcsp, hpred⟩ := threadAt_leavePark hth
  refine ⟨t, threadAt_meetings_of_ready ?_ rfl (.inl rfl), hcsp, hpred⟩
  rw [threadAt_modThread, if_pos rfl, threadAt_handlerRegs, ht, Option.map_some]

theorem sameStore_modSlot (s : State) (c n : Nat) (f : Slot → Slot) : SameStore s (modSlot s c n f) := ⟨rfl, rfl, rfl⟩

theorem sameStore_delivered (s : State) (c n l : Nat) (cause detail : Byte) (d : Desc) (a : DWord) :
    SameStore s (meetings (modThread (handlerRegs (leavePark s c n l) c n l cause detail a) c n l (entered d a)) c n) :=
  ((sameStore_leavePark s c n l).trans (sameStore_handlerRegs ..)).trans
    ((sameStore_modSlot _ c n _).trans (sameStore_modSlot _ c n _))

/-- Settles O42: the frame is written first, then the park is left, the registers are written, and the thread enters its handler. -/
theorem signalDeliveryEntersTheHandler : Obligations.SignalDeliveryEntersTheHandler := by
  unfold Obligations.SignalDeliveryEntersTheHandler
  intro s c n l cause detail addr info async pc th hth hl hh
  dsimp only
  intro hsig hok hrows hceil
  rw [deliverSignal_eq hth hh hsig rfl rfl hok]
  have hlen : (wordsBytes (frameWords s c n l th cause detail addr info async pc)).length = 128 := by
    rw [length_wordsBytes, length_frameWords]
  have hw : threadAt (ctxWrite s c (wgAt s th.home).hm (frameAt s (wgAt s th.home) th.tidx)
      (wordsBytes (frameWords s c n l th cause detail addr info async pc))).1 c n l = some th := by
    rw [threadAt, (WarpsStay.ctxWrite (.refl s)).slots]
    exact hth
  generalize wordsBytes (frameWords s c n l th cause detail addr info async pc) = bs at *
  generalize frameAt s (wgAt s th.home) th.tidx = a at *
  generalize wgAt s th.home = w at *
  obtain ⟨t, ht, hcsp, hpred⟩ := threadAt_delivered hw cause detail (descOf s w.hm) a
  have hc : ceiling (leavePark (ctxWrite s c w.hm a bs).1 c n l) c n = ceiling (ctxWrite s c w.hm a bs).1 c n :=
    (sameRows_leavePark ..).toSameHome.ceiling
  obtain ⟨hv2, hv4, hv5⟩ := vWord_handlerRegs (a := a) hrows (hc ▸ hceil) hl cause detail
  refine ⟨⟨_, ht, rfl, rfl, rfl, rfl, rfl, hcsp, hpred⟩, ?_, ?_, ?_, fun p q ha64 _ hp hq hlp hlq hp64 hq64 hne hk => ?_⟩
  · rw [vWord_meetings, vWord_entered, hv2, Nat.mul_comm]
  · rw [vWord_meetings, vWord_entered, hv4]
  · rw [vWord_meetings, vWord_entered, hv5]
  · obtain ⟨hfirst, hsecond⟩ := lineHolds_ctxWrite hlen ha64 hp hq hlp hlq hp64 hq64 hne hk
    have hs := sameStore_delivered (ctxWrite s c w.hm a bs).1 c n l cause detail (descOf s w.hm) a
    have h1 := (hfirst.congr hs).localView
    have h2 := (hsecond.congr hs).localView
    rw [show 64 * (p.home / 64) = p.home by omega] at h1
    rw [show 64 * (q.home / 64) = q.home by omega] at h2
    exact ⟨h1, h2⟩

end Sys2Proof.Laws
end

section
/-! SUPPORT. Each event of the network engine, and each pass of a kernel replay, does what the table says (O16). -/

namespace Sys2Proof.Laws
open Sys2Proof.Machine Sys2Proof.Claims

/-! ## Changes of a queue pair -/

section
variable (s : State) (q : Nat) (f g : QP → QP)

/-- Two changes of a pair, one after the other, are one change. -/
theorem modQp_modQp : modQp (modQp s q f) q g = modQp s q (g ∘ f) := by
  unfold modQp Tab.adjust
  simp only [List.map_map]
  congr 2
  funext e
  by_cases h : e.1 = q <;> simp [h]

theorem qpAt_modQp : qpAt (modQp s q f) q = (qpAt s q).map f :=
  (get?_adjust s.qps q q f).trans (if_pos rfl)

end

section
variable {s t : State}

/-- A pair that something from its peer reaches is an open pair. -/
theorem qpAt_of_pairReached {q : Nat} {p : QP} (h : pairReached s q = some p) : qpAt s q = some p :=
  (Option.filter_eq_some_iff.1 h).1

/-! ## The network engine (R398, R448, R466) -/

theorem execNetTakeRequest_takes {q : BitVec 12} (h : netEvent s (.netTakeRequest q) = some t) :
    execNetTakeRequest q s = .next t := by
  unfold netEvent at h
  dsimp only at h
  unfold execNetTakeRequest
  refine congrArg _ ?_
  cases hp : qpAt s q.toNat with
  | none => simp only [hp, reduceCtorEq] at h
  | some p =>
    simp only [hp] at h ⊢
    obtain ⟨⟨hstopped, herr, htails, htodo⟩, rfl⟩ := takes_eq_some.1 h
    rw [if_neg (by simp [hstopped, herr, htails, htodo]), modQp_modQp]
    rfl

theorem execNetAckReceive_takes {q : BitVec 12} {cack : Word} {bmap : DWord}
    (h : netEvent s (.netAckReceive q cack bmap) = some t) : execNetAckReceive q cack bmap s = .next t := by
  unfold netEvent at h
  dsimp only at h
  unfold execNetAckReceive
  refine congrArg _ ?_
  cases hr : pairReached s q.toNat with
  | none => simp only [hr, reduceCtorEq] at h
  | some p =>
    simp only [hr] at h ⊢
    rw [modQp_modQp, qpAt_modQp, qpAt_of_pairReached hr]
    exact Option.some.inj h

theorem execNetRetransmitTimeout_takes {q : BitVec 12} {n : Word}
    (h : netEvent s (.netRetransmitTimeout q n) = some t) : execNetRetransmitTimeout q n s = .next t := by
  unfold netEvent at h
  dsimp only at h
  unfold execNetRetransmitTimeout
  refine congrArg _ ?_
  cases hk : (qpAt s q.toNat).bind (fun p => p.packets.find? (fun k => k.psn = n)) with
  | none => simp only [hk, reduceCtorEq] at h
  | some k =>
    simp only [hk] at h ⊢
    obtain ⟨hdue, rfl⟩ := takes_eq_some.1 h
    exact if_pos hdue

theorem execNetRefusalReceive_takes {q : BitVec 12} {n : Word}
    (h : netEvent s (.netRefusalReceive q n) = some t) : execNetRefusalReceive q n s = .next t := by
  unfold netEvent at h
  dsimp only at h
  unfold execNetRefusalReceive
  refine congrArg _ ?_
  cases hk : (pairReached s q.toNat).bind (fun p => p.packets.find? (fun k => k.psn = n)) with
  | none => simp only [hk, reduceCtorEq] at h
  | some k =>
    simp only [hk] at h ⊢
    exact Option.some.inj h

theorem execNetPacketReceive_takes {k : NetPacket} (h : netEvent s (.netPacketReceive k) = some t) :
    execNetPacketReceive k s = .next t := by
  unfold netEvent at h
  dsimp only at h
  unfold execNetPacketReceive
  refine congrArg _ ?_
  by_cases hdown : netUp s k.port = false
  · rw [if_pos hdown] at h
    cases h
  rw [if_neg hdown] at h
  rw [if_pos (Bool.eq_true_of_not_eq_false hdown), takePacket]
  cases hp : qpAt (countUnit s netUnit 2 1) k.qp.toNat with
  | none =>
    simp only [hp] at h ⊢
    exact Option.some.inj h
  | some p =>
    simp only [hp] at h ⊢
    by_cases hgot : hasPsn p k.psn = true
    · rw [if_pos hgot] at h ⊢
      rw [sendAck, hp]
      exact Option.some.inj h
    · rw [if_neg hgot] at h ⊢
      exact Option.some.inj h

/-! ## The passes of a kernel replay (R292, R293) -/

/-- A pass is listed as a mismatch where its digests differ from those of the first pass. -/
theorem mismatch_append_ite (r : Replay) (ds : Tab DWord) :
    ({ r with mismatch := r.mismatch ++ (if ds = r.digests0 then [] else [r.pass]) } : Replay) =
      if ds = r.digests0 then r else { r with mismatch := r.mismatch ++ [r.pass] } := by
  split_ifs
  · rw [List.append_nil]
  · rfl

theorem execReplayPassEnd_takes (h : netEvent s .replayPassEnd = some t) : execReplayPassEnd s = .next t := by
  unfold netEvent at h
  dsimp only at h
  unfold execReplayPassEnd
  refine congrArg _ ?_
  cases hr : s.replay with
  | none => simp only [hr, reduceCtorEq] at h
  | some r =>
    simp only [hr] at h ⊢
    obtain ⟨⟨hover, hrun⟩, rfl⟩ := takes_eq_some.1 h
    rw [if_neg (by simp [hover, hrun]), mismatch_append_ite]

theorem execPreImageCopied_takes {page : Nat} (h : netEvent s (.preImageCopied page) = some t) :
    execPreImageCopied page s = .next t := by
  unfold netEvent at h
  dsimp only at h
  unfold execPreImageCopied
  refine congrArg _ ?_
  cases hr : s.replay with
  | none => simp only [hr, reduceCtorEq] at h
  | some r =>
    simp only [hr] at h ⊢
    obtain ⟨⟨hcopying, hrun⟩, rfl⟩ := takes_eq_some.1 h
    rw [if_neg (by simp [hcopying, hrun])]
    by_cases hroom : r.pages.length < 65536
    · rw [if_pos hroom, if_neg (not_le.2 hroom)]
      rfl
    · rw [if_neg hroom, if_pos (not_lt.1 hroom), modReplay, hr]

end

/-- Settles O16, event by event. -/
theorem networkEventsTakeEffect : Obligations.NetworkEventsTakeEffect := by
  unfold Obligations.NetworkEventsTakeEffect
  intro s t i h
  cases i with
  | netTakeRequest q => exact execNetTakeRequest_takes h
  | netAckReceive q cack bmap => exact execNetAckReceive_takes h
  | netRetransmitTimeout q n => exact execNetRetransmitTimeout_takes h
  | netRefusalReceive q n => exact execNetRefusalReceive_takes h
  | netPacketReceive k => exact execNetPacketReceive_takes h
  | replayPassEnd => exact execReplayPassEnd_takes h
  | preImageCopied page => exact execPreImageCopied_takes h
  | _ => cases h

end Sys2Proof.Laws
end

section
/-! SUPPORT. The encoding's codes and the reading of them are inverse: modifiers, operands, live-mask words, the fields of
a word, and its bytes (O55, O56). -/

namespace Sys2Proof.Laws
open Sys2Proof.Machine Sys2Proof.Claims

/-! ### Bits -/

@[simp] theorem getLsbD_bit (b : Bool) : (bit b).getLsbD 0 = b := by cases b <;> rfl

/-- A bit that is read as a truth value and written back is the one-bit field there. -/
theorem bit_getLsbD {n : Nat} (x : BitVec n) (k : Nat) : bit (x.getLsbD k) = x.extractLsb' k 1 := by
  apply BitVec.eq_of_getLsbD_eq
  intro j hj
  obtain rfl : j = 0 := by omega
  simp [-BitVec.getLsbD_eq_getElem]

theorem bit_decide_eq_one (x : Bit) : bit (decide (x = 1)) = x := by revert x; decide

@[simp] theorem bit_eq_one (b : Bool) : bit b = 1#1 ↔ b = true := by cases b <;> decide

/-- A pattern of high bits that a code was found to have is its high part. -/
theorem append_extractLsb'_of_high {m n : Nat} {c : BitVec (m + n)} {x : BitVec m} (h : c.extractLsb' n m = x) :
    x ++ c.extractLsb' 0 n = c := by
  rw [← h, BitVec.extractLsb'_append_extractLsb']

/-! ### Codes of the modifiers -/

@[simp] theorem ITy.ofCode_code (t : ITy) : ITy.ofCode t.code = some t := by cases t <;> rfl
@[simp] theorem Wd.ofCode_code (t : Wd) : Wd.ofCode t.code = some t := by cases t <;> rfl
@[simp] theorem Wd.ofCodeSigned_codeSigned (t : Wd) : Wd.ofCodeSigned t.codeSigned = some t := by cases t <;> rfl
@[simp] theorem ICond.ofCode_code (t : ICond) : ICond.ofCode t.code = some t := by cases t <;> rfl
@[simp] theorem FCond.ofCode_code (t : FCond) : FCond.ofCode t.code = t := by cases t <;> rfl
@[simp] theorem DirMode.ofCode_code (t : DirMode) : DirMode.ofCode t.code = some t := by cases t <;> rfl
@[simp] theorem Rnd.ofCode_code (t : Rnd) : Rnd.ofCode t.code t.src = some t := by
  cases t with
  | dir m => cases m <;> rfl
  | rs c => rfl
@[simp] theorem FTy.ofCode_code (t : FTy) : FTy.ofCode t.code = some t := by cases t <;> rfl
@[simp] theorem HTy.ofCode_code (t : HTy) : HTy.ofCode t.code = some t := by cases t <;> rfl
@[simp] theorem CvtF.ofCode_code (t : CvtF) : CvtF.ofCode t.code = some t := by cases t <;> rfl
@[simp] theorem CvtI.ofCode_code (t : CvtI) : CvtI.ofCode t.code = some t := by cases t <;> rfl
@[simp] theorem CvtN.ofCode_code (t : CvtN) : CvtN.ofCode t.code = some t := by cases t <;> rfl
@[simp] theorem Fmt.ofCode_code (t : Fmt) : Fmt.ofCode t.code = some t := by cases t <;> rfl
@[simp] theorem Blk.ofCode_code (t : Blk) : Blk.ofCode t.code = some t := by cases t <;> rfl
@[simp] theorem AmaxSrc.ofCode_code (t : AmaxSrc) : AmaxSrc.ofCode t.code = some t := by cases t <;> rfl
@[simp] theorem CbrgOut.ofCode_code (t : CbrgOut) : CbrgOut.ofCode t.code = some t := by
  cases t with
  | all => rfl
  | word k => revert k; decide
@[simp] theorem ShflMode.ofCode_code (t : ShflMode) : ShflMode.ofCode t.code = some t := by cases t <;> rfl
@[simp] theorem VoteTest.ofCode_code (t : VoteTest) : VoteTest.ofCode t.code t.src = t := by cases t <;> rfl
@[simp] theorem RTy.ofCode_code (t : RTy) : RTy.ofCode t.code = some t := by
  cases t with
  | int t => cases t <;> rfl
  | f32 => rfl
@[simp] theorem ROp.ofCode_code (t : ROp) : ROp.ofCode t.code = some t := by cases t <;> rfl
@[simp] theorem SOp.ofCode_code (t : SOp) : SOp.ofCode t.code = some t := by
  cases t with
  | red o => cases o <;> rfl
  | xadd => rfl
@[simp] theorem PlogOp.ofCode_code (t : PlogOp) : PlogOp.ofCode t.code = t := by cases t <;> rfl
@[simp] theorem depthOf_depthCode (d : Fin 7) : depthOf (depthCode d) = some d := by revert d; decide
@[simp] theorem count7Of_count7Code (d : Fin 7) : count7Of (count7Code d) = some d := by revert d; decide
@[simp] theorem depth6Of_depth6Code (d : Fin 6) : depth6Of (depth6Code d) = some d := by revert d; decide
@[simp] theorem groupOf_groupCode (g : Fin 6) : groupOf (groupCode g) = some g := by revert g; decide
@[simp] theorem MWidth.ofCode_code (t : MWidth) : MWidth.ofCode t.code = some t := by cases t <;> rfl
@[simp] theorem MOrder.ofCode_code (t : MOrder) : MOrder.ofCode t.code = some t := by cases t <;> rfl
@[simp] theorem Scope.ofCode_code (t : Scope) : Scope.ofCode t.code = some t := by cases t <;> rfl
@[simp] theorem AccOrd.ofCode_order_scope (t : AccOrd) : AccOrd.ofCode t.order t.scope = some t := by
  cases t with
  | plain => rfl
  | marked o s => cases o <;> cases s <;> rfl
@[simp] theorem Hint.ofCode_code (t : Hint) : Hint.ofCode t.code = t := by cases t <;> rfl
@[simp] theorem gOf_code (g : Option (BitVec 4)) : gOf (gvCode g) (gslCode g) = g := by cases g <;> rfl
@[simp] theorem joinOf_code (j : Option (BitVec 16)) : joinOf (bit j.isSome) (moffCode j) = j := by cases j <;> rfl
@[simp] theorem SReg.ofCode_code (r : SReg) : SReg.ofCode r.code = some r := by
  cases r with
  | amx n | wpa n | wpc n | acfg n | acnt n => revert n; decide
  | accown n => revert n; decide
  | _ => rfl

/-! ### What a listed code gives -/

@[simp] theorem orMod_some {α : Type} (x : α) : orMod (some x) = pure x := rfl
@[simp] theorem orSreg_some (x : SReg) : orSreg (some x) = pure x := rfl

/-! ### Operands -/

@[simp] theorem Special.ofCode_code (x : Special) : Special.ofCode x.code = some x := by cases x <;> rfl

theorem Special.code_of_ofCode {c : BitVec 10} {x : Special} (h : Special.ofCode c = some x) : x.code = c := by
  unfold Special.ofCode at h
  split at h
  case h_12 => cases h
  all_goals (cases h; exact BitVec.eq_of_toNat_eq (Eq.symm ‹_›))

@[simp] theorem Perm.ofCode_code (p : Perm) : Perm.ofCode p.code = some p := by
  cases p with
  | none => rfl
  | bc k | rot k | bfly k =>
    simp [-Nat.reduceAdd, -BitVec.extractLsb'_toNat, Perm.ofCode, Perm.code, BitVec.extractLsb'_append_eq_left,
      BitVec.extractLsb'_append_eq_right]
  | mir k => revert k; decide
  | qb k => revert k; decide

theorem Perm.code_of_ofCode {c : BitVec 8} {p : Perm} (h : Perm.ofCode c = some p) : p.code = c := by
  revert c p
  decide

@[simp] theorem Sel.ofCode_code (x : Sel) : Sel.ofCode x.code = some x := by
  cases x with
  | v n =>
    simp [-Nat.reduceAdd, -BitVec.getLsbD_eq_getElem, Sel.ofCode, Sel.code, BitVec.getLsbD_append,
      BitVec.extractLsb'_append_eq_left, BitVec.extractLsb'_append_eq_right]
  | s n => revert n; decide
  | latch n => revert n; decide
  | zero => rfl
  | spec x => cases x <;> rfl
  | imm i =>
    simp [-Nat.reduceAdd, -BitVec.getLsbD_eq_getElem, Sel.ofCode, Sel.code, BitVec.getLsbD_append,
      BitVec.extractLsb'_append_eq_right]

theorem Sel.code_of_ofCode {c : BitVec 10} {x : Sel} (h : Sel.ofCode c = some x) : x.code = c := by
  unfold Sel.ofCode at h
  split at h
  next h9 =>
    cases h
    exact append_extractLsb'_of_high (m := 1) (n := 9) (by rw [← bit_getLsbD, h9]; rfl)
  split at h
  next hv => cases h; exact append_extractLsb'_of_high (m := 2) (n := 8) hv
  split at h
  next hs => cases h; exact append_extractLsb'_of_high (m := 4) (n := 6) hs
  split at h
  next hl => cases h; exact append_extractLsb'_of_high (m := 8) (n := 2) hl
  split at h
  next hz => cases h; exact hz.symm
  obtain ⟨y, hy, rfl⟩ := Option.map_eq_some_iff.mp h
  exact Special.code_of_ofCode hy

@[simp] theorem Src.ofCode_code (a : Src) : Src.ofCode a.code a.last = .ok a := by
  unfold Src.ofCode Src.code
  rw [BitVec.extractLsb'_append_eq_left, BitVec.extractLsb'_append_eq_right, Sel.ofCode_code, Perm.ofCode_code]
  cases a <;> rfl

theorem of_unmarked {α : Type} {last : Bool} {x y : α}
    (h : (if last then Except.error DecodeError.reserved else .ok x) = .ok y) : x = y ∧ last = false := by
  split at h
  · cases h
  next hl => cases h; exact ⟨rfl, Bool.eq_false_of_not_eq_true hl⟩

theorem Src.code_eq {c : BitVec 18} {a : Src} (hs : Sel.ofCode (c.extractLsb' 8 10) = some a.sel)
    (hp : Perm.ofCode (c.extractLsb' 0 8) = some a.perm) : a.code = c := by
  unfold Src.code
  rw [Sel.code_of_ofCode hs, Perm.code_of_ofCode hp]
  exact BitVec.extractLsb'_append_extractLsb' (w := 10) (len := 8)

theorem Src.eq_of_ofCode {c : BitVec 18} {last : Bool} {a : Src} (h : Src.ofCode c last = .ok a) :
    a.code = c ∧ a.last = last := by
  unfold Src.ofCode at h
  split at h
  case h_1 => cases h
  case h_2 => cases h
  case h_3 hx hp => cases h; exact ⟨Src.code_eq hx hp, rfl⟩
  case h_4 hx hp => obtain ⟨rfl, rfl⟩ := of_unmarked h; exact ⟨Src.code_eq hx hp, rfl⟩
  case h_5 hv hl hx hp =>
    split at h
    · cases h
    next hn =>
    obtain rfl := not_not.mp hn
    split at h
    case h_1 => cases h; exact ⟨Src.code_eq hx hp, rfl⟩
    case h_5 => exact (hv _ rfl).elim
    case h_6 => exact (hl _ rfl).elim
    all_goals
      obtain ⟨rfl, rfl⟩ := of_unmarked h
      exact ⟨Src.code_eq hx hp, rfl⟩

@[simp] theorem Base.ofCode_code (b : Base) : Base.ofCode b.code b.last = .ok b := by
  cases b <;> simp [Base.ofCode, Base.code, Base.last]

theorem Base.eq_of_ofCode {c : BitVec 10} {last : Bool} {b : Base} (h : Base.ofCode c last = .ok b) :
    b.code = c ∧ b.last = last := by
  unfold Base.ofCode at h
  split at h
  case h_1 hx => cases h; exact ⟨Sel.code_of_ofCode hx, rfl⟩
  case h_2 hx => cases h; exact ⟨Sel.code_of_ofCode hx, rfl⟩
  case h_3 hx => obtain ⟨rfl, rfl⟩ := of_unmarked h; exact ⟨Sel.code_of_ofCode hx, rfl⟩
  case h_4 => cases h

@[simp] theorem Data.ofCode_code (x : Data) : Data.ofCode x.code x.last = .ok x := by
  cases x <;> simp [Data.ofCode, Data.code, Data.last]

theorem Data.eq_of_ofCode {c : BitVec 10} {last : Bool} {x : Data} (h : Data.ofCode c last = .ok x) :
    x.code = c ∧ x.last = last := by
  unfold Data.ofCode at h
  split at h
  case h_1 => cases h
  case h_2 hx => cases h; exact ⟨Sel.code_of_ofCode hx, rfl⟩
  case h_3 hx => cases h; exact ⟨Sel.code_of_ofCode hx, rfl⟩
  all_goals
    rename_i hx
    obtain ⟨rfl, rfl⟩ := of_unmarked h
    exact ⟨Sel.code_of_ofCode hx, rfl⟩

@[simp] theorem Dst.ofCode_code (d : Dst) : Dst.ofCode d.code d.wbs = .ok d := by
  cases d <;> simp [Dst.ofCode, Dst.code, Dst.wbs]

theorem Dst.eq_of_ofCode {c : BitVec 10} {wbs : Bool} {d : Dst} (h : Dst.ofCode c wbs = .ok d) :
    d.code = c ∧ d.wbs = wbs := by
  unfold Dst.ofCode at h
  split at h
  case h_1 hx => obtain ⟨rfl, rfl⟩ := of_unmarked h; exact ⟨Sel.code_of_ofCode hx, rfl⟩
  case h_2 hx => obtain ⟨rfl, rfl⟩ := of_unmarked h; exact ⟨Sel.code_of_ofCode hx, rfl⟩
  case h_3 hx => cases wbs <;> (cases h; exact ⟨Sel.code_of_ofCode hx, rfl⟩)
  case h_4 => cases wbs <;> cases h

@[simp] theorem Guard.ofCode_code (g : Guard) : Guard.ofCode g.code = some g := by
  cases g with
  | always => rfl
  | p neg d => revert neg d; decide

theorem Guard.code_of_ofCode {c : BitVec 4} {g : Guard} (h : Guard.ofCode c = some g) : g.code = c := by
  revert c g
  decide

/-! ### Words -/

theorem LiveMask.ofBits_toBits (m : LiveMask) : LiveMask.ofBits m.toBits = some m := by
  unfold LiveMask.ofBits LiveMask.toBits
  simp [-Nat.reduceAdd, -BitVec.getLsbD_eq_getElem, BitVec.getLsbD_append, BitVec.extractLsb'_append_eq_left,
    BitVec.extractLsb'_append_eq_of_add_le]

theorem LiveMask.toBits_of_ofBits {w : BitVec 96} {m : LiveMask} (h : LiveMask.ofBits w = some m) : m.toBits = w := by
  unfold LiveMask.ofBits at h
  split at h
  next hw =>
    cases h
    simp (disch := rfl) only [LiveMask.toBits, bit_getLsbD, ← hw.1, ← hw.2,
      BitVec.extractLsb'_append_extractLsb'_eq_extractLsb']
    exact BitVec.extractLsb'_eq_self
  next => cases h

theorem Raw.ofBits_toBits (x : Raw) : Raw.ofBits x.toBits = x := by
  unfold Raw.ofBits Raw.toBits
  simp [-Nat.reduceAdd, BitVec.extractLsb'_append_eq_left, BitVec.extractLsb'_append_eq_of_add_le]

theorem Raw.toBits_ofBits (w : BitVec 96) : (Raw.ofBits w).toBits = w := by
  simp (disch := rfl) only [Raw.ofBits, Raw.toBits, BitVec.extractLsb'_append_extractLsb'_eq_extractLsb']
  exact BitVec.extractLsb'_eq_self

theorem spOf_toBits (m : Option LiveMask) {w : BitVec 96} (hw : ∀ k, m = some k → w = k.toBits) :
    spOf (bit m.isSome) w = .ok m := by
  cases m with
  | none => rfl
  | some k => rw [hw k rfl]; simp [spOf, LiveMask.ofBits_toBits, bit]

@[simp] theorem noMark_bit_false : noMark (bit false) = .ok () := rfl

@[simp] theorem ok_bind {α β : Type} (x : α) (f : α → Except DecodeError β) : (Except.ok x >>= f) = f x := rfl
@[simp] theorem ok_map {α β : Type} (x : α) (f : α → β) : (f <$> (Except.ok x : Except DecodeError α)) = .ok (f x) := rfl

/-- The format that a word's operands are of (R305); `formatOf_form` ties it to the opcode tables. -/
def Form.format : Form → Format
  | .fr .. => .r | .fi .. => .i | .fm .. => .m | .fb .. => .b | .fe .. => .e | .fs .. => .s

theorem formOf_rawOf (h : Head) (f : Form) : formOf (rawOf h f) (Form.format f) = .ok f := by
  cases f
  all_goals dsimp only [Form.format]
  all_goals simp [-Nat.reduceAdd, formOf, rawOf, Form.body, Form.dst, Form.op, Form.lra, Form.lrb, Form.lrc,
    BitVec.extractLsb'_append_eq_left, BitVec.extractLsb'_append_eq_of_add_le, bit_eq_one]

/-! ### Bytes -/

theorem natOf_bytesOf (n x : Nat) : natOf (bytesOf n x) = x % 256 ^ n := by
  induction n generalizing x with
  | zero => simp [bytesOf, natOf, Nat.mod_one]
  | succ k ih => rw [bytesOf, natOf, ih, pow_succ', Nat.mod_mul, BitVec.toNat_ofNat]

theorem natOf_lt (bs : List Byte) : natOf bs < 256 ^ bs.length := by
  induction bs with
  | nil => simp [natOf]
  | cons b r ih =>
    have hb : b.toNat < 256 := b.isLt
    rw [natOf, List.length_cons, pow_succ']
    omega

theorem bytesOf_natOf (bs : List Byte) : bytesOf bs.length (natOf bs) = bs := by
  induction bs with
  | nil => rfl
  | cons b r ih =>
    have hb : b.toNat < 256 := b.isLt
    rw [List.length_cons, bytesOf, natOf, Nat.add_mul_div_left _ _ (by decide), Nat.div_eq_of_lt hb, Nat.zero_add, ih]
    congr 1
    apply BitVec.eq_of_toNat_eq
    rw [BitVec.toNat_ofNat]
    omega

theorem takeWord_bytesOf (w : BitVec 96) (r : List Byte) : takeWord (bytesOf 12 w.toNat ++ r) = some (w, r) := by
  have hl : (bytesOf 12 w.toNat).length = 12 := length_bytesOf 12 _
  unfold takeWord
  rw [if_neg (by simp [hl]), List.take_left' hl, List.drop_left' hl, natOf_bytesOf]
  congr 2
  apply BitVec.eq_of_toNat_eq
  rw [BitVec.toNat_ofNat]
  have := w.isLt
  omega

theorem bytesOf_of_takeWord {bs r : List Byte} {w : BitVec 96} (h : takeWord bs = some (w, r)) :
    bytesOf 12 w.toNat ++ r = bs := by
  unfold takeWord at h
  split at h
  · cases h
  next hl =>
    cases h
    have ht : (bs.take 12).length = 12 := by rw [List.length_take]; omega
    have hw : (BitVec.ofNat 96 (natOf (bs.take 12))).toNat = natOf (bs.take 12) := by
      have hlt := natOf_lt (bs.take 12)
      rw [ht] at hlt
      exact Nat.mod_eq_of_lt hlt
    rw [hw]
    conv => lhs; arg 1; arg 1; rw [← ht]
    rw [bytesOf_natOf, List.take_append_drop]

theorem formatOf_form {i : Instr} {h : Head} {f : Form} (hf : i.form = some (h, f)) :
    formatOf f.op = some (Form.format f) := by
  cases i
  case pmov op => cases op <;> (cases hf; rfl)
  all_goals (cases hf <;> rfl)

theorem wordHasMask_eq (w : BitVec 96) : wordHasMask w = decide ((Raw.ofBits w).sp = 1#1) := by
  change _ = decide (w.extractLsb' 80 1 = 1#1)
  rw [← bit_getLsbD]
  simp [wordHasMask]

end Sys2Proof.Laws
end

section
/-! SUPPORT. The operands of an instruction's form give it back, and so does its word (O55). -/

namespace Sys2Proof.Laws
open Sys2Proof.Machine Sys2Proof.Claims

section
variable {i : Instr} {h : Head} {a : Src}

/-- MTSR of RACECHK has its own instruction, RACECHK.CLR: the operand check refuses the other reading. -/
theorem mtsr_register {r : SReg} (hw : (Instr.mtsr h a r).wf = true) : r ≠ .racechk := by
  rintro rfl
  cases hw

/-- The instructions in groups by what their arm of the decoder reads: operands alone, bits and fields of the modifier
beside, one modifier code, two, three, a system register. The `change` picks the arm by the opcode. -/
theorem instrOfForm_form {f : Form} (hw : i.wf = true) (hf : i.form = some (h, f)) : instrOfForm h f = .ok i := by
  cases i
  case pmov op => cases op <;> (cases hf; rfl)
  case wany | tffr | trdy | rsv | rls | rrec | nwait | ncanc | exit | barn | hudl | hudlHome | yieldRun | sleep | nop |
      trapSelf | trapOne | trapWgrp | trapTgrp | svc | svcq | sigret | lwait | gctr | cncl | rgl | bkpt | snap | trmk |
      eret | rply | rplyDet | rplySig | park | kill | tlbiCtx | tlbiRng | tlbiAll | poolrdMap | poolrdDat | poolwrMap |
      poolwrDat | svresp | erst | erstMtx | erstNet | erstFail | erstFailMtx | erstFailNet | keyld | keyldClr | hmchk |
      cctlCln | cctlInv | cctlPin | cctlUnpin | scnt | wtag | tclr | gresCmt | gresDsc | mdrn | cpyp | npost | lnch | call |
      callx | ret | meet =>
    cases hf
    rfl
  case fmin | fmax | fcmp | fex2 | flg2 | fsin | fcos | ftanh | fsig | dcmp | dmin | dmax | psh | aclr | acmt | adsc | bar |
      tbar | fminI | fmaxI | fcmpI | rge | cpy | cpys | cpyx | strm | mma | mmas | ald | ast | bra | brx =>
    cases hf
    change pure _ = pure _
    simp [-Nat.reduceAdd, -BitVec.getLsbD_eq_getElem, BitVec.extractLsb'_append_eq_of_add_le, BitVec.getLsbD_append]
  case iadd | isub | imul | imulh | imad | imin | imax | iabs | ineg | isad | and | or | xor | not | andn | shl | shr |
      sar | rotl | bfx | bfi | brev | popc | clz | ctz | lea | mov | fadd | fsub | fmul | ffma | fclass | frnd | frcp |
      frsq | fsqrt | hmax2 | hmin2 | dadd | dmul | dfma | bscl | amax | cbrg | vote | ballot | matchLanes | pdrop | pdup |
      plog | pswp | iaddI | isubI | imulI | iminI | imaxI | andI | orI | xorI | andnI | shlI | shrI | sarI | rotlI | leaI |
      movi | faddI | fsubI | fmulI | pref | ipref =>
    cases hf
    change (orMod _ >>= fun _ => pure _) = pure _
    simp [-Nat.reduceAdd, -BitVec.getLsbD_eq_getElem, BitVec.extractLsb'_append_eq_left,
      BitVec.extractLsb'_append_eq_of_add_le, BitVec.getLsbD_append]
  case sel | icmp | hadd2 | hmul2 | hfma2 | cvtf | cvti | cvtn | qpk | qupk | shfl | redx | scan | icmpI | ld | st | lds |
      sts | fence | cmpst =>
    cases hf
    change (orMod _ >>= fun _ => orMod _ >>= fun _ => pure _) = pure _
    simp [-Nat.reduceAdd, -BitVec.getLsbD_eq_getElem, BitVec.extractLsb'_append_eq_left,
      BitVec.extractLsb'_append_eq_of_add_le, BitVec.getLsbD_append]
  case atomAdd | atomMin | atomMax | atomAnd | atomOr | atomXor | atomExch | atomCas | atomAddcl | atomSubcl | atomFadd |
      atomFmin | atomFmax | atomMinU | atomMaxU | atomsAdd | atomsMin | atomsMax | atomsAnd | atomsOr | atomsXor |
      atomsExch | atomsCas | atomsAddcl | atomsSubcl | atomsFadd | atomsFmin | atomsFmax | atomsMinU | atomsMaxU | redAdd |
      redMin | redMax | redAnd | redOr | redXor | redAddcl | redSubcl | redFadd | redFmin | redFmax | redMinU | redMaxU =>
    cases hf
    change (orMod _ >>= fun _ => orMod _ >>= fun _ => orMod _ >>= fun _ => pure _) = pure _
    simp
  case imadw signed sat =>
    cases hf
    change (orMod _ >>= fun _ => pure _) = pure _
    cases signed <;> cases sat <;> rfl
  case elect cand hi =>
    cases hf
    change (orMod _ >>= fun _ => pure _) = pure _
    cases cand <;>
      simp [-Nat.reduceAdd, -BitVec.getLsbD_eq_getElem, BitVec.extractLsb'_append_eq_of_add_le, BitVec.getLsbD_append]
  case mfsr | racechkClr =>
    cases hf
    change (orSreg _ >>= fun _ => pure _) = pure _
    simp
  case mtsr r =>
    cases hf
    have hr : r ≠ .racechk := mtsr_register hw
    change (orSreg _ >>= fun _ => pure _) = pure _
    simp [hr]
  all_goals cases hf

theorem decodeForm_form {f : Form} (hw : i.wf = true) (hf : i.form = some (h, f)) : decodeForm h f = .ok i := by
  have hc : i.check = none := Option.isNone_iff_eq_none.mp hw
  simp [decodeForm, instrOfForm_form hw hf, hf, hc]

theorem op_ne_mask {f : Form} (hf : i.form = some (h, f)) : (rawOf h f).toBits.extractLsb' 86 10 ≠ 0x3FF := by
  change (Raw.ofBits (rawOf h f).toBits).op ≠ 0x3FF
  rw [Raw.ofBits_toBits]
  intro h0
  have hk := formatOf_form hf
  change f.op = _ at h0
  rw [h0] at hk
  cases hk

theorem decodeWords_rawOf {f : Form} {w : BitVec 96} (hw : i.wf = true) (hf : i.form = some (h, f))
    (hm : ∀ k, h.sp = some k → w = k.toBits) : decodeWords (rawOf h f).toBits w = .ok i := by
  have hk : formatOf (rawOf h f).op = some (Form.format f) := formatOf_form hf
  have hop := op_ne_mask hf
  change (Raw.ofBits _).op ≠ _ at hop
  rw [Raw.ofBits_toBits] at hop
  unfold decodeWords
  simp only [Raw.ofBits_toBits, hop, if_false, hk, formOf_rawOf h f]
  simp [rawOf, spOf_toBits h.sp hm, decodeForm_form hw hf]

theorem encode_append {f : Form} (hf : i.form = some (h, f)) (r : List Byte) :
    encode i ++ r = bytesOf 12 (rawOf h f).toBits.toNat ++
      ((h.sp.elim [] fun m => bytesOf 12 m.toBits.toNat) ++ r) := by
  unfold encode Instr.words
  rw [hf]
  cases hsp : h.sp <;> simp [hsp]

theorem wordHasMask_rawOf (h : Head) (f : Form) : wordHasMask (rawOf h f).toBits = h.sp.isSome := by
  rw [wordHasMask_eq, Raw.ofBits_toBits]
  simp [rawOf]

end

/-- Settles O55: each field of the word is read back as it was written, and each code gives its modifier. -/
theorem decodeUndoesEncode : Obligations.DecodeUndoesEncode := by
  unfold Obligations.DecodeUndoesEncode
  intro i r hw hs
  obtain ⟨⟨h, f⟩, hf⟩ := Option.isSome_iff_exists.mp hs
  have hd {w} := decodeWords_rawOf (w := w) hw hf
  rw [encode_append hf, decode, takeWord_bytesOf]
  dsimp only
  rw [if_neg (op_ne_mask hf), wordHasMask_rawOf]
  cases hsp : h.sp with
  | none =>
    rw [hd (by simp [hsp])]
    rfl
  | some m =>
    simp only [Option.isSome_some, if_true, Option.elim_some, takeWord_bytesOf]
    rw [hd (by simp [hsp])]

end Sys2Proof.Laws
end

section
/-! SUPPORT. What a word decodes to has the head and the operands that were read, so that its encoding is the word (O56). -/

namespace Sys2Proof.Laws
open Sys2Proof.Machine Sys2Proof.Claims

/-- What a decoding answers, where it answers, has the head that it was given. -/
def HeadIs (h : Head) (x : Except DecodeError Instr) : Prop := ∀ i, x = .ok i → i.form.map Prod.fst = some h

section
variable {h : Head} {i : Instr} {e : DecodeError} {α : Type}

@[simp] theorem headIs_pure : HeadIs h (pure i) ↔ i.form.map Prod.fst = some h :=
  ⟨fun hi => hi i rfl, fun hi j hj => by cases hj; exact hi⟩

@[simp] theorem headIs_throw : HeadIs h (throw e) := fun _ hi => by cases hi

@[simp] theorem headIs_orMod_bind {x : Option α} {f : α → Except DecodeError Instr} :
    HeadIs h (orMod x >>= f) ↔ ∀ y, x = some y → HeadIs h (f y) := by
  cases x with
  | none => exact ⟨fun _ _ hy => (nomatch hy), fun _ _ hi => (nomatch hi)⟩
  | some y => exact ⟨fun hi z hz => by cases hz; exact hi, fun hi => hi y rfl⟩

@[simp] theorem headIs_orSreg_bind {x : Option SReg} {f : SReg → Except DecodeError Instr} :
    HeadIs h (orSreg x >>= f) ↔ ∀ y, x = some y → HeadIs h (f y) := by
  cases x with
  | none => exact ⟨fun _ _ hy => (nomatch hy), fun _ _ hi => (nomatch hi)⟩
  | some y => exact ⟨fun hi z hz => by cases hz; exact hi, fun hi => hi y rfl⟩

end

theorem headIs_instrOfR (h : Head) (op : Nat) (d : Dst) (a b c : Src) (m : BitVec 7) :
    HeadIs h (instrOfR h op d a b c m) := by
  unfold instrOfR
  dsimp only
  repeat' split
  all_goals simp only [headIs_pure, headIs_throw, headIs_orMod_bind]
  all_goals (intros; rfl)

theorem headIs_instrOfI (h : Head) (op : Nat) (d : Dst) (a : Src) (im : BitVec 11) (imm : Word) :
    HeadIs h (instrOfI h op d a im imm) := by
  unfold instrOfI
  dsimp only
  repeat' split
  all_goals simp only [headIs_pure, headIs_throw, headIs_orMod_bind]
  all_goals (intros; rfl)

theorem headIs_instrOfM (h : Head) (op : Nat) (d : Dst) (b : Base) (x : Data) (w o s : BitVec 3) (hint : BitVec 2)
    (off : BitVec 30) : HeadIs h (instrOfM h op d b x w o s hint off) := by
  unfold instrOfM
  repeat' split
  all_goals simp only [headIs_pure, headIs_throw, headIs_orMod_bind]
  all_goals (intros; rfl)

theorem headIs_instrOfB (h : Head) (op : Nat) (a : Src) (mf : Bit) (moff : BitVec 16) (off : BitVec 24) :
    HeadIs h (instrOfB h op a mf moff off) := by
  unfold instrOfB
  repeat' split
  all_goals simp only [headIs_pure, headIs_throw]
  all_goals rfl

theorem headIs_instrOfE (h : Head) (op : Nat) (d : Dst) (a : Src) (tag : BitVec 6) (gv : Bit) (gsl : BitVec 4) (efl : BitVec 8)
    (eoff : BitVec 24) : HeadIs h (instrOfE h op d a tag gv gsl efl eoff) := by
  unfold instrOfE
  repeat' split
  all_goals simp only [headIs_pure, headIs_throw]
  all_goals rfl

theorem headIs_instrOfS (h : Head) (op : Nat) (d : Dst) (a : Src) (sreg : BitVec 12) :
    HeadIs h (instrOfS h op d a sreg) := by
  unfold instrOfS
  split
  · simp only [headIs_orSreg_bind, headIs_pure]
    exact fun r _ => rfl
  · simp only [headIs_orSreg_bind, headIs_pure]
    intro r _
    split <;> rfl
  · exact headIs_throw

theorem bind_eq_ok {α β : Type} {x : Except DecodeError α} {f : α → Except DecodeError β} {r : β}
    (h : x >>= f = .ok r) : ∃ y, x = .ok y ∧ f y = .ok r := by
  cases x with
  | error e => cases h
  | ok y => exact ⟨y, rfl, h⟩

theorem noMark_eq_ok {x : Bit} {u : Unit} (h : noMark x = .ok u) : x = 0#1 := by
  unfold noMark at h
  split at h
  · cases h
  next hx => revert hx; revert x; decide

/-- The operands that a format reads write the fields back that they were read from. -/
theorem rawOf_formOf {x : Raw} {k : Format} {f : Form} {h : Head} (hf : formOf x k = .ok f)
    (hg : h.guard.code = x.guard) (he : bit h.eor = x.eor) (hp : bit h.sp.isSome = x.sp)
    (hs : h.stall = x.stall) (hy : bit h.yld = x.yld) : rawOf h f = x := by
  have hext : f.op = x.op → f.dst.code = x.dst → bit f.dst.wbs = x.wbs → bit f.lra = x.lra → bit f.lrb = x.lrb →
      bit f.lrc = x.lrc → f.body = x.body → rawOf h f = x := by
    intro h1 h2 h3 h4 h5 h6 h7
    unfold rawOf
    rw [hg, he, hp, hs, hy, h1, h2, h3, h4, h5, h6, h7]
  cases k with
  | r =>
    obtain ⟨d, hd, h1⟩ := bind_eq_ok hf
    obtain ⟨a, ha, h2⟩ := bind_eq_ok h1
    obtain ⟨b, hb, h3⟩ := bind_eq_ok h2
    obtain ⟨c, hc, h4⟩ := bind_eq_ok h3
    cases h4
    obtain ⟨hdc, hdw⟩ := Dst.eq_of_ofCode hd
    obtain ⟨hac, hal⟩ := Src.eq_of_ofCode ha
    obtain ⟨hbc, hbl⟩ := Src.eq_of_ofCode hb
    obtain ⟨hcc, hcl⟩ := Src.eq_of_ofCode hc
    apply hext
    all_goals
      simp (disch := rfl) only [Form.op, Form.dst, Form.lra, Form.lrb, Form.lrc, Form.body, hdc, hdw, hac, hal, hbc,
        hbl, hcc, hcl, bit_decide_eq_one, BitVec.extractLsb'_append_extractLsb'_eq_extractLsb']
    exact BitVec.extractLsb'_eq_self
  | m =>
    obtain ⟨d, hd, h1⟩ := bind_eq_ok hf
    obtain ⟨a, ha, h2⟩ := bind_eq_ok h1
    obtain ⟨b, hb, h3⟩ := bind_eq_ok h2
    obtain ⟨_, hc, h4⟩ := bind_eq_ok h3
    cases h4
    obtain ⟨hdc, hdw⟩ := Dst.eq_of_ofCode hd
    obtain ⟨hac, hal⟩ := Base.eq_of_ofCode ha
    obtain ⟨hbc, hbl⟩ := Data.eq_of_ofCode hb
    have hcl := noMark_eq_ok hc
    apply hext
    all_goals
      simp (disch := rfl) only [Form.op, Form.dst, Form.lra, Form.lrb, Form.lrc, Form.body, hdc, hdw, hac, hal, hbc,
        hbl, hcl, bit_decide_eq_one, BitVec.extractLsb'_append_extractLsb'_eq_extractLsb']
    · rfl
    · exact BitVec.extractLsb'_eq_self
  | i | b | e | s =>
    obtain ⟨d, hd, h1⟩ := bind_eq_ok hf
    obtain ⟨a, ha, h2⟩ := bind_eq_ok h1
    obtain ⟨_, hb, h3⟩ := bind_eq_ok h2
    obtain ⟨_, hc, h4⟩ := bind_eq_ok h3
    cases h4
    obtain ⟨hdc, hdw⟩ := Dst.eq_of_ofCode hd
    obtain ⟨hac, hal⟩ := Src.eq_of_ofCode ha
    have hbl := noMark_eq_ok hb
    have hcl := noMark_eq_ok hc
    apply hext
    all_goals
      simp (disch := rfl) only [Form.op, Form.dst, Form.lra, Form.lrb, Form.lrc, Form.body, hdc, hdw, hac, hal, hbl, hcl,
        bit_decide_eq_one, BitVec.extractLsb'_append_extractLsb'_eq_extractLsb']
    · rfl
    · rfl
    · exact BitVec.extractLsb'_eq_self

theorem instrOfForm_head {h : Head} {f : Form} {i : Instr} (hi : instrOfForm h f = .ok i) : i.form.map Prod.fst = some h := by
  cases f with
  | fr => exact headIs_instrOfR _ _ _ _ _ _ _ i hi
  | fi => exact headIs_instrOfI _ _ _ _ _ _ i hi
  | fm => exact headIs_instrOfM _ _ _ _ _ _ _ _ _ _ i hi
  | fb => exact headIs_instrOfB _ _ _ _ _ _ i hi
  | fe => exact headIs_instrOfE _ _ _ _ _ _ _ _ _ i hi
  | fs => exact headIs_instrOfS _ _ _ _ _ i hi

theorem form_of_decodeForm {h : Head} {f : Form} {i : Instr} (hi : decodeForm h f = .ok i) :
    i.form = some (h, f) ∧ i.wf = true := by
  unfold decodeForm at hi
  split at hi
  · cases hi
  next j hj =>
  have hh := instrOfForm_head hj
  split at hi
  · cases hi
  next h' f' hform =>
  split at hi
  case isFalse => cases hi
  case isTrue heq =>
  split at hi
  · cases hi
  next hc =>
  cases hi
  rw [hform] at hh
  cases hh
  exact ⟨by rw [hform, heq], by rw [Instr.wf, hc]; rfl⟩

theorem spOf_eq_ok {sp : Bit} {w : BitVec 96} {m : Option LiveMask} (h : spOf sp w = .ok m) :
    bit m.isSome = sp ∧ ∀ k, m = some k → k.toBits = w := by
  unfold spOf at h
  split at h
  next h1 =>
    split at h
    next k hk => cases h; exact ⟨h1.symm, fun _ he => Option.some.inj he ▸ LiveMask.toBits_of_ofBits hk⟩
    next => cases h
  next h0 =>
    cases h
    exact ⟨by revert h0; revert sp; decide, fun _ he => nomatch he⟩

/-- What a word that decodes is: its instruction is well formed, and the word and its mask word are that
instruction's. -/
theorem of_decodeWords {w mask : BitVec 96} {i : Instr} (hi : decodeWords w mask = .ok i) :
    ∃ h f, i.form = some (h, f) ∧ i.wf = true ∧ (rawOf h f).toBits = w ∧ ∀ k, h.sp = some k → k.toBits = mask := by
  unfold decodeWords at hi
  dsimp only at hi
  split at hi
  · cases hi
  split at hi
  · cases hi
  next k hk =>
  obtain ⟨g, hg, h1⟩ := bind_eq_ok hi
  obtain ⟨sp, hsp, h2⟩ := bind_eq_ok h1
  obtain ⟨f, hf, h3⟩ := bind_eq_ok h2
  obtain ⟨hform, hwf⟩ := form_of_decodeForm h3
  obtain ⟨hm, hmask⟩ := spOf_eq_ok hsp
  refine ⟨_, f, hform, hwf, ?_, hmask⟩
  rw [rawOf_formOf (x := Raw.ofBits w) (k := k), Raw.toBits_ofBits]
  · split at hf <;> cases hf
    assumption
  · split at hg <;> cases hg
    exact Guard.code_of_ofCode ‹_›
  · exact bit_decide_eq_one _
  · exact hm
  · rfl
  · exact bit_decide_eq_one _

/-- Settles O56: the decoder keeps only an instruction whose own operands are those that it read. -/
theorem decodeGivesWellFormed : Obligations.DecodeGivesWellFormed := by
  unfold Obligations.DecodeGivesWellFormed
  intro bs r i hd
  unfold decode at hd
  split at hd
  · cases hd
  next w r1 hw =>
  split at hd
  · cases hd
  split at hd
  next hm =>
    split at hd
    · cases hd
    next mw r2 hmw =>
    split at hd
    case h_2 => cases hd
    next j hj =>
    cases hd
    obtain ⟨h, f, hf, hwf, rfl, hmask⟩ := of_decodeWords hj
    rw [wordHasMask_rawOf] at hm
    obtain ⟨k, hk⟩ := Option.isSome_iff_exists.mp hm
    refine ⟨hwf, ?_⟩
    rw [encode_append hf, hk, Option.elim_some, hmask k hk, bytesOf_of_takeWord hmw, bytesOf_of_takeWord hw]
  next hm =>
    split at hd
    case h_2 => cases hd
    next j hj =>
    cases hd
    obtain ⟨h, f, hf, hwf, rfl, -⟩ := of_decodeWords hj
    rw [wordHasMask_rawOf, Option.not_isSome_iff_eq_none] at hm
    refine ⟨hwf, ?_⟩
    rw [encode_append hf, hm, Option.elim_none, List.nil_append, bytesOf_of_takeWord hw]

end Sys2Proof.Laws
end

section
/-! SUPPORT. Words written out and words without an assigned opcode (O54). -/

namespace Sys2Proof.Laws
open Sys2Proof.Machine Sys2Proof.Claims

theorem decodeWords_unassigned {op : BitVec 10} (hk : formatOf op = none) (hop : op ≠ 0x3FF) (r : BitVec 86)
    (mask : BitVec 96) : decodeWords (op ++ r) mask = .error .unassigned := by
  have hx : (Raw.ofBits (op ++ r)).op = op := BitVec.extractLsb'_append_eq_left
  simp only [decodeWords, hx, hop, hk, if_false]

/-- Settles O54: the written words by evaluation, the unassigned opcodes by the opcode field alone. -/
theorem writtenWordsDecode : Obligations.WrittenWordsDecode := by
  unfold Obligations.WrittenWordsDecode
  refine ⟨?_, ?_, ?_, ?_, ?_, ?_⟩
  · rfl
  · rfl
  · rfl
  · rfl
  · rfl
  · intro op hk hop r
    exact decodeWords_unassigned hk hop r 0

end Sys2Proof.Laws
end

section
/-! SUPPORT. The instructions that name a system register do in each lane what the table says (O8). -/

namespace Sys2Proof.Laws
open Sys2Proof.Machine Sys2Proof.Claims

theorem privReg_eq (r : SReg) : privReg r = umpireOnly r := by
  cases r with
  | amx n | wpa n | wpc n | acfg n | acnt n => revert n; decide
  | accown n => revert n; decide
  | _ => rfl

theorem regWords_eq (r : SReg) : regWords r = sregWords r := by cases r <;> rfl

theorem perLaneReg_eq (s : State) (r : SReg) :
    (threadReg r || (homeReg r && slotBound s s.iss.core s.iss.slot)) = perLaneReg s r := by
  cases r <;> rfl

/-- What holds of each lane's answer holds of every answer of the lanes in turn. -/
theorem forall_of_inTurn {β : Type} {P : β → Prop} {f : State → Nat → Option (State × β)}
    (hf : ∀ s l t x, f s l = some (t, x) → P x) {ls : List Nat} {s t : State} {outs : List (Nat × β)}
    (h : inTurn f s ls = some (t, outs)) : ∀ e ∈ outs, P e.2 := by
  induction ls generalizing s outs with
  | nil => cases h; exact fun e he => nomatch he
  | cons l r ih =>
    unfold inTurn at h
    split at h
    · cases h
    next u x hx =>
    obtain ⟨⟨v, rest⟩, hv, he⟩ := Option.map_eq_some_iff.mp h
    cases he
    exact List.forall_mem_cons.mpr ⟨hf _ _ _ _ hx, ih hv⟩

/-- An instruction whose lanes do what a rule says, each to go on at once, completes by the rule. -/
theorem performOn_turns {s t : State} {sh : Shape} {rs : List Rd} {turn : Nat → List Nat → State → Option (State × Out)}
    {f : Nat → List Nat → Act Out} {outs : List (Nat × Out)} (hr : Readable s sh rs)
    (ht : Acting.turns { sh := sh, rs := rs, turn := turn } s = some (t, outs)) (hf : ∀ l v u, answer (f l v) u = turn l v u)
    (hgo : ∀ l v u w x, turn l v u = some (w, x) → x.stay = none ∧ x.after = none) :
    performOn s sh rs f = completed s sh rs t outs := by
  refine performOn_completes s t sh rs f outs hr ?_ (forall_of_inTurn (fun u l => hgo l _ u) ht)
  rw [← ht]
  exact inTurn_congr _ _ _ _ fun u l _ => hf l _ u

theorem privileged_turns {s t : State} {sh : Shape} {rs : List Rd} {turn : Nat → List Nat → State → Option (State × Out)}
    {f : Nat → List Nat → Act Out} {outs : List (Nat × Out)} (priv : Bool) (hs : priv = true → s.iss.slot = 16)
    (hr : Readable s sh rs) (ht : Acting.turns { sh := sh, rs := rs, turn := turn } s = some (t, outs))
    (hf : ∀ l v u, answer (f l v) u = turn l v u)
    (hgo : ∀ l v u w x, turn l v u = some (w, x) → x.stay = none ∧ x.after = none) :
    (if priv then privileged s sh rs f else perform s sh rs f) = .next (completed s sh rs t outs) := by
  have hp : perform s sh rs f = .next (completed s sh rs t outs) := congrArg _ (performOn_turns hr ht hf hgo)
  cases priv with
  | false => exact hp
  | true => rw [if_pos rfl, privileged, if_pos (hs rfl), hp]

/-- Settles O8: MFSR answers with the register's value, MTSR writes it, and neither waits. -/
theorem systemRegisterInstructionsComplete : Obligations.SystemRegisterInstructionsComplete := by
  unfold Obligations.SystemRegisterInstructionsComplete
  intro s t i p outs hp hs hr ht
  cases i with
  | mfsr h d r =>
    cases hp
    change execMfsr h d r s = _
    unfold execMfsr
    rw [privReg_eq, regWords_eq, perLaneReg_eq]
    exact privileged_turns _ hs hr ht (fun _ _ _ => rfl) fun _ _ _ _ _ hx => by cases hx; exact ⟨rfl, rfl⟩
  | mtsr h a r =>
    cases hp
    change execMtsr h a r s = _
    unfold execMtsr
    rw [privReg_eq, regWords_eq]
    exact privileged_turns _ hs hr ht (fun _ _ _ => rfl) fun _ _ _ _ _ hx => by cases hx; exact ⟨rfl, rfl⟩
  | racechkClr h a =>
    cases hp
    exact privileged_turns true hs hr ht (fun _ _ _ => rfl) fun _ _ _ _ _ hx => by cases hx; exact ⟨rfl, rfl⟩
  | _ => cases hp

end Sys2Proof.Laws
end

section
/-! SUPPORT. A reply to a call whose mailbox the umpire watches, in a context whose descriptor the walk of the mailbox marks
(O9). -/

namespace Sys2Proof.Laws
open Sys2Proof.Machine Sys2Proof.Claims

/-- `watchedState` with a mailbox under key 5 whose leaf lets it be written, where no walk of it has been made for a
store: the leaf's A and D bits are bits of the descriptor's word 0. -/
def answeringState : State :=
  { watchedState with
    mem := [(0x1000000000100, 0x10), (0x1000000000101, 0x07)]
    keys := [(0, 5)], seals := [(0, .key 5)]
    walked := [{ who := .core 0 16, hm := 1, page := 0, kind := .read, out := (0x11, 0x01) }] }

/-- An answer at the mailbox of address 0. -/
def watchedAnswer : Instr := .svresp plainHead .zero .zero .zero

/-- What the answer is to do. -/
def answerRule : Ending := (umpireRule answeringState watchedAnswer).get rfl

theorem readable_answerRule : Readable answeringState answerRule.does.sh answerRule.does.rs := by
  unfold Readable
  decide

/-- The state of an answer that completes by the rule holds no entry of the outbound ring: the walk has marked the leaf, the
descriptor is malformed, and DBG counts as clear. -/
theorem readByte_answerRule : ∃ t outs, answerRule.does.turns answeringState = some (t, outs) ∧
    readByte (answerRule.after (completed answeringState answerRule.does.sh answerRule.does.rs t outs)).mem ringByte = 0 := by
  have h : (answerRule.does.turns answeringState).any (fun x =>
      readByte (answerRule.after (completed answeringState answerRule.does.sh answerRule.does.rs x.1 x.2)).mem ringByte == 0) =
      true := by
    decide +kernel
  obtain ⟨⟨t, outs⟩, ht, hb⟩ := (Option.any_eq_true _ _).mp h
  exact ⟨t, outs, ht, beq_iff_eq.mp hb⟩

/-- The answer meets the watchpoint by the descriptor as it stood before the walk: Ninal restarts, and the host is told. -/
theorem readByte_watchedAnswer {t : State} (h : exec watchedAnswer answeringState = .next t) : readByte t.mem ringByte = 5 := by
  have ht := Host.Outcome.next.inj h
  rw [← ht]
  decide +kernel

/-- Refutes O9: SVRESP may trap where its rule completes, since the A and D bits of the mailbox's leaf may lie in the
descriptor whose DBG the watchpoint asks for; the trap in the umpire's slot restarts Ninal, which then writes an entry of the
outbound ring (R231), and the rule's state has none. -/
theorem not_privilegedInstructionsComplete : ¬ Obligations.PrivilegedInstructionsComplete := by
  unfold Obligations.PrivilegedInstructionsComplete
  intro h
  obtain ⟨t, outs, hturns, hzero⟩ := readByte_answerRule
  have hfive := readByte_watchedAnswer
    (h answeringState t watchedAnswer answerRule outs (Option.some_get _).symm rfl readable_answerRule hturns)
  rw [hzero] at hfive
  exact absurd hfive (by decide)

end Sys2Proof.Laws
end

section
/-! SUPPORT. A trap of a whole path: its entry of the dugout and its parked threads outlive what the instruction does beside,
for nothing of that resumes a thread or writes the dugout (O17, O58). -/

namespace Sys2Proof.Laws
open Sys2Proof.Machine Sys2Proof.Claims

/-! ## What leaves the parks alone -/

/-- A thread that is parked stays so, at its PC. -/
def KeepsPark (t u : Thread) : Prop := ∀ e, t.st = .parked e → u.st = .parked e ∧ u.pc = t.pc

/-- A change that leaves each core's dugout, every thread in its place, and each parked thread parked. -/
structure ParksStay (s t : State) : Prop where
  dugout : ∀ c, (coreAt t c).dugout = (coreAt s c).dugout
  threads : ∀ c n l th, threadAt s c n l = some th → ∃ th', threadAt t c n l = some th' ∧ KeepsPark th th'

theorem KeepsPark.refl (t : Thread) : KeepsPark t t := fun _ h => ⟨h, rfl⟩

theorem KeepsPark.trans {t u v : Thread} (h : KeepsPark t u) (h' : KeepsPark u v) : KeepsPark t v := fun e he =>
  ⟨(h' e (h e he).1).1, (h' e (h e he).1).2.trans (h e he).2⟩

theorem keepsPark_arrive (t : Thread) : KeepsPark t (arrive t) := by
  intro e he
  rw [arrive, he]
  exact ⟨he, rfl⟩

theorem keepsPark_depart (w : Slot) (t : Thread) : KeepsPark t (depart w t) := by
  intro e he
  rw [depart, he]
  exact ⟨he, rfl⟩

theorem keepsPark_stopAt (s : State) (sp : Option LiveMask) (edge : Bool) (t : Thread) : KeepsPark t (stopAt s sp edge t) := by
  intro e he
  unfold stopAt
  repeat' split
  all_goals exact ⟨he, rfl⟩

namespace ParksStay
variable {α : Type} {s₀ s t : State}

theorem refl (s : State) : ParksStay s s := ⟨fun _ => rfl, fun _ _ _ th h => ⟨th, h, .refl th⟩⟩

theorem trans {u : State} (h : ParksStay s t) (h' : ParksStay t u) : ParksStay s u := by
  refine ⟨fun c => (h'.dugout c).trans (h.dugout c), fun c n l th ht => ?_⟩
  obtain ⟨th1, h1, hk1⟩ := h.threads c n l th ht
  obtain ⟨th2, h2, hk2⟩ := h'.threads c n l th1 h1
  exact ⟨th2, h2, hk1.trans hk2⟩

/-- A change outside the cores. -/
theorem other (h : ParksStay s₀ s) (hc : t.cores = s.cores := by rfl) : ParksStay s₀ t := by
  have hcore : ∀ c, coreAt t c = coreAt s c := fun c => by rw [coreAt, coreAt, hc]
  refine h.trans ⟨fun c => by rw [hcore], fun c n l th ht => ⟨th, ?_, .refl th⟩⟩
  rw [← ht, threadAt, threadAt, slotAt, slotAt, hcore]

theorem traffic (h : ParksStay s₀ s) (ht : Traffic s t) : ParksStay s₀ t := by
  obtain ⟨_, _, _, rfl⟩ := ht
  exact h.other

theorem modCore {c : Nat} {f : Core → Core} (h : ParksStay s₀ s) (hd : ∀ k, (f k).dugout = k.dugout := by exact fun _ => rfl)
    (hs : ∀ k, (f k).slots = k.slots := by exact fun _ => rfl) : ParksStay s₀ (modCore s c f) := by
  refine h.trans ⟨fun d => ?_, fun d n l th ht => ⟨th, ?_, .refl th⟩⟩
  · rw [coreAt_modCore]
    split_ifs with hc
    · rw [hd, hc]
    · rfl
  · rw [← ht, threadAt, threadAt, slotAt_modCore _ _ _ _ _ (hs _)]

theorem mapCores {f : Core → Core} (h : ParksStay s₀ s) (hr : f Core.reset = Core.reset := by rfl)
    (hd : ∀ k, (f k).dugout = k.dugout := by exact fun _ => rfl)
    (hs : ∀ k, (f k).slots = k.slots := by exact fun _ => rfl) : ParksStay s₀ (mapCores s f) := by
  have hcore : ∀ c, coreAt (Machine.mapCores s f) c = f (coreAt s c) := fun c => getD_map_values _ f c _ hr
  refine h.trans ⟨fun c => by rw [hcore, hd], fun c n l th ht => ⟨th, ?_, .refl th⟩⟩
  rw [← ht, threadAt, threadAt, slotAt, slotAt, hcore, hs]

theorem modSlot {c n : Nat} {f : Slot → Slot} (h : ParksStay s₀ s)
    (hf : ∀ w l th, Tab.get? w.threads l = some th → ∃ th', Tab.get? (f w).threads l = some th' ∧ KeepsPark th th') :
    ParksStay s₀ (modSlot s c n f) := by
  refine h.trans ⟨fun d => ?_, fun d m l th ht => ?_⟩
  · rw [Machine.modSlot, coreAt_modCore]
    split_ifs with hc
    · rw [hc]
    · rfl
  · by_cases hc : c = d
    · subst hc
      rw [threadAt, slotAt_modSlot]
      split_ifs with hn
      · exact hf _ l th ht
      · exact ⟨th, ht, .refl th⟩
    · refine ⟨th, ?_, .refl th⟩
      rw [← ht, threadAt, threadAt, slotAt, slotAt, Machine.modSlot, coreAt_modCore, if_neg hc]

theorem modThread {c n l : Nat} {f : Thread → Thread} (h : ParksStay s₀ s) (hf : ∀ th, KeepsPark th (f th)) :
    ParksStay s₀ (modThread s c n l f) := by
  refine h.modSlot fun w k th ht => ?_
  rw [get?_adjust, ht]
  split_ifs
  · exact ⟨_, rfl, hf th⟩
  · exact ⟨th, rfl, .refl th⟩

theorem mapThreads {c n : Nat} {f : Slot → Thread → Thread} (h : ParksStay s₀ s) (hf : ∀ w th, KeepsPark th (f w th)) :
    ParksStay s₀ (Machine.modSlot s c n fun w => mapThreads w (f w)) :=
  h.modSlot fun w l th ht => ⟨f w th, by rw [get?_mapThreads, ht]; rfl, hf w th⟩

theorem ite {p : Prop} {_ : Decidable p} (hs : ParksStay s₀ s) (ht : ParksStay s₀ t) : ParksStay s₀ (if p then s else t) := by
  split
  · exact hs
  · exact ht

theorem foldl {f : State → α → State} {l : List α} (h : ParksStay s₀ s)
    (hf : ∀ t x, ParksStay s₀ t → ParksStay s₀ (f t x)) : ParksStay s₀ (l.foldl f s) := by
  induction l generalizing s with
  | nil => exact h
  | cons x r ih => exact ih (hf s x h)

/-! ## Counters and the trace ring (R285 to R291) -/

section
variable {c q n l e k endc : Nat}

theorem modQuarter {f : Quarter → Quarter} (h : ParksStay s₀ s) : ParksStay s₀ (modQuarter s c q f) := h.modCore

theorem countBy (h : ParksStay s₀ s) : ParksStay s₀ (countBy s l e k) := by
  unfold Machine.countBy countAt creditEvent bumpEvent
  exact h.modCore.modCore

theorem ownTraffic {a : Nat} (h : ParksStay s₀ s) : ParksStay s₀ (ownTraffic s a n e) :=
  (h.foldl fun _ _ h1 => h1.traffic (.hostLink (.refl _))).ite (h.foldl fun _ _ h1 => h1.traffic (.countStack (.refl _)))

theorem dropICache {ln : Nat} (h : ParksStay s₀ s) : ParksStay s₀ (dropICache s ln) :=
  (h.mapCores (f := fun k => { k with icache := k.icache.filter (fun x => x.line != ln) })).other

theorem devSector {a : Nat} {bs : List Byte} (h : ParksStay s₀ s) : ParksStay s₀ (devSector s a bs) := by
  have h1 : ParksStay s₀ (writeInSector s none a bs) := h.ite h.other
  exact h1.other

theorem devWrite {a : Nat} {bs : List Byte} (h : ParksStay s₀ s) : ParksStay s₀ (devWrite s a bs) := by
  unfold Machine.devWrite
  split
  next b _ =>
    have h1 : ParksStay s₀ (Machine.ownTraffic (Machine.dropICache (writeOver s b bs.length) (b / 64)) b bs.length 1) :=
      (h.other : ParksStay s₀ (writeOver s b bs.length)).dropICache.ownTraffic
    exact (h1.foldl fun _ _ h2 => h2.devSector).ite h1.other
  next => exact h

theorem traceRecord {us : List (DWord × DWord)} (h : ParksStay s₀ s) : ParksStay s₀ (traceRecord s c us) := by
  unfold Machine.traceRecord
  exact (h.foldl fun _ _ h1 => h1.devWrite).modCore.ite h.modCore

/-! ## The end of a run (R218) -/

theorem runRecord {r : Run} (h : ParksStay s₀ s) : ParksStay s₀ (runRecord s c r endc) := by
  unfold Machine.runRecord
  refine ite (h.traceRecord.ite (h.traceRecord.modSlot fun w l th ht => ⟨th, ?_, .refl th⟩)) h
  split_ifs <;> exact ht

theorem digestRun {r : Run} (h : ParksStay s₀ s) : ParksStay s₀ (digestRun s c r) := by
  unfold Machine.digestRun
  split
  · exact h
  · exact ite h.other h

theorem closeRun (h : ParksStay s₀ s) : ParksStay s₀ (closeRun s c q) := by
  unfold Machine.closeRun
  split
  · exact h
  · exact h.modQuarter.modQuarter

theorem finishRun (h : ParksStay s₀ s) : ParksStay s₀ (finishRun s c q endc) := by
  unfold Machine.finishRun
  split
  · exact h
  next r _ => exact (h.other : ParksStay s₀ (clearWalked s (.core c r.slot))).runRecord.digestRun.closeRun

theorem meetings (h : ParksStay s₀ s) : ParksStay s₀ (meetings s c n) :=
  h.modSlot fun w l th ht => by
    rw [get?_mapThreads, get?_mapThreads, ht]
    exact ⟨_, rfl, (keepsPark_arrive th).trans (keepsPark_depart _ _)⟩

end

/-- Where a run goes after a trap: it ends (R218). -/
theorem afterInstr {sh : Shape} {stayed ended taken : Bool} (h : ParksStay s₀ s) :
    ParksStay s₀ (afterInstr s sh true stayed ended taken) := by
  unfold Machine.afterInstr
  extract_lets i waiting s1 joined s2
  have h1 : ParksStay s₀ s1 := meetings h.other
  have h2 : ParksStay s₀ s2 := h1.mapThreads fun _ th => by
    split
    · exact .refl th
    · exact keepsPark_stopAt _ _ _ th
  split
  · exact h2
  · rw [if_pos rfl]
    exact h2.modQuarter.finishRun

end ParksStay

/-! ## The entry that a trap takes (R222) -/

/-- A search that finds no free number has met each number in use. -/
theorem isSome_of_freeKey_eq_none {α : Type} {t : Tab α} {n k : Nat} (h : Tab.freeKey t n k = none) :
    ∀ j, k ≤ j → j < k + n → (Tab.get? t j).isSome := by
  induction n generalizing k with
  | zero => intro j hk hj; omega
  | succ n ih =>
    rw [Tab.freeKey] at h
    split_ifs at h with hk
    intro j hkj hj
    obtain rfl | hlt := Nat.eq_or_lt_of_le hkj
    · exact Option.isSome_iff_ne_none.mpr (by simpa using hk)
    · exact ih h j hlt (by omega)

/-- A table with fewer entries than numbers has a free number. -/
theorem exists_freeKey {α : Type} {t : Tab α} {n : Nat} (h : t.length < n) : ∃ e, Tab.freeKey t n 0 = some e := by
  by_contra hne
  have hused := isSome_of_freeKey_eq_none (Option.eq_none_iff_forall_ne_some.mpr fun e he => hne ⟨e, he⟩)
  have hsub : List.range n ⊆ t.map Prod.fst := fun j hj => by
    obtain ⟨x, hx⟩ := Option.isSome_iff_exists.mp (hused j (Nat.zero_le j) (by simpa using hj))
    exact List.mem_map.mpr ⟨(j, x), mem_of_get? hx, rfl⟩
  have hlen := (List.nodup_range.subperm hsub).length_le
  rw [List.length_range, List.length_map] at hlen
  omega

theorem slotHm_countBy (s : State) (l e k c n : Nat) : slotHm (countBy s l e k) c n = slotHm s c n := by
  have hs : slotAt (countBy s l e k) c n = slotAt s c n := by
    unfold countBy countAt creditEvent bumpEvent
    rw [slotAt_modCore, slotAt_modCore]
    all_goals rfl
  unfold slotHm
  rw [hs]
  rfl

theorem nodup_lanesOf (m : Word) : (lanesOf m).Nodup := List.nodup_range.filter _

/-- What parking leaves of a thread for the instruction's completion or replay. -/
def forReplay (nw : Word) (t : Thread) : Thread := { t with escOk := false, resume := nw, due := [] }

theorem parksStay_forReplay (v : State) (nw : Word) (c n : Nat) (ls : List Nat) :
    ParksStay v (ls.foldl (fun s l => modThread s c n l (forReplay nw)) v) :=
  (ParksStay.refl v).foldl fun _ _ h => h.modThread fun _ _ hst => ⟨hst, rfl⟩

/-- The one group of a trap of a whole path, of neither a watched store nor a lost latch, is counted, is recorded and parks. -/
theorem parkGroups_path {s : State} {sh : Shape} {t : TrapInfo} {ls : List Nat} (h42 : t.cause ≠ 0x42) (h03 : t.cause ≠ 0x03)
    (pc : Word) : ∃ addrs kept, parkGroups s s sh [] [(t, ls.map fun l => (l, t))] (fun _ => pc) =
      ls.foldl (fun s' l => modThread s' s.iss.core s.iss.slot l (forReplay (nextWord s sh.head)))
        (parkGroup (countBy s (ls.headD 0) 0x06 1) s.iss.core s.iss.slot ls t pc sh.op addrs kept) := by
  have hls : (ls.map fun l => (l, t)).map Prod.fst = ls := by rw [List.map_map]; exact List.map_id ls
  unfold parkGroups
  simp only [List.foldl_cons, List.foldl_nil, hls, h42, h03, false_and, if_false]
  exact ⟨_, _, rfl⟩

/-- A trap of the whole path that names no poison parks its lanes in an entry that was free. -/
theorem parkedAt_trapPath {s : State} {sh : Shape} {t : TrapInfo} (h : MayPark s) (h42 : t.cause ≠ 0x42) (h03 : t.cause ≠ 0x03)
    (hp : t.poison = none) : ParkedAt s (trapPath s sh t) (pathLanes s) t.cause t.detail := by
  obtain ⟨hslot, hroom⟩ := h
  obtain ⟨addrs, kept, hgroups⟩ := parkGroups_path (s := s) (sh := sh) (ls := pathLanes s) h42 h03 s.iss.pc
  have hpath : trapPath s sh t = afterInstr (parkGroups s s sh [] [(t, (pathLanes s).map fun l => (l, t))] fun _ => s.iss.pc)
      sh true false false false := by
    unfold trapPath
    rw [if_neg hslot, if_neg (Nat.not_le.mpr hroom)]
    unfold containFetch
    rw [hp]
  have hcount : ParksStay s (countBy s ((pathLanes s).headD 0) 0x06 1) := .countBy (.refl s)
  have hnodup : (pathLanes s).Nodup := nodup_lanesOf s.iss.lanes
  obtain ⟨e, he⟩ := exists_freeKey hroom
  have hfree : dugoutFree (coreAt (countBy s ((pathLanes s).headD 0) 0x06 1) s.iss.core) = some e := by
    rw [dugoutFree, hcount.dugout, he]
  have hend : ParksStay (parkGroup (countBy s ((pathLanes s).headD 0) 0x06 1) s.iss.core s.iss.slot (pathLanes s) t s.iss.pc
      sh.op addrs kept) (trapPath s sh t) := by
    rw [hpath, hgroups]
    exact (parksStay_forReplay _ _ _ _ _).afterInstr
  refine ⟨e, trapEntry (countBy s ((pathLanes s).headD 0) 0x06 1) s.iss.core s.iss.slot (pathLanes s) t s.iss.pc sh.op addrs,
    get?_of_freeKey he, ?_, rfl, rfl, rfl, rfl, rfl, slotHm_countBy .., fun l hl th hth => ?_⟩
  · rw [hend.dugout, get?_dugout_parkGroup hfree]
  · obtain ⟨th1, hth1, -⟩ := hcount.threads _ _ _ _ hth
    obtain ⟨th2, hth2, hkeep⟩ := hend.threads s.iss.core s.iss.slot l (parkIn e s.iss.pc (kept l) th1) (by
      rw [threadAt_parkGroup hfree _ _ _ _ _ _ hnodup, if_pos hl, hth1]
      rfl)
    exact ⟨th2, hth2, hkeep e rfl⟩

end Sys2Proof.Laws
end

section
/-! SUPPORT. The traps that come before an instruction's operands are read (O17, O58). -/

namespace Sys2Proof.Laws
open Sys2Proof.Machine Sys2Proof.Claims

/-- The outcome of a privileged instruction outside the umpire's slot (R311): the whole path has parked. -/
def PrivTraps (s : State) (x : Host.Outcome State Fault Refusal) : Prop :=
  ∃ t, x = .next t ∧ ParkedAt s t (pathLanes s) 0x02 0x00

theorem parkedAt_of_begun {s t : State} {ls : List Nat} {c d : Byte} (h : ParkedAt (begun s) t ls c d) : ParkedAt s t ls c d := h

/-- What leaves the parks alone leaves a trap as it was taken. -/
theorem parkedAt_of_parksStay {s t u : State} {ls : List Nat} {c d : Byte} (h : ParkedAt s t ls c d) (hk : ParksStay t u) :
    ParkedAt s u ls c d := by
  obtain ⟨e, r, hfree, hget, hc, hd, hpc, hl, hs, hhm, hth⟩ := h
  refine ⟨e, r, hfree, by rw [hk.dugout, hget], hc, hd, hpc, hl, hs, hhm, fun l hl th ht => ?_⟩
  obtain ⟨th1, ht1, hst, hpc1⟩ := hth l hl th ht
  obtain ⟨th2, ht2, hkeep⟩ := hk.threads _ _ _ _ ht1
  exact ⟨th2, ht2, (hkeep e hst).1, (hkeep e hst).2.trans hpc1⟩

theorem parkedAt_illegal {s : State} (h : MayPark s) (sh : Shape) :
    ParkedAt s (trapPath (begun s) sh { cause := 0x02, detail := 0 }) (pathLanes s) 0x02 0x00 :=
  parkedAt_of_begun (parkedAt_trapPath (s := begun s) (t := { cause := 0x02, detail := 0 }) h (by decide) (by decide) rfl)

theorem privileged_traps {s : State} (h : MayPark s) (sh : Shape) (rs : List Rd) (f : Nat → List Nat → Act Out) :
    PrivTraps s (privileged s sh rs f) :=
  ⟨_, if_neg h.1, parkedAt_illegal h sh⟩

theorem tlbiOnce_traps {s : State} (h : MayPark s) (hd : Head) (rs : List Rd) (f : State → List Nat → State) :
    PrivTraps s (tlbiOnce s hd rs f) := by
  obtain ⟨t, ht, hp⟩ := privileged_traps h (sysShape hd 0x3E6 .zero 0 false) rs fun l v => do
    let s ← get
    if (activeLanes s hd.guard).headD l = l then setState (f s v)
    pure {}
  refine ⟨finishRun t s.iss.core s.iss.quarter 2, ?_, parkedAt_of_parksStay hp (.finishRun (.refl t))⟩
  unfold tlbiOnce
  rw [ht]

theorem keyldOnce_traps {s : State} (h : MayPark s) (hd : Head) (rs : List Rd) (f : List Nat → Option (BitVec 128)) :
    PrivTraps s (keyldOnce s hd rs f) := by
  unfold keyldOnce
  dsimp only
  rw [if_neg fun hc => h.1 hc.1]
  exact privileged_traps h ..

theorem register_traps {s : State} (h : MayPark s) (r : SReg) (hr : umpireOnly r = true) (sh : Shape) (rs : List Rd)
    (f : Nat → List Nat → Act Out) : PrivTraps s (if privReg r then privileged s sh rs f else perform s sh rs f) := by
  rw [privReg_eq, if_pos hr]
  exact privileged_traps h sh rs f

/-- Settles O17: outside the umpire's slot the path traps before any lane is looked at, and the end of a TLBI's run leaves the
park. -/
theorem privilegedTrapsOutsideUmpire : Obligations.PrivilegedTrapsOutsideUmpire := by
  unfold Obligations.PrivilegedTrapsOutsideUmpire
  intro s i hi h
  cases i with
  | mfsr hd d r => exact register_traps h r hi ..
  | mtsr hd a r => exact register_traps h r hi ..
  | tlbiCtx hd a => exact tlbiOnce_traps h ..
  | tlbiRng hd a b c => exact tlbiOnce_traps h ..
  | tlbiAll hd => exact tlbiOnce_traps h ..
  | keyld hd a => exact keyldOnce_traps h ..
  | keyldClr hd => exact keyldOnce_traps h ..
  | eret | rply | rplySig | rplyDet | park | kill | poolrdMap | poolrdDat | poolwrMap | poolwrDat | cpyp | svresp | erst
  | erstMtx | erstNet | erstFail | erstFailMtx | erstFailNet | hmchk | racechkClr => exact privileged_traps h ..
  | _ => cases hi

/-- A path whose words have been fetched and do not decode traps with the failing check. -/
theorem issueOn_undecoded {ex : Instr → State → Host.Outcome State Fault Refusal} {s : State} {c q : Nat} {r : Run} {l : Nat}
    {ls : List Nat} {t : Thread} {e : DecodeError} :
    let s' := { s with iss := { core := c, quarter := q, slot := r.slot, lanes := maskOf (l :: ls), pc := t.pc } }
    let f := fetchInstr s' c (slotHm s' c r.slot) t.cbase t.pc
    f.2.trap = none → f.2.stall = false → f.2.missing = [] → decode f.2.bytes = .error e →
    issueOn ex s c q r l ls t =
      .next (trapPath f.1 (rawShape (fetchedOp f.1 f.2.bytes)) { cause := 0x01, detail := e.detail }) := by
  intro s' f htrap hstall hmissing hdecode
  unfold issueOn
  simp only [s', f] at htrap hstall hmissing hdecode ⊢
  simp only [htrap, hstall, hmissing, hdecode, List.isEmpty_nil, Bool.not_true, Bool.false_eq_true, if_false]

/-- Settles O58: the step is the quarter's turn, whose path traps as a whole. -/
theorem illegalWordsTrap : Obligations.IllegalWordsTrap := by
  unfold Obligations.IllegalWordsTrap
  intro s c q r run l ls th e hagenda s1 hfrozen hclock hrun hsnap hlanes hth s2 f htrap hstall hmissing hdecode hpark
  have h42 : (0x01 : Byte) ≠ 0x42 := by decide
  have h03 : (0x01 : Byte) ≠ 0x03 := by decide
  refine ⟨trapPath f.1 (rawShape (fetchedOp f.1 f.2.bytes)) { cause := 0x01, detail := e.detail }, ?_,
    parkedAt_trapPath hpark h42 h03 rfl⟩
  rw [step_issue hagenda, issueStep_eq hfrozen hclock hrun hsnap hlanes hth]
  exact congrArg settled (issueOn_undecoded htrap hstall hmissing hdecode)

end Sys2Proof.Laws
end

section
/-! SUPPORT. The canonical form of memory at reset and after a step (O51, O52), and what a step takes from the agenda (O59). -/

set_option Elab.async false

namespace Sys2Proof.Laws
open Sys2Proof.Machine Sys2Proof.Claims

/-- Settles O52: the whole step keeps what each of its functions keeps. -/
theorem stepsKeepMemoryCanonical : Obligations.StepsKeepMemoryCanonical := by
  unfold Obligations.StepsKeepMemoryCanonical
  intro s t h e
  exact (Keeps.step (Keeps.refl s) t e).canonical h

theorem mem_reset : State.reset.mem = [] := rfl

/-- Settles O51: no byte is listed at reset. -/
theorem resetMemoryIsCanonical : Obligations.ResetMemoryIsCanonical := by
  unfold Obligations.ResetMemoryIsCanonical
  rw [mem_reset]
  exact ⟨wf_nil, fun _ => rfl⟩

/-- A step whose agenda begins with an event executes that event. -/
theorem step_ev {s : State} {i : Instr} {r : List Action} (h : s.agenda = .ev i :: r) (hi : isEvent i = true) :
    step s = settled (exec i { tick s with agenda := r }) := by
  unfold step
  rw [h]
  exact if_pos hi

theorem step_counterWrite {s : State} {n : BitVec 12} {x : DWord} {r : List Action} (h : s.agenda = .counterWrite n x :: r) :
    step s = .next (settle (writeCounter { tick s with agenda := r } n x)) := by
  unfold step
  rw [h]
  rfl

theorem step_ninal {s : State} {c : Fin 192} {r : List Action} (h : s.agenda = .ninal c :: r) :
    step s = .next (settle (ninalPass { tick s with agenda := r } c.val)) := by
  unfold step
  rw [h]
  rfl

theorem step_remoteRefusal {s : State} {r : List Action} (h : s.agenda = .remoteRefusal :: r) :
    step s = .next (settle (refuseNext { tick s with agenda := r })) := by
  unfold step
  rw [h]
  rfl

theorem step_remoteWrite {s : State} {a : BitVec 52} {x : Byte} {r : List Action} (h : s.agenda = .remoteWrite a x :: r) :
    step s = .next (settle (changeRemote { tick s with agenda := r } a x)) := by
  unfold step
  rw [h]
  rfl

/-- With an empty agenda the step is that of an agenda that names the free choice, but for a choice that is no event,
with which only time passes. -/
theorem step_nil {s : State} (h : s.agenda = []) : step s =
    match Config.nextAction s.fresh with
    | .issue c q => settled (issueStep exec (tick s) c.val q.val)
    | .ev i => if isEvent i then settled (exec i (tick s)) else .next (tick s)
    | .counterWrite n x => .next (settle (writeCounter (tick s) n x))
    | .ninal c => .next (settle (ninalPass (tick s) c.val))
    | .remoteRefusal => .next (settle (refuseNext (tick s)))
    | .remoteWrite a x => .next (settle (changeRemote (tick s) a x)) := by
  unfold step
  rw [h]
  rfl

/-- Settles O59, action by action; with an empty agenda by the actions that may be chosen. -/
theorem stepTakesTheEvent : Obligations.StepTakesTheEvent := by
  unfold Obligations.StepTakesTheEvent
  refine ⟨fun _ _ _ => step_ev, fun _ _ _ _ => step_counterWrite, fun _ _ _ => step_ninal, fun _ _ => step_remoteRefusal,
    fun _ _ _ _ => step_remoteWrite, fun s h => ?_⟩
  rw [step_nil h]
  cases Config.nextAction s.fresh with
  | issue c q => exact .inl ⟨c.val, q.val, rfl⟩
  | ev i =>
    by_cases hi : isEvent i = true
    · exact .inr (.inl ⟨i, hi, if_pos hi⟩)
    · exact .inr (.inr (.inl (if_neg hi)))
  | counterWrite n x => exact .inr (.inr (.inr (.inl ⟨n, x, rfl⟩)))
  | ninal c => exact .inr (.inr (.inr (.inr (.inr (.inr ⟨c, rfl⟩)))))
  | remoteRefusal => exact .inr (.inr (.inr (.inr (.inl rfl))))
  | remoteWrite a x => exact .inr (.inr (.inr (.inr (.inr (.inl ⟨a, x, rfl⟩)))))

end Sys2Proof.Laws
end

section
/-! SUPPORT. A special that two registers do not hold (O1), and a pack whose scale is free (O3). -/

set_option Elab.async false

namespace Sys2Proof.Laws
open Sys2Proof.Machine Sys2Proof.Claims

/-! ## TID above two registers -/

/-- A lane whose thread's number does not fit in two registers. -/
def wideTidState : State :=
  { State.reset with
    cores := [(0, { Core.reset with
      slots := [(0, { Slot.empty with wg := some 0, threads := [(0, { readyThread with tidx := 2 ^ 64 })] })] })]
    wgs := [(0, { Wg.empty with slots := [0] })]
    iss := { core := 0, quarter := 0, slot := 0, lanes := 1, pc := 0 } }

/-- TID shifted right by one bit, into s0 and s1. -/
def shiftWideTid : Instr := .shr plainHead (.s 0) (.spec .tid) (.imm 1) .n64

/-- What the shift is to do. -/
def shiftRule : Plain := (integerRule wideTidState shiftWideTid).get rfl

theorem readable_shiftRule : Readable wideTidState shiftRule.sh shiftRule.rs := by
  unfold Readable
  decide

/-- The high word of the shift's result. -/
def s1At (t : State) : Option Word := Tab.get? (slotAt t 0 0).sregs 1

/-- The rule cuts TID to 64 bits before it shifts. -/
theorem s1At_shiftRule : s1At (plainly wideTidState shiftRule.sh shiftRule.rs shiftRule.f) = some 0 := by
  decide +kernel

/-- The instruction shifts TID's bit 64 into bit 63. -/
theorem s1At_shiftWideTid {t : State} (h : exec shiftWideTid wideTidState = .next t) : s1At t = some 0x80000000 := by
  rw [← Host.Outcome.next.inj h]
  decide +kernel

/-- Refutes O1: a special counts with all its bits where the instruction shifts it right, and the rule cuts it to its
registers first. -/
theorem not_integerInstructionsComplete : ¬ Obligations.IntegerInstructionsComplete := by
  unfold Obligations.IntegerInstructionsComplete
  intro h
  have hs := s1At_shiftWideTid (h wideTidState shiftWideTid shiftRule (Option.some_get _).symm readable_shiftRule)
  rw [s1At_shiftRule] at hs
  exact absurd hs (by decide)

/-! ## A free scale -/

/-- What the rule leaves of the pack of a released scale. -/
theorem plainly_packRule (b : Bool) : plainly (releasedScaleState b) packShape packReads (packRule b).f =
    completed (releasedScaleState b) packShape packReads (begun (releasedScaleState b)) [(1, packOut (packCodes b))] := by
  unfold plainly
  rw [act_packShape, ← out_packRule]
  rfl

/-- The flags of the thread by the rule are those of the register's scale. -/
theorem fpstat_plainly_packRule (b : Bool) :
    (threadAt (plainly (releasedScaleState b) packShape packReads (packRule b).f) 0 0 1).map Thread.fpstat =
      some (if b then 0 else 64) := by
  rw [plainly_packRule]
  cases b
  · decide +kernel
  · decide +kernel

theorem laneRule_packReleased (b : Bool) : laneRule (releasedScaleState b) packReleased = some (packRule b) := rfl

/-- Refutes O3: in a lane that has released it, a scale in a uniform register is free, and the rule reads the register's
cell (R132, R351). -/
theorem not_laneInstructionsComplete : ¬ Obligations.LaneInstructionsComplete := by
  unfold Obligations.LaneInstructionsComplete
  intro h
  obtain ⟨y, hy⟩ := exec_packReleased
  have he := Host.Outcome.next.inj ((hy !y).symm.trans
    (h (releasedScaleState !y) packReleased (packRule !y) (laneRule_packReleased _) (readable_packReleased _)))
  have hf := fpstat_packReleased y
  rw [he] at hf
  have hr := hf.symm.trans (fpstat_plainly_packRule !y)
  cases y
  · cases hr
  · cases hr

end Sys2Proof.Laws
end

section
/-! SUPPORT. A float instruction gives each lane the result and the flags of its rule (O2). -/

set_option Elab.async false

namespace Sys2Proof.Laws
open Sys2Proof.Machine Sys2Proof.Claims

/-- Lanes that answer one after another with what a function gives, and change nothing. -/
theorem inTurn_eq_map {β : Type} {f : Nat → Act β} {g : Nat → β} {s : State} {ls : List Nat}
    (h : ∀ l ∈ ls, answer (f l) s = some (s, g l)) :
    inTurn (fun t l => answer (f l) t) s ls = some (s, ls.map fun l => (l, g l)) := by
  induction ls with
  | nil => rfl
  | cons l r ih =>
    simp only [inTurn, h l List.mem_cons_self, ih fun k hk => h k (List.mem_cons_of_mem _ hk), Option.map_some, List.map_cons]

/-- An instruction performs on the path, the operands and the destination of a rule, and each active lane answers what the rule
gives, with its conditions, and changes nothing. -/
def Rounds (s : State) (i : Instr) (q : Floating) : Prop :=
  ∃ f, exec i s = perform s q.sh q.rs f ∧ q.sh.first = none ∧
    ∀ l ∈ act s q.sh, answer (f l (laneVals s q.rs l)) (begun s) = some (begun s, q.out l (laneVals s q.rs l))

namespace Rounds
variable {s : State} {i : Instr} {q : Floating}

theorem completes (h : Rounds s i q) (hr : Readable s q.sh q.rs) : exec i s = .next (plainly s q.sh q.rs q.out) := by
  obtain ⟨f, he, h1, hans⟩ := h
  refine he.trans (congrArg _ (performOn_completes s (begun s) q.sh q.rs f _ hr ?_ fun e he => ?_))
  · rw [h1]
    exact inTurn_eq_map hans
  · obtain ⟨l, -, rfl⟩ := List.mem_map.1 he
    exact ⟨rfl, rfl⟩

/-- A rounded result of a lane, none of whose conditions traps (R167). -/
theorem lane {f : Nat → List Nat → Act Out} (he : exec i s = perform s q.sh q.rs f) (h1 : q.sh.first = none)
    (hj : q.joint = false) (hq : q.quiet s) (hf : ∀ l v, f l v (begun s) = fpLane l (q.f l v).1 (q.f l v).2 (begun s)) :
    Rounds s i q := by
  refine ⟨f, he, h1, fun l hl => ?_⟩
  have htrap := hq l hl
  unfold Floating.trap Floating.enables at htrap
  rw [hj] at htrap
  have h := Answers.answer_fpTrap htrap (q.out l (laneVals s q.rs l)) (begun s)
  unfold answer at h ⊢
  rw [hf]
  exact h

/-- A result of the path, none of whose conditions traps in a participating lane (R356). -/
theorem path {f : Nat → List Nat → Act Out} (he : exec i s = perform s q.sh q.rs f) (h1 : q.sh.first = none)
    (hj : q.joint = true) (hq : q.quiet s) (hp : ∀ l v, (q.f l v).2 = false)
    (hf : ∀ l v, f l v (begun s) = fpPath q.sh.head (q.f l v).1 (begun s)) : Rounds s i q := by
  refine ⟨f, he, h1, fun l hl => ?_⟩
  have htrap := hq l hl
  unfold Floating.trap Floating.enables at htrap
  rw [hj] at htrap
  have h := Answers.answer_fpTrap htrap (q.out l (laneVals s q.rs l)) (begun s)
  unfold Floating.out at h ⊢
  unfold answer at h ⊢
  rw [hf]
  rw [hp] at h ⊢
  exact h

theorem fpu {h : Head} {op : Nat} {d : Dst} {w k : Nat} {rs : List Rd} {f g : List Nat → FRes}
    (hp : fpIs h op d w k rs g = some q) (hq : q.quiet s) (he : exec i s = fpu s h op d w k rs f) (hfg : ∀ v, f v = g v) :
    Rounds s i q := by
  obtain rfl := Option.some.inj hp
  refine lane he rfl rfl hq fun l v => ?_
  rw [hfg]

theorem fpTest {h : Head} {op : Nat} {d : Dst} {rs : List Rd} {f : List Nat → Bool × Bool}
    (hp : fcmpIs h op d rs f = some q) (hq : q.quiet s) (he : exec i s = fpTest s h op d rs f) : Rounds s i q := by
  obtain rfl := Option.some.inj hp
  refine lane he rfl rfl hq fun l v => ?_
  rw [show (f v).1.toNat = if (f v).1 then 1 else 0 by cases (f v).1 <;> rfl]

end Rounds

theorem rounds_qupk {s : State} {h : Head} {d : Dst} {a c : Src} {f : Fmt} {n : Blk} {hi : Bool} {q : Floating}
    (hp : floatRule s (.qupk h d a c f n hi) = some q) (hq : q.quiet s) : Rounds s (.qupk h d a c f n hi) q := by
  obtain rfl := Option.some.inj hp
  exact .lane (f := fun l _ => qupkTurn a c f n hi l) rfl rfl rfl hq fun l _ =>
    get_bind (fun s => fpLane l (qupkRes s a c f n hi l) false) _

theorem rounds_redx {s : State} {h : Head} {d : Dst} {a : Src} {op : ROp} {t : RTy} {q : Floating}
    (hp : floatRule s (.redx h d a op t) = some q) (hq : q.quiet s) : Rounds s (.redx h d a op t) q := by
  obtain rfl := Option.some.inj hp
  have he : exec (.redx h d a op t) s = perform s (laneShape h 0x203 d (rtyWords t) false) [rdR t a] fun _ _ => redxTurn h a op t := rfl
  refine .path (f := fun _ _ => redxTurn h a op t) ?_ rfl rfl hq (fun _ _ => rfl) fun _ _ =>
    (get_bind (fun s => fpPath h (redxRes s h a op t)) _).trans ?_
  · rw [he, rtyWords_eq]
    rfl
  · unfold redxRes
    rw [partVals_begun s h 0 _ 0x203 d]
    rfl

theorem rounds_scan {s : State} {h : Head} {d : Dst} {a b : Src} {op : SOp} {t : RTy} {q : Floating}
    (hp : floatRule s (.scan h d a b op t) = some q) (hq : q.quiet s) : Rounds s (.scan h d a b op t) q := by
  obtain rfl := Option.some.inj hp
  have he : exec (.scan h d a b op t) s =
      perform s (laneShape h 0x204 d (rtyWords t) false) [rdR t a, rdR t b] fun l _ => scanTurn h a b op t l := rfl
  have hhead : ∀ (ls : List Nat) (g : Nat → Nat), ((ls.map fun l => (l, g l)).headD (0, 0)).1 = ls.headD 0 := fun ls g => by
    cases ls <;> rfl
  refine .path (f := fun l _ => scanTurn h a b op t l) ?_ rfl rfl hq (fun _ _ => rfl) fun l _ =>
    (get_bind (fun s => fpPath h (scanRes s h a b op t l)) _).trans ?_
  · rw [he, rtyWords_eq]
    rfl
  · unfold scanRes
    dsimp only
    rw [partVals_begun s h 0 _ 0x204 d, hhead]
    rfl

/-- The bits of an integer in a register's width, as the model and as the rules cut them. -/
theorem toNat_ofInt_eq_bitsOf (n : Nat) (x : Int) : (BitVec.ofInt n x).toNat = bitsOf n x := BitVec.toNat_ofInt ..

theorem intIn_eq_intOf {n : Nat} (hn : 0 < n) (sg : Bool) (x : Nat) : intIn n sg x = intOf n sg x := by
  cases sg with
  | false => simp [intIn, intOf]
  | true => exact toInt_ofNat_eq_intOf hn x

/-- What each float instruction gives its lanes. -/
theorem rounds_float {s : State} {i : Instr} {q : Floating} (hp : floatRule s i = some q) (hq : q.quiet s) : Rounds s i q := by
  cases i with
  | fadd | fsub | fmul | ffma | fmin | fmax | frnd | frcp | frsq | fsqrt | fex2 | flg2 | fsin | fcos | ftanh | fsig =>
    exact .fpu hp hq rfl fun _ => rfl
  | hadd2 | hmul2 | hfma2 | hmax2 | hmin2 | dadd | dmul | dfma | dmin | dmax => exact .fpu hp hq rfl fun _ => rfl
  | faddI | fsubI | fmulI | fminI | fmaxI | bscl => exact .fpu hp hq rfl fun _ => rfl
  | fcmp | dcmp | fcmpI => exact .fpTest hp hq rfl
  | fclass h d a t => cases t <;> exact .fpu hp hq rfl fun _ => rfl
  | cvtf h d a c r => cases c <;> exact .fpu hp hq rfl fun _ => rfl
  | cvti h d a c r =>
    have hbits : 0 < (cvtiFmts c).1 := by cases c <;> decide
    refine .fpu hp hq rfl fun v => ?_
    dsimp only
    rw [intIn_eq_intOf hbits, toNat_ofInt_eq_bitsOf]
    rfl
  | cvtn h d a c r => cases c <;> exact .fpu hp hq rfl fun v => by rw [int_eq_intOf]; rfl
  | qupk h d a c f n hi => exact rounds_qupk hp hq
  | redx h d a op t => exact rounds_redx hp hq
  | scan h d a b op t => exact rounds_scan hp hq
  | _ => cases hp

/-- Settles O2: each instruction rounds as its rule does. -/
theorem floatInstructionsComplete : Obligations.FloatInstructionsComplete := by
  unfold Obligations.FloatInstructionsComplete
  exact fun s i q hp hr hq => (rounds_float hp hq).completes hr

end Sys2Proof.Laws
end

section
/-! SUPPORT. The predicate instructions that change PRED in place, and AMAX, make their rules' changes (O4). -/

set_option Elab.async false

namespace Sys2Proof.Laws
open Sys2Proof.Machine Sys2Proof.Claims

theorem nodup_act (s : State) (sh : Shape) : (act s sh).Nodup :=
  ((List.nodup_range.filter _).filter _)

/-- Lanes that each make a change, in turn: what a lane does may rest on what holds of it, and no other lane's change ends
that. -/
theorem inTurn_changes {P : State → Nat → Prop} {f : State → Nat → Option (State × Out)} {g : Nat → State → State}
    (hf : ∀ t l, P t l → f t l = some (g l t, {})) (hP : ∀ t l k, l ≠ k → P t k → P (g l t) k) {ls : List Nat}
    (hn : ls.Nodup) {t : State} (h : ∀ l ∈ ls, P t l) :
    inTurn f t ls = some (ls.foldl (fun t l => g l t) t, ls.map (fun l => (l, {}))) := by
  induction ls generalizing t with
  | nil => rfl
  | cons l r ih =>
    obtain ⟨hl, hr⟩ := List.nodup_cons.1 hn
    have hnext := ih hr fun k hk => hP t l k (fun e => hl (e ▸ hk)) (h k (List.mem_cons_of_mem _ hk))
    simp only [inTurn, hf t l (h l List.mem_cons_self), hnext, Option.map_some, List.foldl_cons, List.map_cons]

/-- An instruction whose lanes make a rule's changes completes by the rule. -/
theorem perform_changes {s : State} {p : Change} {f : Nat → List Nat → Act Out} (P : State → Nat → Prop)
    (h1 : p.sh.first = none) (hr : Readable s p.sh p.rs) (hf : ∀ l v t, P t l → answer (f l v) t = some (p.g l v t, {}))
    (hP : ∀ v t l k, l ≠ k → P t k → P (p.g l v t) k) (h0 : ∀ l, P (begun s) l) :
    perform s p.sh p.rs f = .next (completed s p.sh p.rs (p.done s) ((act s p.sh).map (fun l => (l, ({} : Out))))) := by
  refine congrArg _ (performOn_completes s _ p.sh p.rs f _ hr ?_ fun e he => ?_)
  · rw [h1]
    exact inTurn_changes (P := P) (fun t l => hf l _ t) (fun t l => hP _ t l) (nodup_act s p.sh) fun l _ => h0 l
  · obtain ⟨l, -, rfl⟩ := List.mem_map.1 he
    exact ⟨rfl, rfl⟩

/-- The same where what a lane does rests on nothing but the state. -/
theorem perform_changes_always {s : State} {p : Change} {f : Nat → List Nat → Act Out} (h1 : p.sh.first = none)
    (hr : Readable s p.sh p.rs) (hf : ∀ l v t, answer (f l v) t = some (p.g l v t, {})) :
    perform s p.sh p.rs f = .next (completed s p.sh p.rs (p.done s) ((act s p.sh).map (fun l => (l, ({} : Out))))) :=
  perform_changes (fun _ _ => True) h1 hr (fun l v t _ => hf l v t) (fun _ _ _ _ _ _ => trivial) fun _ => trivial

theorem withBit_eq_ofBits (p : BitVec 8) (i : Nat) (b : Bool) :
    withBit p i b = BitVec.ofNat 8 (Nat.ofBits fun k : Fin 8 => if k.val = i then b else p.getLsbD k) := by
  have hbit : ∀ c : Bool, c.toNat = if c then 1 else 0 := fun c => by cases c <;> rfl
  unfold withBit Nat.ofBits
  simp only [hbit]
  rfl

theorem getLsbD_withBit (p : BitVec 8) (i : Nat) (b : Bool) {j : Nat} (hj : j < 8) :
    (withBit p i b).getLsbD j = if j = i then b else p.getLsbD j := by
  rw [withBit_eq_ofBits, BitVec.getLsbD_ofNat, Nat.testBit_ofBits_lt _ _ hj, decide_eq_true hj, Bool.true_and]

theorem getLsbD_setPred (p : BitVec 8) {i : Nat} (b : Bool) {j : Nat} (hj : j < 8) :
    (setPred p i b).getLsbD j = if j = i then b else p.getLsbD j := by
  unfold setPred
  by_cases h : j = i
  · subst h
    cases b <;> simp [hj]
  · rcases Nat.lt_or_gt_of_ne h with hlt | hgt
    · cases b <;> simp [hj, h, hlt]
    · have hsub : j - i ≠ 0 := by omega
      cases b <;> simp [hj, h, hsub]

/-- A bit of PRED replaced, by the model and by the rules. -/
theorem setPred_eq_withBit (p : BitVec 8) (i : Nat) (b : Bool) : setPred p i b = withBit p i b :=
  BitVec.eq_of_getLsbD_eq fun _ hj => (getLsbD_setPred p b hj).trans (getLsbD_withBit p i b hj).symm
theorem elem_zero (x : Nat) : elem x 0 = x % 65536 := by
  rw [elem, Nat.pow_zero, Nat.div_one]

/-- A lane's PRED bits, where its thread is the one that it has in another state. -/
theorem bitAt_predOf {s t : State} {l : Nat} (h : threadIn t l = threadIn s l) (i : Nat) :
    bitAt (predOf t l) i = predBit s l i := by
  unfold predOf predBit
  rw [show threadAt t t.iss.core t.iss.slot l = threadAt s s.iss.core s.iss.slot l from h]
  cases threadAt s s.iss.core s.iss.slot l with
  | none => simp [bitAt]
  | some th => rfl

theorem threadIn_onPred_of_ne {t : State} {l k : Nat} {f : BitVec 8 → BitVec 8} (h : l ≠ k) :
    threadIn (onPred l f t) k = threadIn t k :=
  (threadAt_modThread ..).trans (if_neg h)

/-- PSWP's change of PRED, by the model and by the rules. -/
theorem pswp_change (l : Nat) (d : Fin 6) :
    (onPred l fun q => setPred (setPred q 0 (bitAt q (d.val + 1))) (d.val + 1) (bitAt q 0)) =
      onPred l fun q => withBit (withBit q 0 (q.getLsbD (d.val + 1))) (d.val + 1) (q.getLsbD 0) := by
  refine congrArg _ (funext fun q => ?_)
  rw [setPred_eq_withBit, setPred_eq_withBit]

/-- PLOG's value for a lane, by the model and by the rules. -/
theorem plog_change {s t : State} {l : Nat} (op : PlogOp) (inv : Bool) {p : Fin 7} (h : threadIn t l = threadIn s l) :
    (onPred l fun q => setPred q 0 (plogOp op (bitAt (predOf t l) 0) (bitAt (predOf t l) p.val) != inv)) =
      onPred l fun q => withBit q 0 ((match op with
        | .and => predBit s l 0 && predBit s l p.val
        | .or => predBit s l 0 || predBit s l p.val
        | .xor => (predBit s l 0).xor (predBit s l p.val)
        | .andn => predBit s l 0 && !predBit s l p.val).xor inv) := by
  refine congrArg _ (funext fun q => ?_)
  rw [setPred_eq_withBit, bitAt_predOf h, bitAt_predOf h]
  cases op <;> rfl

/-- Settles O4: each lane makes its rule's change; what PLOG reads of a lane no other lane's change alters. -/
theorem predicateInstructionsComplete : Obligations.PredicateInstructionsComplete := by
  unfold Obligations.PredicateInstructionsComplete
  intro s i p hp hr
  cases i with
  | pdrop h n =>
    obtain rfl := Option.some.inj hp
    exact perform_changes_always rfl hr fun _ _ _ => rfl
  | pswp h d =>
    obtain rfl := Option.some.inj hp
    exact perform_changes_always rfl hr fun l _ t => congrArg (fun g : State → State => some (g t, ({} : Out))) (pswp_change l d)
  | pmov h op =>
    cases op with
    | read d => cases hp
    | write a =>
      obtain rfl := Option.some.inj hp
      exact perform_changes_always rfl hr fun _ _ _ => rfl
  | plog h op p rep inv =>
    cases rep with
    | false => cases hp
    | true =>
      obtain rfl := Option.some.inj hp
      refine perform_changes (fun t l => threadIn t l = threadIn s l) rfl hr ?_ ?_ fun _ => rfl
      · exact fun l _ t h => congrArg (fun g : State → State => some (g t, ({} : Out))) (plog_change op inv h)
      · exact fun _ _ _ _ hne h => (threadIn_onPred_of_ne hne).trans h
  | amax h a n fmt =>
    obtain rfl := Option.some.inj hp
    cases fmt with
    | f32 => exact perform_changes_always rfl hr fun _ _ _ => rfl
    | bf16x2 => exact perform_changes_always rfl hr fun _ _ _ => by dsimp only; rw [elem_zero]; rfl
    | f16x2 => exact perform_changes_always rfl hr fun _ _ _ => by dsimp only; rw [elem_zero]; rfl
  | _ => cases hp

end Sys2Proof.Laws
end

section
/-! SUPPORT. Accesses under a watchpoint in a context whose descriptor the access's own walk marks (O5, O6). -/

set_option Elab.async false

namespace Sys2Proof.Laws
open Sys2Proof.Machine Sys2Proof.Claims

/-- What a property of the state in which an instruction completes by a rule gives, where evaluating the rule shows it. -/
theorem exists_turns_of_any {p : Acting} {s : State} {f : State → List (Nat × Out) → Bool}
    (h : (p.turns s).any (fun x => f x.1 x.2) = true) : ∃ t outs, p.turns s = some (t, outs) ∧ f t outs = true := by
  obtain ⟨⟨t, outs⟩, ht, hf⟩ := (Option.any_eq_true _ _).mp h
  exact ⟨t, outs, ht, hf⟩

/-- The state of a load that completes by the rule holds no entry of the outbound ring: the walk has marked the leaf, the
descriptor is malformed, and DBG counts as clear. -/
theorem readByte_watchedRule : ∃ t outs, watchedRule.turns watchedState = some (t, outs) ∧
    (readByte (completed watchedState watchedRule.sh watchedRule.rs t outs).mem ringByte == 0) = true :=
  exists_turns_of_any (f := fun t outs => readByte (completed watchedState watchedRule.sh watchedRule.rs t outs).mem ringByte == 0)
    (by decide +kernel)

/-- Refutes O5: a load of the umpire's may trap where its rule completes, since the walk's A bit may lie in the descriptor
whose DBG the watchpoint asks for; the restart of Ninal then writes an entry of the outbound ring (R231), and the rule's
state has none. -/
theorem not_memoryInstructionsComplete : ¬ Obligations.MemoryInstructionsComplete := by
  unfold Obligations.MemoryInstructionsComplete
  intro h
  obtain ⟨t, outs, hturns, hzero⟩ := readByte_watchedRule
  have hfive := readByte_watchedLoad
    (h watchedState t watchedLoad watchedRule outs (Option.some_get _).symm readable_watchedRule hturns)
  rw [beq_iff_eq.mp hzero] at hfive
  exact absurd hfive (by decide)

/-- A wait for the counter at address 0 to reach 0. -/
def watchedWait : Instr := .nwait plainHead .discard .zero .zero

/-- What the wait is to do. -/
def waitRule : Acting := (engineRule watchedState watchedWait).get rfl

theorem readable_waitRule : Readable watchedState waitRule.sh waitRule.rs := by
  unfold Readable
  decide

theorem readByte_waitRule : ∃ t outs, waitRule.turns watchedState = some (t, outs) ∧
    (readByte (completed watchedState waitRule.sh waitRule.rs t outs).mem ringByte == 0) = true :=
  exists_turns_of_any (f := fun t outs => readByte (completed watchedState waitRule.sh waitRule.rs t outs).mem ringByte == 0)
    (by decide +kernel)

/-- The wait's read meets the watchpoint by the descriptor as it stood before the walk: Ninal restarts, and the host is
told. -/
theorem readByte_watchedWait {t : State} (h : exec watchedWait watchedState = .next t) : readByte t.mem ringByte = 5 := by
  rw [← Host.Outcome.next.inj h]
  decide +kernel

/-- Refutes O6: NWAIT's read, as the load of O5's refutation, may trap where its rule completes. -/
theorem not_engineInstructionsComplete : ¬ Obligations.EngineInstructionsComplete := by
  unfold Obligations.EngineInstructionsComplete
  intro h
  obtain ⟨t, outs, hturns, hzero⟩ := readByte_waitRule
  have hfive := readByte_watchedWait
    (h watchedState t watchedWait waitRule outs (Option.some_get _).symm readable_waitRule hturns)
  rw [beq_iff_eq.mp hzero] at hfive
  exact absurd hfive (by decide)

end Sys2Proof.Laws
end

section
/-! SUPPORT. An outcome of a walk that a computing instruction drops (O26), and a team that the table lists twice (O7). -/

set_option Elab.async false

namespace Sys2Proof.Laws
open Sys2Proof.Machine Sys2Proof.Claims

/-! ## The outcome of a walk (R31) -/

/-- A lane of a workgroup for whose warp the outcome of a walk is kept. -/
def walkedState : State :=
  { State.reset with
    cores := [(0, { Core.reset with slots := [(0, { Slot.empty with wg := some 0, threads := [(0, readyThread)] })] })]
    wgs := [(0, { Wg.empty with slots := [0] })]
    walked := [{ who := .core 0 0, hm := 1, page := 0, kind := .fetch, out := (0x11, 0x01) }]
    iss := { core := 0, quarter := 0, slot := 0, lanes := 1, pc := 0 } }

/-- A move of 0 to nowhere. -/
def discardedMove : Instr := .movi plainHead .discard 0 .n32

/-- What the move is to do. -/
def moveRule : Plain := (computing walkedState discardedMove).get rfl

theorem readable_moveRule : Readable walkedState moveRule.sh moveRule.rs := by
  unfold Readable
  decide

theorem alone_walkedState : Alone walkedState := by
  unfold Alone Untraced Unreplayed Unsignalled
  decide

/-- No outcome of a walk is kept for the warp once its instruction has completed (R31). -/
theorem walked_discardedMove {t : State} (h : exec discardedMove walkedState = .next t) : t.walked = [] := by
  rw [← Host.Outcome.next.inj h]
  decide +kernel

/-- Refutes O26: the outcome of a walk that is kept for the issuing warp, as for its fetch, ends with the instruction, and
the frame does not except it. -/
theorem not_computingChangesNothingElse : ¬ Obligations.ComputingChangesNothingElse := by
  unfold Obligations.ComputingChangesNothingElse
  intro h
  obtain ⟨-, hframe, -⟩ := h walkedState _ discardedMove moveRule (Option.some_get _).symm (fun _ hp => by cases hp)
    readable_moveRule alone_walkedState rfl
  exact absurd ((walked_discardedMove rfl).symm.trans (congrArg State.walked hframe)) (by decide)

/-! ## A team listed twice -/

/-- A lane of a `.rollback` launch's workgroup that may perform an escape. The table lists its team twice: the first entry has a
snapshot, the second has none. Its scratchpad begins with the block of a child launch, and its depth leaves no child. -/
def doubledTeamState : State :=
  { State.reset with
    cores := [(0, { Core.reset with
      slots := [(0, { Slot.empty with wg := some 0, threads := [(0, { readyThread with escOk := true })] })]
      pageMap := [(0, 0x1000)], pool := [(4, 0x1000000), (6, 0x4000000), (7, 0x110)] })]
    wgs := [(0, { Wg.empty with slots := [0], spg := 1 })]
    teams := [(0, { freshTeam 0 0 0 [0] with snap := { (freshTeam 0 0 0 [0]).snap with valid := true } }), (0, freshTeam 0 0 0 [0])]
    launches := [(0, { checkedLaunch with words := [0, 2] })]
    iss := { core := 0, quarter := 0, slot := 0, lanes := 1, pc := 0 } }

/-- A launch of a child by the block at the scratchpad's start. -/
def loggedLaunch : Instr := .lnch plainHead .discard { sa := .imm 0, eoff := 0 }

/-- What the launch is to do. -/
def loggedRule : Ending := (controlRule doubledTeamState loggedLaunch).get rfl

theorem readable_loggedRule : Readable doubledTeamState loggedRule.does.sh loggedRule.does.rs := by
  unfold Readable
  decide

/-- The lengths of the teams' logs. -/
def logLengths (t : State) : List Nat := t.teams.map fun e => e.2.snap.log.length

/-- The rule logs the launch in both entries. -/
theorem logLengths_loggedRule : ∃ t outs, loggedRule.does.turns doubledTeamState = some (t, outs) ∧
    (logLengths (loggedRule.after (completed doubledTeamState loggedRule.does.sh loggedRule.does.rs t outs)) == [1, 1]) = true :=
  exists_turns_of_any
    (f := fun t outs =>
      logLengths (loggedRule.after (completed doubledTeamState loggedRule.does.sh loggedRule.does.rs t outs)) == [1, 1])
    (by decide +kernel)

/-- The launch logs itself only where there is a snapshot. -/
theorem logLengths_loggedLaunch {t : State} (h : exec loggedLaunch doubledTeamState = .next t) : logLengths t = [1, 0] := by
  rw [← Host.Outcome.next.inj h]
  decide +kernel

/-- Refutes O7: where the table lists a team twice, an escape's log record enters the snapshot's own entry, and by the rule
every entry of the team. -/
theorem not_controlInstructionsComplete : ¬ Obligations.ControlInstructionsComplete := by
  unfold Obligations.ControlInstructionsComplete
  intro h
  obtain ⟨t, outs, hturns, hboth⟩ := logLengths_loggedRule
  have hone := logLengths_loggedLaunch
    (h doubledTeamState t loggedLaunch loggedRule outs (Option.some_get _).symm readable_loggedRule hturns)
  rw [beq_iff_eq.mp hboth] at hone
  exact absurd hone (by decide)

end Sys2Proof.Laws
end
